-- ==== Sys2Proof/Word.lean ====
section
/-! DEFINITION. The words of the Porholt: bytes, 32-bit lanes, 64-bit registers. -/

namespace Sys2Proof

/-- One byte of a memory (R59). -/
abbrev Byte := BitVec 8

/-- One 32-bit lane, k register or accumulator word (R147, R180). -/
abbrev Lane := BitVec 32

/-- One 64-bit scalar register or system register (R89, R142). -/
abbrev Word := BitVec 64

end Sys2Proof
end

