-- ==== Sys2Proof/Syntax.lean ====
section
/-! DEFINITION. The units of the four streams and the events of the part, as data: one constructor per row of the opcode table. -/

namespace Sys2Proof

/-! ## C words (R60 to R64, R70, R71) -/

/-- The guard of a C word (R60). -/
structure Guard where
  neg : Bool
  p : Fin 8
  deriving DecidableEq, Repr

/-- The order field of R62. -/
inductive Ord where
  | plain | acq | rel | ar
  deriving DecidableEq, Repr

/-- The scope field of R62. -/
inductive Scope where
  | tile | gang | die | dev | sys
  deriving DecidableEq, Repr

/-- The access sizes of R62: 1, 2, 4 and 8 bytes. -/
inductive Size where
  | b | h | w | d
  deriving DecidableEq, Repr

/-- The atomic operations of R62 and R106. -/
inductive AOp where
  | add | and | or | xor | min | max | minu | maxu | swap | cas
  deriving DecidableEq, Repr

/-- The engines that FORK names (R63). -/
inductive Engine where
  | x | m | v
  deriving DecidableEq, Repr

/-- The set of engines of a CK word (R61). -/
structure EMask where
  x : Bool
  m : Bool
  v : Bool
  deriving DecidableEq, Repr

/-- The timelines of R124. -/
inductive Timeline where
  | x | m | c
  deriving DecidableEq, Repr

/-- The comparison conditions of R73 and R97. -/
inductive Cond where
  | eq | ne | lt | ltu | le | leu
  deriving DecidableEq, Repr

/-- Three registers, format CR. -/
structure RRR where
  g : Guard
  d : Fin 64
  a : Fin 64
  b : Fin 64
  deriving DecidableEq, Repr

/-- Four registers, format CR. -/
structure RRRR where
  g : Guard
  d : Fin 64
  a : Fin 64
  b : Fin 64
  c : Fin 64
  deriving DecidableEq, Repr

/-- SEL: field c holds a predicate. -/
structure SelOp where
  g : Guard
  d : Fin 64
  a : Fin 64
  b : Fin 64
  p : Fin 8
  deriving DecidableEq, Repr

/-- Two registers, format CR. -/
structure RR where
  g : Guard
  d : Fin 64
  a : Fin 64
  deriving DecidableEq, Repr

/-- Register, register, imm34 (format CI). -/
structure RRI where
  g : Guard
  d : Fin 64
  a : Fin 64
  imm : BitVec 34
  deriving DecidableEq, Repr

/-- Immediate shifts: amount in imm[5:0]. -/
structure ShiftI where
  g : Guard
  d : Fin 64
  a : Fin 64
  amt : Fin 64
  deriving DecidableEq, Repr

/-- LI. -/
structure LoadImm where
  g : Guard
  d : Fin 64
  imm : BitVec 34
  deriving DecidableEq, Repr

/-- LIH. -/
structure LoadHigh where
  g : Guard
  d : Fin 64
  a : Fin 64
  imm : BitVec 32
  deriving DecidableEq, Repr

/-- CMP.cc. -/
structure CmpRR where
  g : Guard
  d : Fin 8
  a : Fin 64
  b : Fin 64
  deriving DecidableEq, Repr

/-- CMPI.cc. -/
structure CmpRI where
  g : Guard
  d : Fin 8
  a : Fin 64
  imm : BitVec 34
  deriving DecidableEq, Repr

/-- Three predicates. -/
structure PPP where
  g : Guard
  d : Fin 8
  a : Fin 8
  b : Fin 8
  deriving DecidableEq, Repr

/-- Two predicates. -/
structure PP where
  g : Guard
  d : Fin 8
  a : Fin 8
  deriving DecidableEq, Repr

/-- LD. -/
structure LoadOp where
  g : Guard
  d : Fin 64
  a : Fin 64
  size : Size
  u : Bool
  ord : Ord
  scope : Scope
  off : BitVec 25
  deriving DecidableEq, Repr

/-- ST. -/
structure StoreOp where
  g : Guard
  a : Fin 64
  b : Fin 64
  size : Size
  ord : Ord
  scope : Scope
  off : BitVec 25
  deriving DecidableEq, Repr

/-- LDS. -/
structure LoadS where
  g : Guard
  d : Fin 64
  a : Fin 64
  size : Size
  u : Bool
  off : BitVec 25
  deriving DecidableEq, Repr

/-- STS. -/
structure StoreS where
  g : Guard
  a : Fin 64
  b : Fin 64
  size : Size
  off : BitVec 25
  deriving DecidableEq, Repr

/-- PREF: the level field of R105, false L1, true L2. -/
structure PrefOp where
  g : Guard
  a : Fin 64
  l2 : Bool
  off : BitVec 25
  deriving DecidableEq, Repr

/-- AMO: the atomic layout of R62; `dw` is asz. -/
structure AtomOp where
  g : Guard
  d : Fin 64
  a : Fin 64
  b : Fin 64
  op : AOp
  ord : Ord
  scope : Scope
  dw : Bool
  c : Fin 64
  off : BitVec 18
  deriving DecidableEq, Repr

/-- AMOS and AMOS.CO: ord and scope are zero. -/
structure AtomS where
  g : Guard
  d : Fin 64
  a : Fin 64
  b : Fin 64
  op : AOp
  dw : Bool
  c : Fin 64
  off : BitVec 18
  deriving DecidableEq, Repr

/-- BR. -/
structure BrOp where
  g : Guard
  woff : BitVec 46
  deriving DecidableEq, Repr

/-- CALL. -/
structure CallOp where
  g : Guard
  link : Fin 64
  woff : BitVec 46
  deriving DecidableEq, Repr

/-- JMP and RET. -/
structure JmpOp where
  g : Guard
  a : Fin 64
  deriving DecidableEq, Repr

/-- FENCE. -/
structure FenceOp where
  g : Guard
  ord : Ord
  scope : Scope
  deriving DecidableEq, Repr

/-- A word with a guard and no other field. -/
structure NoOp where
  g : Guard
  deriving DecidableEq, Repr

/-- GBAR. -/
structure GBarOp where
  g : Guard
  n : Fin 4
  deriving DecidableEq, Repr

/-- SSTEP. -/
structure SStepOp where
  g : Guard
  n : BitVec 32
  deriving DecidableEq, Repr

/-- The live masks of SAFEPT's four words (R71). -/
structure SafeMasks where
  accs : BitVec 4
  s : BitVec 64
  v : BitVec 32
  regions : BitVec 32
  slots : BitVec 32
  deriving DecidableEq, Repr

/-- QARRIVE. -/
structure QArrOp where
  g : Guard
  a : Fin 64
  b : Fin 64
  deriving DecidableEq, Repr

/-- FORK (format CK, R63). -/
structure ForkOp where
  g : Guard
  d : Fin 64
  a : Fin 64
  e : EMask
  tag : Fin 16
  ventry : Fin 2048
  mentry : Fin 256
  xentry : Fin 256
  deriving DecidableEq, Repr

/-- FORKS: `bank` is kimm bit 4, false A, true B. -/
structure ForkSOp where
  g : Guard
  d : Fin 64
  a : Fin 64
  e : EMask
  tag : Fin 16
  ventry : Fin 2048
  mentry : Fin 256
  xentry : Fin 256
  bank : Bool
  deriving DecidableEq, Repr

/-- RESOLVE. -/
structure ResolveOp where
  g : Guard
  e : EMask
  tag : Fin 16
  bank : Bool
  deriving DecidableEq, Repr

/-- CANCEL. -/
structure CancelOp where
  g : Guard
  e : EMask
  tag : Fin 16
  deriving DecidableEq, Repr

/-- RDV. -/
structure RdvOp where
  g : Guard
  e : EMask
  deriving DecidableEq, Repr

/-- MAPWAIT. -/
structure MapWaitOp where
  g : Guard
  d : Fin 64
  slot : Fin 32
  deriving DecidableEq, Repr

/-- WAITTL. -/
structure WaitTlOp where
  g : Guard
  a : Fin 64
  tl : Timeline
  scope : Scope
  deriving DecidableEq, Repr

/-- SEMINC and SEMWAIT. -/
structure SemOp where
  g : Guard
  a : Fin 64
  b : Fin 64
  scope : Scope
  off : BitVec 25
  deriving DecidableEq, Repr

/-- TRAP and BRK. -/
structure CodeOp where
  g : Guard
  code : BitVec 16
  deriving DecidableEq, Repr

/-- GETSYS. -/
structure GetSysOp where
  g : Guard
  d : Fin 64
  sysno : BitVec 12
  deriving DecidableEq, Repr

/-- SETSYS. -/
structure SetSysOp where
  g : Guard
  a : Fin 64
  sysno : BitVec 12
  deriving DecidableEq, Repr

/-- A SETSYS whose register has a row of its own. -/
structure SetOwnOp where
  g : Guard
  a : Fin 64
  deriving DecidableEq, Repr

/-- A GETSYS whose register has a row of its own. -/
structure GetOwnOp where
  g : Guard
  d : Fin 64
  deriving DecidableEq, Repr

/-- TLBINV, kinds 0 to 2. -/
structure TlbinvOp where
  g : Guard
  a : Fin 64
  kind : Fin 3
  deriving DecidableEq, Repr

/-! ## V pairs (R65, R66, R72, R73) -/

/-- The guard of a pair (R65). -/
structure VGuard where
  neg : Bool
  flag : Fin 8
  deriving DecidableEq, Repr

/-- The token bits of a pair (R65). -/
structure VTok where
  popM : Bool
  popX : Bool
  pushM : Bool
  pushX : Bool
  deriving DecidableEq, Repr

/-- The type field of R66. -/
inductive VType where
  | f32 | bf16 | f16
  deriving DecidableEq, Repr

/-- The rounding modes of R41 and R66. -/
inductive RMode where
  | rne | rtz | sr
  deriving DecidableEq, Repr

/-- Element widths of the narrow forms (R163). -/
inductive NWidth where
  | n8 | n4 | n6
  deriving DecidableEq, Repr

/-- KNOP, KEND. -/
structure KNone where
  g : VGuard
  deriving DecidableEq, Repr

/-- Three k registers. -/
structure KRRR where
  g : VGuard
  d : Fin 16
  a : Fin 16
  b : Fin 16
  deriving DecidableEq, Repr

/-- KADDI. -/
structure KRRI where
  g : VGuard
  d : Fin 16
  a : Fin 16
  imm : BitVec 30
  deriving DecidableEq, Repr

/-- KLI. -/
structure KImm where
  g : VGuard
  d : Fin 16
  imm : BitVec 30
  deriving DecidableEq, Repr

/-- KCMP.cc: kd names a flag. -/
structure KCmpOp where
  g : VGuard
  d : Fin 8
  a : Fin 16
  b : Fin 16
  cc : Cond
  deriving DecidableEq, Repr

/-- KLOOP lcN, label. -/
structure KLoopOp where
  g : VGuard
  n : Fin 4
  off : BitVec 12
  deriving DecidableEq, Repr

/-- KLOOP.SET lcN, ka, n. -/
structure KLoopSetOp where
  g : VGuard
  n : Fin 4
  a : Fin 16
  imm : BitVec 16
  deriving DecidableEq, Repr

/-- KBR. -/
structure KBrOp where
  g : VGuard
  off : BitVec 12
  deriving DecidableEq, Repr

/-- KFROM kd, vN, lane. -/
structure KFromOp where
  g : VGuard
  d : Fin 16
  v : Fin 32
  lane : Fin 64
  deriving DecidableEq, Repr

/-- KSEED. -/
structure KSeedOp where
  g : VGuard
  a : Fin 16
  deriving DecidableEq, Repr

/-- What every vector slot shares with its pair: the guard and the token bits. -/
structure VCtl where
  g : VGuard
  tok : VTok
  deriving DecidableEq, Repr

/-- VNOP. -/
structure VNone where
  c : VCtl
  deriving DecidableEq, Repr

/-- VLD and VST: `r` is vd or va, `k` the base register of vc. -/
structure VMem where
  c : VCtl
  r : Fin 32
  k : Fin 16
  mask : Fin 8
  off : BitVec 36
  deriving DecidableEq, Repr

/-- VLDB and narrow VST. -/
structure VNarrow where
  c : VCtl
  r : Fin 32
  k : Fin 16
  mask : Fin 8
  w : NWidth
  off : BitVec 36
  deriving DecidableEq, Repr

/-- VLDX and VSTX: `idx` is vb. -/
structure VIndexed where
  c : VCtl
  r : Fin 32
  idx : Fin 32
  k : Fin 16
  mask : Fin 8
  off : BitVec 36
  deriving DecidableEq, Repr

/-- Three vector registers under a mask. -/
structure VRRR where
  c : VCtl
  d : Fin 32
  a : Fin 32
  b : Fin 32
  mask : Fin 8
  deriving DecidableEq, Repr

/-- Two vector registers under a mask. -/
structure VRR where
  c : VCtl
  d : Fin 32
  a : Fin 32
  mask : Fin 8
  deriving DecidableEq, Repr

/-- VROT and VBCAST: a lane number in imm36[5:0]. -/
structure VLaneImm where
  c : VCtl
  d : Fin 32
  a : Fin 32
  n : Fin 64
  mask : Fin 8
  deriving DecidableEq, Repr

/-- VBCAST.K. -/
structure VBcastK where
  c : VCtl
  d : Fin 32
  k : Fin 16
  mask : Fin 8
  deriving DecidableEq, Repr

/-- MAND, MOR, MXOR. -/
structure MaskRRR where
  c : VCtl
  d : Fin 8
  a : Fin 8
  b : Fin 8
  deriving DecidableEq, Repr

/-- MNOT. -/
structure MaskRR where
  c : VCtl
  d : Fin 8
  a : Fin 8
  deriving DecidableEq, Repr

/-- Operand b: a register, or the broadcast immediate of R156. -/
inductive VSrc where
  | reg (v : Fin 32)
  | imm (i : BitVec 32)
  deriving DecidableEq, Repr

/-- Two-operand floating forms. -/
structure VFloat2 where
  c : VCtl
  t : VType
  d : Fin 32
  a : Fin 32
  b : VSrc
  mask : Fin 8
  deriving DecidableEq, Repr

/-- VFMA. -/
structure VFloat3 where
  c : VCtl
  t : VType
  d : Fin 32
  a : Fin 32
  b : VSrc
  cc : Fin 32
  mask : Fin 8
  deriving DecidableEq, Repr

/-- One-operand floating forms and VRED. -/
structure VFloat1 where
  c : VCtl
  t : VType
  d : Fin 32
  a : Fin 32
  mask : Fin 8
  deriving DecidableEq, Repr

/-- VCMP.cc.t: vd names a mask register. -/
structure VCmpOp where
  c : VCtl
  t : VType
  hi : Bool
  cond : Cond
  d : Fin 8
  a : Fin 32
  b : Fin 32
  mask : Fin 8
  deriving DecidableEq, Repr

/-- Two-operand integer forms. -/
structure VInt2 where
  c : VCtl
  d : Fin 32
  a : Fin 32
  b : VSrc
  mask : Fin 8
  deriving DecidableEq, Repr

/-- VICMP.cc. -/
structure VICmpOp where
  c : VCtl
  cond : Cond
  d : Fin 8
  a : Fin 32
  b : Fin 32
  mask : Fin 8
  deriving DecidableEq, Repr

/-- VCVT: source and destination format codes. -/
structure VCvtOp where
  c : VCtl
  r : RMode
  d : Fin 32
  a : Fin 32
  src : Byte
  dst : Byte
  mask : Fin 8
  deriving DecidableEq, Repr

/-- VPACK. -/
structure VPackOp where
  c : VCtl
  t : VType
  r : RMode
  d : Fin 32
  a : Fin 32
  b : Fin 32
  mask : Fin 8
  deriving DecidableEq, Repr

/-- VUNPK. -/
structure VUnpkOp where
  c : VCtl
  t : VType
  hi : Bool
  d : Fin 32
  a : Fin 32
  mask : Fin 8
  deriving DecidableEq, Repr

/-- VCRT: `i32` is vmod. -/
structure VCrtOp where
  c : VCtl
  r : RMode
  i32 : Bool
  d : Fin 32
  a : Fin 32
  scale : BitVec 32
  mask : Fin 8
  deriving DecidableEq, Repr

/-! ## M and X records (R67, R68) -/

/-- Four values, one per loop level, level 0 innermost. -/
structure Quad (α : Type) where
  l0 : α
  l1 : α
  l2 : α
  l3 : α
  deriving DecidableEq, Repr

/-- The flags of an M record, bits 481 to 475. -/
structure MFlags where
  t : Bool
  swap : Bool
  zero : Bool
  bs : Bool
  sr : Bool
  p0 : Bool
  p1 : Bool
  deriving DecidableEq, Repr

/-- The fields of an M record below the opcode (R67). -/
structure MRec where
  popX : Bool
  popV : Bool
  pushX : Bool
  pushV : Bool
  fmta : Byte
  fmtb : Byte
  acc : Fin 4
  fl : MFlags
  basea : BitVec 20
  baseb : BitVec 20
  basec : BitVec 20
  scalea : BitVec 20
  scaleb : BitVec 20
  trip : Quad (BitVec 16)
  stra : Quad (BitVec 20)
  strb : Quad (BitVec 20)
  strc : Quad (BitVec 20)
  rows : BitVec 16
  kpass : BitVec 8
  cols : BitVec 8
  deriving DecidableEq, Repr

/-- The flags of an X record, bits 493 to 485. -/
structure XFlags where
  fpr : Bool
  crec : Bool
  cvt : Bool
  sr : Bool
  trn : Bool
  mc : Bool
  bscl : Bool
  wq : Bool
  sync : Bool
  deriving DecidableEq, Repr

/-- A step word of an X record: dimension and signed coordinate step. -/
structure XStep where
  dim : Fin 16
  step : BitVec 12
  deriving DecidableEq, Repr

/-- The fields of an X record below the opcode (R68). -/
structure XRec where
  popM : Bool
  popV : Bool
  pushM : Bool
  pushV : Bool
  treg : Fin 64
  fl : XFlags
  shape : Word
  window : BitVec 20
  crec : BitVec 20
  slot : Fin 32
  dest : Word
  trip : Quad (BitVec 16)
  step : Quad XStep
  second : Word
  limit : BitVec 32
  deriving DecidableEq, Repr

/-! ## What the events carry -/

/-- A collapse request of R376: context, VA, writing device, owner's split mark. -/
structure CollapseReq where
  ctx : Nat
  va : Nat
  writer : Nat
  split : Bool
  /-- the writing device's frame of the block, in units of 64 KiB: the redirected entry names it -/
  frame : Nat
  deriving DecidableEq, Repr

/-- An image of the module's flash, with what comes beside it: digest, signature over it, signing key, version (R396). -/
structure FlashImage where
  bytes : List Byte
  digest : List Byte
  signature : List Byte
  key : List Byte
  version : Nat
  deriving DecidableEq, Repr

/-- What the flash, the configuration image and the board give at bring-up (R396, R398). -/
structure BringUp where
  /-- reeve-core firmware, collective-die firmware, scheduler firmware, configuration image -/
  images : List FlashImage
  devid : Nat
  /-- (die, channel) pairs that did not train -/
  untrained : List (Nat × Nat)
  sluice : List Word
  replctl : Word
  /-- fused repair map: absent tile positions, as agent numbers -/
  absent : List Nat
  /-- fused repair map: tile positions served by a spare site -/
  spared : List Nat
  /-- fused repair maps: (die, slice) pairs that a spare slice serves; (2 × link + direction) of each lane a spare serves -/
  slices : List (Nat × Nat)
  lanes : List Nat
  /-- the host negotiates CXL 3.1 -/
  cxl : Bool
  /-- device ids the topology has a route to -/
  routes : List Nat
  /-- link topology: (port, device) pairs where a port leads to some devices only; (device, member) pairs for reroutes (R390) -/
  ports : List (Nat × Nat)
  alternates : List (Nat × Nat)
  deriving DecidableEq, Repr

/-- A direction of a link, with its lane that fails (R388). -/
structure LaneOf where
  link : Nat
  dir : Nat
  deriving DecidableEq, Repr

/-- A quiesced die reset, and the slices that have failed (R387, R392). -/
structure DieReset where
  d : Nat
  slices : List Nat
  deriving DecidableEq, Repr

/-- A forced die reset, the slices that have failed, and the dirty lines that cannot be read (R387, R392). -/
structure ForcedReset where
  d : Nat
  slices : List Nat
  lines : List Nat
  deriving DecidableEq, Repr

/-- Where an error rests (R383, R385). -/
inductive Place where
  /-- a line of L2 or GDDR 7, by a PA in it -/
  | mem (pa : Nat)
  /-- a byte of an agent's scratchpad -/
  | pad (a addr : Nat)
  /-- a line of an agent's L1, by an address in it -/
  | l1 (a ga : Nat)
  /-- a v-register granule: register × 32 + lane / 2 -/
  | vreg (a g : Nat)
  /-- an accumulator word: acc × 8192 + row × 64 + column -/
  | acc (a k : Nat)
  /-- an s register, a k register, an instruction bank (0 C, 1 V, 2 M, 3 X), a Reedbed entry, scheduler memory -/
  | sreg (a r : Nat)
  | kreg (a r : Nat)
  | bank (a e : Nat)
  | reed (a : Nat)
  | sched
  /-- flit k of the i-th burst on its way, of a retained copy, of a burst a flow holds behind a gap, of the burst at an agent's landing
  port or of the one behind it: payload flits from 0, then the scale flit; and the i-th scheduled SYNC flit -/
  | flit (i k : Nat)
  | kept (dev cls seq k : Nat)
  | wait (dev cls seq k : Nat)
  | port (a : Nat) (behind : Bool) (k : Nat)
  | sync (i : Nat)
  /-- the k-th response on its way to an agent's loads and AMOs, and to its AMOS.COs -/
  | resp (a k : Nat)
  | co (a k : Nat)
  /-- a group's reduction memory: an accumulator (block × 4096 + element), an element held ((contributor × 65536 + block) × 4096 + element) -/
  | red (g k : Nat)
  | redHeld (g k : Nat)
  deriving DecidableEq, Repr

/-- A burst as it travels (R205, R206): header fields, then its payload flits' elements. -/
structure Burst where
  tensor : Nat
  fmt : Nat
  ndim : Nat
  /-- 0 DATA, 1 ATOMIC -/
  kind : Nat
  runlen : Nat
  sync : Bool
  ext : Bool
  bscl : Bool
  contrib : Nat
  weight : Nat
  coords : List Nat
  /-- the payload flits, 64 bytes each, as numbers of 512 bits -/
  flits : List Nat
  /-- the scale flit, zero without BSCL -/
  scales : Nat
  /-- payload flits whose CRC is poisoned, the scale flit as the one after them (R384) -/
  poison : List Nat
  deriving DecidableEq, Repr

/-- A burst handed over by another device's collective die (R369). -/
structure DevBurst where
  src : Nat
  /-- 0 compute, 1 collective, 2 host -/
  cls : Nat
  seq : Nat
  ctx : Nat
  die : Nat
  tile : Nat
  mw : Nat
  mh : Nat
  /-- addressed to a switch group instead of tiles -/
  group : Option Nat
  b : Burst
  deriving DecidableEq, Repr

/-! ## The rows -/

/-- One constructor per row of spec/opcode_table.json: the instructions, then the events. -/
inductive Instr where
  /-- ADD (R93): Writes sd with the sum of sa and sb, wrapped to 64 bits. -/
  | add (o : RRR)
  /-- SUB (R93): Writes sd with sa minus sb, wrapped to 64 bits. -/
  | sub (o : RRR)
  /-- MUL (R93): Writes sd with the low 64 bits of sa times sb. -/
  | mul (o : RRR)
  /-- MULH (R93): Writes sd with the high 64 bits of the signed product of sa and sb. -/
  | mulh (o : RRR)
  /-- MULHU (R93): Writes sd with the high 64 bits of the unsigned product of sa and sb. -/
  | mulhu (o : RRR)
  /-- DIV (R94): Writes sd with the signed quotient, rounded toward zero, using the fixed results for division by zero and overflow. -/
  | div (o : RRR)
  /-- DIVU (R94): Writes sd with the unsigned quotient, using the fixed result for division by zero. -/
  | divu (o : RRR)
  /-- REM (R94): Writes sd with the signed remainder, which takes the dividend's sign. -/
  | rem (o : RRR)
  /-- REMU (R94): Writes sd with the unsigned remainder. -/
  | remu (o : RRR)
  /-- MADD (R93): Writes sd with sa times sb plus sc, wrapped to 64 bits. -/
  | madd (o : RRRR)
  /-- SEL (R93): Writes sd with sa if predicate pc is true, and with sb otherwise. -/
  | sel (o : SelOp)
  /-- MIN (R93): Writes sd with the signed minimum of sa and sb. -/
  | min (o : RRR)
  /-- MINU (R93): Writes sd with the unsigned minimum of sa and sb. -/
  | minu (o : RRR)
  /-- MAX (R93): Writes sd with the signed maximum of sa and sb. -/
  | max (o : RRR)
  /-- MAXU (R93): Writes sd with the unsigned maximum of sa and sb. -/
  | maxu (o : RRR)
  /-- AND (R93): Writes sd with the bitwise AND of sa and sb. -/
  | and (o : RRR)
  /-- OR (R93): Writes sd with the bitwise OR of sa and sb. -/
  | or (o : RRR)
  /-- XOR (R93): Writes sd with the bitwise XOR of sa and sb. -/
  | xor (o : RRR)
  /-- ANDN (R93): Writes sd with sa AND NOT sb. -/
  | andn (o : RRR)
  /-- SHL (R93): Writes sd with sa shifted left by sb[5:0]. -/
  | shl (o : RRR)
  /-- SHR (R93): Writes sd with sa shifted right by sb[5:0], zeros entering. -/
  | shr (o : RRR)
  /-- SRA (R93): Writes sd with sa shifted right arithmetically by sb[5:0]. -/
  | sra (o : RRR)
  /-- ROL (R93): Writes sd with sa rotated left by sb[5:0]. -/
  | rol (o : RRR)
  /-- CLZ (R93): Writes sd with the count of leading zero bits of sa. -/
  | clz (o : RR)
  /-- CTZ (R93): Writes sd with the count of trailing zero bits of sa. -/
  | ctz (o : RR)
  /-- POPC (R93): Writes sd with the count of one bits of sa. -/
  | popc (o : RR)
  /-- BEXT (R95): Extracts the bit field that sb describes from sa into sd. -/
  | bext (o : RRR)
  /-- BINS (R95): Inserts the low bits of sa into the bit field of sd that sb describes. -/
  | bins (o : RRR)
  /-- SEXT (R95): Sign-extends sa from bit sb[5:0] into sd. -/
  | sext (o : RRR)
  /-- ZEXT (R95): Zero-extends sa from bit sb[5:0] into sd. -/
  | zext (o : RRR)
  /-- ADDI (R96): Writes sd with sa plus the sign-extended 34-bit immediate. -/
  | addi (o : RRI)
  /-- ANDI (R96): Writes sd with sa AND the sign-extended immediate. -/
  | andi (o : RRI)
  /-- ORI (R96): Writes sd with sa OR the sign-extended immediate. -/
  | ori (o : RRI)
  /-- XORI (R96): Writes sd with sa XOR the sign-extended immediate. -/
  | xori (o : RRI)
  /-- SHLI (R96): Writes sd with sa shifted left by an immediate amount. -/
  | shli (o : ShiftI)
  /-- SHRI (R96): Writes sd with sa shifted right logically by an immediate amount. -/
  | shri (o : ShiftI)
  /-- SRAI (R96): Writes sd with sa shifted right arithmetically by an immediate amount. -/
  | srai (o : ShiftI)
  /-- LI (R96): Writes sd with the sign-extended 34-bit immediate. -/
  | li (o : LoadImm)
  /-- LIH (R96): Writes sd with the 32-bit immediate as its high half and sa[31:0] as its low half. -/
  | lih (o : LoadHigh)
  /-- CMP_EQ (R97): Sets predicate pd to whether sa equals sb. -/
  | cmpEq (o : CmpRR)
  /-- CMP_NE (R97): Sets predicate pd to whether sa differs from sb. -/
  | cmpNe (o : CmpRR)
  /-- CMP_LT (R97): Sets predicate pd to whether sa is less than sb, read signed. -/
  | cmpLt (o : CmpRR)
  /-- CMP_LTU (R97): Sets predicate pd to whether sa is less than sb, read unsigned. -/
  | cmpLtu (o : CmpRR)
  /-- CMP_LE (R97): Sets predicate pd to whether sa is at most sb, read signed. -/
  | cmpLe (o : CmpRR)
  /-- CMP_LEU (R97): Sets predicate pd to whether sa is at most sb, read unsigned. -/
  | cmpLeu (o : CmpRR)
  /-- CMPI_EQ (R97): Sets predicate pd to whether sa equals the sign-extended immediate. -/
  | cmpiEq (o : CmpRI)
  /-- CMPI_NE (R97): Sets predicate pd to whether sa differs from the immediate. -/
  | cmpiNe (o : CmpRI)
  /-- CMPI_LT (R97): Sets predicate pd to whether sa is less than the immediate, read signed. -/
  | cmpiLt (o : CmpRI)
  /-- CMPI_LTU (R97): Sets predicate pd to whether sa is less than the immediate, read unsigned. -/
  | cmpiLtu (o : CmpRI)
  /-- CMPI_LE (R97): Sets predicate pd to whether sa is at most the immediate, read signed. -/
  | cmpiLe (o : CmpRI)
  /-- CMPI_LEU (R97): Sets predicate pd to whether sa is at most the immediate, read unsigned. -/
  | cmpiLeu (o : CmpRI)
  /-- PAND (R98): Writes predicate pd with pa AND pb. -/
  | pand (o : PPP)
  /-- POR (R98): Writes predicate pd with pa OR pb. -/
  | por (o : PPP)
  /-- PXOR (R98): Writes predicate pd with pa XOR pb. -/
  | pxor (o : PPP)
  /-- PNOT (R98): Writes predicate pd with NOT pa. -/
  | pnot (o : PP)
  /-- LD (R100): Checks, translates and loads 1 to 8 bytes of global memory into sd, with optional acquire at a scope. -/
  | ld (o : LoadOp)
  /-- ST (R100): Checks, translates and stores 1 to 8 bytes of sb to global memory, with optional release at a scope. -/
  | st (o : StoreOp)
  /-- LDS (R104): Loads 1 to 8 bytes of the tile's scratchpad into sd. -/
  | lds (o : LoadS)
  /-- STS (R104): Stores 1 to 8 bytes of sb into the tile's scratchpad with byte enables. -/
  | sts (o : StoreS)
  /-- PREF (R105): Requests that a global line be brought into L1 or L2, with no architectural effect. -/
  | pref (o : PrefOp)
  /-- AMO (R107): Performs an atomic operation on global memory at the line's home slice and returns the old value. -/
  | amo (o : AtomOp)
  /-- AMOS (R108): Performs an indivisible atomic operation on the tile's own scratchpad and returns the old value. -/
  | amos (o : AtomS)
  /-- AMOS_CO (R109): Sends an atomic operation by coordinate to a tensor element owned by another tile, as an ATOMIC burst. -/
  | amosCo (o : AtomS)
  /-- BR (R111): Branches to the word at its own index plus the signed offset. -/
  | br (o : BrOp)
  /-- CALL (R111): Writes the return index into the link register and branches by the signed offset. -/
  | call (o : CallOp)
  /-- JMP (R112): Jumps to the word index held in sa. -/
  | jmp (o : JmpOp)
  /-- CALLR (R112): Writes the return index into sd and jumps to the index held in sa. -/
  | callr (o : RR)
  /-- RET (R112): Jumps to the word index in sa, s63 by default. -/
  | ret (o : JmpOp)
  /-- FENCE (R130): Orders the control core's own accesses as acquire, release or both at a scope. -/
  | fence (o : FenceOp)
  /-- PHASE (R131): Publishes the tile's unpublished PHASE-page stores and sets a new phase boundary. -/
  | phase (o : NoOp)
  /-- GBAR (R132): Arrives at gang barrier n and waits for the barrier's generation to complete. -/
  | gbar (o : GBarOp)
  /-- SSTEP (R133): Opens a scheduled communication step of n issue cycles directly after a GBAR. -/
  | sstep (o : SStepOp)
  /-- SAFEPT (R134): Offers a safe point with live-state masks, at which a pending pre-emption saves the tile or a pending kill kills it. -/
  | safept (o : SafeMasks)
  /-- KILLPT (R135): Kills a killable task at this word when a quorum kill is pending for it. -/
  | killpt (o : NoOp)
  /-- QARRIVE (R136): Asks a quorum join's scheduler to accept this task's weight, then performs PHASE, or is killed. -/
  | qarrive (o : QArrOp)
  /-- FORK (R114): Queues one run on each named engine with entry points, parameters and a tag. -/
  | fork (o : ForkOp)
  /-- FORKS (R115): Queues speculative runs in bank A or B of a tag on the named engines. -/
  | forks (o : ForkSOp)
  /-- RESOLVE (R116): Commits one bank of a tag and cancels the other on the named engines. -/
  | resolve (o : ResolveOp)
  /-- CANCEL (R117): Removes every unstarted queue entry of a tag from the named engines. -/
  | cancel (o : CancelOp)
  /-- RDV (R118): Waits until the named engines are idle, then acquires their effects at TILE scope. -/
  | rdv (o : RdvOp)
  /-- EXIT (R119): Cancels unresolved speculation, waits for the engines and responses, performs PHASE and reports the task's completion. -/
  | exit (o : NoOp)
  /-- EXIT_ABANDON (R120): Removes queued runs, stops started runs, waits, performs PHASE and reports completion. -/
  | exitAbandon (o : NoOp)
  /-- MAPWAIT (R125): Waits for a map slot's ready flag, stalling or marking sd pending as a token register. -/
  | mapwait (o : MapWaitOp)
  /-- WAITTL (R124): Waits until a timeline reaches sa, then acquires the effects of records numbered up to sa. -/
  | waittl (o : WaitTlOp)
  /-- LAUNCHQ (R129): Pushes a task descriptor onto a die's command queue as a release at DEV scope and returns its sequence number. -/
  | launchq (o : RRR)
  /-- SEMINC (R127): Atomically adds sb to a 64-bit semaphore at its home slice, as a release at scope. -/
  | seminc (o : SemOp)
  /-- SEMWAIT (R128): Waits until a semaphore reaches sb, then acquires at scope. -/
  | semwait (o : SemOp)
  /-- TRAP (R141): Takes trap 0x0E with its code in TRAPINFO. -/
  | trap (o : CodeOp)
  /-- BRK (R141): Takes breakpoint trap 0x0D with its code in TRAPINFO. -/
  | brk (o : CodeOp)
  /-- ERET (R140): Clears TRAPSTATE.IN, restarts parked records, replays the flight buffer and continues at TRAPPC. -/
  | eret (o : NoOp)
  /-- GETSYS (R142): Reads a system register into sd. -/
  | getsys (o : GetSysOp)
  /-- SETSYS (R142): Writes a system register that has no row of its own from sa. -/
  | setsys (o : SetSysOp)
  /-- SETSYS_SEEDV (R54): Seeds the vector stochastic generator, replacing a zero seed. -/
  | setsysSeedv (o : SetOwnOp)
  /-- SETSYS_SEEDX (R54): Seeds the move generator and the matrix read-out generator with the seed rotated left by 16. -/
  | setsysSeedx (o : SetOwnOp)
  /-- SETSYS_SEEDM (R54): Seeds the matrix read-out generator alone, without rotation. -/
  | setsysSeedm (o : SetOwnOp)
  /-- SETSYS_REPLCTL (R319): Writes the replication controls, discarding illegal values, with EPOCH acting at once and the rest at the next epoch end. -/
  | setsysReplctl (o : SetOwnOp)
  /-- SETSYS_QUAGLIM (R378): Sets or disables the hang limit of the die, discarding out-of-range values. -/
  | setsysQuaglim (o : SetOwnOp)
  /-- SETSYS_PGRACE (R342): Sets the grace for pre-emption and forced kill, discarding out-of-range values. -/
  | setsysPgrace (o : SetOwnOp)
  /-- GETSYS_REPLST (R320): Translates REPLVA without faulting or binding and returns its region's replication state. -/
  | getsysReplst (o : GetOwnOp)
  /-- TLBINV (R144): Invalidates translations for a page, the running context, or the whole die. -/
  | tlbinv (o : TlbinvOp)
  /-- NOP (R145): Has no effect. -/
  | nop (o : NoOp)
  /-- WFE (R145): Waits for the tile's event latch, then clears it. -/
  | wfe (o : NoOp)
  /-- HALT (R146): Stops the control core, writes TRAPPC and writes a halt record into the event ring. -/
  | halt (o : NoOp)
  /-- MEMORY_RESPONSE (R90): A load-miss or AMO response arrives and writes the waiting destination register. -/
  | memoryResponse (a k : Nat)
  /-- AMOS_CO_RESPONSE (R110): The owner's response arrives and writes sd with the old value, or 0 with AMISS counting one. -/
  | amosCoResponse (a k : Nat)
  /-- MAPWAIT_READY (R125): The awaited ready flag is set, MAPWAIT acquires the counted landings and writes its token value. -/
  | mapwaitReady (a slot : Nat)
  /-- RDV_COMPLETE (R118): The named engines become idle and the waiting RDV acquires their effects. -/
  | rdvComplete (a : Nat)
  /-- WAITTL_COMPLETE (R124): The timeline reaches the awaited value and WAITTL acquires those records' effects. -/
  | waittlComplete (a : Nat)
  /-- SEMWAIT_WAKE (R128): The home slice answers a held wait when an update crosses the threshold. -/
  | semwaitWake (a : Nat)
  /-- GBAR_RELEASE (R132): Every gang tile has arrived at a barrier generation and all are released on one cycle. -/
  | gbarRelease (a n : Nat)
  /-- PHASE_PERFORMED (R131): Publication of a PHASE has performed at SYS scope and the stalled control core continues. -/
  | phasePerformed (a : Nat)
  /-- QARRIVE_ANSWER (R344): The join's scheduler answers accepted, counting the weight, or kill. -/
  | qarriveAnswer (a : Nat)
  /-- FORK_QUEUE_ENTRY_FREE (R114): A stalled FORK finds a free entry on every named engine and queues its runs. -/
  | forkQueueEntryFree (a : Nat)
  /-- ASYNC_TRAP_TAKEN (R137): An asynchronous trap is taken at the control core's next word boundary, writing the trap registers and vectoring or stopping. -/
  | asyncTrapTaken (a : Nat)
  /-- TRAP_TO_REEVE_CORE (R354): A trap delivered to the reeve core stops the tile and is handled by cause and trap policy. -/
  | trapToReeveCore (a : Nat)
  /-- RUN_START (R114): An engine that is idle starts the run at the head of its queue, loading its parameters. -/
  | runStart (a : Nat) (e : Engine)
  /-- KNOP (R157): Scalar slot with no effect. -/
  | knop (o : KNone)
  /-- KADD (R157): Writes kd with ka plus kb, in 32 bits. -/
  | kadd (o : KRRR)
  /-- KSUB (R157): Writes kd with ka minus kb, in 32 bits. -/
  | ksub (o : KRRR)
  /-- KADDI (R157): Writes kd with ka plus the sign-extended imm30. -/
  | kaddi (o : KRRI)
  /-- KLI (R157): Writes kd with the sign-extended imm30. -/
  | kli (o : KImm)
  /-- KAND (R157): Writes kd with ka AND kb. -/
  | kand (o : KRRR)
  /-- KOR (R157): Writes kd with ka OR kb. -/
  | kor (o : KRRR)
  /-- KXOR (R157): Writes kd with ka XOR kb. -/
  | kxor (o : KRRR)
  /-- KSHL (R157): Writes kd with ka shifted left by kb[4:0]. -/
  | kshl (o : KRRR)
  /-- KSHR (R157): Writes kd with ka shifted right logically by kb[4:0]. -/
  | kshr (o : KRRR)
  /-- KCMP (R157): Writes a flag with a 32-bit comparison of ka and kb. -/
  | kcmp (o : KCmpOp)
  /-- KLOOP (R158): Decrements a loop counter and branches while it is not zero. -/
  | kloop (o : KLoopOp)
  /-- KLOOP_SET (R158): Sets a loop counter to ka plus n. -/
  | kloopSet (o : KLoopSetOp)
  /-- KBR (R159): Branches by a signed pair offset, with no delay slot. -/
  | kbr (o : KBrOp)
  /-- KEND (R160): Ends the vector run after its pair and drains in-flight results and pushes. -/
  | kend (o : KNone)
  /-- KFROM (R157): Writes kd with one lane of a vector register. -/
  | kfrom (o : KFromOp)
  /-- KSEED (R157): Seeds the vector stochastic generator from ka. -/
  | kseed (o : KSeedOp)
  /-- VNOP (R151): Vector slot with no effect. -/
  | vnop (o : VNone)
  /-- VLD (R161): Loads one 32-bit word per active lane from the scratchpad. -/
  | vld (o : VMem)
  /-- VST (R161): Stores one 32-bit word per active lane to the scratchpad. -/
  | vst (o : VMem)
  /-- VST_N (R163): Stores the low w bits of each active lane as a dense narrow run by read-merge-write. -/
  | vstN (o : VNarrow)
  /-- VLDX (R162): Gathers 32-bit words at per-lane offsets. -/
  | vldx (o : VIndexed)
  /-- VSTX (R162): Scatters 32-bit words to per-lane offsets, higher lanes winning. -/
  | vstx (o : VIndexed)
  /-- VLDB (R163): Loads a dense run of narrow element codes, zero-extended, into lanes. -/
  | vldb (o : VNarrow)
  /-- VPERM (R176): Permutes lanes by per-lane indices. -/
  | vperm (o : VRRR)
  /-- VROT (R176): Rotates lanes by an immediate count. -/
  | vrot (o : VLaneImm)
  /-- VBCAST (R176): Broadcasts one lane of a vector register to every active lane. -/
  | vbcast (o : VLaneImm)
  /-- VBCAST_K (R176): Broadcasts a k register to every active lane. -/
  | vbcastK (o : VBcastK)
  /-- MAND (R170): Writes a mask register with the AND of two masks. -/
  | mand (o : MaskRRR)
  /-- MOR (R170): Writes a mask register with the OR of two masks. -/
  | mor (o : MaskRRR)
  /-- MXOR (R170): Writes a mask register with the XOR of two masks. -/
  | mxor (o : MaskRRR)
  /-- MNOT (R170): Writes a mask register with the complement of a mask. -/
  | mnot (o : MaskRR)
  /-- VADD (R165): Adds floating elements with one rounding. -/
  | vadd (o : VFloat2)
  /-- VSUB (R165): Subtracts floating elements with one rounding. -/
  | vsub (o : VFloat2)
  /-- VMUL (R165): Multiplies floating elements with one rounding. -/
  | vmul (o : VFloat2)
  /-- VFMA (R165): Computes a times b plus c with one rounding. -/
  | vfma (o : VFloat3)
  /-- VMIN (R167): Takes the smaller floating element, NaN giving canonical NaN. -/
  | vmin (o : VFloat2)
  /-- VMAX (R167): Takes the larger floating element, NaN giving canonical NaN. -/
  | vmax (o : VFloat2)
  /-- VABS (R167): Clears the sign bit of each element. -/
  | vabs (o : VFloat1)
  /-- VNEG (R167): Inverts the sign bit of each element. -/
  | vneg (o : VFloat1)
  /-- VRCP (R166): Computes the correctly rounded reciprocal. -/
  | vrcp (o : VFloat1)
  /-- VRSQ (R166): Computes the correctly rounded reciprocal square root. -/
  | vrsq (o : VFloat1)
  /-- VEXP2 (R166): Computes the correctly rounded power of two. -/
  | vexp2 (o : VFloat1)
  /-- VLOG2 (R166): Computes the correctly rounded base-2 logarithm. -/
  | vlog2 (o : VFloat1)
  /-- VCMP (R168): Writes a mask register with a floating comparison per lane. -/
  | vcmp (o : VCmpOp)
  /-- VSEL (R168): Selects each lane from va or vb by a mask. -/
  | vsel (o : VRRR)
  /-- VIADD (R169): Adds 32-bit integer lanes. -/
  | viadd (o : VInt2)
  /-- VISUB (R169): Subtracts 32-bit integer lanes. -/
  | visub (o : VInt2)
  /-- VIMUL (R169): Multiplies 32-bit integer lanes, keeping the low 32 bits. -/
  | vimul (o : VInt2)
  /-- VAND (R169): Bitwise AND of lanes. -/
  | vand (o : VInt2)
  /-- VOR (R169): Bitwise OR of lanes. -/
  | vor (o : VInt2)
  /-- VXOR (R169): Bitwise XOR of lanes. -/
  | vxor (o : VInt2)
  /-- VSHL (R169): Shifts lanes left. -/
  | vshl (o : VInt2)
  /-- VSHR (R169): Shifts lanes right logically. -/
  | vshr (o : VInt2)
  /-- VSRA (R169): Shifts lanes right arithmetically. -/
  | vsra (o : VInt2)
  /-- VIMIN (R169): Signed minimum of lanes. -/
  | vimin (o : VInt2)
  /-- VIMAX (R169): Signed maximum of lanes. -/
  | vimax (o : VInt2)
  /-- VIMINU (R169): Unsigned minimum of lanes. -/
  | viminu (o : VInt2)
  /-- VIMAXU (R169): Unsigned maximum of lanes. -/
  | vimaxu (o : VInt2)
  /-- VICMP (R170): Writes a mask register with an integer comparison per lane. -/
  | vicmp (o : VICmpOp)
  /-- VCVT (R171): Converts each lane between formats with the selected rounding mode. -/
  | vcvt (o : VCvtOp)
  /-- VPACK (R172): Rounds 128 FP32 values into 16-bit elements. -/
  | vpack (o : VPackOp)
  /-- VUNPK (R172): Converts half the elements of a 16-bit register exactly to FP32. -/
  | vunpk (o : VUnpkOp)
  /-- VRNS (R173): Converts INT32 lanes to RNS30 words. -/
  | vrns (o : VRR)
  /-- VCRT (R173): Converts RNS30 lanes to FP32 or INT32 with a scale and one rounding. -/
  | vcrt (o : VCrtOp)
  /-- VRED (R174): Sums floating values by a fixed tree into every active lane. -/
  | vred (o : VFloat1)
  /-- VRED_I32 (R174): Sums active lanes as integers modulo 2^32. -/
  | vredI32 (o : VRR)
  /-- VSCAN (R175): Forms floating inclusive prefix sums. -/
  | vscan (o : VRR)
  /-- VSCAN_I32 (R175): Forms wrapping integer inclusive prefix sums. -/
  | vscanI32 (o : VRR)
  /-- VECTOR_WRITEBACK (R150): A vector result reaches its write-back slot, writes its lanes, ORs its flags and makes its pushes. -/
  | vectorWriteback (a : Nat)
  /-- MNOP (R202): Matrix record with no effect beyond tokens and timeline. -/
  | mnop (r : MRec)
  /-- MEND (R202): Ends the matrix run once every earlier record has completed. -/
  | mend (r : MRec)
  /-- MREP (R201): Sets ml0 and ml1 so the next record repeats with base offsets. -/
  | mrep (r : MRec)
  /-- LDSTAT (R190): Loads the shadow weight plane, optionally transposed and with block scales. -/
  | ldstat (r : MRec)
  /-- MSWAP (R192): Exchanges the active and shadow planes. -/
  | mswap (r : MRec)
  /-- MMA (R193): Streams activation rows through the array and accumulates passes. -/
  | mma (r : MRec)
  /-- MMABS (R193): Block-scaled multiply over MX formats with activation scales. -/
  | mmabs (r : MRec)
  /-- MDIST (R194): Accumulates squared differences against the weight columns. -/
  | mdist (r : MRec)
  /-- MTOPK (R197): Writes the k greatest accumulator entries of each row with their columns. -/
  | mtopk (r : MRec)
  /-- MBOTK (R197): Writes the k least accumulator entries of each row with their columns. -/
  | mbotk (r : MRec)
  /-- ACCZ (R198): Zeroes accumulator rows and columns. -/
  | accz (r : MRec)
  /-- ACCLD (R199): Replaces accumulator words from scratchpad rows. -/
  | accld (r : MRec)
  /-- ACCADD (R199): Adds scratchpad rows into accumulator words. -/
  | accadd (r : MRec)
  /-- ACCRD (R200): Writes accumulator rows to the scratchpad with conversion and optional scales. -/
  | accrd (r : MRec)
  /-- MATRIX_RECORD_COMPLETE (R187): A matrix record's last read and write perform, its flags are ORed, tlm advances and its pushes are made. -/
  | matrixRecordComplete (a k : Nat)
  /-- XNOP (R251): Move record with no effect beyond tokens, token register and timeline. -/
  | xnop (r : XRec)
  /-- XEND (R251): Ends the move run once every earlier record has completed. -/
  | xend (r : XRec)
  /-- XREP (R250): Sets xl0 and xl1 so the next record repeats with moved windows. -/
  | xrep (r : XRec)
  /-- LOAD (R238): Reads a tensor window and lands it in the tile's own Reedbed. -/
  | load (r : XRec)
  /-- STORE (R239): Copies a scratchpad window to global memory at a new base. -/
  | store (r : XRec)
  /-- COPY (R240): Copies a window to a destination tensor, with optional conversion and permutation. -/
  | copy (r : XRec)
  /-- FILL (R242): Writes a fill value into every element of a window. -/
  | fill (r : XRec)
  /-- SEND (R243): Sends a window as coordinate bursts to one tile or a multicast rectangle. -/
  | send (r : XRec)
  /-- GATHER (R244): Reads listed blocks and lands them concatenated in the tile's own maps. -/
  | gather (r : XRec)
  /-- SCATTER (R244): Sends consecutive source blocks to listed coordinates. -/
  | scatter (r : XRec)
  /-- COLL (R245): Sends a moved window to one peer per step along an affine peer walk. -/
  | coll (r : XRec)
  /-- REDS (R246): Sends reducing stores in 4 KiB blocks to a switch group. -/
  | reds (r : XRec)
  /-- SIGNAL (R247): Atomically adds to a semaphore as a release of the engine's effects at a scope. -/
  | signal (r : XRec)
  /-- MAPSET (R248): Checks a map record and installs it in a slot at the next flit boundary. -/
  | mapset (r : XRec)
  /-- MAPSWAP (R248): Writes a slot's shadow map and installs it at a flit boundary, returning the old counter. -/
  | mapswap (r : XRec)
  /-- MAPCLR (R248): Clears a map slot at a flit boundary. -/
  | mapclr (r : XRec)
  /-- MAPREADY (R248): Waits for a slot's ready flag and acquires its counted landings. -/
  | mapready (r : XRec)
  /-- WELLRD (R249): Copies the oldest stray records to the scratchpad and frees them. -/
  | wellrd (r : XRec)
  /-- MAP_CHANGE_AT_BOUNDARY (R225): A pending install, swap or clear takes effect between two payload flits and clears the slot's counter, ready and overflow. -/
  | mapChangeAtBoundary (a : Nat)
  /-- MOVE_RECORD_COMPLETE (R252): A move record completes: completion record, flags, token register, timeline and pushes in order. -/
  | moveRecordComplete (a : Nat)
  /-- FIFO_PUSH (R69): A unit waiting for room in its named FIFOs makes its pushes once all have room. -/
  | fifoPush (a : Nat) (e : Engine)
  /-- HEADER_FLIT_ARRIVES (R213): The landing port takes a burst's header and any extension flit and holds them. -/
  | headerFlitArrives (a k : Nat)
  /-- PAYLOAD_FLIT_LANDS (R213): The landing port resolves a payload flit against one map generation and writes its elements by mode. -/
  | payloadFlitLands (a : Nat)
  /-- READY_PUSH (R220): A slot's ready push, waiting for room, puts one token into each named FIFO. -/
  | readyPush (a slot : Nat)
  /-- CODE_LANDING_RELEASE (R218): A CODE landing held for a busy engine is written once the engine is idle with an empty queue. -/
  | codeLandingRelease (a : Nat)
  /-- SYNC_LANDING (R226): A SYNC payload flit is written in every receiver on its scheduled cycle, or later if it lost a conflict. -/
  | syncLanding (k : Nat)
  /-- LINE_MIGRATION (R314): A line moves indivisibly to the slice of a tile that accessed it four times from afar. -/
  | lineMigration (line tile : Nat)
  /-- REPLICATION_EPOCH_END (R317): At each epoch end the home sets each region's degree and replica dies and halves its counters. -/
  | replicationEpochEnd (d : Nat)
  /-- READDUP_COLLAPSE (R325): A write to a writable READDUP page waits while the owner die's reeve core checks the set, splits, redirects and takes ownership. -/
  | readdupCollapse (a : Nat)
  /-- COLLAPSE_REQUEST (R376): A device of the duplicate set receives a collapse request, redirects its entries, frees its frame and acknowledges. -/
  | collapseRequest (q : CollapseReq)
  /-- COLLAPSE_RETRY (R377): After the last acknowledgement, the waiting write is retried with every check made again. -/
  | collapseRetry (a : Nat)
  /-- SCRUB (R385): Scrubbing reads a GDDR 7 line and writes back what it corrects. -/
  | scrub (line : Nat) (corrects : Bool)
  /-- UNCORRECTABLE_ERROR (R383): An uncorrectable check failure at a hand-over writes the new check poisoned and reports type 0x22. -/
  | uncorrectableError (d handover : Nat) (p : Place)
  /-- TILE_OUT_OF_SERVICE (R386): A tile with an untied uncorrectable error is retired and a spare takes its place. -/
  | tileOutOfService (a : Nat)
  /-- QUAG_EXPIRY (R379): A tile's stalled count reaches the limit, writes the quag records and raises cause 0x11. -/
  | quagExpiry (a : Nat)
  /-- LANE_FAILURE_RETRAIN (R388): A failed lane retrains its link with a spare or at reduced width. -/
  | laneFailureRetrain (o : LaneOf)
  /-- OLUIC_LINK_FAILURE (R389): An unrestorable Oluic link is failed and its traffic rerouted from the retry copy. -/
  | oluicLinkFailure (link : Nat)
  /-- DEVICE_PORT_FAILURE (R390): A failed UALink or Ethernet port's flows move to other routes in sequence order. -/
  | devicePortFailure (port : Nat)
  /-- DEVICE_DECLARED_LOST (R390): A destination without acknowledgement for 2^32 cycles on every route is declared lost. -/
  | deviceDeclaredLost (dev : Nat)
  /-- DIE_RESET (R392): Die 4's reeve core resets a compute die, ending its tasks and raising its incarnation. -/
  | dieReset (o : DieReset)
  /-- DIE_RESET_FORCED (R392): Quiescing fails for 2^26 cycles and the reset proceeds forced, abandoning requests. -/
  | dieResetForced (o : ForcedReset)
  /-- CLOCK_CHANGE (R399): The package steps its core clock for thermal or power reasons and reports type 0x2A. -/
  | clockChange (mhz : Nat) (power : Bool)
  /-- D3HOT_ENTRY (R399): The device enters D3hot, writing back L2 and putting GDDR 7 in self-refresh. -/
  | d3hotEntry
  /-- D0_RETURN (R399): The device returns to D0 and resumes from link training with state kept. -/
  | d0Return
  /-- POWER_ON_BRING_UP (R398): At power-on the device verifies firmware, trains channels and links, applies repairs and opens BAR0. -/
  | powerOnBringUp (b : BringUp)
  /-- TRIGGER_WRITE (R359): A host 64-byte write to a die's trigger register queues a run trigger or is dropped. -/
  | triggerWrite (d : Nat) (data : List Word)
  /-- CMD_RESUME (R361): Host command that resumes a stopped tile as ERET at TRAPPC. -/
  | cmdResume (w : Word)
  /-- CMD_END (R361): Host command that ends the task of a stopped tile abnormally. -/
  | cmdEnd (w : Word)
  /-- CMD_PREEMPT (R361): Host command that requests pre-emption of the task on a tile. -/
  | cmdPreempt (w : Word)
  /-- CSTART (R366): A host write starts a collective sequencer's kernel from a task descriptor. -/
  | cstart (q : Nat) (va : Word)
  /-- EVSIZE_WRITE (R362): Writes the event ring size, discarding values outside 6 to 20. -/
  | evsizeWrite (w : Word)
  /-- EVBASE_WRITE (R362): Sets the ring base and enable; enabling releases held bring-up events. -/
  | evbaseWrite (w : Word)
  /-- FFPUSH (R312): Pushes a cleared frame onto a die's free-frame list, or discards the write and counts FFERR. -/
  | ffpush (d : Nat) (w : Word)
  /-- CTXREG (R403): Registers or empties a context registry entry, or is refused with event 0x09. -/
  | ctxreg (w : Word)
  /-- SLUICEW_WRITE (R373): Sets per-link class weights, taking effect at each link's next flit boundary. -/
  | sluicewWrite (d : Nat) (w : Word)
  /-- FEATEN_WRITE (R395): Writes feature enables before the lock, never setting bits FEAT lacks. -/
  | featenWrite (i : Nat) (w : Word)
  /-- SEM_WINDOW_READ (R360): A host 8-byte read of the semaphore window acts as an acquire load at SYS scope. -/
  | semWindowRead (off : Nat)
  /-- SEM_WINDOW_WRITE (R360): A host 8-byte write of the semaphore window acts as a release store at SYS scope. -/
  | semWindowWrite (off : Nat) (w : Word)
  /-- SEM_WINDOW_FETCHADD (R360): A host FetchAdd on the window acts as SEMINC at SYS scope. -/
  | semWindowFetchadd (off : Nat) (w : Word)
  /-- SEM_WINDOW_CAS (R360): A host CAS on the window acts as AMO.CAS.D.AR.SYS. -/
  | semWindowCas (off : Nat) (expect new : Word)
  /-- ATTESTATION_REQUEST (R397): A FetchAdd on the mailbox request count asks the root of trust for a signed report. -/
  | attestationRequest (w : Word)
  /-- ATTESTATION_REPORT (R397): The root of trust writes the report into the host buffer and writes type 0x30. -/
  | attestationReport
  /-- BAR2_WRITE (R360): A host write to device memory performs at the line's home, collapsing replicas. -/
  | bar2Write (off : Nat) (data : List Byte)
  /-- BAR2_READ (R360): A host read of device memory returns a value permitted by the coherence rules. -/
  | bar2Read (off n : Nat)
  /-- BAR0_REGISTER_WRITE (R358): A host write to a BAR0 register that has no row of its own. -/
  | bar0RegisterWrite (off : Nat) (data : List Byte)
  /-- SWITCH_GROUP_ARM (R370): A descriptor write with EN set arms a switch group at round 0, or is refused. -/
  | switchGroupArm (g : Nat) (data : List Word)
  /-- SWITCH_GROUP_DISARM (R370): A descriptor write with EN clear disarms the group and discards blocks in flight. -/
  | switchGroupDisarm (g : Nat) (data : List Word)
  /-- SWITCH_BURST_ARRIVAL (R371): A reducing burst reaches a switch group and is discarded, counted or held. -/
  | switchBurstArrival (k : Nat)
  /-- SWITCH_ROUND_CLOSE (R372): Grace expires or all contributors complete, partial blocks are discarded and results are formed. -/
  | switchRoundClose (g : Nat)
  /-- SWITCH_ROUND_ADVANCE (R372): Once the results reach local completion, done is incremented and the round advances to OPEN. -/
  | switchRoundAdvance (g : Nat)
  /-- BURST_ACK (R369): The end-to-end acknowledgement of a device burst releases its retained copy. -/
  | burstAck (dev cls seq : Nat)
  /-- BURST_RETRANSMIT (R369): A device burst is retransmitted from its retained copy after a retry or reroute. -/
  | burstRetransmit (dev cls seq : Nat)
  /-- DEVICE_BURST_RECEIVE (R369): The receiving collective die hands each sequence number to its compute dies once, in order. -/
  | deviceBurstReceive (b : DevBurst)
  /-- GRAPH_UPLOAD (R330): The host uploads a die graph part, which is checked and accepted or refused whole. -/
  | graphUpload (d : Nat) (data : List Word)
  /-- RUN_START_TRIGGER (R333): After the previous run ends, the next trigger applies its patches, numbers the run and fires source nodes. -/
  | runStartTrigger (d gid : Nat)
  /-- LAUNCH_NODE_FIRES (R331): A LAUNCH node whose predecessors arrived makes its task ready. -/
  | launchNodeFires (d gid node : Nat)
  /-- JOIN_NODE_FIRES (R331): A plain join whose predecessors arrived arrives at its successors. -/
  | joinNodeFires (d gid node : Nat)
  /-- SIGNAL_NODE_FIRES (R331): A SIGNAL node increments its semaphore at its scope and arrives. -/
  | signalNodeFires (d gid node : Nat)
  /-- WAIT_NODE_FIRES (R331): A WAIT node arrives once its semaphore reaches the threshold. -/
  | waitNodeFires (d gid node : Nat)
  /-- END_NODE_FIRES (R331): An END node waits for the run's tasks, increments the run-end semaphore and ends the run. -/
  | endNodeFires (d gid node : Nat)
  /-- QUORUM_CLOSE (R345): Grace expires or all arrive; stragglers are kept from starting, killed or given a kill pending. -/
  | quorumClose (d gid node : Nat)
  /-- QUORUM_FILL (R347): Once stragglers end and arrivals publish, the reeve core writes the fill targets and the join fires. -/
  | quorumFill (d gid node : Nat)
  /-- FORCED_KILL (R342): A kill pending for PGRACE cycles without a kill point is forced on the gang. -/
  | forcedKill (u : Nat)
  /-- TASK_READY_QUEUE (R335): A command-queue entry becomes ready after the entry before it has started. -/
  | taskReadyQueue (d q : Nat)
  /-- TASK_CLASS_PROMOTION (R336): A ready task that waits 2^20 cycles moves up one priority class. -/
  | taskClassPromotion (u : Nat)
  /-- TASK_PLACEMENT (R336): The scheduler places a ready task on the lowest free rectangle, or requests pre-emption for a long-waiting class-0 task. -/
  | taskPlacement (u : Nat)
  /-- TASK_START (R337): The scheduler checks the header, makes code active, writes data sections and starts every gang tile together. -/
  | taskStart (u : Nat)
  /-- TASK_END (R338): When every gang tile has exited, Reedbeds clear, PRIV lines write back, done increments and the node arrives. -/
  | taskEnd (u : Nat)
  /-- PRELOAD (R339): The scheduler preloads the next task's code into standby banks and its data into the preload region. -/
  | preload (u : Nat)
  /-- BUDGET_OVERRUN (R341): A task's counted cycles exceed its budget; it is killed or stopped with trap 0x0F. -/
  | budgetOverrun (u : Nat)
  /-- PREEMPT_REQUEST (R348): The scheduler requests pre-emption of a task whose context has a free save slot. -/
  | preemptRequest (u : Nat)
  /-- HEAVY_SAVE (R350): An unmet pre-emption after PGRACE kills a killable task or makes a heavy save of all declared state. -/
  | heavySave (u : Nat)
  /-- CONTEXT_RESUME (R351): A suspended gang is restored on its tiles, its overflow records replayed and its tiles restarted together. -/
  | contextResume (u : Nat)
  /-- RUN_STRANDED (R356): A run becomes stranded: no further task starts, preloads are discarded and cause 0x14 is recorded. -/
  | runStranded (d gid : Nat)
  /-- COLLAPSE_DECLINE (R325): A device of the duplicate set answers that it cannot redirect, so the owner die's reeve core declines and the waiting write fails with 0x08. -/
  | collapseDecline (a dev : Nat)
  /-- COMMUNICATION_STEP_END (R133): A step opened by SSTEP reaches its count of issue cycles, after which the tile issues no SYNC burst and unissued bursts wait for the next step. -/
  | communicationStepEnd (a : Nat)
  /-- CRC_RETRY (R385): A flit fails its CRC at a router or link port and is resent from the link's retry copy, with CRCRETRY counting one. -/
  | crcRetry (d : Nat)
  /-- LINK_RETRAINING_COMPLETE (R388): A link that is retraining with a spare lane, or at reduced width, finishes training, and the waiting flits are resent from the retry copy. -/
  | linkRetrainingComplete (link : Nat)
  /-- DEVICE_RESET (R390): The host resets the devices at both ends of a flow, which ends the declaration that a device is lost and re-establishes the flow. -/
  | deviceReset (dev : Nat)
  deriving DecidableEq, Repr

end Sys2Proof
end

