-- ==== Sys2Proof/WellFormed.lean ====
section
/-! DEFINITION. Check 1 of R75 on an instruction: the reserved fields and values that its operand types do not already exclude. -/

namespace Sys2Proof

/-- When ord is plain, scope is 0b000 (R62). -/
def plainTile (o : Ord) (s : Scope) : Bool := o != .plain || s == .tile

/-- .U stands on loads of .B, .H and .W only (R62, R75). -/
def signOk (u : Bool) (z : Size) : Bool := !u || z != .d

/-- Field c is CAS's alone (R62, R106). -/
def casField (op : AOp) (c : Fin 64) : Bool := op == .cas || c == 0

/-- A non-empty engine set (R75). -/
def EMask.any (e : EMask) : Bool := e.x || e.m || e.v

/-- The entry field of an engine that is not in emask is zero (R63). -/
def entriesOk (e : EMask) (v : Fin 2048) (m x : Fin 256) : Bool :=
  (e.v || v == 0) && (e.m || m == 0) && (e.x || x == 0)

/-- The registers whose SETSYS has a row of its own. -/
def ownSet (n : BitVec 12) : Bool :=
  n == 0x030#12 || n == 0x031#12 || n == 0x037#12 || n == 0x050#12 || n == 0x051#12 || n == 0x058#12

/-- A 16-bit broadcast immediate lies in imm36[15:0] (R156). -/
def immOk (t : VType) (b : VSrc) : Bool :=
  match b with
  | .reg _ => true
  | .imm i => t == .f32 || i.toNat < 65536

/-- How many loop levels of a field group a record uses (R183, R228). -/
inductive Levels where
  | none | one | two | four
  deriving DecidableEq, Repr

/-- How many of the four levels may be non-zero. -/
def Levels.count : Levels → Nat
  | .none => 0
  | .one => 1
  | .two => 2
  | .four => 4

/-- The levels at and beyond `n` hold `z`. -/
def Quad.zeroFrom {α : Type} [DecidableEq α] (z : α) (n : Levels) (q : Quad α) : Bool :=
  (n.count > 0 || q.l0 == z) && (n.count > 1 || q.l1 == z) && (n.count > 2 || q.l2 == z) && (n.count > 3 || q.l3 == z)

/-- The fields and flags an M record uses (R183, R184); the others are reserved. -/
structure MUse where
  acc : Bool := false
  fmta : Bool := false
  fmtb : Bool := false
  basea : Bool := false
  baseb : Bool := false
  basec : Bool := false
  scalea : Bool := false
  scaleb : Bool := false
  rows : Bool := false
  kpass : Bool := false
  cols : Bool := false
  trip : Levels := .none
  stra : Levels := .none
  strb : Levels := .none
  strc : Levels := .none
  t : Bool := false
  swap : Bool := false
  zero : Bool := false
  bs : Bool := false
  sr : Bool := false
  p0 : Bool := false
  p1 : Bool := false

/-- Every field and flag the record does not use is zero (R183, R184). -/
def MRec.fits (r : MRec) (u : MUse) : Bool :=
  (u.acc || r.acc == 0) && (u.fmta || r.fmta == 0) && (u.fmtb || r.fmtb == 0)
  && (u.basea || r.basea == 0) && (u.baseb || r.baseb == 0) && (u.basec || r.basec == 0)
  && (u.scalea || r.scalea == 0) && (u.scaleb || r.scaleb == 0)
  && (u.rows || r.rows == 0) && (u.kpass || r.kpass == 0) && (u.cols || r.cols == 0)
  && r.trip.zeroFrom 0 u.trip && r.stra.zeroFrom 0 u.stra && r.strb.zeroFrom 0 u.strb && r.strc.zeroFrom 0 u.strc
  && (u.t || !r.fl.t) && (u.swap || !r.fl.swap) && (u.zero || !r.fl.zero) && (u.bs || !r.fl.bs)
  && (u.sr || !r.fl.sr) && (u.p0 || !r.fl.p0) && (u.p1 || !r.fl.p1)

/-- The fields and flags an X record uses (R228). -/
structure XUse where
  shape : Bool := false
  window : Bool := false
  slot : Bool := false
  dest : Bool := false
  levels : Levels := .none
  second : Bool := false
  limit : Bool := false
  fpr : Bool := false
  crec : Bool := false
  cvt : Bool := false
  sr : Bool := false
  trn : Bool := false
  mc : Bool := false
  bscl : Bool := false
  wq : Bool := false
  sync : Bool := false

/-- Every field and flag the record does not use is zero; crec is reserved unless CREC is set (R228). -/
def XRec.fits (r : XRec) (u : XUse) : Bool :=
  (u.shape || r.shape == 0) && (u.window || r.window == 0) && (u.slot || r.slot == 0) && (u.dest || r.dest == 0)
  && r.trip.zeroFrom 0 u.levels && r.step.zeroFrom ⟨0, 0⟩ u.levels
  && (u.second || r.second == 0) && (u.limit || r.limit == 0)
  && (u.fpr || !r.fl.fpr) && (u.crec || !r.fl.crec) && (u.cvt || !r.fl.cvt) && (u.sr || !r.fl.sr)
  && (u.trn || !r.fl.trn) && (u.mc || !r.fl.mc) && (u.bscl || !r.fl.bscl) && (u.wq || !r.fl.wq) && (u.sync || !r.fl.sync)
  && (r.fl.crec || r.crec == 0)

/-- Check 1 of R75 holds of the instruction. Events carry no encoding, so nothing is reserved in them. -/
def Instr.wf (i : Instr) : Bool :=
  match i with
  | .add _ => true
  | .sub _ => true
  | .mul _ => true
  | .mulh _ => true
  | .mulhu _ => true
  | .div _ => true
  | .divu _ => true
  | .rem _ => true
  | .remu _ => true
  | .madd _ => true
  | .sel _ => true
  | .min _ => true
  | .minu _ => true
  | .max _ => true
  | .maxu _ => true
  | .and _ => true
  | .or _ => true
  | .xor _ => true
  | .andn _ => true
  | .shl _ => true
  | .shr _ => true
  | .sra _ => true
  | .rol _ => true
  | .clz _ => true
  | .ctz _ => true
  | .popc _ => true
  | .bext _ => true
  | .bins _ => true
  | .sext _ => true
  | .zext _ => true
  | .addi _ => true
  | .andi _ => true
  | .ori _ => true
  | .xori _ => true
  | .shli _ => true
  | .shri _ => true
  | .srai _ => true
  | .li _ => true
  | .lih _ => true
  | .cmpEq _ => true
  | .cmpNe _ => true
  | .cmpLt _ => true
  | .cmpLtu _ => true
  | .cmpLe _ => true
  | .cmpLeu _ => true
  | .cmpiEq _ => true
  | .cmpiNe _ => true
  | .cmpiLt _ => true
  | .cmpiLtu _ => true
  | .cmpiLe _ => true
  | .cmpiLeu _ => true
  | .pand _ => true
  | .por _ => true
  | .pxor _ => true
  | .pnot _ => true
  | .ld o => plainTile o.ord o.scope && o.ord != .rel && o.ord != .ar && signOk o.u o.size
  | .st o => plainTile o.ord o.scope && o.ord != .acq && o.ord != .ar
  | .lds o => signOk o.u o.size
  | .sts _ => true
  | .pref _ => true
  | .amo o => plainTile o.ord o.scope && casField o.op o.c
  | .amos o => casField o.op o.c
  | .amosCo o => casField o.op o.c
  | .br _ => true
  | .call _ => true
  | .jmp _ => true
  | .callr _ => true
  | .ret _ => true
  | .fence o => o.ord != .plain
  | .phase _ => true
  | .gbar _ => true
  | .sstep _ => true
  | .safept _ => true
  | .killpt _ => true
  | .qarrive _ => true
  | .fork o => o.e.any && entriesOk o.e o.ventry o.mentry o.xentry
  | .forks o => o.e.any && entriesOk o.e o.ventry o.mentry o.xentry
  | .resolve o => o.e.any
  | .cancel o => o.e.any
  | .rdv o => o.e.any
  | .exit _ => true
  | .exitAbandon _ => true
  | .mapwait _ => true
  | .waittl _ => true
  | .launchq _ => true
  | .seminc _ => true
  | .semwait _ => true
  | .trap _ => true
  | .brk _ => true
  | .eret _ => true
  | .getsys o => o.sysno != 0x054#12
  | .setsys o => !ownSet o.sysno
  | .setsysSeedv _ => true
  | .setsysSeedx _ => true
  | .setsysSeedm _ => true
  | .setsysReplctl _ => true
  | .setsysQuaglim _ => true
  | .setsysPgrace _ => true
  | .getsysReplst _ => true
  | .tlbinv _ => true
  | .nop _ => true
  | .wfe _ => true
  | .halt _ => true
  | .memoryResponse _ _ => true
  | .amosCoResponse _ _ => true
  | .mapwaitReady _ _ => true
  | .rdvComplete _ => true
  | .waittlComplete _ => true
  | .semwaitWake _ => true
  | .gbarRelease _ _ => true
  | .phasePerformed _ => true
  | .qarriveAnswer _ => true
  | .forkQueueEntryFree _ => true
  | .asyncTrapTaken _ => true
  | .trapToReeveCore _ => true
  | .runStart _ _ => true
  | .knop _ => true
  | .kadd _ => true
  | .ksub _ => true
  | .kaddi _ => true
  | .kli _ => true
  | .kand _ => true
  | .kor _ => true
  | .kxor _ => true
  | .kshl _ => true
  | .kshr _ => true
  | .kcmp _ => true
  | .kloop _ => true
  | .kloopSet _ => true
  | .kbr _ => true
  | .kend _ => true
  | .kfrom _ => true
  | .kseed _ => true
  | .vnop _ => true
  | .vld _ => true
  | .vst _ => true
  | .vstN _ => true
  | .vldx _ => true
  | .vstx _ => true
  | .vldb _ => true
  | .vperm _ => true
  | .vrot _ => true
  | .vbcast _ => true
  | .vbcastK _ => true
  | .mand _ => true
  | .mor _ => true
  | .mxor _ => true
  | .mnot _ => true
  | .vadd o => immOk o.t o.b
  | .vsub o => immOk o.t o.b
  | .vmul o => immOk o.t o.b
  | .vfma o => immOk o.t o.b
  | .vmin o => immOk o.t o.b
  | .vmax o => immOk o.t o.b
  | .vabs _ => true
  | .vneg _ => true
  | .vrcp _ => true
  | .vrsq _ => true
  | .vexp2 _ => true
  | .vlog2 _ => true
  | .vcmp o => !o.hi || o.t != .f32
  | .vsel _ => true
  | .viadd _ => true
  | .visub _ => true
  | .vimul _ => true
  | .vand _ => true
  | .vor _ => true
  | .vxor _ => true
  | .vshl _ => true
  | .vshr _ => true
  | .vsra _ => true
  | .vimin _ => true
  | .vimax _ => true
  | .viminu _ => true
  | .vimaxu _ => true
  | .vicmp _ => true
  | .vcvt _ => true
  | .vpack o => o.t != .f32
  | .vunpk o => o.t != .f32
  | .vrns _ => true
  | .vcrt _ => true
  | .vred _ => true
  | .vredI32 _ => true
  | .vscan _ => true
  | .vscanI32 _ => true
  | .vectorWriteback _ => true
  | .mnop r => r.fits { }
  | .mend r => r.fits { }
  | .mrep r => r.fits { trip := .two, stra := .two, strb := .two, strc := .two }
  | .ldstat r => r.fits { fmtb := true, baseb := true, scaleb := true, rows := true, cols := true, strb := .one, t := true, bs := true, p0 := true, p1 := true }
  | .mswap r => r.fits { }
  | .mma r => r.fits { acc := true, fmta := true, fmtb := true, basea := true, basec := true, rows := true, kpass := true, cols := true, trip := .four, stra := .four, strc := .four, swap := true, zero := true, p0 := true, p1 := true }
  | .mmabs r => r.fits { acc := true, fmta := true, fmtb := true, basea := true, basec := true, scalea := true, rows := true, kpass := true, cols := true, trip := .four, stra := .four, strc := .four, swap := true, zero := true, p0 := true, p1 := true }
  | .mdist r => r.fits { acc := true, fmta := true, fmtb := true, basea := true, basec := true, rows := true, kpass := true, cols := true, trip := .four, stra := .four, strc := .four, swap := true, zero := true, p0 := true, p1 := true }
  | .mtopk r => r.fits { acc := true, fmta := true, baseb := true, basec := true, rows := true, kpass := true, cols := true, p0 := true }
  | .mbotk r => r.fits { acc := true, fmta := true, baseb := true, basec := true, rows := true, kpass := true, cols := true, p0 := true }
  | .accz r => r.fits { acc := true, basec := true, rows := true, cols := true, p0 := true }
  | .accld r => r.fits { acc := true, fmta := true, fmtb := true, baseb := true, basec := true, rows := true, cols := true, strb := .one, p0 := true }
  | .accadd r => r.fits { acc := true, fmta := true, fmtb := true, baseb := true, basec := true, rows := true, cols := true, strb := .one, p0 := true }
  | .accrd r => r.fits { acc := true, fmta := true, fmtb := true, baseb := true, basec := true, scalea := true, rows := true, cols := true, strb := .one, bs := true, sr := true, p0 := true, p1 := true }
  | .matrixRecordComplete _ _ => true
  | .xnop r => r.fits { }
  | .xend r => r.fits { }
  | .xrep r => r.fits { levels := .two }
  | .load r => r.fits { shape := true, window := true, limit := true, fpr := true, crec := true, cvt := true, sr := true, trn := true, bscl := true, levels := .four }
  | .store r => r.fits { shape := true, window := true, dest := true, second := true, fpr := true, crec := true, levels := .four }
  | .copy r => r.fits { shape := true, window := true, second := true, limit := true, fpr := true, crec := true, cvt := true, sr := true, trn := true, levels := .four }
  | .fill r => r.fits { shape := true, window := true, second := true, crec := true, levels := .four }
  | .send r => r.fits { shape := true, window := true, dest := true, second := true, limit := true, fpr := true, crec := true, cvt := true, sr := true, trn := true, mc := true, bscl := true, wq := true, sync := true, levels := .four }
  | .gather r => r.fits { shape := true, window := true, second := true, limit := true, fpr := true, crec := true, cvt := true, sr := true, bscl := true }
  | .scatter r => r.fits { shape := true, window := true, dest := true, second := true, limit := true, fpr := true, crec := true, cvt := true, sr := true, mc := true, bscl := true }
  | .coll r => r.fits { shape := true, window := true, dest := true, second := true, limit := true, fpr := true, crec := true, cvt := true, sr := true, bscl := true, levels := .four }
  | .reds r => r.fits { shape := true, window := true, dest := true, second := true, limit := true, fpr := true, crec := true, cvt := true, sr := true, wq := true, levels := .four }
  | .signal r => r.fits { dest := true, second := true, limit := true } && decide (r.limit.toNat % 8 < 5)
  | .mapset r => r.fits { shape := true, slot := true }
  | .mapswap r => r.fits { shape := true, slot := true }
  | .mapclr r => r.fits { slot := true }
  | .mapready r => r.fits { slot := true }
  | .wellrd r => r.fits { shape := true, limit := true }
  | .mapChangeAtBoundary _ => true
  | .moveRecordComplete _ => true
  | .fifoPush _ _ => true
  | .headerFlitArrives _ _ => true
  | .payloadFlitLands _ => true
  | .readyPush _ _ => true
  | .codeLandingRelease _ => true
  | .syncLanding _ => true
  | .lineMigration _ _ => true
  | .replicationEpochEnd _ => true
  | .readdupCollapse _ => true
  | .collapseRequest _ => true
  | .collapseRetry _ => true
  | .scrub _ _ => true
  | .uncorrectableError _ _ _ => true
  | .tileOutOfService _ => true
  | .quagExpiry _ => true
  | .laneFailureRetrain _ => true
  | .oluicLinkFailure _ => true
  | .devicePortFailure _ => true
  | .deviceDeclaredLost _ => true
  | .dieReset _ => true
  | .dieResetForced _ => true
  | .clockChange _ _ => true
  | .d3hotEntry => true
  | .d0Return => true
  | .powerOnBringUp _ => true
  | .triggerWrite _ _ => true
  | .cmdResume _ => true
  | .cmdEnd _ => true
  | .cmdPreempt _ => true
  | .cstart _ _ => true
  | .evsizeWrite _ => true
  | .evbaseWrite _ => true
  | .ffpush _ _ => true
  | .ctxreg _ => true
  | .sluicewWrite _ _ => true
  | .featenWrite _ _ => true
  | .semWindowRead _ => true
  | .semWindowWrite _ _ => true
  | .semWindowFetchadd _ _ => true
  | .semWindowCas _ _ _ => true
  | .attestationRequest _ => true
  | .attestationReport => true
  | .bar2Write _ _ => true
  | .bar2Read _ _ => true
  | .bar0RegisterWrite _ _ => true
  | .switchGroupArm _ _ => true
  | .switchGroupDisarm _ _ => true
  | .switchBurstArrival _ => true
  | .switchRoundClose _ => true
  | .switchRoundAdvance _ => true
  | .burstAck _ _ _ => true
  | .burstRetransmit _ _ _ => true
  | .deviceBurstReceive _ => true
  | .graphUpload _ _ => true
  | .runStartTrigger _ _ => true
  | .launchNodeFires _ _ _ => true
  | .joinNodeFires _ _ _ => true
  | .signalNodeFires _ _ _ => true
  | .waitNodeFires _ _ _ => true
  | .endNodeFires _ _ _ => true
  | .quorumClose _ _ _ => true
  | .quorumFill _ _ _ => true
  | .forcedKill _ => true
  | .taskReadyQueue _ _ => true
  | .taskClassPromotion _ => true
  | .taskPlacement _ => true
  | .taskStart _ => true
  | .taskEnd _ => true
  | .preload _ => true
  | .budgetOverrun _ => true
  | .preemptRequest _ => true
  | .heavySave _ => true
  | .contextResume _ => true
  | .runStranded _ _ => true
  | .collapseDecline _ _ => true
  | .communicationStepEnd _ => true
  | .crcRetry _ => true
  | .linkRetrainingComplete _ => true
  | .deviceReset _ => true

/-- An instruction that check 1 of R75 lets pass. -/
abbrev Instr.WellFormed (i : Instr) : Prop := i.wf = true

end Sys2Proof
end

