-- ==== Sys2Proof/Decode.lean ====
section
/-! DEFINITION. From the bits of a unit to the instruction, total and rejecting by name (R59 to R76); and the encoder, from the same tables. -/

namespace Sys2Proof

/-- Why a unit is not an instruction: check 1 of R75. The opcode is what TRAPINFO shows (R138). -/
inductive DecodeError where
  /-- unassigned opcode in a slot -/
  | unassigned (op : Nat)
  /-- a reserved field or value -/
  | reserved (op : Nat)
  deriving DecidableEq, Repr

/-! ## Bit fields -/

/-- Bits hi down to lo of w, read unsigned (R8). -/
def fld (w hi lo : Nat) : Nat := w / 2 ^ lo % 2 ^ (hi + 1 - lo)

/-- Bit i of w. -/
def bit (w i : Nat) : Bool := w / 2 ^ i % 2 == 1

/-- A Bool as a number. -/
def nb (x : Bool) : Nat := if x then 1 else 0

/-- `x` when the condition holds: how a reserved field is refused. -/
def need {α : Type} (c : Bool) (x : α) : Option α := if c then some x else none

def fin64 (n : Nat) : Fin 64 := Fin.ofNat 64 n
def fin32 (n : Nat) : Fin 32 := Fin.ofNat 32 n
def fin16 (n : Nat) : Fin 16 := Fin.ofNat 16 n
def fin8 (n : Nat) : Fin 8 := Fin.ofNat 8 n

/-! ## The coded values (R62, R66, R72) -/

def ordOf (n : Nat) : Ord := match n with | 0 => .plain | 1 => .acq | 2 => .rel | _ => .ar
def ordCode (o : Ord) : Nat := match o with | .plain => 0 | .acq => 1 | .rel => 2 | .ar => 3

def scopeOf (n : Nat) : Option Scope :=
  match n with | 0 => some .tile | 1 => some .gang | 2 => some .die | 3 => some .dev | 4 => some .sys | _ => none
def scopeCode (s : Scope) : Nat := match s with | .tile => 0 | .gang => 1 | .die => 2 | .dev => 3 | .sys => 4

def sizeOf? (n : Nat) : Option Size := match n with | 0 => some .b | 1 => some .h | 2 => some .w | 3 => some .d | _ => none
def sizeCode (s : Size) : Nat := match s with | .b => 0 | .h => 1 | .w => 2 | .d => 3

def aopOf (n : Nat) : Option AOp :=
  match n with
  | 0 => some .add | 1 => some .and | 2 => some .or | 3 => some .xor | 4 => some .min
  | 5 => some .max | 6 => some .minu | 7 => some .maxu | 8 => some .swap | 9 => some .cas | _ => none
def aopCode (o : AOp) : Nat :=
  match o with
  | .add => 0 | .and => 1 | .or => 2 | .xor => 3 | .min => 4 | .max => 5 | .minu => 6 | .maxu => 7 | .swap => 8 | .cas => 9

def condOf (n : Nat) : Option Cond :=
  match n with | 0 => some .eq | 1 => some .ne | 2 => some .lt | 3 => some .ltu | 4 => some .le | 5 => some .leu | _ => none
def condCode (c : Cond) : Nat := match c with | .eq => 0 | .ne => 1 | .lt => 2 | .ltu => 3 | .le => 4 | .leu => 5

def vtypeOf (n : Nat) : Option VType := match n with | 0 => some .f32 | 1 => some .bf16 | 2 => some .f16 | _ => none
def vtypeCode (t : VType) : Nat := match t with | .f32 => 0 | .bf16 => 1 | .f16 => 2

def rmodeOf (n : Nat) : Option RMode := match n with | 0 => some .rne | 1 => some .rtz | 2 => some .sr | _ => none
def rmodeCode (r : RMode) : Nat := match r with | .rne => 0 | .rtz => 1 | .sr => 2

/-- The width the type field names in narrow forms (R163). -/
def nwidthOf (n : Nat) : Option NWidth := match n with | 0 => some .n8 | 1 => some .n4 | 2 => some .n6 | _ => none
def nwidthCode (w : NWidth) : Nat := match w with | .n8 => 0 | .n4 => 1 | .n6 => 2

def timelineOf (n : Nat) : Option Timeline := match n with | 0 => some .x | 1 => some .m | 2 => some .c | _ => none
def timelineCode (t : Timeline) : Nat := match t with | .x => 0 | .m => 1 | .c => 2

/-! ## C words (R60 to R64, R70, R71) -/

def guardOf (w : Nat) : Guard := ⟨bit w 55, fin8 (fld w 54 52)⟩

/-- The opcode and the guard of a C word. -/
def headC (op : Nat) (g : Guard) : Nat := op * 2 ^ 56 + nb g.neg * 2 ^ 55 + g.p.val * 2 ^ 52
def atD (n : Nat) : Nat := n * 2 ^ 46
def atA (n : Nat) : Nat := n * 2 ^ 40
def atB (n : Nat) : Nat := n * 2 ^ 34
def atC (n : Nat) : Nat := n * 2 ^ 28

def dOf (w : Nat) : Nat := fld w 51 46
def aOf (w : Nat) : Nat := fld w 45 40
def bOf (w : Nat) : Nat := fld w 39 34
def cOf (w : Nat) : Nat := fld w 33 28

def parseRRR (w : Nat) (k : RRR → Instr) : Option Instr :=
  need (fld w 33 0 == 0) (k ⟨guardOf w, fin64 (dOf w), fin64 (aOf w), fin64 (bOf w)⟩)
def encRRR (op : Nat) (o : RRR) : Nat := headC op o.g + atD o.d + atA o.a + atB o.b

def parseRRRR (w : Nat) (k : RRRR → Instr) : Option Instr :=
  need (fld w 27 0 == 0) (k ⟨guardOf w, fin64 (dOf w), fin64 (aOf w), fin64 (bOf w), fin64 (cOf w)⟩)
def encRRRR (op : Nat) (o : RRRR) : Nat := headC op o.g + atD o.d + atA o.a + atB o.b + atC o.c

def parseSel (w : Nat) (k : SelOp → Instr) : Option Instr :=
  need (fld w 27 0 == 0 && cOf w < 8) (k ⟨guardOf w, fin64 (dOf w), fin64 (aOf w), fin64 (bOf w), fin8 (cOf w)⟩)
def encSel (op : Nat) (o : SelOp) : Nat := headC op o.g + atD o.d + atA o.a + atB o.b + atC o.p

def parseRR (w : Nat) (k : RR → Instr) : Option Instr :=
  need (fld w 39 0 == 0) (k ⟨guardOf w, fin64 (dOf w), fin64 (aOf w)⟩)
def encRR (op : Nat) (o : RR) : Nat := headC op o.g + atD o.d + atA o.a

def parseRRI (w : Nat) (k : RRI → Instr) : Option Instr :=
  need (bOf w == 0) (k ⟨guardOf w, fin64 (dOf w), fin64 (aOf w), BitVec.ofNat 34 (fld w 33 0)⟩)
def encRRI (op : Nat) (o : RRI) : Nat := headC op o.g + atD o.d + atA o.a + o.imm.toNat

def parseShift (w : Nat) (k : ShiftI → Instr) : Option Instr :=
  need (fld w 39 6 == 0) (k ⟨guardOf w, fin64 (dOf w), fin64 (aOf w), fin64 (fld w 5 0)⟩)
def encShift (op : Nat) (o : ShiftI) : Nat := headC op o.g + atD o.d + atA o.a + o.amt

def parseLi (w : Nat) (k : LoadImm → Instr) : Option Instr :=
  need (fld w 45 34 == 0) (k ⟨guardOf w, fin64 (dOf w), BitVec.ofNat 34 (fld w 33 0)⟩)
def encLi (op : Nat) (o : LoadImm) : Nat := headC op o.g + atD o.d + o.imm.toNat

def parseLih (w : Nat) (k : LoadHigh → Instr) : Option Instr :=
  need (fld w 39 32 == 0) (k ⟨guardOf w, fin64 (dOf w), fin64 (aOf w), BitVec.ofNat 32 (fld w 31 0)⟩)
def encLih (op : Nat) (o : LoadHigh) : Nat := headC op o.g + atD o.d + atA o.a + o.imm.toNat

def parseCmpRR (w : Nat) (k : CmpRR → Instr) : Option Instr :=
  need (fld w 33 0 == 0 && dOf w < 8) (k ⟨guardOf w, fin8 (dOf w), fin64 (aOf w), fin64 (bOf w)⟩)
def encCmpRR (op : Nat) (o : CmpRR) : Nat := headC op o.g + atD o.d + atA o.a + atB o.b

def parseCmpRI (w : Nat) (k : CmpRI → Instr) : Option Instr :=
  need (bOf w == 0 && dOf w < 8) (k ⟨guardOf w, fin8 (dOf w), fin64 (aOf w), BitVec.ofNat 34 (fld w 33 0)⟩)
def encCmpRI (op : Nat) (o : CmpRI) : Nat := headC op o.g + atD o.d + atA o.a + o.imm.toNat

def parsePPP (w : Nat) (k : PPP → Instr) : Option Instr :=
  need (fld w 33 0 == 0 && dOf w < 8 && aOf w < 8 && bOf w < 8) (k ⟨guardOf w, fin8 (dOf w), fin8 (aOf w), fin8 (bOf w)⟩)
def encPPP (op : Nat) (o : PPP) : Nat := headC op o.g + atD o.d + atA o.a + atB o.b

def parsePP (w : Nat) (k : PP → Instr) : Option Instr :=
  need (fld w 39 0 == 0 && dOf w < 8 && aOf w < 8) (k ⟨guardOf w, fin8 (dOf w), fin8 (aOf w)⟩)
def encPP (op : Nat) (o : PP) : Nat := headC op o.g + atD o.d + atA o.a

/-- The fields szs, ord, scope and off of format CL (R61). -/
def atCL (szs ord scope off : Nat) : Nat := szs * 2 ^ 30 + ord * 2 ^ 28 + scope * 2 ^ 25 + off

def parseLoad (w : Nat) (k : LoadOp → Instr) : Option Instr :=
  match sizeOf? (fld w 32 30), scopeOf (fld w 27 25) with
  | some z, some s => need (bOf w == 0)
      (k ⟨guardOf w, fin64 (dOf w), fin64 (aOf w), z, bit w 33, ordOf (fld w 29 28), s, BitVec.ofNat 25 (fld w 24 0)⟩)
  | _, _ => none
def encLoad (op : Nat) (o : LoadOp) : Nat :=
  headC op o.g + atD o.d + atA o.a + atCL (nb o.u * 8 + sizeCode o.size) (ordCode o.ord) (scopeCode o.scope) o.off.toNat

def parseStore (w : Nat) (k : StoreOp → Instr) : Option Instr :=
  match sizeOf? (fld w 33 30), scopeOf (fld w 27 25) with
  | some z, some s => need (dOf w == 0)
      (k ⟨guardOf w, fin64 (aOf w), fin64 (bOf w), z, ordOf (fld w 29 28), s, BitVec.ofNat 25 (fld w 24 0)⟩)
  | _, _ => none
def encStore (op : Nat) (o : StoreOp) : Nat :=
  headC op o.g + atA o.a + atB o.b + atCL (sizeCode o.size) (ordCode o.ord) (scopeCode o.scope) o.off.toNat

def parseLoadS (w : Nat) (k : LoadS → Instr) : Option Instr :=
  match sizeOf? (fld w 32 30) with
  | some z => need (bOf w == 0 && fld w 29 25 == 0)
      (k ⟨guardOf w, fin64 (dOf w), fin64 (aOf w), z, bit w 33, BitVec.ofNat 25 (fld w 24 0)⟩)
  | none => none
def encLoadS (op : Nat) (o : LoadS) : Nat :=
  headC op o.g + atD o.d + atA o.a + atCL (nb o.u * 8 + sizeCode o.size) 0 0 o.off.toNat

def parseStoreS (w : Nat) (k : StoreS → Instr) : Option Instr :=
  match sizeOf? (fld w 33 30) with
  | some z => need (dOf w == 0 && fld w 29 25 == 0)
      (k ⟨guardOf w, fin64 (aOf w), fin64 (bOf w), z, BitVec.ofNat 25 (fld w 24 0)⟩)
  | none => none
def encStoreS (op : Nat) (o : StoreS) : Nat :=
  headC op o.g + atA o.a + atB o.b + atCL (sizeCode o.size) 0 0 o.off.toNat

def parsePref (w : Nat) (k : PrefOp → Instr) : Option Instr :=
  need (dOf w == 0 && fld w 39 28 == 0 && fld w 27 26 == 0)
    (k ⟨guardOf w, fin64 (aOf w), bit w 25, BitVec.ofNat 25 (fld w 24 0)⟩)
def encPref (op : Nat) (o : PrefOp) : Nat := headC op o.g + atA o.a + nb o.l2 * 2 ^ 25 + o.off.toNat

def parseAtom (w : Nat) (k : AtomOp → Instr) : Option Instr :=
  match aopOf (fld w 33 30), scopeOf (fld w 27 25) with
  | some op, some s => some
      (k ⟨guardOf w, fin64 (dOf w), fin64 (aOf w), fin64 (bOf w), op, ordOf (fld w 29 28), s, bit w 24, fin64 (fld w 23 18), BitVec.ofNat 18 (fld w 17 0)⟩)
  | _, _ => none
def encAtom (op : Nat) (o : AtomOp) : Nat :=
  headC op o.g + atD o.d + atA o.a + atB o.b + aopCode o.op * 2 ^ 30 + ordCode o.ord * 2 ^ 28 + scopeCode o.scope * 2 ^ 25
    + nb o.dw * 2 ^ 24 + o.c.val * 2 ^ 18 + o.off.toNat

def parseAtomS (w : Nat) (k : AtomS → Instr) : Option Instr :=
  match aopOf (fld w 33 30) with
  | some op => need (fld w 29 25 == 0)
      (k ⟨guardOf w, fin64 (dOf w), fin64 (aOf w), fin64 (bOf w), op, bit w 24, fin64 (fld w 23 18), BitVec.ofNat 18 (fld w 17 0)⟩)
  | none => none
def encAtomS (op : Nat) (o : AtomS) : Nat :=
  headC op o.g + atD o.d + atA o.a + atB o.b + aopCode o.op * 2 ^ 30 + nb o.dw * 2 ^ 24 + o.c.val * 2 ^ 18 + o.off.toNat

def parseBr (w : Nat) (k : BrOp → Instr) : Option Instr :=
  need (dOf w == 0) (k ⟨guardOf w, BitVec.ofNat 46 (fld w 45 0)⟩)
def encBr (op : Nat) (o : BrOp) : Nat := headC op o.g + o.woff.toNat

def parseCall (w : Nat) (k : CallOp → Instr) : Option Instr :=
  some (k ⟨guardOf w, fin64 (dOf w), BitVec.ofNat 46 (fld w 45 0)⟩)
def encCall (op : Nat) (o : CallOp) : Nat := headC op o.g + atD o.link + o.woff.toNat

def parseJmp (w : Nat) (k : JmpOp → Instr) : Option Instr :=
  need (dOf w == 0 && fld w 39 0 == 0) (k ⟨guardOf w, fin64 (aOf w)⟩)
def encJmp (op : Nat) (o : JmpOp) : Nat := headC op o.g + atA o.a

def parseFence (w : Nat) (k : FenceOp → Instr) : Option Instr :=
  match scopeOf (fld w 27 25) with
  | some s => need (fld w 51 30 == 0 && fld w 24 0 == 0) (k ⟨guardOf w, ordOf (fld w 29 28), s⟩)
  | none => none
def encFence (op : Nat) (o : FenceOp) : Nat := headC op o.g + atCL 0 (ordCode o.ord) (scopeCode o.scope) 0

def parseNo (w : Nat) (k : NoOp → Instr) : Option Instr := need (fld w 51 0 == 0) (k ⟨guardOf w⟩)
def encNo (op : Nat) (o : NoOp) : Nat := headC op o.g

def parseGBar (w : Nat) (k : GBarOp → Instr) : Option Instr :=
  need (fld w 51 2 == 0) (k ⟨guardOf w, Fin.ofNat 4 (fld w 1 0)⟩)
def encGBar (op : Nat) (o : GBarOp) : Nat := headC op o.g + o.n

def parseSStep (w : Nat) (k : SStepOp → Instr) : Option Instr :=
  need (fld w 51 32 == 0) (k ⟨guardOf w, BitVec.ofNat 32 (fld w 31 0)⟩)
def encSStep (op : Nat) (o : SStepOp) : Nat := headC op o.g + o.n.toNat

/-- SAFEPT: four words, never guarded (R71). -/
def parseSafept (w w1 w2 w3 : Nat) : Option Instr :=
  need (fld w 55 4 == 0 && fld w3 63 32 == 0)
    (.safept ⟨BitVec.ofNat 4 (fld w 3 0), BitVec.ofNat 64 w1, BitVec.ofNat 32 (fld w2 63 32), BitVec.ofNat 32 (fld w2 31 0), BitVec.ofNat 32 (fld w3 31 0)⟩)
def encSafept (o : SafeMasks) : List Nat :=
  [0x5C * 2 ^ 56 + o.accs.toNat, o.s.toNat, o.v.toNat * 2 ^ 32 + o.regions.toNat, o.slots.toNat]

def parseQArr (w : Nat) (k : QArrOp → Instr) : Option Instr :=
  need (dOf w == 0 && fld w 33 0 == 0) (k ⟨guardOf w, fin64 (aOf w), fin64 (bOf w)⟩)
def encQArr (op : Nat) (o : QArrOp) : Nat := headC op o.g + atA o.a + atB o.b

/-- The engine set of bits 39:36 (R61). -/
def emaskOf (w : Nat) : EMask := ⟨bit w 39, bit w 38, bit w 37⟩
def emaskCode (e : EMask) : Nat := nb e.x * 2 ^ 39 + nb e.m * 2 ^ 38 + nb e.v * 2 ^ 37

def parseFork (w : Nat) (k : ForkOp → Instr) : Option Instr :=
  need (!bit w 36 && fld w 4 0 == 0)
    (k ⟨guardOf w, fin64 (dOf w), fin64 (aOf w), emaskOf w, fin16 (fld w 35 32), Fin.ofNat 2048 (fld w 31 21), Fin.ofNat 256 (fld w 20 13), Fin.ofNat 256 (fld w 12 5)⟩)
def encFork (op : Nat) (o : ForkOp) : Nat :=
  headC op o.g + atD o.d + atA o.a + emaskCode o.e + o.tag.val * 2 ^ 32 + o.ventry.val * 2 ^ 21 + o.mentry.val * 2 ^ 13 + o.xentry.val * 2 ^ 5

def parseForkS (w : Nat) (k : ForkSOp → Instr) : Option Instr :=
  need (!bit w 36 && fld w 3 0 == 0)
    (k ⟨guardOf w, fin64 (dOf w), fin64 (aOf w), emaskOf w, fin16 (fld w 35 32), Fin.ofNat 2048 (fld w 31 21), Fin.ofNat 256 (fld w 20 13), Fin.ofNat 256 (fld w 12 5), bit w 4⟩)
def encForkS (op : Nat) (o : ForkSOp) : Nat :=
  headC op o.g + atD o.d + atA o.a + emaskCode o.e + o.tag.val * 2 ^ 32 + o.ventry.val * 2 ^ 21 + o.mentry.val * 2 ^ 13 + o.xentry.val * 2 ^ 5 + nb o.bank * 2 ^ 4

def parseResolve (w : Nat) (k : ResolveOp → Instr) : Option Instr :=
  need (fld w 51 40 == 0 && !bit w 36 && fld w 31 5 == 0 && fld w 3 0 == 0) (k ⟨guardOf w, emaskOf w, fin16 (fld w 35 32), bit w 4⟩)
def encResolve (op : Nat) (o : ResolveOp) : Nat := headC op o.g + emaskCode o.e + o.tag.val * 2 ^ 32 + nb o.bank * 2 ^ 4

def parseCancel (w : Nat) (k : CancelOp → Instr) : Option Instr :=
  need (fld w 51 40 == 0 && !bit w 36 && fld w 31 0 == 0) (k ⟨guardOf w, emaskOf w, fin16 (fld w 35 32)⟩)
def encCancel (op : Nat) (o : CancelOp) : Nat := headC op o.g + emaskCode o.e + o.tag.val * 2 ^ 32

def parseRdv (w : Nat) (k : RdvOp → Instr) : Option Instr :=
  need (fld w 51 40 == 0 && fld w 36 0 == 0) (k ⟨guardOf w, emaskOf w⟩)
def encRdv (op : Nat) (o : RdvOp) : Nat := headC op o.g + emaskCode o.e

def parseMapWait (w : Nat) (k : MapWaitOp → Instr) : Option Instr :=
  need (fld w 45 5 == 0) (k ⟨guardOf w, fin64 (dOf w), fin32 (fld w 4 0)⟩)
def encMapWait (op : Nat) (o : MapWaitOp) : Nat := headC op o.g + atD o.d + o.slot

def parseWaitTl (w : Nat) (k : WaitTlOp → Instr) : Option Instr :=
  match timelineOf (fld w 33 30), scopeOf (fld w 27 25) with
  | some t, some s => need (dOf w == 0 && bOf w == 0 && fld w 29 28 == 1 && fld w 24 0 == 0) (k ⟨guardOf w, fin64 (aOf w), t, s⟩)
  | _, _ => none
def encWaitTl (op : Nat) (o : WaitTlOp) : Nat := headC op o.g + atA o.a + atCL (timelineCode o.tl) 1 (scopeCode o.scope) 0

/-- SEMINC and SEMWAIT: szs 0b0011 and ord fixed (R127, R128). -/
def parseSem (w od : Nat) (k : SemOp → Instr) : Option Instr :=
  match scopeOf (fld w 27 25) with
  | some s => need (dOf w == 0 && fld w 33 30 == 3 && fld w 29 28 == od) (k ⟨guardOf w, fin64 (aOf w), fin64 (bOf w), s, BitVec.ofNat 25 (fld w 24 0)⟩)
  | none => none
def encSem (op od : Nat) (o : SemOp) : Nat := headC op o.g + atA o.a + atB o.b + atCL 3 od (scopeCode o.scope) o.off.toNat

def parseCode (w : Nat) (k : CodeOp → Instr) : Option Instr :=
  need (fld w 51 16 == 0) (k ⟨guardOf w, BitVec.ofNat 16 (fld w 15 0)⟩)
def encCode (op : Nat) (o : CodeOp) : Nat := headC op o.g + o.code.toNat

/-- GETSYS; REPLST has a row of its own (R320). -/
def parseGetSys (w : Nat) : Option Instr :=
  need (fld w 45 12 == 0)
    (if fld w 11 0 = 0x054 then .getsysReplst ⟨guardOf w, fin64 (dOf w)⟩
     else .getsys ⟨guardOf w, fin64 (dOf w), BitVec.ofNat 12 (fld w 11 0)⟩)
def encGetSys (o : GetSysOp) : Nat := headC 0x72 o.g + atD o.d + o.sysno.toNat

/-- SETSYS; six registers have rows of their own. -/
def parseSetSys (w : Nat) : Option Instr :=
  need (dOf w == 0 && fld w 39 12 == 0)
    (match fld w 11 0 with
     | 0x030 => .setsysSeedv ⟨guardOf w, fin64 (aOf w)⟩
     | 0x031 => .setsysSeedx ⟨guardOf w, fin64 (aOf w)⟩
     | 0x037 => .setsysSeedm ⟨guardOf w, fin64 (aOf w)⟩
     | 0x050 => .setsysQuaglim ⟨guardOf w, fin64 (aOf w)⟩
     | 0x051 => .setsysReplctl ⟨guardOf w, fin64 (aOf w)⟩
     | 0x058 => .setsysPgrace ⟨guardOf w, fin64 (aOf w)⟩
     | n => .setsys ⟨guardOf w, fin64 (aOf w), BitVec.ofNat 12 n⟩)
def encSetSys (o : SetSysOp) : Nat := headC 0x73 o.g + atA o.a + o.sysno.toNat

def parseTlbinv (w : Nat) (k : TlbinvOp → Instr) : Option Instr :=
  need (dOf w == 0 && fld w 39 2 == 0 && fld w 1 0 < 3) (k ⟨guardOf w, fin64 (aOf w), Fin.ofNat 3 (fld w 1 0)⟩)
def encTlbinv (op : Nat) (o : TlbinvOp) : Nat := headC op o.g + atA o.a + o.kind

/-- The C opcode grid of R70; `none` is an unassigned opcode or a reserved field. `w1` to `w3` are SAFEPT's further words. -/
def parseC (op w w1 w2 w3 : Nat) : Option Instr :=
  match op with
  | 0x00 => parseRRR w .add
  | 0x01 => parseRRR w .sub
  | 0x02 => parseRRR w .mul
  | 0x03 => parseRRR w .mulh
  | 0x04 => parseRRR w .mulhu
  | 0x05 => parseRRR w .div
  | 0x06 => parseRRR w .divu
  | 0x07 => parseRRR w .rem
  | 0x08 => parseRRR w .remu
  | 0x09 => parseRRRR w .madd
  | 0x0A => parseSel w .sel
  | 0x0C => parseRRR w .min
  | 0x0D => parseRRR w .minu
  | 0x0E => parseRRR w .max
  | 0x0F => parseRRR w .maxu
  | 0x10 => parseRRR w .and
  | 0x11 => parseRRR w .or
  | 0x12 => parseRRR w .xor
  | 0x13 => parseRRR w .andn
  | 0x14 => parseRRR w .shl
  | 0x15 => parseRRR w .shr
  | 0x16 => parseRRR w .sra
  | 0x17 => parseRRR w .rol
  | 0x18 => parseRR w .clz
  | 0x19 => parseRR w .ctz
  | 0x1A => parseRR w .popc
  | 0x1B => parseRRR w .bext
  | 0x1C => parseRRR w .bins
  | 0x1D => parseRRR w .sext
  | 0x1E => parseRRR w .zext
  | 0x20 => parseRRI w .addi
  | 0x21 => parseRRI w .andi
  | 0x22 => parseRRI w .ori
  | 0x23 => parseRRI w .xori
  | 0x24 => parseShift w .shli
  | 0x25 => parseShift w .shri
  | 0x26 => parseShift w .srai
  | 0x27 => parseLi w .li
  | 0x28 => parseLih w .lih
  | 0x30 => parseCmpRR w .cmpEq
  | 0x31 => parseCmpRR w .cmpNe
  | 0x32 => parseCmpRR w .cmpLt
  | 0x33 => parseCmpRR w .cmpLtu
  | 0x34 => parseCmpRR w .cmpLe
  | 0x35 => parseCmpRR w .cmpLeu
  | 0x38 => parseCmpRI w .cmpiEq
  | 0x39 => parseCmpRI w .cmpiNe
  | 0x3A => parseCmpRI w .cmpiLt
  | 0x3B => parseCmpRI w .cmpiLtu
  | 0x3C => parseCmpRI w .cmpiLe
  | 0x3D => parseCmpRI w .cmpiLeu
  | 0x40 => parsePPP w .pand
  | 0x41 => parsePPP w .por
  | 0x42 => parsePPP w .pxor
  | 0x43 => parsePP w .pnot
  | 0x48 => parseLoad w .ld
  | 0x49 => parseStore w .st
  | 0x4A => parseLoadS w .lds
  | 0x4B => parseStoreS w .sts
  | 0x4C => parsePref w .pref
  | 0x4D => parseAtom w .amo
  | 0x4E => parseAtomS w .amos
  | 0x4F => parseAtomS w .amosCo
  | 0x50 => parseBr w .br
  | 0x51 => parseCall w .call
  | 0x52 => parseJmp w .jmp
  | 0x53 => parseRR w .callr
  | 0x54 => parseJmp w .ret
  | 0x58 => parseFence w .fence
  | 0x59 => parseNo w .phase
  | 0x5A => parseGBar w .gbar
  | 0x5B => parseSStep w .sstep
  | 0x5C => parseSafept w w1 w2 w3
  | 0x5D => parseNo w .killpt
  | 0x5E => parseQArr w .qarrive
  | 0x60 => parseFork w .fork
  | 0x61 => parseForkS w .forks
  | 0x62 => parseResolve w .resolve
  | 0x63 => parseCancel w .cancel
  | 0x64 => parseRdv w .rdv
  | 0x65 => parseNo w .exit
  | 0x66 => parseNo w .exitAbandon
  | 0x67 => parseMapWait w .mapwait
  | 0x68 => parseWaitTl w .waittl
  | 0x69 => parseRRR w .launchq
  | 0x6A => parseSem w 2 .seminc
  | 0x6B => parseSem w 1 .semwait
  | 0x70 => parseCode w .trap
  | 0x71 => parseNo w .eret
  | 0x72 => parseGetSys w
  | 0x73 => parseSetSys w
  | 0x74 => parseTlbinv w .tlbinv
  | 0x75 => parseCode w .brk
  | 0x76 => parseNo w .nop
  | 0x77 => parseNo w .halt
  | 0x78 => parseNo w .wfe
  | _ => none

/-- The assigned opcodes of R70. -/
def assignedC (op : Nat) : Bool :=
  op != 0x0B && op != 0x1F && op < 0x79 && !(0x29 ≤ op && op ≤ 0x2F) && !(0x36 ≤ op && op ≤ 0x37) && !(0x3E ≤ op && op ≤ 0x3F)
    && !(0x44 ≤ op && op ≤ 0x47) && !(0x55 ≤ op && op ≤ 0x57) && op != 0x5F && !(0x6C ≤ op && op ≤ 0x6F)

/-- What a parsed unit is after check 1: the reserved fields and values of `Instr.wf` too. -/
def judge (op : Nat) (p : Option Instr) : Except DecodeError Instr :=
  match p with
  | some i => if i.wf then .ok i else .error (.reserved op)
  | none => .error (.reserved op)

/-- A C word decoded, with the three words after it (SAFEPT reads them). -/
def decodeC (w w1 w2 w3 : Nat) : Except DecodeError Instr :=
  if assignedC (fld w 63 56) then judge (fld w 63 56) (parseC (fld w 63 56) w w1 w2 w3)
  else .error (.unassigned (fld w 63 56))

/-! ## V pairs (R65, R66, R72, R73) -/

/-- A V pair: its two slots. The guard and the tokens stand in both, or in the vector slot. -/
structure Pair where
  k : Instr
  v : Instr
  g : VGuard
  tok : VTok
  deriving DecidableEq, Repr

def vguardOf (w : Nat) : VGuard := ⟨bit w 127, fin8 (fld w 126 124)⟩
def vctlOf (w : Nat) : VCtl := ⟨vguardOf w, ⟨bit w 123, bit w 122, bit w 121, bit w 120⟩⟩

def kdOf (w : Nat) : Nat := fld w 113 110
def kaOf (w : Nat) : Nat := fld w 109 106
def kbOf (w : Nat) : Nat := fld w 105 102
def kimm (w : Nat) : Nat := fld w 101 72

/-- The scalar slot's fields in place (R65). -/
def encK (op d a b imm : Nat) : Nat := op * 2 ^ 114 + d * 2 ^ 110 + a * 2 ^ 106 + b * 2 ^ 102 + imm * 2 ^ 72

def parseKNone (w : Nat) (k : KNone → Instr) : Option Instr := need (fld w 113 72 == 0) (k ⟨vguardOf w⟩)
def encKNone (op : Nat) (_o : KNone) : Nat := encK op 0 0 0 0
def parseKRRR (w : Nat) (k : KRRR → Instr) : Option Instr :=
  need (kimm w == 0) (k ⟨vguardOf w, fin16 (kdOf w), fin16 (kaOf w), fin16 (kbOf w)⟩)
def encKRRR (op : Nat) (o : KRRR) : Nat := encK op o.d o.a o.b 0
def parseKRRI (w : Nat) (k : KRRI → Instr) : Option Instr :=
  need (kbOf w == 0) (k ⟨vguardOf w, fin16 (kdOf w), fin16 (kaOf w), BitVec.ofNat 30 (kimm w)⟩)
def encKRRI (op : Nat) (o : KRRI) : Nat := encK op o.d o.a 0 o.imm.toNat
def parseKImm (w : Nat) (k : KImm → Instr) : Option Instr :=
  need (kaOf w == 0 && kbOf w == 0) (k ⟨vguardOf w, fin16 (kdOf w), BitVec.ofNat 30 (kimm w)⟩)
def encKImm (op : Nat) (o : KImm) : Nat := encK op o.d 0 0 o.imm.toNat
def parseKCmp (w : Nat) (k : KCmpOp → Instr) : Option Instr :=
  match condOf (fld w 74 72) with
  | some c => need (kdOf w < 8 && fld w 101 75 == 0) (k ⟨vguardOf w, fin8 (kdOf w), fin16 (kaOf w), fin16 (kbOf w), c⟩)
  | none => none
def encKCmp (op : Nat) (o : KCmpOp) : Nat := encK op o.d o.a o.b (condCode o.cc)
/-- KLOOP and KLOOP.SET (R158): imm30[29] tells them apart. -/
def parseKLoop (w : Nat) : Option Instr :=
  if bit w 101 then
    need (fld w 113 112 == 0 && kbOf w == 0 && fld w 100 88 == 0)
      (.kloopSet ⟨vguardOf w, Fin.ofNat 4 (fld w 111 110), fin16 (kaOf w), BitVec.ofNat 16 (fld w 87 72)⟩)
  else
    need (fld w 113 112 == 0 && kaOf w == 0 && kbOf w == 0 && fld w 100 84 == 0)
      (.kloop ⟨vguardOf w, Fin.ofNat 4 (fld w 111 110), BitVec.ofNat 12 (fld w 83 72)⟩)
def encKLoop (o : KLoopOp) : Nat := encK 0xB o.n 0 0 o.off.toNat
def encKLoopSet (o : KLoopSetOp) : Nat := encK 0xB o.n o.a 0 (2 ^ 29 + o.imm.toNat)
def parseKBr (w : Nat) (k : KBrOp → Instr) : Option Instr :=
  need (fld w 113 102 == 0 && fld w 101 84 == 0) (k ⟨vguardOf w, BitVec.ofNat 12 (fld w 83 72)⟩)
def encKBr (op : Nat) (o : KBrOp) : Nat := encK op 0 0 0 o.off.toNat
def parseKFrom (w : Nat) (k : KFromOp → Instr) : Option Instr :=
  need (kaOf w == 0 && kbOf w == 0 && fld w 101 83 == 0) (k ⟨vguardOf w, fin16 (kdOf w), fin32 (fld w 76 72), fin64 (fld w 82 77)⟩)
def encKFrom (op : Nat) (o : KFromOp) : Nat := encK op o.d 0 0 (o.lane.val * 2 ^ 5 + o.v.val)
def parseKSeed (w : Nat) (k : KSeedOp → Instr) : Option Instr :=
  need (kdOf w == 0 && kbOf w == 0 && kimm w == 0) (k ⟨vguardOf w, fin16 (kaOf w)⟩)
def encKSeed (op : Nat) (o : KSeedOp) : Nat := encK op 0 o.a 0 0

/-- The scalar-slot grid of R72. -/
def parseK (op w : Nat) : Option Instr :=
  match op with
  | 0x0 => parseKNone w .knop
  | 0x1 => parseKRRR w .kadd
  | 0x2 => parseKRRR w .ksub
  | 0x3 => parseKRRI w .kaddi
  | 0x4 => parseKImm w .kli
  | 0x5 => parseKRRR w .kand
  | 0x6 => parseKRRR w .kor
  | 0x7 => parseKRRR w .kxor
  | 0x8 => parseKRRR w .kshl
  | 0x9 => parseKRRR w .kshr
  | 0xA => parseKCmp w .kcmp
  | 0xB => parseKLoop w
  | 0xC => parseKBr w .kbr
  | 0xD => parseKNone w .kend
  | 0xE => parseKFrom w .kfrom
  | 0xF => parseKSeed w .kseed
  | _ => none

def vdOf (w : Nat) : Nat := fld w 63 59
def vaOf (w : Nat) : Nat := fld w 58 54
def vbOf (w : Nat) : Nat := fld w 53 49
def vcOf (w : Nat) : Nat := fld w 48 44
def vmaskOf (w : Nat) : Fin 8 := fin8 (fld w 43 41)
def vtyOf (w : Nat) : Nat := fld w 40 39
def vrmOf (w : Nat) : Nat := fld w 38 37
def vmodOf (w : Nat) : Nat := fld w 36 36
def vimm (w : Nat) : Nat := fld w 35 0

/-- The vector slot's fields in place, with the guard and the token bits (R65). -/
def encV (c : VCtl) (op d a b cc mask ty rm vmod imm : Nat) : Nat :=
  nb c.g.neg * 2 ^ 127 + c.g.flag.val * 2 ^ 124 + nb c.tok.popM * 2 ^ 123 + nb c.tok.popX * 2 ^ 122
    + nb c.tok.pushM * 2 ^ 121 + nb c.tok.pushX * 2 ^ 120 + op * 2 ^ 64 + d * 2 ^ 59 + a * 2 ^ 54 + b * 2 ^ 49 + cc * 2 ^ 44
    + mask * 2 ^ 41 + ty * 2 ^ 39 + rm * 2 ^ 37 + vmod * 2 ^ 36 + imm

def parseVNone (w : Nat) (k : VNone → Instr) : Option Instr := need (fld w 63 0 == 0) (k ⟨vctlOf w⟩)
def encVNone (op : Nat) (o : VNone) : Nat := encV o.c op 0 0 0 0 0 0 0 0 0
/-- VLD has its register in vd, VST in va (R161). -/
def parseVMem (w : Nat) (ld : Bool) (k : VMem → Instr) : Option Instr :=
  need ((if ld then vaOf w else vdOf w) == 0 && vbOf w == 0 && vcOf w < 16 && fld w 40 36 == 0)
    (k ⟨vctlOf w, fin32 (if ld then vdOf w else vaOf w), fin16 (vcOf w), vmaskOf w, BitVec.ofNat 36 (vimm w)⟩)
def encVMem (op : Nat) (ld : Bool) (o : VMem) : Nat :=
  encV o.c op (if ld then o.r else 0) (if ld then 0 else o.r) 0 o.k o.mask 0 0 0 o.off.toNat
/-- VLDB (vmod 0, register in vd) and narrow VST (vmod 1, register in va) (R163). -/
def parseVNar (w md : Nat) (k : VNarrow → Instr) : Option Instr :=
  match nwidthOf (vtyOf w) with
  | some n => need ((if md = 0 then vaOf w else vdOf w) == 0 && vbOf w == 0 && vcOf w < 16 && vrmOf w == 0 && vmodOf w == md)
      (k ⟨vctlOf w, fin32 (if md = 0 then vdOf w else vaOf w), fin16 (vcOf w), vmaskOf w, n, BitVec.ofNat 36 (vimm w)⟩)
  | none => none
def encVNar (op md : Nat) (o : VNarrow) : Nat :=
  encV o.c op (if md = 0 then o.r else 0) (if md = 0 then 0 else o.r) 0 o.k o.mask (nwidthCode o.w) 0 md o.off.toNat
def parseVIdx (w : Nat) (ld : Bool) (k : VIndexed → Instr) : Option Instr :=
  need ((if ld then vaOf w else vdOf w) == 0 && vcOf w < 16 && fld w 40 36 == 0)
    (k ⟨vctlOf w, fin32 (if ld then vdOf w else vaOf w), fin32 (vbOf w), fin16 (vcOf w), vmaskOf w, BitVec.ofNat 36 (vimm w)⟩)
def encVIdx (op : Nat) (ld : Bool) (o : VIndexed) : Nat :=
  encV o.c op (if ld then o.r else 0) (if ld then 0 else o.r) o.idx o.k o.mask 0 0 0 o.off.toNat
def parseVRRR (w : Nat) (k : VRRR → Instr) : Option Instr :=
  need (vcOf w == 0 && fld w 40 0 == 0) (k ⟨vctlOf w, fin32 (vdOf w), fin32 (vaOf w), fin32 (vbOf w), vmaskOf w⟩)
def encVRRR (op : Nat) (o : VRRR) : Nat := encV o.c op o.d o.a o.b 0 o.mask 0 0 0 0
/-- Two registers; vmod tells .I32 forms apart (R174, R175). -/
def parseVRR (w md : Nat) (k : VRR → Instr) : Option Instr :=
  need (fld w 53 44 == 0 && fld w 40 37 == 0 && vmodOf w == md && vimm w == 0) (k ⟨vctlOf w, fin32 (vdOf w), fin32 (vaOf w), vmaskOf w⟩)
def encVRR (op md : Nat) (o : VRR) : Nat := encV o.c op o.d o.a 0 0 o.mask 0 0 md 0
def parseVLane (w : Nat) (k : VLaneImm → Instr) : Option Instr :=
  need (fld w 53 44 == 0 && fld w 40 36 == 0 && fld w 35 6 == 0)
    (k ⟨vctlOf w, fin32 (vdOf w), fin32 (vaOf w), fin64 (fld w 5 0), vmaskOf w⟩)
def encVLane (op : Nat) (o : VLaneImm) : Nat := encV o.c op o.d o.a 0 0 o.mask 0 0 0 o.n
def parseVBcastK (w : Nat) : Option Instr :=
  need (vaOf w == 0 && vbOf w == 0 && vcOf w < 16 && fld w 40 37 == 0 && vimm w == 0)
    (.vbcastK ⟨vctlOf w, fin32 (vdOf w), fin16 (vcOf w), vmaskOf w⟩)
def encVBcastK (o : VBcastK) : Nat := encV o.c 0x0A o.d 0 0 o.k o.mask 0 0 1 0
def parseMRRR (w : Nat) (k : MaskRRR → Instr) : Option Instr :=
  need (vdOf w < 8 && vaOf w < 8 && vbOf w < 8 && fld w 48 0 == 0) (k ⟨vctlOf w, fin8 (vdOf w), fin8 (vaOf w), fin8 (vbOf w)⟩)
def encMRRR (op : Nat) (o : MaskRRR) : Nat := encV o.c op o.d o.a o.b 0 0 0 0 0 0
def parseMRR (w : Nat) (k : MaskRR → Instr) : Option Instr :=
  need (vdOf w < 8 && vaOf w < 8 && fld w 53 0 == 0) (k ⟨vctlOf w, fin8 (vdOf w), fin8 (vaOf w)⟩)
def encMRR (op : Nat) (o : MaskRR) : Nat := encV o.c op o.d o.a 0 0 0 0 0 0 0
/-- Operand b or the broadcast immediate of R156. -/
def vsrcOf (w : Nat) : Option VSrc :=
  if vmodOf w = 0 then need (vimm w == 0) (.reg (fin32 (vbOf w)))
  else need (vbOf w == 0 && fld w 35 32 == 0) (.imm (BitVec.ofNat 32 (fld w 31 0)))
def vsrcB (b : VSrc) : Nat := match b with | .reg v => v | .imm _ => 0
def vsrcMod (b : VSrc) : Nat := match b with | .reg _ => 0 | .imm _ => 1
def vsrcImm (b : VSrc) : Nat := match b with | .reg _ => 0 | .imm i => i.toNat
def parseVF2 (w : Nat) (k : VFloat2 → Instr) : Option Instr :=
  match vtypeOf (vtyOf w), vsrcOf w with
  | some t, some b => need (vcOf w == 0 && vrmOf w == 0) (k ⟨vctlOf w, t, fin32 (vdOf w), fin32 (vaOf w), b, vmaskOf w⟩)
  | _, _ => none
def encVF2 (op : Nat) (o : VFloat2) : Nat := encV o.c op o.d o.a (vsrcB o.b) 0 o.mask (vtypeCode o.t) 0 (vsrcMod o.b) (vsrcImm o.b)
def parseVF3 (w : Nat) (k : VFloat3 → Instr) : Option Instr :=
  match vtypeOf (vtyOf w), vsrcOf w with
  | some t, some b => need (vrmOf w == 0) (k ⟨vctlOf w, t, fin32 (vdOf w), fin32 (vaOf w), b, fin32 (vcOf w), vmaskOf w⟩)
  | _, _ => none
def encVF3 (op : Nat) (o : VFloat3) : Nat := encV o.c op o.d o.a (vsrcB o.b) o.cc o.mask (vtypeCode o.t) 0 (vsrcMod o.b) (vsrcImm o.b)
def parseVF1 (w : Nat) (k : VFloat1 → Instr) : Option Instr :=
  match vtypeOf (vtyOf w) with
  | some t => need (fld w 53 44 == 0 && fld w 38 0 == 0) (k ⟨vctlOf w, t, fin32 (vdOf w), fin32 (vaOf w), vmaskOf w⟩)
  | none => none
def encVF1 (op : Nat) (o : VFloat1) : Nat := encV o.c op o.d o.a 0 0 o.mask (vtypeCode o.t) 0 0 0
def parseVCmp (w : Nat) (k : VCmpOp → Instr) : Option Instr :=
  match vtypeOf (vtyOf w), condOf (fld w 2 0) with
  | some t, some c => need (vdOf w < 8 && vcOf w == 0 && vrmOf w == 0 && fld w 35 3 == 0)
      (k ⟨vctlOf w, t, bit w 36, c, fin8 (vdOf w), fin32 (vaOf w), fin32 (vbOf w), vmaskOf w⟩)
  | _, _ => none
def encVCmp (op : Nat) (o : VCmpOp) : Nat := encV o.c op o.d o.a o.b 0 o.mask (vtypeCode o.t) 0 (nb o.hi) (condCode o.cond)
def parseVI2 (w : Nat) (k : VInt2 → Instr) : Option Instr :=
  match vsrcOf w with
  | some b => need (vcOf w == 0 && vtyOf w == 0 && vrmOf w == 0) (k ⟨vctlOf w, fin32 (vdOf w), fin32 (vaOf w), b, vmaskOf w⟩)
  | none => none
def encVI2 (op : Nat) (o : VInt2) : Nat := encV o.c op o.d o.a (vsrcB o.b) 0 o.mask 0 0 (vsrcMod o.b) (vsrcImm o.b)
def parseVICmp (w : Nat) (k : VICmpOp → Instr) : Option Instr :=
  match condOf (fld w 2 0) with
  | some c => need (vdOf w < 8 && vcOf w == 0 && fld w 40 36 == 0 && fld w 35 3 == 0)
      (k ⟨vctlOf w, c, fin8 (vdOf w), fin32 (vaOf w), fin32 (vbOf w), vmaskOf w⟩)
  | none => none
def encVICmp (op : Nat) (o : VICmpOp) : Nat := encV o.c op o.d o.a o.b 0 o.mask 0 0 0 (condCode o.cond)
def parseVCvt (w : Nat) (k : VCvtOp → Instr) : Option Instr :=
  match rmodeOf (vrmOf w) with
  | some r => need (fld w 53 44 == 0 && vtyOf w == 0 && vmodOf w == 0 && fld w 35 16 == 0)
      (k ⟨vctlOf w, r, fin32 (vdOf w), fin32 (vaOf w), BitVec.ofNat 8 (fld w 7 0), BitVec.ofNat 8 (fld w 15 8), vmaskOf w⟩)
  | none => none
def encVCvt (op : Nat) (o : VCvtOp) : Nat := encV o.c op o.d o.a 0 0 o.mask 0 (rmodeCode o.r) 0 (o.dst.toNat * 2 ^ 8 + o.src.toNat)
def parseVPack (w : Nat) (k : VPackOp → Instr) : Option Instr :=
  match vtypeOf (vtyOf w), rmodeOf (vrmOf w) with
  | some t, some r => need (vcOf w == 0 && vmodOf w == 0 && vimm w == 0)
      (k ⟨vctlOf w, t, r, fin32 (vdOf w), fin32 (vaOf w), fin32 (vbOf w), vmaskOf w⟩)
  | _, _ => none
def encVPack (op : Nat) (o : VPackOp) : Nat := encV o.c op o.d o.a o.b 0 o.mask (vtypeCode o.t) (rmodeCode o.r) 0 0
def parseVUnpk (w : Nat) (k : VUnpkOp → Instr) : Option Instr :=
  match vtypeOf (vtyOf w) with
  | some t => need (fld w 53 44 == 0 && vrmOf w == 0 && vimm w == 0) (k ⟨vctlOf w, t, bit w 36, fin32 (vdOf w), fin32 (vaOf w), vmaskOf w⟩)
  | none => none
def encVUnpk (op : Nat) (o : VUnpkOp) : Nat := encV o.c op o.d o.a 0 0 o.mask (vtypeCode o.t) 0 (nb o.hi) 0
def parseVCrt (w : Nat) (k : VCrtOp → Instr) : Option Instr :=
  match rmodeOf (vrmOf w) with
  | some r => need (fld w 53 44 == 0 && vtyOf w == 0 && fld w 35 32 == 0)
      (k ⟨vctlOf w, r, bit w 36, fin32 (vdOf w), fin32 (vaOf w), BitVec.ofNat 32 (fld w 31 0), vmaskOf w⟩)
  | none => none
def encVCrt (op : Nat) (o : VCrtOp) : Nat := encV o.c op o.d o.a 0 0 o.mask 0 (rmodeCode o.r) (nb o.i32) o.scale.toNat

/-- The vector-slot grid of R73. -/
def parseV (op w : Nat) : Option Instr :=
  match op with
  | 0x00 => parseVNone w .vnop
  | 0x01 => parseVMem w true .vld
  | 0x02 => if fld w 36 36 = 0 then parseVMem w false .vst else parseVNar w 1 .vstN
  | 0x03 => parseVIdx w true .vldx
  | 0x04 => parseVIdx w false .vstx
  | 0x05 => parseVNar w 0 .vldb
  | 0x08 => parseVRRR w .vperm
  | 0x09 => parseVLane w .vrot
  | 0x0A => if fld w 36 36 = 0 then parseVLane w .vbcast else parseVBcastK w
  | 0x0C => parseMRRR w .mand
  | 0x0D => parseMRRR w .mor
  | 0x0E => parseMRRR w .mxor
  | 0x0F => parseMRR w .mnot
  | 0x10 => parseVF2 w .vadd
  | 0x11 => parseVF2 w .vsub
  | 0x12 => parseVF2 w .vmul
  | 0x13 => parseVF3 w .vfma
  | 0x14 => parseVF2 w .vmin
  | 0x15 => parseVF2 w .vmax
  | 0x16 => parseVF1 w .vabs
  | 0x17 => parseVF1 w .vneg
  | 0x18 => parseVF1 w .vrcp
  | 0x19 => parseVF1 w .vrsq
  | 0x1A => parseVF1 w .vexp2
  | 0x1B => parseVF1 w .vlog2
  | 0x1C => parseVCmp w .vcmp
  | 0x1D => parseVRRR w .vsel
  | 0x20 => parseVI2 w .viadd
  | 0x21 => parseVI2 w .visub
  | 0x22 => parseVI2 w .vimul
  | 0x23 => parseVI2 w .vand
  | 0x24 => parseVI2 w .vor
  | 0x25 => parseVI2 w .vxor
  | 0x26 => parseVI2 w .vshl
  | 0x27 => parseVI2 w .vshr
  | 0x28 => parseVI2 w .vsra
  | 0x29 => parseVI2 w .vimin
  | 0x2A => parseVI2 w .vimax
  | 0x2B => parseVI2 w .viminu
  | 0x2C => parseVI2 w .vimaxu
  | 0x2D => parseVICmp w .vicmp
  | 0x30 => parseVCvt w .vcvt
  | 0x31 => parseVPack w .vpack
  | 0x32 => parseVUnpk w .vunpk
  | 0x33 => parseVRR w 0 .vrns
  | 0x34 => parseVCrt w .vcrt
  | 0x38 => if fld w 36 36 = 0 then parseVF1 w .vred else parseVRR w 1 .vredI32
  | 0x39 => if fld w 36 36 = 0 then parseVRR w 0 .vscan else parseVRR w 1 .vscanI32
  | _ => none

/-- The assigned vector-slot values of R73. -/
def assignedV (op : Nat) : Bool :=
  op < 0x3A && op != 0x06 && op != 0x07 && op != 0x0B && op != 0x1E && op != 0x1F && op != 0x2E && op != 0x2F && !(0x35 ≤ op && op ≤ 0x37)

/-- A pair word decoded. Where both slots fail check 1 of R75 the scalar slot's fault is taken, but an unassigned opcode of either slot
comes before a reserved field, so that a pair whose scalar slot has a reserved field and whose vector slot is unassigned names the
vector opcode (DESIGN CHOICE, log entry 23: the spec names no slot). -/
def decodeV (w : Nat) : Except DecodeError Pair :=
  if fld w 119 114 < 16 then
    if assignedV (fld w 71 64) then
      match judge (fld w 119 114) (parseK (fld w 119 114) w), judge (fld w 71 64) (parseV (fld w 71 64) w) with
      | .ok k, .ok v => .ok ⟨k, v, vguardOf w, (vctlOf w).tok⟩
      | .error e, _ => .error e
      | _, .error e => .error e
    else .error (.unassigned (fld w 71 64))
  else .error (.unassigned (fld w 119 114))

/-! ## M and X records (R67, R68, R74) -/

/-- Four 20-bit strides, level 0 at the top. -/
def quad20 (w top : Nat) : Quad (BitVec 20) :=
  ⟨BitVec.ofNat 20 (fld w top (top - 19)), BitVec.ofNat 20 (fld w (top - 20) (top - 39)),
   BitVec.ofNat 20 (fld w (top - 40) (top - 59)), BitVec.ofNat 20 (fld w (top - 60) (top - 79))⟩
def encQuad20 (q : Quad (BitVec 20)) (low : Nat) : Nat :=
  q.l0.toNat * 2 ^ (low + 60) + q.l1.toNat * 2 ^ (low + 40) + q.l2.toNat * 2 ^ (low + 20) + q.l3.toNat * 2 ^ low

/-- Four 16-bit values, level 0 at the top. -/
def quad16 (w top : Nat) : Quad (BitVec 16) :=
  ⟨BitVec.ofNat 16 (fld w top (top - 15)), BitVec.ofNat 16 (fld w (top - 16) (top - 31)),
   BitVec.ofNat 16 (fld w (top - 32) (top - 47)), BitVec.ofNat 16 (fld w (top - 48) (top - 63))⟩
def encQuad16 (q : Quad (BitVec 16)) (low : Nat) : Nat :=
  q.l0.toNat * 2 ^ (low + 48) + q.l1.toNat * 2 ^ (low + 32) + q.l2.toNat * 2 ^ (low + 16) + q.l3.toNat * 2 ^ low

def parseMRec (w : Nat) (k : MRec → Instr) : Option Instr :=
  need (fld w 474 464 == 0 && fld w 27 0 == 0)
    (k { popX := bit w 503, popV := bit w 502, pushX := bit w 501, pushV := bit w 500,
         fmta := BitVec.ofNat 8 (fld w 499 492), fmtb := BitVec.ofNat 8 (fld w 491 484), acc := Fin.ofNat 4 (fld w 483 482),
         fl := ⟨bit w 481, bit w 480, bit w 479, bit w 478, bit w 477, bit w 476, bit w 475⟩,
         basea := BitVec.ofNat 20 (fld w 463 444), baseb := BitVec.ofNat 20 (fld w 443 424), basec := BitVec.ofNat 20 (fld w 423 404),
         scalea := BitVec.ofNat 20 (fld w 403 384), scaleb := BitVec.ofNat 20 (fld w 383 364),
         trip := quad16 w 363, stra := quad20 w 299, strb := quad20 w 219, strc := quad20 w 139,
         rows := BitVec.ofNat 16 (fld w 59 44), kpass := BitVec.ofNat 8 (fld w 43 36), cols := BitVec.ofNat 8 (fld w 35 28) })
def encMRec (op : Nat) (r : MRec) : Nat :=
  op * 2 ^ 504 + nb r.popX * 2 ^ 503 + nb r.popV * 2 ^ 502 + nb r.pushX * 2 ^ 501 + nb r.pushV * 2 ^ 500
    + r.fmta.toNat * 2 ^ 492 + r.fmtb.toNat * 2 ^ 484 + r.acc.val * 2 ^ 482
    + nb r.fl.t * 2 ^ 481 + nb r.fl.swap * 2 ^ 480 + nb r.fl.zero * 2 ^ 479 + nb r.fl.bs * 2 ^ 478 + nb r.fl.sr * 2 ^ 477
    + nb r.fl.p0 * 2 ^ 476 + nb r.fl.p1 * 2 ^ 475
    + r.basea.toNat * 2 ^ 444 + r.baseb.toNat * 2 ^ 424 + r.basec.toNat * 2 ^ 404 + r.scalea.toNat * 2 ^ 384 + r.scaleb.toNat * 2 ^ 364
    + encQuad16 r.trip 300 + encQuad20 r.stra 220 + encQuad20 r.strb 140 + encQuad20 r.strc 60
    + r.rows.toNat * 2 ^ 44 + r.kpass.toNat * 2 ^ 36 + r.cols.toNat * 2 ^ 28

/-- The M grid of R74. -/
def parseM (op w : Nat) : Option Instr :=
  match op with
  | 0x00 => parseMRec w .mnop
  | 0x01 => parseMRec w .mend
  | 0x02 => parseMRec w .mrep
  | 0x08 => parseMRec w .ldstat
  | 0x09 => parseMRec w .mswap
  | 0x10 => parseMRec w .mma
  | 0x11 => parseMRec w .mmabs
  | 0x12 => parseMRec w .mdist
  | 0x13 => parseMRec w .mtopk
  | 0x14 => parseMRec w .mbotk
  | 0x18 => parseMRec w .accz
  | 0x19 => parseMRec w .accld
  | 0x1A => parseMRec w .accrd
  | 0x1B => parseMRec w .accadd
  | _ => none

def assignedM (op : Nat) : Bool :=
  op ≤ 2 || op == 8 || op == 9 || (0x10 ≤ op && op ≤ 0x14) || (0x18 ≤ op && op ≤ 0x1B)

def decodeM (w : Nat) : Except DecodeError Instr :=
  if assignedM (fld w 511 504) then judge (fld w 511 504) (parseM (fld w 511 504) w) else .error (.unassigned (fld w 511 504))

def xstepOf (n : Nat) : XStep := ⟨fin16 (n / 2 ^ 12), BitVec.ofNat 12 (n % 2 ^ 12)⟩
def xstepCode (s : XStep) : Nat := s.dim.val * 2 ^ 12 + s.step.toNat

def parseXRec (w : Nat) (k : XRec → Instr) : Option Instr :=
  need (fld w 484 480 == 0 && fld w 370 368 == 0 && fld w 79 0 == 0)
    (k { popM := bit w 503, popV := bit w 502, pushM := bit w 501, pushV := bit w 500, treg := fin64 (fld w 499 494),
         fl := ⟨bit w 493, bit w 492, bit w 491, bit w 490, bit w 489, bit w 488, bit w 487, bit w 486, bit w 485⟩,
         shape := BitVec.ofNat 64 (fld w 479 416), window := BitVec.ofNat 20 (fld w 415 396), crec := BitVec.ofNat 20 (fld w 395 376),
         slot := fin32 (fld w 375 371), dest := BitVec.ofNat 64 (fld w 367 304), trip := quad16 w 303,
         step := ⟨xstepOf (fld w 239 224), xstepOf (fld w 223 208), xstepOf (fld w 207 192), xstepOf (fld w 191 176)⟩,
         second := BitVec.ofNat 64 (fld w 175 112), limit := BitVec.ofNat 32 (fld w 111 80) })
def encXRec (op : Nat) (r : XRec) : Nat :=
  op * 2 ^ 504 + nb r.popM * 2 ^ 503 + nb r.popV * 2 ^ 502 + nb r.pushM * 2 ^ 501 + nb r.pushV * 2 ^ 500 + r.treg.val * 2 ^ 494
    + nb r.fl.fpr * 2 ^ 493 + nb r.fl.crec * 2 ^ 492 + nb r.fl.cvt * 2 ^ 491 + nb r.fl.sr * 2 ^ 490 + nb r.fl.trn * 2 ^ 489
    + nb r.fl.mc * 2 ^ 488 + nb r.fl.bscl * 2 ^ 487 + nb r.fl.wq * 2 ^ 486 + nb r.fl.sync * 2 ^ 485
    + r.shape.toNat * 2 ^ 416 + r.window.toNat * 2 ^ 396 + r.crec.toNat * 2 ^ 376 + r.slot.val * 2 ^ 371 + r.dest.toNat * 2 ^ 304
    + encQuad16 r.trip 240 + xstepCode r.step.l0 * 2 ^ 224 + xstepCode r.step.l1 * 2 ^ 208 + xstepCode r.step.l2 * 2 ^ 192
    + xstepCode r.step.l3 * 2 ^ 176 + r.second.toNat * 2 ^ 112 + r.limit.toNat * 2 ^ 80

/-- The X grid of R74. -/
def parseX (op w : Nat) : Option Instr :=
  match op with
  | 0x00 => parseXRec w .xnop
  | 0x01 => parseXRec w .xend
  | 0x02 => parseXRec w .xrep
  | 0x08 => parseXRec w .load
  | 0x09 => parseXRec w .store
  | 0x0A => parseXRec w .copy
  | 0x0B => parseXRec w .fill
  | 0x10 => parseXRec w .send
  | 0x11 => parseXRec w .gather
  | 0x12 => parseXRec w .scatter
  | 0x13 => parseXRec w .coll
  | 0x14 => parseXRec w .reds
  | 0x15 => parseXRec w .signal
  | 0x18 => parseXRec w .mapset
  | 0x19 => parseXRec w .mapswap
  | 0x1A => parseXRec w .mapclr
  | 0x1B => parseXRec w .mapready
  | 0x1C => parseXRec w .wellrd
  | _ => none

def assignedX (op : Nat) : Bool :=
  op ≤ 2 || (8 ≤ op && op ≤ 0xB) || (0x10 ≤ op && op ≤ 0x15) || (0x18 ≤ op && op ≤ 0x1C)

def decodeX (w : Nat) : Except DecodeError Instr :=
  if assignedX (fld w 511 504) then judge (fld w 511 504) (parseX (fld w 511 504) w) else .error (.unassigned (fld w 511 504))

/-! ## The encoder -/

/-- What a row encodes to: C words, a slot of a pair, a record, or nothing (an event). -/
inductive Enc where
  | c (ws : List Nat)
  | k (w : Nat)
  | v (w : Nat)
  | m (w : Nat)
  | x (w : Nat)
  | event
  deriving DecidableEq, Repr

/-- The bits of an instruction, from the same tables as the decoder. -/
def encode (i : Instr) : Enc :=
  match i with
  | .add o => .c [encRRR 0x00 o]
  | .sub o => .c [encRRR 0x01 o]
  | .mul o => .c [encRRR 0x02 o]
  | .mulh o => .c [encRRR 0x03 o]
  | .mulhu o => .c [encRRR 0x04 o]
  | .div o => .c [encRRR 0x05 o]
  | .divu o => .c [encRRR 0x06 o]
  | .rem o => .c [encRRR 0x07 o]
  | .remu o => .c [encRRR 0x08 o]
  | .madd o => .c [encRRRR 0x09 o]
  | .sel o => .c [encSel 0x0A o]
  | .min o => .c [encRRR 0x0C o]
  | .minu o => .c [encRRR 0x0D o]
  | .max o => .c [encRRR 0x0E o]
  | .maxu o => .c [encRRR 0x0F o]
  | .and o => .c [encRRR 0x10 o]
  | .or o => .c [encRRR 0x11 o]
  | .xor o => .c [encRRR 0x12 o]
  | .andn o => .c [encRRR 0x13 o]
  | .shl o => .c [encRRR 0x14 o]
  | .shr o => .c [encRRR 0x15 o]
  | .sra o => .c [encRRR 0x16 o]
  | .rol o => .c [encRRR 0x17 o]
  | .clz o => .c [encRR 0x18 o]
  | .ctz o => .c [encRR 0x19 o]
  | .popc o => .c [encRR 0x1A o]
  | .bext o => .c [encRRR 0x1B o]
  | .bins o => .c [encRRR 0x1C o]
  | .sext o => .c [encRRR 0x1D o]
  | .zext o => .c [encRRR 0x1E o]
  | .addi o => .c [encRRI 0x20 o]
  | .andi o => .c [encRRI 0x21 o]
  | .ori o => .c [encRRI 0x22 o]
  | .xori o => .c [encRRI 0x23 o]
  | .shli o => .c [encShift 0x24 o]
  | .shri o => .c [encShift 0x25 o]
  | .srai o => .c [encShift 0x26 o]
  | .li o => .c [encLi 0x27 o]
  | .lih o => .c [encLih 0x28 o]
  | .cmpEq o => .c [encCmpRR 0x30 o]
  | .cmpNe o => .c [encCmpRR 0x31 o]
  | .cmpLt o => .c [encCmpRR 0x32 o]
  | .cmpLtu o => .c [encCmpRR 0x33 o]
  | .cmpLe o => .c [encCmpRR 0x34 o]
  | .cmpLeu o => .c [encCmpRR 0x35 o]
  | .cmpiEq o => .c [encCmpRI 0x38 o]
  | .cmpiNe o => .c [encCmpRI 0x39 o]
  | .cmpiLt o => .c [encCmpRI 0x3A o]
  | .cmpiLtu o => .c [encCmpRI 0x3B o]
  | .cmpiLe o => .c [encCmpRI 0x3C o]
  | .cmpiLeu o => .c [encCmpRI 0x3D o]
  | .pand o => .c [encPPP 0x40 o]
  | .por o => .c [encPPP 0x41 o]
  | .pxor o => .c [encPPP 0x42 o]
  | .pnot o => .c [encPP 0x43 o]
  | .ld o => .c [encLoad 0x48 o]
  | .st o => .c [encStore 0x49 o]
  | .lds o => .c [encLoadS 0x4A o]
  | .sts o => .c [encStoreS 0x4B o]
  | .pref o => .c [encPref 0x4C o]
  | .amo o => .c [encAtom 0x4D o]
  | .amos o => .c [encAtomS 0x4E o]
  | .amosCo o => .c [encAtomS 0x4F o]
  | .br o => .c [encBr 0x50 o]
  | .call o => .c [encCall 0x51 o]
  | .jmp o => .c [encJmp 0x52 o]
  | .callr o => .c [encRR 0x53 o]
  | .ret o => .c [encJmp 0x54 o]
  | .fence o => .c [encFence 0x58 o]
  | .phase o => .c [encNo 0x59 o]
  | .gbar o => .c [encGBar 0x5A o]
  | .sstep o => .c [encSStep 0x5B o]
  | .safept o => .c (encSafept o)
  | .killpt o => .c [encNo 0x5D o]
  | .qarrive o => .c [encQArr 0x5E o]
  | .fork o => .c [encFork 0x60 o]
  | .forks o => .c [encForkS 0x61 o]
  | .resolve o => .c [encResolve 0x62 o]
  | .cancel o => .c [encCancel 0x63 o]
  | .rdv o => .c [encRdv 0x64 o]
  | .exit o => .c [encNo 0x65 o]
  | .exitAbandon o => .c [encNo 0x66 o]
  | .mapwait o => .c [encMapWait 0x67 o]
  | .waittl o => .c [encWaitTl 0x68 o]
  | .launchq o => .c [encRRR 0x69 o]
  | .seminc o => .c [encSem 0x6A 2 o]
  | .semwait o => .c [encSem 0x6B 1 o]
  | .trap o => .c [encCode 0x70 o]
  | .brk o => .c [encCode 0x75 o]
  | .eret o => .c [encNo 0x71 o]
  | .getsys o => .c [encGetSys o]
  | .setsys o => .c [encSetSys o]
  | .setsysSeedv o => .c [encSetSys ⟨o.g, o.a, 0x030#12⟩]
  | .setsysSeedx o => .c [encSetSys ⟨o.g, o.a, 0x031#12⟩]
  | .setsysSeedm o => .c [encSetSys ⟨o.g, o.a, 0x037#12⟩]
  | .setsysReplctl o => .c [encSetSys ⟨o.g, o.a, 0x051#12⟩]
  | .setsysQuaglim o => .c [encSetSys ⟨o.g, o.a, 0x050#12⟩]
  | .setsysPgrace o => .c [encSetSys ⟨o.g, o.a, 0x058#12⟩]
  | .getsysReplst o => .c [encGetSys ⟨o.g, o.d, 0x054#12⟩]
  | .tlbinv o => .c [encTlbinv 0x74 o]
  | .nop o => .c [encNo 0x76 o]
  | .wfe o => .c [encNo 0x78 o]
  | .halt o => .c [encNo 0x77 o]
  | .memoryResponse _ _ => .event
  | .amosCoResponse _ _ => .event
  | .mapwaitReady _ _ => .event
  | .rdvComplete _ => .event
  | .waittlComplete _ => .event
  | .semwaitWake _ => .event
  | .gbarRelease _ _ => .event
  | .phasePerformed _ => .event
  | .qarriveAnswer _ => .event
  | .forkQueueEntryFree _ => .event
  | .asyncTrapTaken _ => .event
  | .trapToReeveCore _ => .event
  | .runStart _ _ => .event
  | .knop o => .k (encKNone 0x0 o)
  | .kadd o => .k (encKRRR 0x1 o)
  | .ksub o => .k (encKRRR 0x2 o)
  | .kaddi o => .k (encKRRI 0x3 o)
  | .kli o => .k (encKImm 0x4 o)
  | .kand o => .k (encKRRR 0x5 o)
  | .kor o => .k (encKRRR 0x6 o)
  | .kxor o => .k (encKRRR 0x7 o)
  | .kshl o => .k (encKRRR 0x8 o)
  | .kshr o => .k (encKRRR 0x9 o)
  | .kcmp o => .k (encKCmp 0xA o)
  | .kloop o => .k (encKLoop o)
  | .kloopSet o => .k (encKLoopSet o)
  | .kbr o => .k (encKBr 0xC o)
  | .kend o => .k (encKNone 0xD o)
  | .kfrom o => .k (encKFrom 0xE o)
  | .kseed o => .k (encKSeed 0xF o)
  | .vnop o => .v (encVNone 0x00 o)
  | .vld o => .v (encVMem 0x01 true o)
  | .vst o => .v (encVMem 0x02 false o)
  | .vstN o => .v (encVNar 0x02 1 o)
  | .vldx o => .v (encVIdx 0x03 true o)
  | .vstx o => .v (encVIdx 0x04 false o)
  | .vldb o => .v (encVNar 0x05 0 o)
  | .vperm o => .v (encVRRR 0x08 o)
  | .vrot o => .v (encVLane 0x09 o)
  | .vbcast o => .v (encVLane 0x0A o)
  | .vbcastK o => .v (encVBcastK o)
  | .mand o => .v (encMRRR 0x0C o)
  | .mor o => .v (encMRRR 0x0D o)
  | .mxor o => .v (encMRRR 0x0E o)
  | .mnot o => .v (encMRR 0x0F o)
  | .vadd o => .v (encVF2 0x10 o)
  | .vsub o => .v (encVF2 0x11 o)
  | .vmul o => .v (encVF2 0x12 o)
  | .vfma o => .v (encVF3 0x13 o)
  | .vmin o => .v (encVF2 0x14 o)
  | .vmax o => .v (encVF2 0x15 o)
  | .vabs o => .v (encVF1 0x16 o)
  | .vneg o => .v (encVF1 0x17 o)
  | .vrcp o => .v (encVF1 0x18 o)
  | .vrsq o => .v (encVF1 0x19 o)
  | .vexp2 o => .v (encVF1 0x1A o)
  | .vlog2 o => .v (encVF1 0x1B o)
  | .vcmp o => .v (encVCmp 0x1C o)
  | .vsel o => .v (encVRRR 0x1D o)
  | .viadd o => .v (encVI2 0x20 o)
  | .visub o => .v (encVI2 0x21 o)
  | .vimul o => .v (encVI2 0x22 o)
  | .vand o => .v (encVI2 0x23 o)
  | .vor o => .v (encVI2 0x24 o)
  | .vxor o => .v (encVI2 0x25 o)
  | .vshl o => .v (encVI2 0x26 o)
  | .vshr o => .v (encVI2 0x27 o)
  | .vsra o => .v (encVI2 0x28 o)
  | .vimin o => .v (encVI2 0x29 o)
  | .vimax o => .v (encVI2 0x2A o)
  | .viminu o => .v (encVI2 0x2B o)
  | .vimaxu o => .v (encVI2 0x2C o)
  | .vicmp o => .v (encVICmp 0x2D o)
  | .vcvt o => .v (encVCvt 0x30 o)
  | .vpack o => .v (encVPack 0x31 o)
  | .vunpk o => .v (encVUnpk 0x32 o)
  | .vrns o => .v (encVRR 0x33 0 o)
  | .vcrt o => .v (encVCrt 0x34 o)
  | .vred o => .v (encVF1 0x38 o)
  | .vredI32 o => .v (encVRR 0x38 1 o)
  | .vscan o => .v (encVRR 0x39 0 o)
  | .vscanI32 o => .v (encVRR 0x39 1 o)
  | .vectorWriteback _ => .event
  | .mnop r => .m (encMRec 0x00 r)
  | .mend r => .m (encMRec 0x01 r)
  | .mrep r => .m (encMRec 0x02 r)
  | .ldstat r => .m (encMRec 0x08 r)
  | .mswap r => .m (encMRec 0x09 r)
  | .mma r => .m (encMRec 0x10 r)
  | .mmabs r => .m (encMRec 0x11 r)
  | .mdist r => .m (encMRec 0x12 r)
  | .mtopk r => .m (encMRec 0x13 r)
  | .mbotk r => .m (encMRec 0x14 r)
  | .accz r => .m (encMRec 0x18 r)
  | .accld r => .m (encMRec 0x19 r)
  | .accadd r => .m (encMRec 0x1B r)
  | .accrd r => .m (encMRec 0x1A r)
  | .matrixRecordComplete _ _ => .event
  | .xnop r => .x (encXRec 0x00 r)
  | .xend r => .x (encXRec 0x01 r)
  | .xrep r => .x (encXRec 0x02 r)
  | .load r => .x (encXRec 0x08 r)
  | .store r => .x (encXRec 0x09 r)
  | .copy r => .x (encXRec 0x0A r)
  | .fill r => .x (encXRec 0x0B r)
  | .send r => .x (encXRec 0x10 r)
  | .gather r => .x (encXRec 0x11 r)
  | .scatter r => .x (encXRec 0x12 r)
  | .coll r => .x (encXRec 0x13 r)
  | .reds r => .x (encXRec 0x14 r)
  | .signal r => .x (encXRec 0x15 r)
  | .mapset r => .x (encXRec 0x18 r)
  | .mapswap r => .x (encXRec 0x19 r)
  | .mapclr r => .x (encXRec 0x1A r)
  | .mapready r => .x (encXRec 0x1B r)
  | .wellrd r => .x (encXRec 0x1C r)
  | .mapChangeAtBoundary _ => .event
  | .moveRecordComplete _ => .event
  | .fifoPush _ _ => .event
  | .headerFlitArrives _ _ => .event
  | .payloadFlitLands _ => .event
  | .readyPush _ _ => .event
  | .codeLandingRelease _ => .event
  | .syncLanding _ => .event
  | .lineMigration _ _ => .event
  | .replicationEpochEnd _ => .event
  | .readdupCollapse _ => .event
  | .collapseRequest _ => .event
  | .collapseRetry _ => .event
  | .scrub _ _ => .event
  | .uncorrectableError _ _ _ => .event
  | .tileOutOfService _ => .event
  | .quagExpiry _ => .event
  | .laneFailureRetrain _ => .event
  | .oluicLinkFailure _ => .event
  | .devicePortFailure _ => .event
  | .deviceDeclaredLost _ => .event
  | .dieReset _ => .event
  | .dieResetForced _ => .event
  | .clockChange _ _ => .event
  | .d3hotEntry => .event
  | .d0Return => .event
  | .powerOnBringUp _ => .event
  | .triggerWrite _ _ => .event
  | .cmdResume _ => .event
  | .cmdEnd _ => .event
  | .cmdPreempt _ => .event
  | .cstart _ _ => .event
  | .evsizeWrite _ => .event
  | .evbaseWrite _ => .event
  | .ffpush _ _ => .event
  | .ctxreg _ => .event
  | .sluicewWrite _ _ => .event
  | .featenWrite _ _ => .event
  | .semWindowRead _ => .event
  | .semWindowWrite _ _ => .event
  | .semWindowFetchadd _ _ => .event
  | .semWindowCas _ _ _ => .event
  | .attestationRequest _ => .event
  | .attestationReport => .event
  | .bar2Write _ _ => .event
  | .bar2Read _ _ => .event
  | .bar0RegisterWrite _ _ => .event
  | .switchGroupArm _ _ => .event
  | .switchGroupDisarm _ _ => .event
  | .switchBurstArrival _ => .event
  | .switchRoundClose _ => .event
  | .switchRoundAdvance _ => .event
  | .burstAck _ _ _ => .event
  | .burstRetransmit _ _ _ => .event
  | .deviceBurstReceive _ => .event
  | .graphUpload _ _ => .event
  | .runStartTrigger _ _ => .event
  | .launchNodeFires _ _ _ => .event
  | .joinNodeFires _ _ _ => .event
  | .signalNodeFires _ _ _ => .event
  | .waitNodeFires _ _ _ => .event
  | .endNodeFires _ _ _ => .event
  | .quorumClose _ _ _ => .event
  | .quorumFill _ _ _ => .event
  | .forcedKill _ => .event
  | .taskReadyQueue _ _ => .event
  | .taskClassPromotion _ => .event
  | .taskPlacement _ => .event
  | .taskStart _ => .event
  | .taskEnd _ => .event
  | .preload _ => .event
  | .budgetOverrun _ => .event
  | .preemptRequest _ => .event
  | .heavySave _ => .event
  | .contextResume _ => .event
  | .runStranded _ _ => .event
  | .collapseDecline _ _ => .event
  | .communicationStepEnd _ => .event
  | .crcRetry _ => .event
  | .linkRetrainingComplete _ => .event
  | .deviceReset _ => .event

/-- A pair word from its slots' bits; the guard and token bits stand in the vector slot's. -/
def encodePair (k v : Nat) : Nat := k + v

/-- The guard a scalar slot's instruction holds: the one guard of its pair (R65). -/
def kguard (i : Instr) : Option VGuard :=
  match i with
  | .knop o => some o.g | .kadd o => some o.g | .ksub o => some o.g | .kaddi o => some o.g | .kli o => some o.g
  | .kand o => some o.g | .kor o => some o.g | .kxor o => some o.g | .kshl o => some o.g | .kshr o => some o.g
  | .kcmp o => some o.g | .kloop o => some o.g | .kloopSet o => some o.g | .kbr o => some o.g | .kend o => some o.g
  | .kfrom o => some o.g | .kseed o => some o.g
  | _ => none

/-! ## The host's question about one word -/

def okOf {α : Type} (e : Except DecodeError α) : Option α := match e with | .ok x => some x | .error _ => none

/-- Of a pair, the slot that is not empty: the scalar one unless it is KNOP (log entry 6). -/
def Pair.main (p : Pair) : Instr := match p.k with | .knop _ => p.v | i => i

/-- The instruction the decoder reads from a unit whose bits are w: a C word, SAFEPT's four words, a pair, or a record
(an M record where it decodes as one, else an X record: the two share opcode values, log entry 6). -/
def decodeTableWord (nbits w : Nat) : Option Instr :=
  if nbits ≤ 64 then okOf (decodeC (fld w 63 0) 0 0 0)
  else if nbits ≤ 128 then (okOf (decodeV w)).map Pair.main
  else if nbits ≤ 256 then okOf (decodeC (fld w 63 0) (fld w 127 64) (fld w 191 128) (fld w 255 192))
  else match okOf (decodeM w) with
    | some i => some i
    | none => okOf (decodeX w)

end Sys2Proof
end

