-- ==== Sys2Proof/Config.lean ====
section
/-! DEFINITION. What the spec leaves open and the model leaves free: constants with no body, which no proof can evaluate. -/

namespace Sys2Proof.Config

/-- A value the spec leaves open, drawn with the counter `State.free` (log entry 5). -/
opaque freeValue : Nat → BitVec 64

/-- The SHA3-512 digest of R396 and R397: named by the spec, its computation not given (log entry 16). -/
opaque sha3_512 : List Byte → List Byte

/-- The ML-DSA-87 signature of the root of trust over a digest (R397); its key never leaves the device (log entry 16). -/
opaque identitySign : List Byte → List Byte

/-- The identity public key, 2,592 bytes (R397); its bytes are the device's own (log entry 16). -/
opaque identityKey : List Byte

/-- Whether ML-DSA-87 verifies a signature of a digest under a key: key, digest, signature (R396; log entry 16). -/
opaque mldsaVerify : List Byte → List Byte → List Byte → Bool

/-- The bytes the retry buffers of the UALink ports hold (R368): the spec gives no number (log entry 38). -/
opaque retryBytes : Nat

end Sys2Proof.Config
end

