-- ==== Sys2Proof/Machine/State.lean ====
section
/-! DEFINITION. The state of the part, as plain data: everything the spec gives the machine, and the model's own agenda. -/

namespace Sys2Proof.Machine

/-- A finite map with natural keys, kept in rising key order. -/
abbrev SMap (α : Type) := List (Nat × α)

/-- Bytes by address, in one canonical form: rising addresses, no zero byte listed (log entry 3). -/
abbrev Mem := List Host.Cell

/-! ## The control core (R89 to R92, R118 to R146) -/

/-- What a PHASE is part of: the word goes on in its own way once the publication has performed (R131). -/
inductive PhaseFor where
  | phase | exit | qarrive | store
  deriving DecidableEq, Repr

/-- What the control core waits at; the word stands at `pc` (R118 to R146, R400). -/
inductive Wait where
  | none
  /-- a source register whose value has not arrived (R90), or a pending token register (R121) -/
  | reg (r : Nat)
  /-- earlier loads that must write before a precise trap (R92) -/
  | loads
  | rdv (e : EMask)
  | waittl (t : Timeline) (n : Nat) (scope : Scope)
  | mapwait (slot : Nat)
  | semwait (va : Nat) (ga : Nat) (n : Nat) (scope : Scope)
  /-- FORK waits for a free entry (R114) -/
  | fork
  | gbar (n : Nat)
  /-- a publication has begun and has not performed (R131) -/
  | phase (f : PhaseFor)
  /-- QARRIVE or EXIT waits for the scheduler's answer: the join's die and node, the weight -/
  | qask (die node weight : Nat) (exit : Bool)
  /-- EXIT or EXIT.ABANDON waits for engines and responses (R119, R120) -/
  | exit (abandon : Bool)
  /-- an access waits for a READDUP collapse of this VA (R377) -/
  | collapse (va : Nat) (declined : Bool)
  /-- the collapse is over and the word is to be made again: not yet a word boundary (R377) -/
  | retry
  /-- the implicit PHASE of a store has performed and the store is made next: not yet a word boundary (R102, R377) -/
  | published
  /-- the word waits for earlier AMOS.COs that have not performed: an access of the own scratchpad for those that go there, a release
  for every one (R101, R103); not where it is being made again, or has published: it then stays as it stands (R377) -/
  | ownAtomic
  /-- a LAUNCHQ waits while a link of its path retrains, an AMOS.CO to another device for room for its copy (R368, R388) -/
  | sends
  | sstep
  | wfe
  /-- at a gang safe point with a pre-emption requested: the live masks (R134) -/
  | safept (m : SafeMasks)
  /-- EXIT holds its PHASE until every tile of the gang is at EXIT (R344) -/
  | hold
  deriving DecidableEq, Repr

/-- Whether the core issues (R119, R137, R146, R273, R337). -/
inductive Run where
  /-- the tile holds no task -/
  | idle
  | running
  /-- stopped by a trap that went to the reeve core; true once the reeve core has handled it under policy FORWARD -/
  | reeve (forwarded : Bool)
  | halted
  /-- killed, or ended by the reeve core: the engines finish their records in progress (R342, R354) -/
  | ending
  | exited
  deriving DecidableEq, Repr

/-- An asynchronous trap that has fallen due (R137, R400). -/
structure Pending where
  cause : Nat
  info : Word
  src : Word
  deriving DecidableEq, Repr

/-- A load-miss or AMO response on its way (R90, R393). -/
structure Resp where
  dst : Nat
  value : Word
  /-- the incarnation the request carried -/
  inc : Nat
  /-- what serves it, and the VA: a die 0 to 3, host memory 5, a peer 8 + device; 6 once a forced reset has abandoned it (R390, R392) -/
  home : Nat
  va : Nat
  /-- the word that asked (R138) -/
  pc : Nat
  /-- its flit is poisoned (R383) -/
  bad : Bool
  deriving DecidableEq, Repr

/-- An AMOS.CO without its response, or with one on its way (R110). -/
structure CoResp where
  id : Nat
  dst : Nat
  dw : Bool
  /-- the owner's device, for an owner on another device -/
  dev : Option Nat
  /-- the die the answer comes from: the owner's, or die 4 for an owner on another device -/
  die : Nat
  /-- the answer on its way: an old value, or none -/
  ans : Option (Option Word)
  deriving DecidableEq, Repr

/-- A cached translation (R308): context, first VA, bytes, the leaf entry's word. -/
structure TlbEntry where
  ctx : Nat
  va : Nat
  size : Nat
  entry : Nat
  deriving DecidableEq, Repr

structure Core where
  /-- s1 to s63 that are not zero (R89) -/
  s : SMap Word
  /-- p1 to p7; bit 0 is not read (R89) -/
  p : BitVec 8
  pc : Nat
  run : Run
  wait : Wait
  /-- pending token registers (R121) -/
  tok : BitVec 64
  resp : List Resp
  /-- responses still on their way to requests of an earlier incarnation of the die (R393) -/
  late : List Resp
  co : List CoResp
  /-- what serves the lines of the publication that the core waits for, as a response names it (R131, R388) -/
  pubAt : List Nat
  /-- the next AMOS.CO's number: never used twice by an agent -/
  coNext : Nat
  /-- MAPWAIT tokens not yet written nor withdrawn: register and slot (R125) -/
  mapTok : List (Nat × Nat)
  async : List Pending
  trapCause : Byte
  trapPc : Word
  trapInfo : Word
  trapSrc : Word
  trapVecEn : Bool
  trapVec : BitVec 13
  trapIn : Bool
  /-- a landing trap was raised since the last ERET (R224) -/
  landTrap : Bool
  amiss : Word
  specwr : Word
  replva : Word
  /-- the event latch of WFE (R145) -/
  latch : Bool
  /-- the word before was a GBAR (R133, R134) -/
  afterGbar : Bool
  /-- L1: clean lines by line number (ga / 128): class and the bytes, a number of 1024 bits (R286) -/
  clean : SMap (Nat × Nat)
  /-- L1: dirty bytes of PRIV pages (R286) -/
  dirty : SMap Byte
  /-- unpublished bytes of PHASE pages (R102) -/
  unpub : SMap Byte
  /-- unpublished bytes of the move record in progress, over those: the next phase's (R131) -/
  recUnpub : SMap Byte
  /-- poisoned 32-byte granules of the tile's own bytes (R384) -/
  ownPoison : List Nat
  ctlb : List TlbEntry
  deriving DecidableEq, Repr

/-! ## Run queues and engines (R21, R114, R115) -/

inductive Bank where
  | none | a | b
  deriving DecidableEq, Repr

/-- A queue entry, and a run that has started. -/
structure RunEntry where
  entry : Nat
  p0 : Word
  p1 : Word
  tag : Nat
  bank : Bank
  deriving DecidableEq, Repr

/-- A run in progress: `stop` holds once RESOLVE, EXIT or EXIT.ABANDON has cancelled it (R116). -/
structure RunState where
  e : RunEntry
  pc : Nat
  stop : Bool
  deriving DecidableEq, Repr

/-- Tokens to push: one into each FIFO named (R69). -/
structure Push where
  xm : Bool
  mx : Bool
  xv : Bool
  vx : Bool
  mv : Bool
  vm : Bool
  deriving DecidableEq, Repr

/-- The six FIFOs (R20). -/
structure Fifos where
  xm : Nat
  mx : Nat
  xv : Nat
  vx : Nat
  mv : Nat
  vm : Nat
  deriving DecidableEq, Repr

/-- What a vector slot leaves in flight (R150): its destination's writes, its flags and its pushes, due at a slot. -/
structure Flight where
  due : Nat
  /-- v words: register × 64 + lane, value -/
  v : List (Nat × Lane)
  /-- a mask register: its number, lanes written, values -/
  m : Option (Nat × Word × Word)
  flags : BitVec 6
  push : Push
  /-- index of its pair (R379) -/
  unit : Nat
  deriving DecidableEq, Repr

structure Vec where
  queue : List RunEntry
  run : Option RunState
  /-- v0 to v31: register × 64 + lane (R147) -/
  v : SMap Lane
  /-- m1 to m7 (R147) -/
  m : SMap Word
  /-- k1 to k15 (R147) -/
  k : SMap Lane
  /-- g1 to g7 (R147) -/
  g : BitVec 8
  /-- lc0 to lc3 (R147) -/
  lc : SMap Lane
  flags : BitVec 6
  /-- SEEDV (R54) -/
  seed : BitVec 32
  /-- vector slots counted (R149) -/
  slot : Nat
  flight : List Flight
  /-- the flight buffer: entries with the slots they had left (R178) -/
  buffer : List Flight
  /-- pushes waiting for room (R69), and the index of their pair (R379) -/
  push : Option Push
  unit : Nat
  /-- KEND has issued, or the run is stopped: results drain (R160) -/
  draining : Bool
  /-- stopped by a precise vector trap (R177) -/
  trapped : Bool
  /-- the trap of a speculative run, held (R269) -/
  held : Option Pending
  /-- poisoned granules of the v registers: register × 32 + lane / 2 (R384) -/
  poison : List Nat
  deriving DecidableEq, Repr

/-- One weight plane (R180): codes W[k][j] at k × 64 + j, its format and K extent, scales sw[b][j] at b × 64 + j. -/
structure Plane where
  w : SMap Lane
  fmt : Nat
  ext : Nat
  sw : SMap Byte
  /-- columns loaded from poisoned bytes (R384) -/
  bad : List Nat
  deriving DecidableEq, Repr

/-- A matrix record accepted and not completed (R187). -/
structure MatDone where
  n : Nat
  flags : BitVec 6
  push : Push
  /-- MEND: the run ends with it -/
  last : Bool
  /-- it reads or writes the shadow plane, or has SWAP set: no LDSTAT overlaps it (R187) -/
  shadow : Bool
  deriving DecidableEq, Repr

/-- A multiplying record in progress: its number, whether it is MDIST, the first pass not yet made, and the bases it began with,
MREP's outer indices in them (R180, R195, R204). -/
structure MatGoing where
  n : Nat
  r : MRec
  dist : Bool
  /-- step indices i0 to i3, row, pass -/
  step : Quad Nat
  row : Nat
  pass : Nat
  /-- basea, basec, scalea as primed, and the outer offset of basea -/
  a : Nat
  c : Nat
  sa : Nat
  outer : Int
  deriving DecidableEq, Repr

structure Mat where
  queue : List RunEntry
  run : Option RunState
  active : Plane
  shadow : Plane
  /-- acc0 to acc3: acc × 8192 + row × 64 + column (R180) -/
  acc : SMap Lane
  accPoison : List Nat
  /-- outer trip counts set by MREP, the outer indices reached, and the MREP record (R201) -/
  ml0 : Nat
  ml1 : Nat
  o0 : Nat
  o1 : Nat
  rep : Option MRec
  flags : BitVec 6
  /-- SEEDM (R54) -/
  seed : BitVec 32
  /-- tlm and MACC (R123) -/
  tl : Word
  accepted : Word
  /-- numbers completed out of order above tl (R123) -/
  ahead : List Nat
  busy : List MatDone
  /-- the resume coordinate: where the multiplying record in progress goes on (R180, R204) -/
  going : Option MatGoing
  push : Option Push
  /-- the record at `pc` has made its pops (R75) -/
  popped : Bool
  /-- index of the record accepted last (R379) -/
  unit : Nat
  /-- parked by a record fault (R186) -/
  parked : Bool
  /-- stopped where it stands by a budget overrun (R341) -/
  paused : Bool
  held : Option Pending
  deriving DecidableEq, Repr

/-- What a move record in progress still waits for before it completes (R226, R238, R243, R248). -/
inductive MovWait where
  | nothing
  /-- flits of the record still to land in the tile's own Reedbed -/
  | landing
  /-- its map change at a flit boundary -/
  | boundary
  | mapready (slot : Nat)
  /-- its last flit still to be handed over (R243) -/
  | port
  /-- it goes on from the resume coordinate: after a fault, at a communication step, when a copy has room (R256, R243, R368) -/
  | resume
  /-- a READDUP collapse of this VA (R377); true once it has been declined -/
  | collapse (va : Nat) (declined : Bool)
  deriving DecidableEq, Repr

/-- A burst on its way (R11, R14, R205): sender, receiver, class and what travels in the sideband. -/
structure Transit where
  src : Nat
  dst : Nat
  /-- 0 compute, 1 collective, 2 host -/
  cls : Nat
  ctx : Nat
  inc : Nat
  b : Burst
  /-- the cycle the header can arrive at the earliest (R13, R404) -/
  due : Nat
  /-- an AMOS.CO: the issuer's number for the response -/
  co : Option Nat
  /-- a burst of another device: its number in its flow, which its copies share (R369); 0 within the device -/
  num : Nat
  deriving DecidableEq, Repr

/-- A shape record as fetched (R232); `scale` is its scale-array pointer. -/
structure Shape where
  tensor : Nat
  fmt : Nat
  ndim : Nat
  zfill : Bool
  base : Nat
  scale : Nat
  ext : List Nat
  stride : List Int
  deriving DecidableEq, Repr

/-- What a move record has fetched: shape, window origin and extents, COPY's destination shape (R234). -/
structure XFetch where
  sh : Shape
  org : List Nat
  ext : List Nat
  dst : Option Shape
  /-- a record fetched was poisoned: so is every output (R384) -/
  bad : Bool
  deriving DecidableEq, Repr

/-- An element read: bits, its block's scale, poison, outside the extents, the page lacks K, its VA. -/
structure XElem where
  x : Nat
  scale : Nat
  bad : Bool
  out : Bool
  noK : Bool
  va : Word
  deriving DecidableEq, Repr

/-- A move record in progress (R252). -/
structure MovDone where
  n : Nat
  /-- eight times the token count: elements may be narrower than a byte -/
  bits : Nat
  flags : BitVec 6
  treg : Nat
  push : Push
  /-- where the completion record goes, with its last five groups (R254) -/
  crec : Option (Nat × List Word)
  /-- what completion still waits for -/
  wait : MovWait
  /-- elements it has written to global memory: SPECWR counts them if its run is cancelled (R116) -/
  writes : Nat
  last : Bool
  deriving DecidableEq, Repr

structure Mov where
  queue : List RunEntry
  run : Option RunState
  xl0 : Nat
  xl1 : Nat
  o0 : Nat
  o1 : Nat
  rep : Option XRec
  flags : BitVec 6
  seed : BitVec 32
  /-- the generator's state that the elements of the step under way draw from (R54, R55) -/
  step : BitVec 32
  tl : Word
  accepted : Word
  busy : Option MovDone
  push : Option Push
  popped : Bool
  /-- index of the record accepted last (R379) -/
  unit : Nat
  /-- parked by a fault: its cause and its token register (R256) -/
  parked : Option (Nat × Nat)
  /-- stopped where it stands by a budget overrun (R341) -/
  paused : Bool
  /-- the first element the record in progress has not done (R227, R256) -/
  resume : Nat
  /-- what the record in progress, or the first repetition, has fetched (R234) -/
  fetch : Option XFetch
  /-- the source elements a permuted COPY over its own bytes has read first, once it has read them all, from the resume coordinate on
  (R241) -/
  pre : Option (List XElem)
  held : Option Pending
  xtlb : List TlbEntry
  /-- the first cycle the engine's mesh port is free (R237) -/
  portFree : Nat
  /-- pieces that completed records of the run have written to global memory (R116) -/
  runWrites : Nat
  /-- a peer without a route whose answer the engine waits for: none comes before the peer is declared lost (R364, R390) -/
  asked : Option Nat
  deriving DecidableEq, Repr

/-! ## The Reedbed (R19, R208 to R226) -/

/-- One dimension of a map (R208). -/
structure MapDim where
  lo : Nat
  hi : Nat
  logb : Nat
  s : Nat
  S : Nat
  deriving DecidableEq, Repr

/-- A map record's fields (R208). -/
structure MapRec where
  tensor : Nat
  fmt : Nat
  mode : Nat
  excl : Bool
  sync : Bool
  quorum : Bool
  cunit : Bool
  rtgt : Nat
  policy : Nat
  base : Nat
  sbase : Nat
  anchor : Int
  expect : Nat
  swz : Bool
  sdim : Nat
  sshift : Nat
  dims : List MapDim
  deriving DecidableEq, Repr

/-- A slot of the Reedbed (R19, R219, R220). -/
structure Slot where
  map : Option MapRec
  shadow : Option MapRec
  count : Nat
  ready : Bool
  /-- the count when ready rose (R122, R248) -/
  readyCount : Nat
  ovf : Bool
  /-- the ready push waits for room -/
  push : Bool
  /-- expect has been reached on the present cycle: ready rises, and the push is made, on the next (R220) -/
  rising : Bool
  deriving DecidableEq, Repr

/-- A change that waits for a flit boundary (R225). -/
inductive MapChange where
  | set (slot : Nat) (m : MapRec)
  | swap (slot : Nat)
  | clear (slot : Nat)
  deriving DecidableEq, Repr

/-- The burst the landing port holds, the next payload flit and the cycle it may be written (R213, R220). -/
structure Port where
  t : Transit
  flit : Nat
  /-- the cycle that flit arrives (R13, R222) -/
  at_ : Nat
  due : Nat
  /-- the first cycle the next burst's header can arrive (R13, R14) -/
  upto : Nat
  /-- the flit waits for a busy engine (R218) -/
  held : Bool
  /-- the burst's number among those whose header the port has taken (R219, R353): the model's own -/
  no : Nat
  deriving DecidableEq, Repr

/-- What the present cycle has set or counted: a SETSYS on it ORs or adds that into what it writes (R223). -/
structure Fresh where
  well : Bool
  lost : Nat
  /-- slots whose overflow flag it has set -/
  ovf : List Nat
  deriving DecidableEq, Repr

def Fresh.none : Fresh := ⟨false, 0, []⟩

structure Reed where
  slots : SMap Slot
  /-- 1 DISCARD, 2 WELL, 3 FAULT (R221) -/
  policy : Nat
  /-- the stray well, oldest first, records of 256 bytes as numbers (R222); bit 2048 says that the payload is poisoned (R384) -/
  well : List Nat
  wellOvf : Bool
  lost : Nat
  sslate : BitVec 32
  port : Option Port
  /-- the burst behind it, whose header has arrived while the port still writes (R13, R220) -/
  portNext : Option Port
  /-- the first cycle the port may write again: it takes one flit a cycle (R19) -/
  taken : Nat
  /-- headers the port has taken (R219, R353): the model's own -/
  heads : Nat
  /-- bursts under way, by number, and the slots that have counted their weight (R219) -/
  counted : List (Nat × Nat)
  /-- set or counted on the present cycle (R223) -/
  fresh : Fresh
  change : Option MapChange
  deriving DecidableEq, Repr

/-! ## A tile -/

/-- The instruction memories (R15): C, V, M, X, banks A and B; `act` says which is active. -/
structure Banks where
  cA : Mem
  cB : Mem
  vA : Mem
  vB : Mem
  mA : Mem
  mB : Mem
  xA : Mem
  xB : Mem
  /-- bank B is active, for C, V, M, X -/
  actC : Bool
  actV : Bool
  actM : Bool
  actX : Bool
  /-- a CODE landing wrote the active bank during the task (R340) -/
  wroteC : Bool
  wroteV : Bool
  wroteM : Bool
  wroteX : Bool
  deriving DecidableEq, Repr

/-- What the scheduler has preloaded on the tile (R339): for which task, and which standby banks and data are valid. -/
structure Preload where
  u : Nat
  /-- the task that ran here when it was made: a rerun of that one keeps it (R340) -/
  under : Nat
  c : Bool
  v : Bool
  m : Bool
  x : Bool
  data : Bool
  /-- it runs the image of the task before it: its code is in place (R340) -/
  rerun : Bool
  deriving DecidableEq, Repr

/-- An open communication step (R133): its first cycle, its issue cycles, the last scheduled landing. -/
structure StepOpen where
  start : Nat
  n : Nat
  last : Nat
  deriving DecidableEq, Repr

structure Tile where
  core : Core
  vec : Vec
  mat : Mat
  mov : Mov
  reed : Reed
  fifo : Fifos
  pad : Mem
  /-- poisoned 8-byte granules of the scratchpad (R384) -/
  padPoison : List Nat
  banks : Banks
  /-- the running task's number -/
  task : Option Nat
  /-- context of the task before, for R337 -/
  lastCtx : Nat
  /-- GBARs executed, by barrier, and the words of GBARs that have arrived and wait (R132, R400) -/
  bars : SMap Nat
  arrived : List Nat
  stepOpen : Option StepOpen
  preload : Option Preload
  /-- a kill is pending since this cycle (R342) -/
  killAt : Option Nat
  /-- a pre-emption is requested since this cycle (R348) -/
  preemptAt : Option Nat
  /-- stalled cycles of the quag unit, and whether it has reported (R378, R379) -/
  stalled : Nat
  reported : Bool
  /-- something progressed since the last cycle passed (R378) -/
  progress : Bool
  deriving DecidableEq, Repr

/-! ## Tasks, contexts and graphs (R326 to R356, R403) -/

/-- A context, as its descriptor gives it (R326), and the descriptor's PA. -/
structure Ctx where
  pa : Nat
  id : Nat
  root : Nat
  peers : Nat
  dsets : Nat
  savea : Nat
  ovfa : Nat
  savesz : Nat
  nslot : Nat
  ovfrec : Nat
  tpol : Nat
  deriving DecidableEq, Repr

/-- A kernel header (R84). -/
structure Header where
  sregs : Nat
  vregs : Nat
  accs : Nat
  maps : Nat
  barriers : Nat
  killable : Bool
  hcstores : Bool
  /-- bytes -/
  scratch : Nat
  weight : Nat
  budget : Nat
  porig : Nat
  psize : Nat
  cwords : Nat
  vpairs : Nat
  mrecs : Nat
  xrecs : Nat
  nseg : Nat
  deriving DecidableEq, Repr

/-- A task descriptor (R334). -/
structure Desc where
  va : Nat
  image : Nat
  ctx : Nat
  param0 : Word
  param1 : Word
  done : Nat
  gw : Nat
  gh : Nat
  kill : Bool
  restart : Bool
  dinc : Nat
  budget : Nat
  plist : Nat
  deriving DecidableEq, Repr

/-- Who launched a task: a LAUNCH node of a run, a command queue, or CSTART (R331, R335, R366). -/
inductive Origin where
  | node (die gid node run : Nat)
  | queue (die q seq : Nat)
  | cstart (q : Nat)
  deriving DecidableEq, Repr

/-- How a task has been killed or ended from outside: killed, killed because its quorum join has closed, or ended as by EXIT.ABANDON
on the reeve core's account, which no RESTART undoes (R342, R354, R356). -/
inductive Ending where
  | kill | close | ended
  deriving DecidableEq, Repr

inductive TaskState where
  | ready | placed | running | suspended | ended
  deriving DecidableEq, Repr

structure Task where
  state : TaskState
  origin : Origin
  d : Desc
  hdr : Header
  ctx : Ctx
  die : Nat
  /-- priority class, and the cycle it entered it (R336) -/
  cls : Nat
  since : Nat
  /-- the corner tile, with the gang's width and height (R272) -/
  corner : Nat
  gw : Nat
  gh : Nat
  /-- s3 at word 0 -/
  runNo : Nat
  /-- counted cycles, which begin with the one on which word 0 issues (R341) -/
  counted : Nat
  begun : Bool
  /-- quorum joins arrived at: die × 65536 + node (R344) -/
  arrivedAt : List Nat
  /-- killed or ended by END: the cause and how; otherwise it ends normally (R342, R356) -/
  killed : Option (Nat × Ending)
  /-- it has overrun its budget (R341) -/
  overrun : Bool
  /-- suspended: the saved tiles by agent, the save slot of each, whether heavy (R349 to R351) -/
  saved : SMap Tile
  slots : List Nat
  heavy : Bool
  /-- overflow records written, by agent: of each the number of its burst at the port (R219, R353) -/
  ovf : SMap (List Nat)
  /-- elements lost from a full overflow slot, by agent (R353) -/
  ovfLost : SMap Nat
  /-- joins of those accepted as it exits: its PHASE is EXIT's (R344, R345) -/
  exitAt : List Nat
  deriving DecidableEq, Repr

/-- Node records (R328, R329). -/
inductive NodeKind where
  | endNode (sem : Nat)
  | launch (desc : Nat) (param0 param1 : Word) (q cls : Nat)
  | join (total need grace fill tgt ntgt : Nat)
  | signal (va incr scope : Nat)
  | wait (va threshold : Nat)
  deriving DecidableEq, Repr

structure Node where
  kind : NodeKind
  edge0 : Nat
  nsucc : Nat
  npred : Nat
  /-- of the present run: arrivals, fired -/
  arrivals : Nat
  fired : Bool
  /-- quorum registers (R343): QARR, QSET, QST, the cycle GRACE began, kills made -/
  qarr : Nat
  qset : Nat
  qst : Nat
  graceAt : Nat
  deriving DecidableEq, Repr

inductive RunPhase where
  | idle | going | stranded
  deriving DecidableEq, Repr

/-- One die's part of a graph (R327). -/
structure Part where
  gid : Nat
  ctx : Nat
  dies : Nat
  nodes : SMap Node
  edges : List (Nat × Nat)
  deriving DecidableEq, Repr

/-- A graph's runs (R333): the last run number, whether one goes on, pending triggers in order, with the die that took each. -/
structure GraphRun where
  run : Nat
  phase : RunPhase
  pending : List (List Word)
  deriving DecidableEq, Repr

/-- A command queue entry (R335). -/
structure QEntry where
  va : Nat
  ctx : Nat
  cls : Nat
  seq : Nat
  deriving DecidableEq, Repr

structure Queue where
  entries : List QEntry
  next : Nat
  /-- the entry before the head has started -/
  clear : Bool
  deriving DecidableEq, Repr

/-! ## Dies, memory system, the collective die -/

/-- Counters of a region for replication (R316, R317). -/
structure Region where
  deg : Nat
  /-- bit i: die i is a replica die -/
  dies : Nat
  /-- bit i: die i's last access of the region carried RDEG MAX (R316) -/
  max : Nat
  reads : SMap Nat
  writes : Nat
  colls : Nat
  deriving DecidableEq, Repr

structure Die where
  up : Bool
  incarn : Nat
  /-- cycle of the last reset: CYCLE counts from it -/
  base : Nat
  quaglim : Nat
  pgrace : Nat
  /-- REPLCTL in force: MODE EPOCH RAISE LOWER -/
  replctl : Word
  /-- a written REPLCTL that waits for the epoch end -/
  replNext : Option Word
  epochAt : Nat
  /-- the degree of its regions that have no record of their own (R317) -/
  deg0 : Nat
  sluicew : Word
  /-- the ten counters of R382, by code -/
  counters : SMap Nat
  free64 : List Nat
  free2m : List Nat
  lltlb : List TlbEntry
  queues : SMap Queue
  /-- scheduler memory taken by graphs, in bytes (R335) -/
  used : Nat
  /-- slices substituted by a spare (R387) -/
  sliceSub : List Nat
  /-- tile positions served by a spare, absent positions, spares left (R386) -/
  spared : List Nat
  absent : List Nat
  spares : Nat
  untrained : List Nat
  deriving DecidableEq, Repr

/-- A switch group (R370 to R372). -/
structure Group where
  desc : List Word
  armed : Bool
  round : Nat
  /-- 0 OPEN, 1 GRACE, 2 CLOSING, 3 MULTICAST -/
  st : Nat
  graceAt : Nat
  weight : Nat
  late : Nat
  early : Nat
  dup : Nat
  part : Nat
  /-- accumulators: block × 4096 + element → word -/
  acc : SMap Word
  accPoison : List Nat
  /-- arrived weight by block -/
  aw : SMap Nat
  /-- blocks folded: contributor × 65536 + block → weight of the last fold -/
  folded : SMap Nat
  /-- elements held: ((contributor × 65536 + block) × 4096 + element) → bits, 2^64 to say that it is there, 2^65 to say that it is poisoned -/
  held : SMap Nat
  /-- weight carried by the held block's last burst, and context of its first -/
  heldW : SMap Nat
  heldCtx : SMap Nat
  /-- (case, contributor, block, round) already counted -/
  seen : List (Nat × Nat × Nat × Nat)
  /-- context of the first burst folded in the round; 0 before it (R375) -/
  ctx : Nat
  /-- contributors complete in the round -/
  complete : Nat
  /-- result bursts handed over (R372) -/
  sent : Nat
  deriving DecidableEq, Repr

/-- A flow between devices (R369, R390): destination or source, class. -/
structure Flow where
  dev : Nat
  cls : Nat
  /-- next number to send, next to hand over -/
  send : Nat
  recv : Nat
  /-- copies retained until acknowledged -/
  kept : List (Nat × DevBurst)
  /-- bursts held until the gap before them is filled -/
  wait : List DevBurst
  /-- bursts to it have gone without an acknowledgement since this cycle (R390) -/
  since : Option Nat
  deriving DecidableEq, Repr

inductive Stage where
  | off | failed | up
  deriving DecidableEq, Repr

/-- The device: host registers, ring, contexts, links, root of trust. -/
structure Dev where
  stage : Stage
  devid : Nat
  featen : SMap Word
  featLock : Bool
  evbase : Word
  evsize : Nat
  evlost : Nat
  evhead : Nat
  evtail : Nat
  /-- bring-up events held until the ring is enabled (R398) -/
  evheld : List (List Word)
  sempa : Nat
  qsel : Word
  replq : Word
  registry : SMap Nat
  groups : SMap Group
  flows : List Flow
  staging : Nat
  lost : List Nat
  routes : List Nat
  /-- ports by the devices they lead to, where the configuration image names them, and members through which a device of the
  domain is reached in their place (R390, R396) -/
  ports : List (Nat × Nat)
  alternates : List (Nat × Nat)
  /-- links: spare lanes left by 2 × link + direction, failed, retraining, half width (R388, R389) -/
  spareLanes : SMap Nat
  failedLinks : List Nat
  retraining : List Nat
  halfWidth : List Nat
  mhz : Nat
  /-- dies past their thermal limit, the module past its power cap, and the cycle since which neither holds (R399) -/
  hot : List Nat
  cap : Bool
  clearAt : Nat
  d3hot : Bool
  cxl : Bool
  /-- attestation requests not yet answered, with the count each saw -/
  attest : List Nat
  firmware : List (List Byte)
  /-- fused: the digest of the signing key, and the minimum versions of the four images (R396) -/
  fusedKey : List Byte
  fusedMin : List Nat
  deriving DecidableEq, Repr

/-- A READDUP collapse under way (R325, R376). -/
structure Collapse where
  agent : Nat
  /-- the move engine's access, not the control core's -/
  x : Bool
  ctx : Nat
  va : Nat
  /-- the other devices of the set -/
  others : List Nat
  split : Bool
  /-- the page is split and the others redirect: only their acknowledgements are outstanding -/
  done : Bool
  /-- the access has been saved with its task, or is over: the collapse goes on in the context of this descriptor (R376) -/
  left : Option Ctx
  deriving DecidableEq, Repr

/-- A frame given up in a collapse, redirected already: its die, first byte, size code, and the move records, by agent and number,
that were accepted before and have not completed (R325, R376). -/
structure Leaving where
  die : Nat
  frame : Nat
  size : Nat
  recs : List (Nat × Nat)
  /-- the device that is acknowledged, and the context -/
  writer : Nat
  ctx : Nat
  deriving DecidableEq, Repr

/-- A SYNC payload flit scheduled (R226): its burst, number, and receivers with the cycle each writes it. -/
structure SyncFlit where
  src : Nat
  gix : Nat
  ctx : Nat
  /-- the incarnation of the sender's die (R393) -/
  inc : Nat
  b : Burst
  flit : Nat
  /-- the cycle it leaves its tile (R226: t + k) -/
  leave : Nat
  sched : Nat
  dsts : List (Nat × Nat)
  deriving DecidableEq, Repr

/-! ## What reaches the device's memory from outside, and waits there -/

/-- A SEMWAIT that the home of its semaphore holds: who waits, where, for what value, and whether an update has reached it (R128). -/
structure HeldWait where
  agent : Nat
  ga : Nat
  n : Nat
  met : Bool
  deriving DecidableEq, Repr

/-- An access of another device to this one's memory: through a PEER page there (R282, R365). -/
inductive PeerAccess where
  | read (ga n : Nat)
  | write (ga : Nat) (data : List Byte)
  | atomic (ga : Nat) (dw : Bool) (op : AOp) (v c : Nat)
  deriving DecidableEq, Repr

/-! ## The whole part -/

/-- One turn of the agenda: an agent's next unit, an event of the table, or the passing of cycles (log entry 1). -/
inductive Turn where
  | core (a : Nat)
  | vector (a : Nat)
  | matrix (a : Nat)
  | move (a : Nat)
  | event (i : Instr)
  | pass (n : Nat)
  /-- a hand-over of a die corrects an error (R383) -/
  | corrects (d : Nat)
  /-- the sensors: dies past their thermal limit, the module past its power cap (R399) -/
  | sensors (hot : List Nat) (cap : Bool)
  /-- the host reads n bytes of BAR0 (R358) -/
  | readReg (off n : Nat)
  /-- another device's access to this device's memory (R365) -/
  | peer (dev : Nat) (q : PeerAccess)
  deriving DecidableEq, Repr

structure State where
  /-- the turns to come, and the turn made when none is left (log entry 1) -/
  agenda : List Turn
  focus : Turn
  /-- the agent a unit is executed for (log entry 1) -/
  cur : Nat
  /-- free values drawn so far (log entry 5) -/
  free : Nat
  /-- answers to host reads, newest first: the bytes, and whether they are poisoned (R384) -/
  replies : List (List Byte × Bool)
  /-- answers to other devices' reads and atomics, newest first: the device, the bytes, whether they are poisoned (R365) -/
  peerReplies : List (Nat × List Byte × Bool)
  now : Nat
  tiles : SMap Tile
  dies : SMap Die
  tasks : SMap Task
  nextTask : Nat
  parts : SMap Part
  runs : SMap GraphRun
  /-- all global memory by address: below 2^38 device PA; 2^52 + PA host memory; 2^53 × (1 + device) + PA peers' memory -/
  mem : Mem
  /-- poisoned 32-byte granules (R384) -/
  memPoison : List Nat
  regions : SMap Region
  /-- lines with replicas: bit i, die i holds one (R316) -/
  replicas : SMap Nat
  /-- lines away from their hashed slice, with the slice, oldest first (R314) -/
  placed : List (Nat × Nat)
  /-- last tile to reach a line through L2, and its consecutive accesses (R314) -/
  access : SMap (Nat × Nat)
  /-- the SEMWAITs that homes hold (R128) -/
  waits : List HeldWait
  dev : Dev
  transit : List Transit
  sync : List SyncFlit
  collapses : List Collapse
  leaving : List Leaving
  /-- devices whose answers a write of a scheduler or reeve core in the present event waits for (R376; log entry 19): the model's own,
  empty between turns -/
  awaited : List Nat
  deriving DecidableEq, Repr

/-! ## How a step stops -/

/-- The part itself never stops for good: every trap, halt and loss of the spec is a state in which it goes on, and an event
that the agenda names while its condition does not hold changes nothing (log entry 13). So there is no fault. Safe. -/
inductive Fault where
  deriving DecidableEq, Repr

/-- Refusals. -/
inductive Refusal where
  /-- Raised by an arm of `exec` whose row has no meaning yet, with the row's mnemonic. Safe: no run goes past it. -/
  | notModelled (mnemonic : String)
  deriving DecidableEq, Repr

/-! ## Reset -/

def Core.reset : Core where
  s := []
  p := 0
  pc := 0
  run := .idle
  wait := .none
  tok := 0
  resp := []
  late := []
  co := []
  pubAt := []
  coNext := 0
  mapTok := []
  async := []
  trapCause := 0
  trapPc := 0
  trapInfo := 0
  trapSrc := 0
  trapVecEn := false
  trapVec := 0
  trapIn := false
  landTrap := false
  amiss := 0
  specwr := 0
  replva := 0
  latch := false
  afterGbar := false
  clean := []
  dirty := []
  unpub := []
  recUnpub := []
  ownPoison := []
  ctlb := []

def Push.none : Push := ⟨false, false, false, false, false, false⟩

def Vec.reset : Vec where
  queue := []
  run := .none
  v := []
  m := []
  k := []
  g := 0
  lc := []
  flags := 0
  seed := 0x6C078965
  slot := 0
  flight := []
  buffer := []
  push := .none
  unit := 0
  draining := false
  trapped := false
  held := .none
  poison := []

/-- A plane at task start: BF16, K extent 0, weights zero, scales 0x7F (R180); scales equal to 0x7F are not listed. -/
def Plane.reset : Plane := ⟨[], 0x09, 0, [], []⟩

def Mat.reset : Mat where
  queue := []
  run := .none
  active := .reset
  shadow := .reset
  acc := []
  accPoison := []
  ml0 := 0
  ml1 := 0
  o0 := 0
  o1 := 0
  rep := .none
  flags := 0
  seed := 0x89656C07
  tl := 0
  accepted := 0
  ahead := []
  busy := []
  going := .none
  push := .none
  popped := false
  unit := 0
  parked := false
  paused := false
  held := .none

def Mov.reset : Mov where
  queue := []
  run := .none
  xl0 := 0
  xl1 := 0
  o0 := 0
  o1 := 0
  rep := .none
  flags := 0
  seed := 0x6C078965
  step := 0x6C078965
  tl := 0
  accepted := 0
  busy := .none
  push := .none
  popped := false
  unit := 0
  parked := .none
  paused := false
  resume := 0
  fetch := .none
  pre := .none
  held := .none
  xtlb := []
  portFree := 0
  runWrites := 0
  asked := .none

def Reed.reset : Reed where
  slots := []
  policy := 2
  well := []
  wellOvf := false
  lost := 0
  sslate := 0
  port := .none
  portNext := .none
  taken := 0
  heads := 0
  counted := []
  fresh := .none
  change := .none

def Banks.reset : Banks where
  cA := []
  cB := []
  vA := []
  vB := []
  mA := []
  mB := []
  xA := []
  xB := []
  actC := false
  actV := false
  actM := false
  actX := false
  wroteC := false
  wroteV := false
  wroteM := false
  wroteX := false

def Tile.reset : Tile where
  core := .reset
  vec := .reset
  mat := .reset
  mov := .reset
  reed := .reset
  fifo := ⟨0, 0, 0, 0, 0, 0⟩
  pad := []
  padPoison := []
  banks := .reset
  task := .none
  lastCtx := 0
  bars := []
  arrived := []
  stepOpen := .none
  preload := .none
  killAt := .none
  preemptAt := .none
  stalled := 0
  reported := false
  progress := false

/-- A compute die's SLUICEW at reset (R373); die 4 has the two low fields as well. -/
def Die.reset (d : Nat) : Die where
  up := false
  incarn := 0
  base := 0
  quaglim := 24
  pgrace := 22
  replctl := 0x0010400400000000
  replNext := .none
  epochAt := 0
  deg0 := 0
  sluicew := if d = 4 then 0x862862862862 else 0x862862000000
  counters := []
  free64 := []
  free2m := []
  lltlb := []
  queues := []
  used := 0
  sliceSub := []
  spared := []
  absent := []
  spares := 4
  untrained := []

def Dev.reset : Dev where
  stage := .off
  devid := 0
  featen := [(0, 0xFFFF)]
  featLock := false
  evbase := 0
  evsize := 6
  evlost := 0
  evhead := 0
  evtail := 0
  evheld := []
  sempa := 0
  qsel := 0
  replq := 0
  registry := []
  groups := []
  flows := []
  staging := 0
  lost := []
  routes := []
  ports := []
  alternates := []
  spareLanes := []
  failedLinks := []
  retraining := []
  halfWidth := []
  mhz := 3600
  hot := []
  cap := false
  clearAt := 0
  d3hot := false
  cxl := false
  attest := []
  firmware := []
  fusedKey := []
  fusedMin := [0, 0, 0, 0]

/-- The part right after reset, before bring-up: the values the spec gives, and zero where it gives none (log entries 2 and 3).
Tiles and dies that are not listed stand at their reset values. -/
def State.reset : State where
  agenda := []
  focus := .core 0
  cur := 0
  free := 0
  replies := []
  peerReplies := []
  now := 0
  tiles := []
  dies := []
  tasks := []
  nextTask := 0
  parts := []
  runs := []
  mem := []
  memPoison := []
  regions := []
  replicas := []
  placed := []
  access := []
  waits := []
  dev := .reset
  transit := []
  sync := []
  collapses := []
  leaving := []
  awaited := []

end Sys2Proof.Machine
end

