-- ==== Sys2Proof/Machine/Ops.lean ====
section
/-! DEFINITION. The named operations over the state: maps, bytes, registers, the checks of a word, taking a trap and returning, events. -/

namespace Sys2Proof.Machine

/-- What a meaning answers. -/
abbrev Out := Host.Outcome State Fault Refusal

/-! ## Finite maps -/

def lookup {α : Type} : SMap α → Nat → Option α
  | [], _ => none
  | (k, v) :: m, i => if i = k then some v else lookup m i

/-- The value at a key, `d` where none is listed. -/
def getAt {α : Type} (d : α) (m : SMap α) (i : Nat) : α := (lookup m i).getD d

/-- Puts a value at a key, in rising order. -/
def insAt {α : Type} : SMap α → Nat → α → SMap α
  | [], i, x => [(i, x)]
  | (k, v) :: m, i, x => if i < k then (i, x) :: (k, v) :: m else if i = k then (i, x) :: m else (k, v) :: insAt m i x

def delAt {α : Type} (m : SMap α) (i : Nat) : SMap α := m.filter (fun e => e.1 != i)

/-- Puts a value at a key; the value that unlisted keys read as is not listed. -/
def setAt {α : Type} [DecidableEq α] (d : α) (m : SMap α) (i : Nat) (x : α) : SMap α :=
  if x = d then delAt m i else insAt m i x

/-! ## Bytes -/

/-- A byte of memory; an unlisted address reads as zero (log entry 3). -/
def getB (m : Mem) (a : Nat) : Byte := getAt 0 m a

def setB (m : Mem) (a : Nat) (x : Byte) : Mem := setAt 0 m a x

/-- The canonical form: addresses strictly rising, no zero byte listed. -/
def Memory.wf : Mem → Bool
  | [] => true
  | [(_, x)] => x != 0
  | (a, x) :: (b, y) :: m => x != 0 && decide (a < b) && Memory.wf ((b, y) :: m)

/-- n bytes from address a, little-endian (R26). -/
def readN (m : Mem) (a : Nat) : Nat → Nat
  | 0 => 0
  | n + 1 => (getB m a).toNat + 256 * readN m (a + 1) n

/-- Stores the low n bytes of x from address a, little-endian (R26). -/
def writeN (m : Mem) (a : Nat) : Nat → Nat → Mem
  | 0, _ => m
  | n + 1, x => writeN (setB m a (BitVec.ofNat 8 x)) (a + 1) n (x / 256)

/-- The bytes of a number, n of them, lowest first. -/
def bytesOf (x : Nat) : Nat → List Byte
  | 0 => []
  | n + 1 => BitVec.ofNat 8 x :: bytesOf (x / 256) n

def ofBytes : List Byte → Nat
  | [] => 0
  | b :: bs => b.toNat + 256 * ofBytes bs

def writeBytes (m : Mem) (a : Nat) : List Byte → Mem
  | [] => m
  | b :: bs => writeBytes (setB m a b) (a + 1) bs

/-- Bits hi to lo of a number. -/
def bits (x hi lo : Nat) : Nat := x / 2 ^ lo % 2 ^ (hi + 1 - lo)

def bitOf (x i : Nat) : Bool := x / 2 ^ i % 2 == 1

def natOf (b : Bool) : Nat := if b then 1 else 0

/-- The low n bits of x read as two's complement. -/
def signed (n x : Nat) : Int := if x % 2 ^ n < 2 ^ (n - 1) then (x % 2 ^ n : Nat) else (x % 2 ^ n : Nat) - (2 ^ n : Nat)

/-- An integer as n bits. -/
def wrap (n : Nat) (x : Int) : Nat := (x % (2 ^ n : Nat)).toNat

/-- Sign-extends the low n bits of x to 64. -/
def sextN (n x : Nat) : Word := BitVec.ofInt 64 (signed n x)

/-- Adds to a counter of n bits that saturates. -/
def satAdd (n x y : Nat) : Nat := Nat.min (x + y) (2 ^ n - 1)

/-! ## Agents -/

/-- The die of an agent: compute dies 0 to 3, the collective die 4 (R9). -/
def dieOf (a : Nat) : Nat := if a < 256 then a / 64 else if a < 272 then 4 else a - 272

/-- The tile id, or the sequencer number. -/
def tileIdOf (a : Nat) : Nat := if a < 256 then a % 64 else if a < 272 then a - 256 else 0

/-- A collective sequencer (R366). -/
def isSeq (a : Nat) : Bool := decide (256 ≤ a) && decide (a < 272)

/-- A reeve core: system mode (R12, R142). -/
def isReeve (a : Nat) : Bool := decide (272 ≤ a)

def tile (s : State) (a : Nat) : Tile := (lookup s.tiles a).getD Tile.reset

def putTile (s : State) (a : Nat) (t : Tile) : State := { s with tiles := insAt s.tiles a t }

def modTile (s : State) (a : Nat) (f : Tile → Tile) : State := putTile s a (f (tile s a))

def core (s : State) (a : Nat) : Core := (tile s a).core

def modCore (s : State) (a : Nat) (f : Core → Core) : State := modTile s a (fun t => { t with core := f t.core })

def modVec (s : State) (a : Nat) (f : Vec → Vec) : State := modTile s a (fun t => { t with vec := f t.vec })

def modMat (s : State) (a : Nat) (f : Mat → Mat) : State := modTile s a (fun t => { t with mat := f t.mat })

def modMov (s : State) (a : Nat) (f : Mov → Mov) : State := modTile s a (fun t => { t with mov := f t.mov })

def modReed (s : State) (a : Nat) (f : Reed → Reed) : State := modTile s a (fun t => { t with reed := f t.reed })

def die (s : State) (d : Nat) : Die := (lookup s.dies d).getD (Die.reset d)

def putDie (s : State) (d : Nat) (x : Die) : State := { s with dies := insAt s.dies d x }

def modDie (s : State) (d : Nat) (f : Die → Die) : State := putDie s d (f (die s d))

def modDev (s : State) (f : Dev → Dev) : State := { s with dev := f s.dev }

/-- A free value, and the state that has drawn it (log entry 5). -/
def draw (s : State) : Word × State := (Config.freeValue s.free, { s with free := s.free + 1 })

/-- Feature n of FEAT0 is enabled (R394, R395). -/
def feature (s : State) (n : Nat) : Bool := bitOf (getAt 0 s.dev.featen (n / 64)).toNat (n % 64)

/-! ## The task on a tile -/

/-- The declarations of a tile that holds no task: nothing is beyond them. -/
def Header.full : Header where
  sregs := 64
  vregs := 32
  accs := 4
  maps := 32
  barriers := 4
  killable := false
  hcstores := true
  scratch := 1048576
  weight := 0
  budget := 0
  porig := 0
  psize := 0
  cwords := 8192
  vpairs := 2048
  mrecs := 256
  xrecs := 256
  nseg := 0

def taskOf (s : State) (a : Nat) : Option Task := (tile s a).task.bind (lookup s.tasks)

/-- The header declarations in force at an agent (R260). -/
def hdr (s : State) (a : Nat) : Header := match taskOf s a with | some t => t.hdr | none => Header.full

def Ctx.none : Ctx := ⟨0, 0, 0, 0, 0, 0, 0, 0, 0, 0, 0⟩

/-- The context an agent runs in (R326). -/
def ctxOf (s : State) (a : Nat) : Ctx := match taskOf s a with | some t => t.ctx | none => Ctx.none

def putTask (s : State) (u : Nat) (t : Task) : State := { s with tasks := insAt s.tasks u t }

def modTask (s : State) (u : Nat) (f : Task → Task) : State :=
  match lookup s.tasks u with | some t => putTask s u (f t) | none => s

/-- The tiles of a rectangle, row-major (R272, R336): agent numbers. -/
def rect (d corner w h : Nat) : List Nat :=
  (List.range (w * h)).map (fun i => 64 * d + corner + i % w + 8 * (i / w))

/-- The agents a task runs on. -/
def gangOf (t : Task) : List Nat :=
  match t.origin with
  | .cstart q => [256 + q]
  | _ => rect t.die t.corner t.gw t.gh

/-- The gang of an agent's task; the agent alone without one. -/
def gang (s : State) (a : Nat) : List Nat := match taskOf s a with | some t => gangOf t | none => [a]

/-- Index of an element in a list, its length where absent. -/
def indexOf (x : Nat) : List Nat → Nat
  | [] => 0
  | y :: ys => if x = y then 0 else indexOf x ys + 1

/-! ## Scalar registers and predicates (R89) -/

def rdS (c : Core) (r : Nat) : Word := if r = 0 then 0 else getAt 0 c.s r

/-- A later word writes the register: responses of older words no longer write it (R90). -/
def supersede (r : Nat) (c : Core) : Core :=
  { c with
    resp := c.resp.map (fun q => if q.dst = r then { q with dst := 0 } else q)
    co := c.co.map (fun q => if q.dst = r then { q with dst := 0 } else q) }

/-- Writes a scalar register; a write to s0 is discarded. A response of an older word to the same register no longer writes it (R90). -/
def wrS (r : Nat) (x : Word) (c : Core) : Core :=
  if r = 0 then c else { supersede r c with s := setAt 0 c.s r x }

def rdP (c : Core) (p : Fin 8) : Bool := if p = 0 then true else c.p.getLsbD p

def wrP (p : Fin 8) (x : Bool) (c : Core) : Core :=
  if p = 0 then c else { c with p := if x then c.p ||| (1#8 <<< p.val) else c.p &&& ~~~(1#8 <<< p.val) }

/-- Bit r of a mask of registers. -/
def tokPending (c : Core) (r : Nat) : Bool := c.tok.getLsbD r

def markTok (r : Nat) (c : Core) : Core := if r = 0 then c else { c with tok := c.tok ||| (1#64 <<< r) }

def clearTok (r : Nat) (c : Core) : Core := { c with tok := c.tok &&& ~~~(1#64 <<< r) }

/-- A register whose value has not arrived: a pending token, a load, an atomic (R90, R121). -/
def waiting (c : Core) (r : Nat) : Bool :=
  r != 0 && (tokPending c r || c.resp.any (fun q => q.dst == r) || c.co.any (fun q => q.dst == r))

/-! ## Events (R362, R363, R381, R382) -/

/-- CYCLE of a die (R142). -/
def cycle (s : State) (d : Nat) : Nat := s.now - (die s d).base

/-- Group 0 of an event record (R363). -/
def evHead (type cause d t ctx : Nat) : Nat := type * 2 ^ 56 + cause * 2 ^ 48 + d * 2 ^ 45 + t * 2 ^ 39 + ctx * 2 ^ 27

/-- Where host memory begins among the addresses of `State.mem`. -/
def hostBase : Nat := 2 ^ 52

/-- Writes eight groups as an event record, or drops and counts it (R362). -/
def writeRecord (s : State) (g : List Nat) : State :=
  let v := s.dev
  if v.evbase.toNat % 2 = 1 ∧ v.evhead - v.evtail < 2 ^ v.evsize then
    let a := hostBase + bits v.evbase.toNat 51 12 * 4096 + 64 * (v.evhead % 2 ^ v.evsize)
    { s with
      mem := (List.range 8).foldl (fun m i => writeN m (a + 8 * i) 8 (g.getD i 0)) s.mem
      dev := { v with evhead := (v.evhead + 1) % 2 ^ 48 } }
  else modDev s (fun v => { v with evlost := satAdd 16 v.evlost 1 })

/-- An event of a type, from a die, that carries no tile: groups 1, 2, 3, 4, 6 and 7 as given (R363). -/
def event (s : State) (type cause d t ctx g1 g2 g3 g4 g6 g7 : Nat) : State :=
  writeRecord s [evHead type cause d t ctx, g1, g2, g3, g4, cycle s d, g6, g7]

/-- Adds to a counter of a die; it is reported when it reaches 1 and at each power of two (R382). -/
def bump (s : State) (d code : Nat) : State :=
  let n := satAdd 48 (getAt 0 (die s d).counters code) 1
  let s1 := modDie s d (fun x => { x with counters := insAt x.counters code n })
  if 2 ^ Nat.log2 n = n ∧ n ≠ getAt 0 (die s d).counters code then event s1 0x07 0 d 0 0 0 0 0 0 code n else s1

/-! ## Traps (R137, R138, R140) -/

/-- TRAPSRC (R138): unit holds 13 bits and seq 48, so the fetch that runs off the C bank, word 8,192, has unit 0. -/
def trapSrc (src unit seq : Nat) : Word := BitVec.ofNat 64 (src * 2 ^ 61 + unit % 2 ^ 13 * 2 ^ 48 + seq % 2 ^ 48)

/-- The causes kept for the system (R137). -/
def systemCause (c : Nat) : Bool := c == 0x0F || c == 0x10 || c == 0x11 || c == 0x14

/-- A hold of the quag count begins: what progressed before it has reset the count (R378). -/
def holdCount (t : Tile) : Tile := if t.progress then { t with progress := false, stalled := 0, reported := false } else t

/-- A hold of the quag count ends, which is itself no progress, nor is anything that happened during it (R378). -/
def resumeCount (t : Tile) : Tile := { t with progress := false }

/-- The homes hold no SEMWAIT of an agent any more: it is withdrawn where it is interrupted (R400). -/
def withdraw (s : State) (a : Nat) : State := { s with waits := s.waits.filter (fun w => w.agent != a) }

/-- The trap goes to the tile's own handler, not to the reeve core (R137). -/
def toHandler (c : Core) (cause : Nat) : Bool := c.trapVecEn && !systemCause cause && !c.trapIn

/-- Taking a trap at an agent's control core (R137): the trap registers, IN, and the handler or the reeve core, where the quag
count is held (R378). A SEMWAIT it interrupts is withdrawn (R400). The GBAR mark is cleared: whether a handler between a GBAR and its
SSTEP or SAFEPT breaks "directly follows" (R133) the spec leaves open, and here it does (DESIGN CHOICE, log entry 36). -/
def takeTrap (s : State) (a cause pc : Nat) (info src : Word) : State :=
  modTile (withdraw s a) a (fun t =>
    let mine := toHandler t.core cause
    { (if mine then t else holdCount t) with
      core := { t.core with
        trapCause := BitVec.ofNat 8 cause
        trapPc := BitVec.ofNat 64 pc
        trapInfo := info
        trapSrc := src
        trapIn := true
        wait := .none
        afterGbar := false
        pc := if mine then t.core.trapVec.toNat else pc
        run := if mine then .running else .reeve false } })

/-- An asynchronous trap falls due: it sets the event latch and is taken at a word boundary (R137, R145). -/
def raiseAsync (s : State) (a cause : Nat) (info src : Word) : State :=
  modCore s a (fun c => { c with async := c.async ++ [⟨cause, info, src⟩], latch := true })

/-- Marks the tile as having made progress (R378). -/
def progress (s : State) (a : Nat) : State := modTile s a (fun t => { t with progress := true })

/-- The word stalls: it stands at its place and will issue again (R400). -/
def stall (w : Wait) (s : State) : Out := .next (modCore s s.cur (fun c => { c with wait := w }))

/-- What a word waits at once it comes to wait for `new`: a word whose collapse is over, or was declined, and a store whose PHASE has
performed stay what they are, words that do not stand at a word boundary (R102, R377). -/
def wordWait (new w : Wait) : Wait :=
  match w with
  | .retry => .retry
  | .published => .published
  | .collapse va true => .collapse va true
  | _ => new

/-- The word waits, and is issued again. -/
def stallWord (new : Wait) (s : State) : Out := stall (wordWait new (core s s.cur).wait) s

/-- The word at `pc` takes a precise trap, with TRAPPC as given: earlier loads write first (R92). -/
def trapAt (cause pc : Nat) (info : Word) (s : State) : Out :=
  let c := core s s.cur
  if c.resp.isEmpty then .next (takeTrap (progress s s.cur) s.cur cause pc info (trapSrc 0 c.pc 0))
  else stallWord .loads s

def trapWord (cause : Nat) (info : Word) (s : State) : Out := trapAt cause (core s s.cur).pc info s

/-- TRAPINFO of cause 0x02 for a control-core word's operand that is no register (R401). -/
def info02 (sub value : Nat) : Word := BitVec.ofNat 64 (3 * 64 + sub + value % 2 ^ 56 * 256)

/-- An agent goes on to a word: nothing waits, and the GBAR mark is cleared. -/
def goAt (a pc : Nat) (s : State) : State :=
  modTile s a (fun t => { t with progress := true, core := { t.core with pc := pc, wait := .none, afterGbar := false } })

def goTo (pc : Nat) (s : State) : State := goAt s.cur pc s

/-- The word an agent waits at is done. -/
def advanceAt (a : Nat) (s : State) : State := goAt a ((core s a).pc + 1) s

/-- The word is done and the next is reached. -/
def advance (s : State) : State := goTo ((core s s.cur).pc + 1) s

/-- The word is done, with a change of its control core. -/
def done (f : Core → Core) (s : State) : Out := .next (advance (modCore s s.cur f))

/-! ## The checks of a C word (R75, R60, R90, R91) -/

/-- The first register of a list that lies beyond `.sregs`. The lists give a word's registers in d, a, b, c order: where several
lie beyond, TRAPINFO names the first in that order (DESIGN CHOICE, log entry 23: R75 and R401 name one register and no order). -/
def beyond (n : Nat) : List Nat → Option Nat
  | [] => none
  | r :: rs => if r ≠ 0 ∧ n ≤ r then some r else beyond n rs

/-- The guard holds (R60). -/
def guardHolds (c : Core) (g : Guard) : Bool := rdP c g.p != g.neg

/-- Checks 2 and 3 of R75 and the guard of R60: features the word belongs to, registers it names, and TRAPINFO where
another operand lies beyond its declaration. -/
def wordX (feats : List Nat) (regs : List Nat) (other : Option Word) (g : Guard) (s : State) (k : State → Out) : Out :=
  match feats.find? (fun n => !feature s n) with
  | some n => trapWord 0x12 (BitVec.ofNat 64 n) s
  | none =>
    match beyond (hdr s s.cur).sregs regs with
    | some r => trapWord 0x02 (BitVec.ofNat 64 r) s
    | none =>
      match other with
      | some i => trapWord 0x02 i s
      | none => if guardHolds (core s s.cur) g then k s else .next (advance s)

def word (feats : List Nat) (regs : List Nat) (g : Guard) (s : State) (k : State → Out) : Out := wordX feats regs none g s k

/-- The sources of a word have arrived (R90, R121). A word that is made again, or has published, waits for a source as it stands (R377). -/
def needs (regs : List Nat) (s : State) (k : State → Out) : Out :=
  match regs.find? (waiting (core s s.cur)) with
  | some r => stallWord (.reg r) s
  | none => k s

/-- The destination is no pending token register (R91). Trap 0x03 comes before a word's own checks, 0x05 and 0x06 of LD or 0x02 of a
CALL's target among them: R91 gives no order (DESIGN CHOICE, log entry 23). -/
def writes (r : Nat) (s : State) (k : State → Out) : Out :=
  if tokPending (core s s.cur) r then trapWord 0x03 (BitVec.ofNat 64 r) s else k s

/-- A word that reads registers and writes one (R93). -/
def wordOp (regs : List Nat) (d : Nat) (g : Guard) (s : State) (f : Core → Word) : Out :=
  word [] (d :: regs) g s fun s => writes d s fun s => needs regs s fun s =>
    done (fun c => wrS d (f c) c) s

/-- A word that reads registers and writes a predicate (R97). -/
def wordCmp (regs : List Nat) (d : Fin 8) (g : Guard) (s : State) (f : Core → Bool) : Out :=
  word [] regs g s fun s => needs regs s fun s => done (fun c => wrP d (f c) c) s

/-! ## Return from a trap (R140) -/

/-- What ERET and RESUME do to the engines: parked records are taken up again and the flight buffer replays (R140, R179). A held
fault is gone with its park: a record whose cause persists faults again (R140, R269). -/
def restartEngines (s : State) (a : Nat) : State :=
  modTile s a (fun t => { t with
    mat := { t.mat with parked := false, paused := false, held := none }
    mov := { t.mov with parked := none, paused := false, held := none }
    vec := { t.vec with
      trapped := false
      held := none
      flight := t.vec.flight ++ t.vec.buffer.map (fun f => { f with due := f.due + t.vec.slot })
      buffer := [] } })

/-- Execution continues at TRAPPC (R140); the GBAR mark does not outlive a handler (DESIGN CHOICE, log entry 36). -/
def returnTo (s : State) (a : Nat) (clearIn : Bool) : State :=
  modCore (restartEngines s a) a (fun c => { c with
    trapIn := if clearIn then false else c.trapIn
    landTrap := if clearIn then false else c.landTrap
    pc := c.trapPc.toNat
    run := .running
    wait := .none
    afterGbar := false })

end Sys2Proof.Machine
end

