-- ==== Sys2Proof/Machine/Flags.lean ====
section
/-! DEFINITION. Number formats, exact values, rounding, and the flags every operation sets (R24 to R58). -/

namespace Sys2Proof.Machine

/-! ## Formats (R24, R29) -/

def INT8 : Nat := 0x00
def UINT8 : Nat := 0x01
def INT16 : Nat := 0x02
def INT32 : Nat := 0x03
def INT4 : Nat := 0x04
def FP32 : Nat := 0x08
def BF16 : Nat := 0x09
def FP16 : Nat := 0x0A
def E4M3 : Nat := 0x0B
def E5M2 : Nat := 0x0C
def E2M1 : Nat := 0x0D
def E3M2 : Nat := 0x0E
def E2M3 : Nat := 0x0F
def E8M0 : Nat := 0x10
def RNS30 : Nat := 0x18
def FIX64 : Nat := 0x19
def MXE4M3 : Nat := 0x20
def MXE5M2 : Nat := 0x21
def MXE3M2 : Nat := 0x22
def MXE2M3 : Nat := 0x23
def MXFP4 : Nat := 0x24
def MXINT8 : Nat := 0x25

/-- Storage width in bits; 0 for a reserved code (R24, R25). -/
def fmtWidth (f : Nat) : Nat :=
  match f with
  | 0x00 => 8 | 0x01 => 8 | 0x02 => 16 | 0x03 => 32 | 0x04 => 4
  | 0x08 => 32 | 0x09 => 16 | 0x0A => 16 | 0x0B => 8 | 0x0C => 8 | 0x0D => 4 | 0x0E => 6 | 0x0F => 6
  | 0x10 => 8 | 0x18 => 32 | 0x19 => 64
  | 0x20 => 8 | 0x21 => 8 | 0x22 => 6 | 0x23 => 6 | 0x24 => 4 | 0x25 => 8
  | _ => 0

def isMX (f : Nat) : Bool := decide (0x20 ≤ f) && decide (f ≤ 0x25)

/-- Dimension 0 is packed densely (R27, R211). -/
def isDense (f : Nat) : Bool := f == INT4 || f == E2M1 || f == E3M2 || f == E2M3 || isMX f

/-- The element format of an MX format (R34); MXINT8 elements are INT8 times 2^-6. -/
def mxElem (f : Nat) : Nat :=
  match f with
  | 0x20 => E4M3 | 0x21 => E5M2 | 0x22 => E3M2 | 0x23 => E2M3 | 0x24 => E2M1 | _ => INT8

/-- Bytes of one block of an MX format (R36). -/
def mxBytes (f : Nat) : Nat := 4 * fmtWidth f

/-- A floating format's parameters (R29, R31, R32). -/
structure FFmt where
  e : Nat
  m : Nat
  bias : Nat
  max : Nat
  inf : Bool
  nan : Option Nat
  deriving DecidableEq, Repr

def ffmt (f : Nat) : Option FFmt :=
  match f with
  | 0x08 => some ⟨8, 23, 127, 0x7F7FFFFF, true, some 0x7FC00000⟩
  | 0x09 => some ⟨8, 7, 127, 0x7F7F, true, some 0x7FC0⟩
  | 0x0A => some ⟨5, 10, 15, 0x7BFF, true, some 0x7E00⟩
  | 0x0B => some ⟨4, 3, 7, 0x7E, false, some 0x7F⟩
  | 0x0C => some ⟨5, 2, 15, 0x7B, true, some 0x7E⟩
  | 0x0D => some ⟨2, 1, 1, 0x7, false, none⟩
  | 0x0E => some ⟨3, 2, 3, 0x1F, false, none⟩
  | 0x0F => some ⟨2, 3, 1, 0x1F, false, none⟩
  | _ => none

/-- The binary64 format of fingerprints (R255). -/
def fp64 : FFmt := ⟨11, 52, 1023, 0x7FEFFFFFFFFFFFFF, true, some 0x7FF8000000000000⟩

def fp32 : FFmt := ⟨8, 23, 127, 0x7F7FFFFF, true, some 0x7FC00000⟩

/-- An integer format's range (R28). -/
def intRange (f : Nat) : Option (Int × Int) :=
  match f with
  | 0x00 => some (-128, 127)
  | 0x01 => some (0, 255)
  | 0x02 => some (-32768, 32767)
  | 0x03 => some (-2147483648, 2147483647)
  | 0x04 => some (-8, 7)
  | _ => none

/-! ## Exact values -/

/-- NaN, an infinity, or a finite value ± n/d × 2^e; a zero keeps its sign (R30, R44). -/
inductive Val where
  | nan
  | inf (neg : Bool)
  | num (neg : Bool) (n d : Nat) (e : Int)
  deriving DecidableEq, Repr

def Val.zero : Val := .num false 0 1 0

def Val.isZero (x : Val) : Bool := match x with | .num _ n _ _ => n == 0 | _ => false

def Val.isNeg (x : Val) : Bool := match x with | .num s _ _ _ => s | .inf s => s | .nan => false

def Val.isNan (x : Val) : Bool := match x with | .nan => true | _ => false

def Val.neg (x : Val) : Val := match x with | .num s n d e => .num (!s) n d e | .inf s => .inf (!s) | .nan => .nan

def Val.abs (x : Val) : Val := match x with | .num _ n d e => .num false n d e | .inf _ => .inf false | .nan => .nan

/-- An integer as a value. -/
def Val.ofInt (x : Int) : Val := .num (decide (x < 0)) x.natAbs 1 0

/-- x × 2^k. -/
def Val.scale (x : Val) (k : Int) : Val := match x with | .num s n d e => .num s n d (e + k) | y => y

/-- 2^k as a natural number; 1 for a negative k. -/
def pow2 (k : Int) : Nat := 2 ^ k.toNat

/-- n × 2^(e - f), f at most e. -/
def alignTo (n : Nat) (e f : Int) : Nat := n * pow2 (e - f)

/-! ## Flags (R57) -/

abbrev Flags := BitVec 6

def NV : Flags := 1
def DZ : Flags := 2
def OF : Flags := 4
def UF : Flags := 8
def NX : Flags := 16
def SAT : Flags := 32

/-- Comparison of finite magnitudes and signs: x ≤ y as exact values; both finite. -/
def numLe (x y : Val) : Bool :=
  match x, y with
  | .num s n d e, .num t m c f =>
    let g := min e f
    let a : Int := (alignTo n e g * c : Nat)
    let b : Int := (alignTo m f g * d : Nat)
    decide ((if s then -a else a) ≤ (if t then -b else b))
  | _, _ => false

/-- x ≤ y over the extended reals, neither NaN. -/
def valLe (x y : Val) : Bool :=
  match x, y with
  | .inf true, _ => true
  | _, .inf false => true
  | .inf false, _ => false
  | _, .inf true => false
  | _, _ => numLe x y

def valEq (x y : Val) : Bool := !x.isNan && !y.isNan && valLe x y && valLe y x

def valLt (x y : Val) : Bool := !x.isNan && !y.isNan && valLe x y && !valLe y x

/-- x comes before y: −0 counts as smaller than +0 (R167). -/
def before (x y : Val) : Bool := valLt x y || (valEq x y && x.isNeg)

/-- Exact sum (R43, R44). -/
def valAdd (x y : Val) : Val × Flags :=
  match x, y with
  | .nan, _ => (.nan, 0)
  | _, .nan => (.nan, 0)
  | .inf s, .inf t => if s = t then (.inf s, 0) else (.nan, NV)
  | .inf s, _ => (.inf s, 0)
  | _, .inf t => (.inf t, 0)
  | .num s n d e, .num t m c f =>
    let g := min e f
    let a : Int := (alignTo n e g * c : Nat)
    let b : Int := (alignTo m f g * d : Nat)
    let r := (if s then -a else a) + (if t then -b else b)
    if r = 0 then (.num (s && t && n == 0 && m == 0) 0 1 0, 0)
    else (.num (decide (r < 0)) r.natAbs (d * c) g, 0)

/-- Exact product (R43, R44). -/
def valMul (x y : Val) : Val × Flags :=
  match x, y with
  | .nan, _ => (.nan, 0)
  | _, .nan => (.nan, 0)
  | .inf s, .inf t => (.inf (s != t), 0)
  | .inf s, .num t m _ _ => if m = 0 then (.nan, NV) else (.inf (s != t), 0)
  | .num s n _ _, .inf t => if n = 0 then (.nan, NV) else (.inf (s != t), 0)
  | .num s n d e, .num t m c f => (.num (s != t) (n * m) (d * c) (e + f), 0)

/-- Exact sum of many terms: NaN wins, opposite infinities form one, an exact zero is -0 only when every term is (R44, R47). -/
def valSum : List Val → Val × Flags
  | [] => (Val.zero, 0)
  | [x] => (x, 0)
  | x :: xs => let (y, f) := valSum xs; let (z, g) := valAdd x y; (z, f ||| g)

/-! ## Value (R30, R34, R37, R39) -/

def valueF (f : FFmt) (b : Nat) : Val :=
  let s := bitOf b (f.e + f.m)
  let E := b / 2 ^ f.m % 2 ^ f.e
  let F := b % 2 ^ f.m
  let top := 2 ^ f.e - 1
  if f.inf && E == top && F == 0 then .inf s
  else if f.inf && E == top then .nan
  else if f.nan.isSome && !f.inf && E == top && F == 2 ^ f.m - 1 then .nan
  else if E = 0 then .num s F 1 (1 - (f.bias : Int) - f.m)
  else .num s (2 ^ f.m + F) 1 ((E : Int) - f.bias - f.m)

/-- The value an RNS30 word stands for (R50); non-canonical words by R38. -/
def fromRNS (w : Nat) : Int :=
  let t := (w % 2 ^ 11 % 1025) * 537394176 + (w / 2 ^ 11 % 2 ^ 10) * 1072692225 + (w / 2 ^ 21 % 2 ^ 10 % 1023) * 537395200
  let v : Int := (t % 1073740800 : Nat)
  if v ≥ 536870400 then v - 1073740800 else v

/-- The word of an integer (R49). -/
def toRNS (v : Int) : Nat := (v % 1025).toNat + (v % 1024).toNat * 2 ^ 11 + (v % 1023).toNat * 2 ^ 21

/-- RnsAdd and RnsMul on the channels (R49). -/
def rnsOp (op : Nat → Nat → Nat) (w z : Nat) : Nat :=
  op (w % 2 ^ 11 % 1025) (z % 2 ^ 11 % 1025) % 1025 + op (w / 2 ^ 11 % 2 ^ 10) (z / 2 ^ 11 % 2 ^ 10) % 1024 * 2 ^ 11
    + op (w / 2 ^ 21 % 2 ^ 10 % 1023) (z / 2 ^ 21 % 2 ^ 10 % 1023) % 1023 * 2 ^ 21

/-- The value of element bits in a format that is not MX (R28, R30, R33). -/
def value (f b : Nat) : Val :=
  match ffmt f with
  | some p => valueF p b
  | none =>
    if f = UINT8 then .num false (b % 256) 1 0
    else if f = E8M0 then (if b % 256 = 255 then .nan else .num false 1 1 ((b % 256 : Nat) - 127))
    else if f = RNS30 then Val.ofInt (fromRNS b)
    else Val.ofInt (signed (fmtWidth f) b)

/-- An element of an MX format under its block's scale (R34). -/
def mxValue (f b x : Nat) : Val :=
  if x = 255 then .nan
  else
    let v := if f = MXINT8 then (Val.ofInt (signed 8 b)).scale (-6) else value (mxElem f) b
    v.scale ((x : Int) - 127)

/-! ## Rounding (R41 to R44) -/

/-- floor(log2 (n / d)), n and d not zero. -/
def log2Q (n d : Nat) : Int :=
  let k : Int := (Nat.log2 n : Int) - Nat.log2 d
  if n * pow2 (-k) ≥ d * pow2 k then k else k - 1

/-- Whether the remainder rounds the magnitude up (R42). -/
def roundsUp (mode : RMode) (u n num den : Nat) : Bool :=
  match mode with
  | .rne => decide (den < 2 * num) || (2 * num == den && n % 2 == 1)
  | .rtz => false
  | .sr => decide (u < num * 2 ^ 32 / den)

/-- The sign in its place. -/
def withSign (f : FFmt) (s : Bool) (b : Nat) : Nat := b + natOf s * 2 ^ (f.e + f.m)

/-- Infinity's code: the code after the largest finite. -/
def infCode (f : FFmt) : Nat := (2 ^ f.e - 1) * 2 ^ f.m

/-- Round of R42 to a floating format: the code and the flags it sets. -/
def roundF (f : FFmt) (mode : RMode) (u : Nat) (x : Val) : Nat × Flags :=
  match x with
  | .nan => match f.nan with
    | some c => (c, 0)
    | none => (0, NV)
  | .inf s => if f.inf then (withSign f s (infCode f), 0) else (withSign f s f.max, SAT)
  | .num s n d e =>
    if n = 0 then (withSign f s 0, 0)
    else
      let emin : Int := 1 - (f.bias : Int)
      let lg := log2Q n d + e
      let qe := max lg emin - f.m
      let num := n * pow2 (e - qe)
      let den := d * pow2 (qe - e)
      let k := num / den
      let r := num % den
      let up := r != 0 && roundsUp mode u k r den
      let k := if up then k + 1 else k
      let inexact : Flags := if r = 0 then 0 else if lg < emin then NX ||| UF else NX
      let code := if k < 2 ^ f.m then k else ((qe + f.m + f.bias).toNat * 2 ^ f.m + (k - 2 ^ f.m))
      if f.max < code then
        (if f.inf && mode == .rne then withSign f s (infCode f) else withSign f s f.max, inexact ||| OF ||| NX)
      else (withSign f s code, inexact)

/-- Rounding to an integer: n of R42 with spacing 1, signed, and whether a remainder was discarded. -/
def roundN (mode : RMode) (u : Nat) (neg : Bool) (n d : Nat) (e : Int) : Int × Bool :=
  let num := n * pow2 e
  let den := d * pow2 (-e)
  let k := num / den
  let r := num % den
  let k := if r != 0 && roundsUp mode u k r den then k + 1 else k
  (if neg then -(k : Int) else k, r != 0)

/-- RoundToInt of R42 over a range. -/
def roundInt (lo hi : Int) (mode : RMode) (u : Nat) (x : Val) : Int × Flags :=
  match x with
  | .nan => (0, NV)
  | .inf s => (if s then lo else hi, SAT)
  | .num s n d e =>
    let (k, inexact) := roundN mode u s n d e
    if k < lo then (lo, SAT) else if hi < k then (hi, SAT) else (k, if inexact then NX else 0)

/-- Converts an exact value to a format: Round or RoundToInt, the code and the flags (R42, R43). -/
def convert (f : Nat) (mode : RMode) (u : Nat) (x : Val) : Nat × Flags :=
  match ffmt f with
  | some p => roundF p mode u x
  | none => match intRange f with
    | some (lo, hi) => let (k, fl) := roundInt lo hi mode u x; (wrap (fmtWidth f) k, fl)
    | none => (0, 0)

/-- RoundToFP32. -/
def toFP32 (x : Val) : Nat × Flags := roundF fp32 .rne 0 x

/-- EnterFIX64 (R52): the 64 bits, and whether the overflow flag is set. -/
def enterFIX64 (x : Val) (anchor : Int) : Nat × Bool :=
  match x with
  | .nan => (0, true)
  | .inf s => (wrap 64 (if s then -(2 ^ 62) else 2 ^ 62), true)
  | .num s n d e =>
    let k := (roundN .rne 0 s n d (e - anchor)).1
    if k.natAbs > 2 ^ 62 then (wrap 64 (if s then -(2 ^ 62) else 2 ^ 62), true) else (wrap 64 k, false)

/-! ## Stochastic generators (R54, R55) -/

def seedStep (x : BitVec 32) : BitVec 32 :=
  let x := x ^^^ (x <<< 13)
  let x := x ^^^ (x >>> 17)
  x ^^^ (x <<< 5)

/-- A seed of 0 is replaced (R54). -/
def seedOf (x : BitVec 32) : BitVec 32 := if x = 0 then 0x6C078965 else x

/-- The fraction of element e of a step (R55). -/
def fraction (x : BitVec 32) (outWidth e : Nat) : Nat :=
  if outWidth = 16 then
    let i := e / 2 % 64
    (x.rotateLeft ((7 * i + 16 * (e % 2)) % 32)).toNat
  else (x.rotateLeft ((7 * (e % 64)) % 32)).toNat

end Sys2Proof.Machine
end

