-- ==== Sys2Proof/Machine/Memory.lean ====
section
/-! DEFINITION. Global memory: translation, homes, replicas, the L1 and publication (R284 to R325). -/

namespace Sys2Proof.Machine

/-! ## Page-table entries (R304 to R306) -/

def eState (e : Nat) : Nat := bits e 63 61
/-- 0 PRIV, 1 PHASE, 2 HC. -/
def eClass (e : Nat) : Nat := bits e 60 59
def eSize (e : Nat) : Nat := bits e 58 57
def eRdeg (e : Nat) : Nat := bits e 56 55
def eW (e : Nat) : Bool := bitOf e 53
def eK (e : Nat) : Bool := bitOf e 52
def eOwner (e : Nat) : Nat := bits e 51 50
def eFrame (e : Nat) : Nat := bits e 47 12
def eXref (e : Nat) : Nat := bits e 11 0

def pageBytes (size : Nat) : Nat :=
  match size with
  | 0 => 2 ^ 16
  | 1 => 2 ^ 21
  | 2 => 2 ^ 26
  | _ => 2 ^ 32

/-- Entries of the group that holds one page at a level. -/
def groupSize (size : Nat) : Nat :=
  match size with
  | 1 => 32
  | 3 => 64
  | _ => 1

/-- A leaf's malformations (R306), those of a PEER entry's table apart. `dup` says READDUP is enabled (R394). -/
def leafBad (dup : Bool) (lvl e : Nat) : Bool :=
  let st := eState e
  let pa := eFrame e * 2 ^ 16
  st == 7 || st == 6 || lvl < 2 || eClass e == 3 || eRdeg e == 3 || bits e 49 48 != 0
    || (lvl == 2 && eSize e < 2) || (lvl == 3 && 2 ≤ eSize e)
    || (st != 1 && pa % pageBytes (eSize e) != 0)
    || ((st == 2 || st == 3) && (bits pa 51 38 != 0 || eOwner e != bits pa 37 36))
    || ((st == 2 || st == 5) && eXref e != 0)
    || (st == 3 && !dup)

/-- What a walk finds. -/
inductive Found where
  | bad (malformed : Bool)
  /-- an entry, its level and its own PA -/
  | leaf (e lvl pa : Nat)
  deriving DecidableEq, Repr

/-- The walk over the levels still to go (R304): 4 at the root. -/
def walkFrom (m : Mem) (va : Nat) : Nat → Nat → Found
  | 0, _ => .bad true
  | n + 1, tbl =>
    let pa := tbl + 8 * (va / 2 ^ (16 + 10 * n) % 1024)
    let e := readN m pa 8
    if 2 ^ 38 ≤ tbl then .bad true
    else if eState e = 0 then .bad false
    else if eState e = 6 then
      if n = 0 ∨ bits e 60 52 ≠ 0 ∨ bits e 12 0 ≠ 0 then .bad true else walkFrom m va n (bits e 51 13 * 8192)
    else .leaf e (3 - n) pa

/-- A VA of a context's own table, read by the walker and the reeve cores at its home (R402): LOCAL or READDUP only. -/
def tablePa (s : State) (ctx : Ctx) (va : Nat) : Option Nat :=
  if 2 ^ 56 ≤ va then none
  else match walkFrom s.mem va 4 ctx.root with
    | .leaf e lvl _ =>
      if leafBad (feature s 11) lvl e then none
      else if eState e = 2 ∨ eState e = 3 then some (eFrame e * 2 ^ 16 + va % pageBytes (eSize e)) else none
    | .bad _ => none

/-- n bytes at a table's VA, every one translating (R402). -/
def tableRead (s : State) (ctx : Ctx) (va : Nat) : Nat → Option Nat
  | 0 => some 0
  | n + 1 =>
    match tablePa s ctx va, tableRead s ctx (va + 1) n with
    | some pa, some r => some ((getB s.mem pa).toNat + 256 * r)
    | _, _ => none

/-- The device is in this device's domain: UALink; otherwise Ethernet (R364). -/
def sameDomain (s : State) (dev : Nat) : Bool := dev / 1024 == s.dev.devid / 1024

/-- The collective die has a route to a device: by the topology; Ethernet ports stay down while feature 14 is disabled (R364, R394). -/
def routed (s : State) (dev : Nat) : Bool := s.dev.routes.contains dev && (sameDomain s dev || feature s 14)

/-- The device a peer-table entry names (R306, R402). -/
def peerDev (s : State) (ctx : Ctx) (xref : Nat) : Option Nat :=
  if ctx.peers = 0 ∨ ctx.peers % 8 ≠ 0 then none
  else match tableRead s ctx (ctx.peers + 8 * xref) 8 with
    | some w => if bitOf w 63 && bits w 62 20 == 0 then some (bits w 19 0) else none
    | none => none

/-- Malformed, the peer table looked at too. -/
def entryBad (s : State) (ctx : Ctx) (lvl e : Nat) : Bool :=
  leafBad (feature s 11) lvl e || (eState e == 4 && (peerDev s ctx (eXref e)).isNone)

/-- The first entry of the group an entry at `pa` belongs to. -/
def groupBase (size pa : Nat) : Nat := pa - pa % (8 * groupSize size)

/-- Where a group's entries differ, any of them may give the translation (R304): a free choice. -/
def groupPick (s : State) (e pa : Nat) : Nat × State :=
  let n := groupSize (eSize e)
  let es := (List.range n).map (fun i => readN s.mem (groupBase (eSize e) pa + 8 * i) 8)
  if es.all (· == e) then (e, s)
  else
    let (v, s1) := draw s
    (es.getD (v.toNat % n) e, s1)

/-! ## Homes, replicas and placement (R303, R314 to R318) -/

/-- Local memory of the device (R302). -/
def isLocal (ga : Nat) : Bool := ga < 2 ^ 38

/-- Where a peer's memory begins among the addresses of `State.mem`. -/
def peerBase (dev : Nat) : Nat := 2 ^ 53 * (1 + dev)

/-- The home die of a line of local memory (R303). -/
def homeDie (ga : Nat) : Nat := bits ga 37 36

/-- The hashed slice of a line (R303). -/
def hashSlice (ga : Nat) : Nat := bits ga 12 7 ^^^ bits ga 18 13 ^^^ bits ga 24 19

/-- The channel of a line within its home die (R303). -/
def channelOf (ga : Nat) : Nat := bits ga 11 8 ^^^ bits ga 15 12 ^^^ bits ga 23 20

/-- The other compute dies, lowest first. -/
def otherDies (home : Nat) : List Nat := (List.range 4).filter (· != home)

/-- A set of dies as a mask. -/
def maskOf (ds : List Nat) : Nat := ds.foldl (fun m d => m ||| 2 ^ d) 0

/-- A region that nothing has counted in: its home's default degree, and as many other dies as that, lowest first (R317). -/
def quietRegion (s : State) (r : Nat) : Region :=
  let n := (die s (homeDie (2 ^ 21 * r))).deg0
  ⟨n, maskOf ((otherDies (homeDie (2 ^ 21 * r))).take n), 0, [], 0, 0⟩

def region (s : State) (r : Nat) : Region := (lookup s.regions r).getD (quietRegion s r)

def modRegion (s : State) (r : Nat) (f : Region → Region) : State :=
  { s with regions := insAt s.regions r (f (region s r)) }

/-! ## Flows to other devices (R364, R390) -/

def findFlow (fs : List Flow) (dev cls : Nat) : Flow :=
  (fs.find? (fun f => f.dev == dev && f.cls == cls)).getD ⟨dev, cls, 0, 0, [], [], none⟩

def putFlow (fs : List Flow) (f : Flow) : List Flow :=
  match fs with
  | [] => [f]
  | g :: gs => if g.dev = f.dev ∧ g.cls = f.cls then f :: gs else g :: putFlow gs f

/-- A burst that no route takes is discarded and counted; an event is written each time (R364). -/
def noRoute (s : State) : State :=
  let n := satAdd 48 (getAt 0 (die s 4).counters 0x04) 1
  event (modDie s 4 (fun d => { d with counters := insAt d.counters 0x04 n })) 0x07 0 4 0 0 0 0 0 0 0x04 n

/-- A burst to the device goes unacknowledged from now, if none did before (R390). -/
def unacked (s : State) (dev cls : Nat) : State :=
  modDev s (fun v =>
    let f := findFlow v.flows dev cls
    { v with flows := putFlow v.flows { f with since := f.since.orElse (fun _ => some s.now) } })

/-- The die at an end of a burst's path: switch groups, and what comes from another device, stand at the collective die. -/
def endDie (a : Nat) : Nat := if a < 277 then dieOf a else 4

/-- The peer device an address lies on, if it is one (R390). -/
def peerOf (ga : Nat) : Option Nat := if 2 ^ 53 ≤ ga then some (ga / 2 ^ 53 - 1) else none

/-! ## Links (R10, R11, R388, R389): 0 to 3 the ring d to d+1, 4 to 7 the spokes -/

/-- The ring's links from die d upward to die e. -/
def ringLinks (d e : Nat) : List Nat := (List.range ((e + 4 - d) % 4)).map (fun i => (d + i) % 4)

/-- The ways between two dies, by their links, the first in use while it works: the shared link or two hops upward, then the ring's
other direction; the spoke of a compute die, then the ring to the next die and its spoke (R11, R389). -/
def pathWays (d e : Nat) : List (List Nat) :=
  if d = e then [[]]
  else if d = 4 ∨ e = 4 then
    let c := if d = 4 then e else d
    [[4 + c], [c, 4 + (c + 1) % 4]]
  else if (e + 4 - d) % 4 ≤ 2 then [ringLinks d e, ringLinks e d]
  else [ringLinks e d, ringLinks d e]

/-- The links of the path in use between two dies of the package, if any path is left (R389). -/
def pathLinks (s : State) (d e : Nat) : Option (List Nat) :=
  (pathWays d e).find? (fun ls => ls.all (fun l => !s.dev.failedLinks.contains l))

/-- A path between two dies of the package. -/
def diePath (s : State) (d e : Nat) : Bool := (pathLinks s d e).isSome

/-- Flits pass between two dies now: none does while a link of the path retrains (R388). -/
def pathOpen (s : State) (d e : Nat) : Bool :=
  match pathLinks s d e with | some ls => ls.all (fun l => !s.dev.retraining.contains l) | none => false

/-- The address lies on a device declared lost (R390), or on a die that no path reaches (R389): from an agent's die, or from die 4 for
the host. A die that did not come up is no
such die: R2 and R398 say nothing of accesses to its memory or its tiles, and loads, stores, bursts, BAR2 and FFPUSH are served
there as on a working die (DESIGN CHOICE, log entry 32). -/
def lostAt (s : State) (a ga : Nat) : Bool :=
  match peerOf ga with
  | some d => s.dev.lost.contains d
  | none => isLocal ga && !diePath s (endDie a) (homeDie ga)

/-- The peer that no route reaches, if the address lies on one that is not declared lost: requests to it are discarded (R364). -/
def unroutedAt (s : State) (ga : Nat) : Option Nat :=
  match peerOf ga with
  | some d => if s.dev.lost.contains d || routed s d then none else some d
  | none => none

/-- A request to a peer that no route reaches: it is discarded and counted, and no answer comes before the device is lost (R364, R390). -/
def discarded (s : State) (dev : Nat) : State := noRoute (unacked s dev 0)

/-- What serves an address, as a response names it. -/
def servedBy (ga : Nat) : Nat := match peerOf ga with | some d => 8 + d | none => if isLocal ga then homeDie ga else 5

/-- An asynchronous trap of the word at the pc for an address it does not reach (R390, R392). -/
def raiseLost (s : State) (a va : Nat) : State := raiseAsync s a 0x16 (BitVec.ofNat 64 va) (trapSrc 0 (core s a).pc 0)

/-! ## Accesses at a line's home (R293, R314, R317) -/

/-- Hops between two positions of the mesh (R13). -/
def hops (t u : Nat) : Nat :=
  (Int.natAbs ((t % 8 : Nat) - (u % 8 : Nat) : Int)) + (Int.natAbs ((t / 8 : Nat) - (u / 8 : Nat) : Int))

/-- Records an access of any agent that reaches a line through L2 (R314). -/
def touch (s : State) (a ga : Nat) : State :=
  if isLocal ga then
    let line := ga / 128
    let n := match lookup s.access line with
      | some (b, n) => if b = a then n + 1 else 1
      | none => 1
    { s with access := insAt s.access line (a, n) }
  else s

/-- The poisoned granules a range touches (R384). -/
def poisonedAt (ps : List Nat) (w a n : Nat) : Bool := ps.any (fun g => decide (a < w * (g + 1)) && decide (w * g < a + n))

/-- A write clears the poison of the granules it covers whole (R384). -/
def coverPoison (ps : List Nat) (w a n : Nat) : List Nat :=
  ps.filter (fun g => !(decide (a ≤ w * g) && decide (w * (g + 1) ≤ a + n)))

/-- Poison of the granules a range touches. -/
def addPoison (ps : List Nat) (w a n : Nat) : List Nat :=
  (List.range (n + w)).foldl (fun ps i =>
    let g := a / w + i
    if w * g < a + n ∧ !ps.contains g then ps ++ [g] else ps) ps

/-- Poison of the granules that spans of bytes touch, counted from a byte: offset and length of each span. -/
def addSpans (ps : List Nat) (w a : Nat) (spans : List (Nat × Nat)) : List Nat := spans.foldl (fun ps p => addPoison ps w (a + p.1) p.2) ps

/-- The poisoned spans of n bytes, counted from the first of them as byte `o`. -/
def poisonSpans (ps : List Nat) (w a n o : Nat) : List (Nat × Nat) :=
  (ps.filter (fun g => decide (a < w * (g + 1)) && decide (w * g < a + n))).map (fun g =>
    let lo := Nat.max (w * g) a
    (lo - a + o, Nat.min (w * (g + 1)) (a + n) - lo))

/-- The spans among n bytes from byte `o`, counted from there. -/
def spansIn (spans : List (Nat × Nat)) (o n : Nat) : List (Nat × Nat) :=
  spans.filterMap (fun p =>
    let lo := Nat.max p.1 o
    let hi := Nat.min (p.1 + p.2) (o + n)
    if lo < hi then some (lo - o, hi - lo) else none)

/-! ## Ranges of bytes -/

/-- Bytes a to a + n - 1 of a memory, counted from a. -/
def slice (m : Mem) (a n : Nat) : Mem :=
  (m.filter (fun e => decide (a ≤ e.1) && decide (e.1 < a + n))).map (fun e => (e.1 - a, e.2))

/-- Bytes a to a + n - 1 replaced by those of `b`, counted from a. -/
def paste (m : Mem) (a n : Nat) (b : Mem) : Mem :=
  m.filter (fun e => decide (e.1 < a)) ++ b.foldr (fun e r => if e.1 < n then setB r (e.1 + a) e.2 else r) []
    ++ m.filter (fun e => decide (a + n ≤ e.1))

/-- The bytes of a list that are not zero, counted from 0. -/
def memOf : List Byte → Nat → Mem
  | [], _ => []
  | b :: bs, i => if b = 0 then memOf bs (i + 1) else (i, b) :: memOf bs (i + 1)

/-- Before a write at a line's home every replica goes, and the region counts (R293, R317, R318). -/
def collapseLine (s : State) (ga : Nat) : State :=
  if isLocal ga then
    let line := ga / 128
    let had := getAt 0 s.replicas line != 0
    let s1 := modRegion s (ga / 2 ^ 21) (fun r => { r with writes := r.writes + 1, colls := r.colls + natOf had })
    if had then { s1 with replicas := delAt s1.replicas line } else s1
  else s

/-- The addresses of the lines n bytes lie in. -/
def linesIn (ga n : Nat) : List Nat := if n = 0 then [] else (List.range ((ga + n - 1) / 128 + 1 - ga / 128)).map (fun i => 128 * (ga / 128 + i))

/-- The homes look at the SEMWAITs they hold, after an update: a semaphore that has reached the awaited value answers its wait,
whatever comes after. Of a poisoned word nothing can be said (R128, R384; DESIGN CHOICE, log entry 40). -/
def answerWaits (s : State) : State :=
  { s with waits := s.waits.map (fun w =>
      if !poisonedAt s.memPoison 32 w.ga 8 ∧ w.n ≤ readN s.mem w.ga 8 then { w with met := true } else w) }

/-- A write of n bytes performs at its lines' homes (R293, R318). -/
def homeWrite (s : State) (a ga n x : Nat) : State :=
  let s1 := (linesIn ga n).foldl (fun s l => touch (collapseLine s l) a l) s
  answerWaits { s1 with mem := writeN s1.mem ga n x, memPoison := coverPoison s1.memPoison 32 ga n }

/-- A write of a range performs at the homes of its lines, which collapse their replicas (R293); spans of it that come from poisoned bytes
are written poisoned (R384). -/
def homePaste (s : State) (a ga n : Nat) (b : Mem) (bad : List (Nat × Nat)) : State :=
  let s := (linesIn ga n).foldl (fun s l => touch (collapseLine s l) a l) s
  answerWaits { s with mem := paste s.mem ga n b, memPoison := addSpans (coverPoison s.memPoison 32 ga n) 32 ga (spansIn bad 0 n) }

/-- The distinct keys over 128 of a rising list: its lines. -/
def linesOf : SMap Byte → List Nat
  | [] => []
  | [(a, _)] => [a / 128]
  | (a, _) :: (b, y) :: m => if a / 128 = b / 128 then linesOf ((b, y) :: m) else a / 128 :: linesOf ((b, y) :: m)

/-- A line kept in an L1 goes to its home: a peer without a route discards it (R364). -/
def homeLine (a : Nat) (s : State) (line : Nat) : State :=
  if lostAt s a (128 * line) then s
  else match unroutedAt s (128 * line) with
    | some dev => discarded s dev
    | none => touch (collapseLine s (128 * line)) a (128 * line)

/-- A byte of an L1 reaches its home: it lies on no lost device or die, nor on a peer without a route (R364, R389, R390). -/
def arrives (s : State) (a ga : Nat) : Bool := !lostAt s a ga && (unroutedAt s ga).isNone

/-- Bytes kept in an L1 that go to a lost device or die raise trap 0x16 at their tile, once for one writing home; the L1 keeps no VA,
so TRAPINFO is a free value (R389, R390; DESIGN CHOICE, log entry 40). -/
def raiseLostBytes (s : State) (a : Nat) (bs : SMap Byte) : State :=
  if bs.any (fun e => lostAt s a e.1) then
    let (x, s) := draw s
    raiseAsync s a 0x16 x (trapSrc 0 (core s a).pc 0)
  else s

/-- Bytes kept in an L1 perform at their homes, line by line (R286, R289). -/
def homeWriteAll (s : State) (a : Nat) (bs : SMap Byte) : State :=
  let s1 := (linesOf bs).foldl (homeLine a) (raiseLostBytes s a bs)
  let bs := bs.filter (fun e => arrives s a e.1)
  answerWaits { s1 with
    mem := bs.foldl (fun m e => setB m e.1 e.2) s1.mem
    memPoison := s1.memPoison.filter (fun g => !(List.range 32).all (fun i => (lookup bs (32 * g + i)).isSome)) }

/-- A read by an agent reaches a line's home: it counts for migration, and, from another compute die, as a remote read (R314, R317). -/
def reachHome (s : State) (a ga : Nat) : State :=
  let d := endDie a
  touch (if isLocal ga ∧ d < 4 ∧ homeDie ga ≠ d then
    modRegion s (ga / 2 ^ 21) (fun x => { x with reads := insAt x.reads d (getAt 0 x.reads d + 1) }) else s) a ga

/-! ## What a walker reads (R304, R308, R389, R402) -/

/-- The PAs of the entries a walk reads, from a table on. -/
def walkReads (m : Mem) (va : Nat) : Nat → Nat → List Nat
  | 0, _ => []
  | n + 1, tbl =>
    let pa := tbl + 8 * (va / 2 ^ (16 + 10 * n) % 1024)
    let e := readN m pa 8
    if 2 ^ 38 ≤ tbl then []
    else pa :: (if eState e = 6 ∧ bits e 60 52 = 0 ∧ bits e 12 0 = 0 then walkReads m va n (bits e 51 13 * 8192) else [])

/-- The entries read for a VA of a context. -/
def entryReads (s : State) (ctx : Ctx) (va : Nat) : List Nat := if 2 ^ 56 ≤ va then [] else walkReads s.mem va 4 ctx.root

/-- The PAs read for n bytes of a context's table: the walk of each page, and the lines of the bytes. -/
def tableReads (s : State) (ctx : Ctx) (tbl va n : Nat) : List Nat :=
  if tbl = 0 ∨ tbl % 8 ≠ 0 then []
  else
    let part := fun (v k : Nat) => entryReads s ctx v ++ (match tablePa s ctx v with | some pa => linesIn pa k | none => [])
    let k := Nat.min n (65536 - va % 65536)
    part va k ++ (if k < n then part (va + k) (n - k) else [])

/-- The entries and peer-table lines that a walk reads. -/
def walkLines (s : State) (ctx : Ctx) (va : Nat) : List Nat :=
  entryReads s ctx va ++ (match walkFrom s.mem va 4 ctx.root with
    | .leaf e _ _ => if eState e = 4 then tableReads s ctx ctx.peers (ctx.peers + 8 * eXref e) 8 else []
    | .bad _ => [])

/-- A die reaches the home of every address of a list (R389). -/
def reachesAll (s : State) (d : Nat) (pas : List Nat) : Bool := pas.all (fun pa => diePath s d (homeDie pa))

/-- The walker, scheduler or reeve core of a die reads lines at their homes: agent 272 + d, which is no tile (R308, R314, R317). -/
def unitReads (s : State) (d : Nat) (pas : List Nat) : State := pas.foldl (fun s pa => reachHome s (272 + d) pa) s

/-! ## Binding on first touch (R311) -/

/-- Takes a frame of the entry's size from a die's list. -/
def takeFrame (s : State) (d size : Nat) : Option (Nat × State) :=
  match size with
  | 0 => match (die s d).free64 with
    | f :: fs => some (f, modDie s d (fun x => { x with free64 := fs }))
    | [] => none
  | 1 => match (die s d).free2m with
    | f :: fs => some (f, modDie s d (fun x => { x with free2m := fs }))
    | [] => none
  | _ => none

/-- The entry a binding writes: LOCAL, owned by the die, at the frame. -/
def boundEntry (e d f : Nat) : Nat :=
  2 * 2 ^ 61 + bits e 60 52 * 2 ^ 52 + d * 2 ^ 50 + (d * 2 ^ 36 + f) / 2 ^ 16 * 2 ^ 12

/-- Bind, made by the walker of the accessing die: the new entry, or the failure of R311. Frames are offsets within the die. -/
def bind (s : State) (a e pa : Nat) : Option (Nat × State) :=
  let d := dieOf a
  match takeFrame s d (eSize e) with
  | none => none
  | some (f, s1) =>
    let g0 := groupBase (eSize e) pa
    let now := readN s.mem g0 8
    if now = e then
      let new := boundEntry e d f
      some (new, (List.range (groupSize (eSize e))).foldl (fun s i => homeWrite s (272 + d) (g0 + 8 * i) 8 new) s1)
    else some (now, s)

/-! ## Translate (R307, R308) -/

inductive Trans where
  | ok (ga e : Nat)
  | fail
  | wprot
  /-- a write to a READDUP page with W set (R325) -/
  | collapse (e : Nat)
  deriving DecidableEq, Repr

def tlbHit (ts : List TlbEntry) (ctx va : Nat) : List Nat :=
  (ts.filter (fun t => t.ctx == ctx && decide (t.va ≤ va) && decide (va < t.va + t.size))).map (·.entry)

/-- The oldest entry that fits leaves. -/
def dropOldest (p : TlbEntry → Bool) (ts : List TlbEntry) : List TlbEntry := match ts.find? p with | some t => ts.erase t | none => ts

/-- Fills a TLB that holds `cap` entries, `big` of them of 4 GiB; the oldest entry, or the oldest of 4 GiB, leaves a full one (log
entry 8). -/
def tlbFill (cap big : Nat) (ts : List TlbEntry) (ctx va e : Nat) : List TlbEntry :=
  let n := pageBytes (eSize e)
  let t : TlbEntry := ⟨ctx, va - va % n, n, e⟩
  let huge := fun (t : TlbEntry) => t.size == 2 ^ 32
  if ts.contains t then ts
  else
    let ts := if huge t && decide (big ≤ (ts.filter huge).length) then dropOldest huge ts else ts
    (if cap ≤ ts.length then ts.drop 1 else ts) ++ [t]

def fillTlbs (s : State) (a : Nat) (x : Bool) (ctx va e : Nat) : State :=
  if eState e = 1 ∨ eState e = 0 then s
  else
    let s1 := modDie s (dieOf a) (fun d => { d with lltlb := tlbFill 4096 128 d.lltlb ctx va e })
    if x then modMov s1 a (fun m => { m with xtlb := tlbFill 64 64 m.xtlb ctx va e })
    else modCore s1 a (fun c => { c with ctlb := tlbFill 32 32 c.ctlb ctx va e })

/-- The PA side of a translation. A PEER page that names this device is its own memory (R364). -/
def gaOf (s : State) (ctx : Ctx) (va e : Nat) : Option Nat :=
  let off := eFrame e * 2 ^ 16 + va % pageBytes (eSize e)
  match eState e with
  | 2 => some off
  | 3 => some off
  | 4 => (peerDev s ctx (eXref e)).map (fun d => if d = s.dev.devid then off else peerBase d + off)
  | 5 => some (hostBase + off)
  | _ => none

/-- A walk of a context's table for a VA meets a malformed entry on the way to a table's byte (R306). -/
def walkBad (s : State) (ctx : Ctx) (va : Nat) : Bool :=
  decide (va < 2 ^ 56) && (match walkFrom s.mem va 4 ctx.root with
    | .bad m => m
    | .leaf e lvl _ => leafBad (feature s 11) lvl e)

/-- The pages of 64 KiB among n bytes at a VA whose walks meet a malformed entry. -/
def badPages (s : State) (ctx : Ctx) (va n : Nat) : Nat :=
  if n = 0 then 0
  else ((List.range ((va + n - 1) / 65536 + 1 - va / 65536)).filter (fun i => walkBad s ctx (65536 * (va / 65536 + i)))).length

/-- Malformed entries that the walks for n bytes of a table meet count at a die, each of them (R306, R402). -/
def countTable (s : State) (d : Nat) (ctx : Ctx) (tbl va n : Nat) : State :=
  if tbl ≠ 0 ∧ tbl % 8 = 0 then (List.range (badPages s ctx va n)).foldl (fun s _ => bump s d 0x01) s else s

/-- An entry the walker finds: it counts where it is malformed, and so does what the walk to its peer-table entry meets (R306). -/
def countEntry (s : State) (d : Nat) (ctx : Ctx) (lvl e : Nat) : State :=
  let s1 := if eState e = 4 then countTable s d ctx ctx.peers (ctx.peers + 8 * eXref e) 8 else s
  if entryBad s ctx lvl e then bump s1 d 0x01 else s1

/-- What a walk gives, binding a FIRSTTOUCH page (unless `probe`), counting malformed entries of every translation (R306, R311). The
walker reads each entry at its home through L2 (R308). Where a die that holds one cannot be reached, the walk fails and counts nothing
(R389; DESIGN CHOICE, log entry 40). -/
def walk (s : State) (a : Nat) (ctx : Ctx) (va : Nat) (probe : Bool) : Option Nat × State :=
  let reads := walkLines s ctx va
  if !reachesAll s (dieOf a) reads then (none, s)
  else
  let s := unitReads s (dieOf a) reads
  match walkFrom s.mem va 4 ctx.root with
  | .bad m => (none, if m then bump s (dieOf a) 0x01 else s)
  | .leaf e0 lvl pa =>
    if entryBad s ctx lvl e0 then (none, countEntry s (dieOf a) ctx lvl e0)
    else
      let (e, s1) := groupPick s e0 pa
      if eState e = 0 then (none, s1)
      else if entryBad s1 ctx lvl e then (none, countEntry s1 (dieOf a) ctx lvl e)
      else if eState e = 1 then
        if probe then (none, s1)
        else match bind s1 a e pa with
          | some (e', s2) =>
            if eState e' = 0 then (none, s2)
            else if eState e' = 1 ∨ entryBad s2 ctx lvl e' then (none, countEntry s2 (dieOf a) ctx lvl e')
            else (some e', s2)
          | none => (none, s1)
      else (some e, s1)

/-- The entry that translates a VA: a cached one, or the walk's; where they differ, a free choice until TLBINV (R310). -/
def entryFor (s : State) (a : Nat) (x : Bool) (ctx : Ctx) (va : Nat) : Option Nat × State :=
  let own := tlbHit (if x then (tile s a).mov.xtlb else (core s a).ctlb) ctx.id va
  let hits := own ++ tlbHit (die s (dieOf a)).lltlb ctx.id va
  match hits with
  | [] =>
    match walk s a ctx va false with
    | (some e, s1) => (some e, fillTlbs s1 a x ctx.id va e)
    | (none, s1) => (none, s1)
  | h :: hs =>
    let fresh := (walk s a ctx va true).1
    if fresh = some h ∧ hs.all (· == h) then (some h, s)
    else
      let (v, s1) := draw s
      let k := v.toNat % (hits.length + 1)
      if k < hits.length then (some (hits.getD k h), s1) else walk s1 a ctx va false

/-- Translate (R307) for an agent in a context; x says the move engine asks. -/
def translate (s : State) (a : Nat) (x : Bool) (ctx : Ctx) (va : Nat) (wr : Bool) : Trans × State :=
  if 2 ^ 56 ≤ va then (.fail, s)
  else match entryFor s a x ctx va with
    | (none, s1) => (.fail, s1)
    | (some e, s1) =>
      if wr && !eW e then (.wprot, s1)
      else if wr && eState e == 3 then (.collapse e, s1)
      else match gaOf s1 ctx va e with
        | some ga => (.ok ga e, s1)
        | none => (.fail, s1)

/-! ## The view of a tile: its own bytes over the homes (R103, R286, R291) -/

/-- A byte the tile has stored and not written home: of the record in progress, unpublished, or dirty. -/
def ownByte (c : Core) (ga : Nat) : Option Byte :=
  (lookup c.recUnpub ga).orElse (fun _ => (lookup c.unpub ga).orElse (fun _ => lookup c.dirty ga))

/-- n bytes as a tile sees them now. -/
def viewN (s : State) (a ga : Nat) : Nat → Nat
  | 0 => 0
  | n + 1 => ((ownByte (core s a) ga).getD (getB s.mem ga)).toNat + 256 * viewN s a (ga + 1) n

/-- Every byte of a range is the tile's own. -/
def allOwn (c : Core) (ga : Nat) : Nat → Bool
  | 0 => true
  | n + 1 => (ownByte c ga).isSome && allOwn c (ga + 1) n

/-- n bytes of a clean L1 line, the tile's own bytes over them. -/
def lineN (c : Core) (line : Nat) (ga : Nat) : Nat → Nat
  | 0 => 0
  | n + 1 => ((ownByte c ga).map (·.toNat)).getD (line / 2 ^ (8 * (ga % 128)) % 256) + 256 * lineN c line (ga + 1) n

/-- The other lines of which a die holds a replica in a line's slice and set of its L2 (R12, R303). -/
def replicasBeside (m : SMap Nat) (d line : Nat) : List Nat :=
  (m.filter (fun e => e.1 != line && bitOf e.2 d && e.1 % 1024 == line % 1024 && hashSlice (128 * e.1) == hashSlice (128 * line))).map (·.1)

/-- A die gives up its replica of a line. -/
def dropReplica (m : SMap Nat) (d line : Nat) : SMap Nat :=
  let x := getAt 0 m line - natOf (bitOf (getAt 0 m line) d) * 2 ^ d
  if x = 0 then delAt m line else insAt m line x

/-- A die takes a replica of a line: a slice has 1,024 sets of 16 ways, and of a set that is full with replicas the lowest line leaves.
Which line leaves, and which lines share a set, the spec does not say; homed lines, which the model does not place in ways, take none
(R12, R316; DESIGN CHOICE, log entry 37). -/
def fillReplica (s : State) (d line : Nat) : State :=
  let m := match replicasBeside s.replicas d line with
    | l :: ls => if ls.length < 15 then s.replicas else dropReplica s.replicas d l
    | [] => s.replicas
  { s with replicas := insAt m line (getAt 0 m line ||| 2 ^ d) }

/-- A load served beyond the L1: a replica of the agent's die, or the home, which counts the read and may fill a replica (R292,
R316, R317). A die is among a region's replica dies from a load with RDEG MAX on, until an epoch ends after a load of it without. -/
def serveRead (s : State) (a ga e : Nat) : State :=
  let d := dieOf a
  if isLocal ga ∧ d < 4 ∧ homeDie ga ≠ d then
    let line := ga / 128
    let r := ga / 2 ^ 21
    let mode := if feature s 10 then bits (die s (homeDie ga)).replctl.toNat 63 62 else 1
    let may := decide (eClass e = 1 ∨ eClass e = 2) && eRdeg e != 1
    if may && bitOf (getAt 0 s.replicas line) d then s
    else
      let max := may && eRdeg e == 2
      let s1 := touch (modRegion s r (fun x => { x with
        reads := insAt x.reads d (getAt 0 x.reads d + 1)
        max := if max then x.max ||| 2 ^ d else x.max - natOf (bitOf x.max d) * 2 ^ d })) a ga
      let s2 := if max then modRegion s1 r (fun x => { x with dies := x.dies ||| 2 ^ d }) else s1
      if may && mode != 1 && (eRdeg e == 2 || bitOf (region s2 r).dies d) && (eState e == 2 || eState e == 3) then
        fillReplica s2 d line
      else s2
  else touch s a ga

/-- A granule of 32 bytes holds one of the bytes. -/
def lies (m : SMap Byte) (g : Nat) : Bool := m.any (fun e => e.1 / 32 == g)

/-- Poison of the tile's own granules in bytes that have gone home goes with them; a granule that still holds own bytes keeps it (R384). -/
def sharePoison (s : State) (a : Nat) (bs : SMap Byte) : State :=
  let c := core s a
  let gs := c.ownPoison.filter (lies bs)
  let s := modCore s a (fun c => { c with
    ownPoison := c.ownPoison.filter (fun g => !lies bs g || lies c.unpub g || lies c.recUnpub g || lies c.dirty g) })
  { s with memPoison := s.memPoison ++ gs.filter (fun g => !s.memPoison.contains g) }

/-- The clean lines of bytes that have gone home leave the L1: no older value of them serves a read (R287, R288, R291). -/
def dropLinesOf (bs : SMap Byte) (c : Core) : Core := { c with clean := c.clean.filter (fun l => !(linesOf bs).contains l.1) }

/-- The dirty bytes of PRIV pages that fit go home (R286). -/
def writeBackIf (s : State) (a : Nat) (p : Nat → Bool) : State :=
  let bs := (core s a).dirty.filter (fun e => p e.1)
  sharePoison (modCore (homeWriteAll s a bs) a (fun c => dropLinesOf bs { c with dirty := c.dirty.filter (fun e => !p e.1) })) a bs

/-- The L1's set of a line (R18). -/
def l1Set (line : Nat) : Nat := line % 256

/-- The lines of a set other than one line, clean or dirty: unpublished lines, of which R102 allows far more than the L1 has ways,
take none here (log entry 7). -/
def othersInSet (c : Core) (line : Nat) : List Nat :=
  ((c.clean.map (·.1)) ++ linesOf c.dirty).eraseDups.filter (fun l => l1Set l == l1Set line && l != line)

/-- A line comes into the L1: of a full set the lowest clean line leaves, or the lowest dirty one, written home (R18, R286; log entry 7). -/
def makeRoom (s : State) (a line : Nat) : State :=
  match othersInSet (core s a) line with
  | l :: ls =>
    if ls.length < 3 then s
    else
      let s := writeBackIf s a (fun ga => ga / 128 == l)
      modCore s a (fun c => { c with clean := delAt c.clean l })
  | [] => s

/-- A line of a class as its home holds it comes into the L1. -/
def fillL1 (s : State) (a ga e : Nat) : State :=
  let line := ga / 128
  let s := makeRoom s a line
  let l := readN s.mem (128 * line) 128
  modCore s a (fun c => { c with clean := insAt c.clean line (eClass e, l) })

/-- The clean line of an address, filled under the page's present class: after a change of class a line of the old class serves
no load (R286, R313). -/
def cleanLine (c : Core) (ga e : Nat) : Option Nat :=
  match lookup c.clean (ga / 128) with
  | some (cls, l) => if cls = eClass e then some l else none
  | none => none

/-- A load of the control core or the move engine (R18, R100, R286, R291): whether the L1 serves it, the value, and what the L1
holds after. An unsettled location may give the line's value or the home's: a free choice. -/
def loadL1 (s : State) (a ga n e : Nat) (acq : Bool) : Bool × Nat × State :=
  let c := core s a
  let miss := fun (s : State) => (false, viewN s a ga n, fillL1 (serveRead s a ga e) a ga e)
  if allOwn c ga n then (true, viewN s a ga n, s)
  else match cleanLine c ga e with
    | none => miss s
    | some l =>
      let old := lineN c l ga n
      if acq then miss s
      else if old = viewN s a ga n then (true, old, s)
      else
        let (v, s1) := draw s
        if v.toNat % 2 = 0 then (true, old, s1) else miss s1

/-- A view boundary drops clean PHASE lines; an acquire at GANG scope or wider drops clean HC lines as well (R286, R290). -/
def dropClean (s : State) (a : Nat) (hc : Bool) : State :=
  modCore s a (fun c => { c with clean := c.clean.filter (fun l => l.2.1 != 1 && !(hc && l.2.1 == 2)) })

/-- An acquire at a scope (R101, R290): GANG or wider is a view boundary. -/
def acquire (s : State) (a : Nat) (sc : Scope) : State := if sc = .tile then s else dropClean s a true

/-- Puts n bytes of x among an L1's own bytes. -/
def putOwn (m : SMap Byte) (ga : Nat) : Nat → Nat → SMap Byte
  | 0, _ => m
  | n + 1, x => putOwn (insAt m ga (BitVec.ofNat 8 x)) (ga + 1) n (x / 256)

def dropOwn (m : SMap Byte) (ga n : Nat) : SMap Byte := m.filter (fun e => e.1 < ga || decide (ga + n ≤ e.1))

/-- A write of own bytes clears the poison of the granules it covers whole (R384). -/
def coverOwn (ga n : Nat) (c : Core) : Core := { c with ownPoison := coverPoison c.ownPoison 32 ga n }

/-- A store of the tile takes the place of its older bytes of every class at the same location: a page's class may have changed between,
or two VAs name one page (R103, R313). -/
def overwrite (ga n : Nat) (c : Core) : Core :=
  coverOwn ga n { c with dirty := dropOwn c.dirty ga n, unpub := dropOwn c.unpub ga n, recUnpub := dropOwn c.recUnpub ga n }

/-- A store by class (R284, R286): PRIV stays dirty in the L1, PHASE is unpublished, HC performs at the home. -/
def storeG (s : State) (a ga n e x : Nat) : State :=
  match eClass e with
  | 0 => modCore (makeRoom s a (ga / 128)) a (fun c => let c := overwrite ga n c; { c with dirty := putOwn c.dirty ga n x })
  | 1 => modCore s a (fun c => let c := overwrite ga n c; { c with unpub := putOwn c.unpub ga n x })
  | _ => modCore (homeWrite s a ga n x) a (fun c => { overwrite ga n c with clean := delAt c.clean (ga / 128) })

/-- Publishes every unpublished store of a tile, those of a move record in progress apart: they belong to the next phase (R131, R289).
The tile's clean lines of what it publishes go with it: between here and the view boundary no read of the tile gives a value from
before its own store (R291). -/
def publish (s : State) (a : Nat) : State :=
  let bs := (core s a).unpub
  sharePoison (modCore (homeWriteAll s a bs) a (fun c => dropLinesOf bs { c with unpub := [] })) a bs

/-- The move record in progress is over: its stores are published by the next PHASE (R131). -/
def closeRecord (c : Core) : Core :=
  { c with unpub := c.recUnpub.foldl (fun m e => insAt m e.1 e.2) c.unpub, recUnpub := [] }

/-- Writes a tile's dirty PRIV bytes to their homes (R286). -/
def writeBack (s : State) (a : Nat) : State := writeBackIf s a (fun _ => true)

/-- A tile's own bytes of one line perform at the home (R107). -/
def flushLine (s : State) (a line : Nat) : State :=
  let here := fun (e : Nat × Byte) => e.1 / 128 == line
  let c := core s a
  let s1 := [c.dirty.filter here, c.unpub.filter here, c.recUnpub.filter here].foldl (fun s bs => homeWriteAll s a bs) s
  let s1 := modCore s1 a (fun c => { c with
    dirty := c.dirty.filter (fun e => !here e)
    unpub := c.unpub.filter (fun e => !here e)
    recUnpub := c.recUnpub.filter (fun e => !here e)
    clean := delAt c.clean line })
  sharePoison s1 a ((c.dirty ++ c.unpub ++ c.recUnpub).filter here)

/-- A store to a PHASE page would touch a line beyond the limit, which counts the record in progress too (R102, R131). -/
def overLimit (c : Core) (ga : Nat) : Bool :=
  let ls := linesOf (closeRecord c).unpub
  decide (65536 ≤ ls.length) && !ls.contains (ga / 128)

/-! ## Atomics (R106) -/

/-- The new value at the location (R106), w the operand width in bits. -/
def aopNew (op : AOp) (w : Nat) (old v c : Nat) : Nat :=
  match op with
  | .add => (old + v) % 2 ^ w
  | .and => old &&& v
  | .or => old ||| v
  | .xor => old ^^^ v
  | .min => if signed w old ≤ signed w v then old else v
  | .max => if signed w old ≤ signed w v then v else old
  | .minu => Nat.min old v
  | .maxu => Nat.max old v
  | .swap => v
  | .cas => if old = v then c else old

/-- Atomics at the home: the old value, and the state after (R107). -/
def homeAtomic (s : State) (a ga : Nat) (dw : Bool) (op : AOp) (v c : Nat) : Nat × State :=
  let n := if dw then 8 else 4
  let w := 8 * n
  let old := readN s.mem ga n
  (old, homeWrite s a ga n (aopNew op w old (v % 2 ^ w) (c % 2 ^ w)))

/-! ## The scratchpad (R17, R104) -/

def padRead (s : State) (a addr n : Nat) : Nat := readN (tile s a).pad addr n

/-- A write with byte enables; a granule covered whole loses its poison (R17, R384). -/
def padWrite (s : State) (a addr n x : Nat) : State :=
  modTile s a (fun t => { t with pad := writeN t.pad addr n x, padPoison := coverPoison t.padPoison 8 addr n })

def padPoisoned (s : State) (a addr n : Nat) : Bool := poisonedAt (tile s a).padPoison 8 addr n

end Sys2Proof.Machine
end

