-- ==== Sys2Proof/Machine/Mesh.lean ====
section
/-! DEFINITION. Bursts as they leave: the mesh, the ring, and the flows to other devices (R11, R13, R205, R364, R368, R369). -/

namespace Sys2Proof.Machine

/-! ## Sending within the device -/

/-- The cycles a header takes at least: R13's time within a die, and 6 for each mesh portion of a longer path (R13, R404). The spec does
not say where on a die's mesh a path to another die enters or leaves it: its portion at each end counts as one of no hops, and a die
between two ring hops adds none (DESIGN CHOICE, log entry 17). -/
def meshDelay (src dst : Nat) : Nat :=
  if src < 256 ∧ dst < 256 ∧ src / 64 = dst / 64 then 6 + 2 * hops (src % 64) (dst % 64)
  else (if endDie src < 4 then 6 else 0) + (if endDie dst < 4 then 6 else 0)

/-- Flits of a burst: header, extension, payload, scales (R205). -/
def burstFlits (b : Burst) : Nat := 1 + natOf b.ext + b.flits.length + natOf b.bscl

/-- A burst leaves for one tile of this device: no earlier than `leave`. -/
def sendTile (s : State) (src dst cls : Nat) (b : Burst) (leave : Nat) (co : Option Nat) : State :=
  { s with transit := s.transit ++ [
      { src := src
        dst := dst
        cls := cls
        ctx := (ctxOf s src).id
        inc := (die s (dieOf src)).incarn
        b := b
        due := leave + meshDelay src dst
        co := co
        num := 0 }] }

/-- A burst leaves for every tile of a rectangle (R229, R243). -/
def sendRect (s : State) (src d t mw mh cls : Nat) (b : Burst) (leave : Nat) : State :=
  (rect d t (mw + 1) (mh + 1)).foldl (fun s a => sendTile s src a cls b leave none) s

/-! ## Sending to another device (R364, R368, R369, R390) -/

/-- The port leads to a device: UALink within the domain, Ethernet beyond it, and where the configuration image says which devices a
port leads to, to those (R364, R396). -/
def portServes (s : State) (dev port : Nat) : Bool :=
  let named := s.dev.ports.filter (fun e => e.1 == port)
  (if sameDomain s dev then decide (8 ≤ port) && decide (port < 24) else decide (24 ≤ port) && decide (port < 32))
    && (named.isEmpty || named.contains (port, dev))

/-- A port that works leads to a device. -/
def portReaches (s : State) (dev : Nat) : Bool := (List.range 32).any (fun p => portServes s dev p && !s.dev.failedLinks.contains p)

/-- A device keeps its route: by a port, or, within the domain, through a member the configuration image names (R390). -/
def keepsRoute (s : State) (dev : Nat) : Bool :=
  portReaches s dev || (sameDomain s dev && s.dev.alternates.any (fun e => e.1 == dev && portReaches s e.2))

/-- Flits pass now between this device and another: a port that leads there, or to a member in its place, works and does not retrain; the
Ethernet ports stay down while feature 14 is disabled (R388, R390, R394). -/
def linkedTo (s : State) (dev : Nat) : Bool :=
  let passes := fun (d : Nat) => (List.range 32).any (fun p => portServes s d p && !s.dev.failedLinks.contains p && !s.dev.retraining.contains p)
  (sameDomain s dev || feature s 14) && (passes dev || (sameDomain s dev && s.dev.alternates.any (fun e => e.1 == dev && passes e.2)))

/-- What an access sends, or what answers it, passes now on the way between an agent and what serves it, named as a response names it, or
nothing will come of it: there is no path or no route, or the device is lost (R388 to R390). -/
def wayOpen (s : State) (a way : Nat) : Bool :=
  let d := if way < 4 then way else 4
  !diePath s (endDie a) d || (pathOpen s (endDie a) d
    && (decide (way < 8) || s.dev.lost.contains (way - 8) || !routed s (way - 8) || linkedTo s (way - 8)))

/-- Bytes of staging memory a burst to a device takes: Ethernet only (R368). -/
def stagingOf (s : State) (dev : Nat) (b : Burst) : Nat := if sameDomain s dev then 0 else 64 * burstFlits b

/-- Bytes the retry buffers of the UALink ports hold: bursts of this domain's flows kept until acknowledged (R368, R369). -/
def retryHeld (s : State) : Nat :=
  ((s.dev.flows.filter (fun f => sameDomain s f.dev)).flatMap (fun f => f.kept.map (fun e => 64 * burstFlits e.2.b))).sum

/-- The copy has no room yet: in staging memory, or in the retry buffer, whose size the spec does not give and which takes a burst
whenever it is empty (log entry 38); the sender waits at its next flit (R368). -/
def stagingFull (s : State) (dev : Nat) (b : Burst) : Bool :=
  if sameDomain s dev then 0 < retryHeld s && decide (Config.retryBytes < retryHeld s + 64 * burstFlits b)
  else decide (2 ^ 24 < s.dev.staging + stagingOf s dev b)

/-- A burst is handed to the collective die for another device: local completion is the retained copy (R368, R369). -/
def sendDevice (s : State) (dev cls ctx d t mw mh : Nat) (group : Option Nat) (b : Burst) : State :=
  if s.dev.lost.contains dev then bump s 4 0x04
  else if !routed s dev then noRoute (unacked s dev cls)
  else
    let f := findFlow s.dev.flows dev cls
    let db : DevBurst := ⟨s.dev.devid, cls, f.send, ctx, d, t, mw, mh, group, b⟩
    modDev s (fun v => { v with
      flows := putFlow v.flows { f with send := (f.send + 1) % 2 ^ 48, kept := f.kept ++ [(f.send, db)], since := f.since.orElse (fun _ => some s.now) }
      staging := v.staging + stagingOf s dev b })

/-- A burst to the device has to wait for room for its copy; one that is discarded waits for none (R364, R368, R390). -/
def noRoom (s : State) (dev : Nat) (b : Burst) : Bool := !s.dev.lost.contains dev && routed s dev && stagingFull s dev b

/-! ## Messages of a READDUP collapse (R369, R376) -/

/-- A message as its flow carries it: one flit that is addressed to no tile and no group. Its layout the spec does not give, and what it
says acts in the COLLAPSE_* events (DESIGN CHOICE, log entry 19). -/
def collapseNote : Burst := ⟨0, 0, 0, 0, 0, false, false, false, 0, 0, [], [], 0, []⟩

/-- A request, an answer or an acknowledgement of a collapse goes to a device, in the collective class: it takes a number of that flow, and
its copy is kept until the device has acknowledged it (R369, R376). -/
def sendNote (s : State) (dev ctx : Nat) : State := sendDevice s dev 1 ctx 0 0 0 0 (some 65536) collapseNote

/-! ## Publications (R131, R388) -/

/-- A tile publishes, and its core notes what serves the lines: the publication has performed once their answers come (R131, R388). -/
def beginPublish (s : State) (a : Nat) : State :=
  let at_ := ((core s a).unpub.map (fun e => servedBy e.1)).eraseDups
  modCore (publish s a) a (fun c => { c with pubAt := at_ })

/-- The answers of an agent's publication pass: no link on their way retrains (R388). -/
def pubAnswered (s : State) (a : Nat) : Bool := (core s a).pubAt.all (wayOpen s a)

end Sys2Proof.Machine
end

