-- ==== Sys2Proof/Machine/LoadStore.lean ====
section
/-! DEFINITION. Loads, stores, prefetch and atomics, and the responses that come for them (R99 to R110, R384). -/

namespace Sys2Proof.Machine

/-- Bytes of an access (R62). -/
def sizeBytes (z : Size) : Nat := match z with | .b => 1 | .h => 2 | .w => 4 | .d => 8

/-- (sa + X(off))[63:0] (R99). -/
def addrOf {n : Nat} (c : Core) (a : Nat) (off : BitVec n) : Nat := (rdS c a + off.signExtend 64).toNat

/-- What a load writes: sign-extended unless .U (R100). -/
def extended (n : Nat) (u : Bool) (x : Nat) : Word := if u then BitVec.ofNat 64 x else sextN (8 * n) x

def isAcq (o : Ord) : Bool := o == .acq || o == .ar

def isRel (o : Ord) : Bool := o == .rel || o == .ar

/-- An AMOS.CO of the agent has not been answered yet, so it may not have performed. -/
def coPending (s : State) (a : Nat) : Bool := (core s a).co.any (fun q => q.ans.isNone)

/-- A release, a fence, a FORK and a LAUNCHQ come after every earlier access of the core: all but AMOS.COs have performed when the word
issues, and it waits for those (R101, R114, R129, R130, R287). -/
def afterCo (rel : Bool) (s : State) (k : State → Out) : Out :=
  if rel && coPending s s.cur then stallWord .ownAtomic s else k s

/-- The word waits for a collapse of the page, the quag count held, or fails where the reeve core has declined it (R99, R377). -/
def awaitCollapse (va : Nat) (s : State) : Out :=
  if (core s s.cur).wait = .collapse va true then trapWord 0x08 (BitVec.ofNat 64 va) s
  else stall (.collapse va false) (modTile s s.cur holdCount)

/-- Poisoned data of global memory, or of a device that is lost (R384, R390): a granule is sound where the tile's own bytes cover it whole. -/
def poisonG (s : State) (a ga n : Nat) : Bool :=
  poisonedAt (core s a).ownPoison 32 ga n || (!allOwn (core s a) ga n && lostAt s a ga)
    || poisonedAt (s.memPoison.filter (fun g => !allOwn (core s a) (32 * g) 32)) 32 ga n

/-- Puts a response on its way, with the incarnation its request carried; the responses of older words to the same register no
longer write it (R90, R393). -/
def respond (s : State) (a d : Nat) (x : Word) (home va : Nat) : State :=
  modCore s a (fun c => { supersede d c with resp := (supersede d c).resp ++ [⟨d, x, (die s (dieOf a)).incarn, home, va, c.pc, false⟩] })

/-- LD (R99, R100, R101). -/
def execLd (o : LoadOp) (s : State) : Out :=
  word [] [o.d, o.a] o.g s fun s => writes o.d s fun s => needs [o.a] s fun s =>
    let a := s.cur
    let va := addrOf (core s a) o.a o.off
    let n := sizeBytes o.size
    if va % n ≠ 0 then trapWord 0x05 (BitVec.ofNat 64 va) s
    else match translate s a false (ctxOf s a) va false with
      | (.ok ga e, s) =>
        if poisonG s a ga n then trapWord 0x16 (BitVec.ofNat 64 va) s
        else
          let acq := isAcq o.ord && o.scope != .tile
          let s := if acq then dropClean s a true else s
          match loadL1 s a ga n e acq with
          | (true, x, s) => done (wrS o.d (extended n o.u x)) s
          | (false, x, t) =>
            match unroutedAt s ga with
            | some dev =>
              let (x, s) := draw { s with free := t.free }
              .next (advance (respond (discarded s dev) a o.d x (8 + dev) va))
            | none => .next (advance (respond t a o.d (extended n o.u x) (servedBy ga) va))
      | (_, s) => trapWord 0x06 (BitVec.ofNat 64 va) s

/-- The checks 2 to 5 of a store to a translated page (R99, R102), or of an AMO (R107), then what `k` does with it. R107 gives the AMO's
further check no place among R99's: it stands with check 4, and check 5 is none of an AMO's, whose line is published at once (DESIGN
CHOICE, log entry 23). A store whose implicit PHASE has just performed is made whatever the limit says (R102): the bytes of a move
record in progress, which that PHASE does not publish, may still stand at it. -/
def storeChecks (va : Nat) (amo : Bool) (r : Trans × State) (k : Nat → Nat → State → Out) : Out :=
  match r with
  | (.fail, s) => trapWord 0x07 (BitVec.ofNat 64 va) s
  | (.wprot, s) => trapWord 0x08 (BitVec.ofNat 64 va) s
  | (.collapse _, s) => awaitCollapse va s
  | (.ok ga e, s) =>
    let h := hdr s s.cur
    if (eClass e == 2 && !h.hcstores) || (amo && h.killable) then trapWord 0x09 (BitVec.ofNat 64 va) s
    else if eClass e = 1 ∧ overLimit (core s s.cur) ga ∧ !amo ∧ (core s s.cur).wait ≠ .published then
      (if h.killable then trapWord 0x13 (BitVec.ofNat 64 va) s
       else stall (.phase .store) (beginPublish s s.cur))
    else k ga e s

/-- A store, once its checks are passed, to an address that it reaches: one to a lost device or die raises an asynchronous trap, one
to a peer without a route is discarded (R364, R389, R390). -/
def reaching (va ga : Nat) (s : State) (k : State → Out) : Out :=
  if lostAt s s.cur ga then .next (advance (raiseLost s s.cur va))
  else match unroutedAt s ga with
    | some dev => .next (advance (discarded s dev))
    | none => k s

/-- ST (R99 to R102). -/
def execSt (o : StoreOp) (s : State) : Out :=
  word [] [o.a, o.b] o.g s fun s => needs [o.a, o.b] s fun s =>
    let a := s.cur
    let va := addrOf (core s a) o.a o.off
    let n := sizeBytes o.size
    if va % n ≠ 0 then trapWord 0x05 (BitVec.ofNat 64 va) s
    else storeChecks va false (translate s a false (ctxOf s a) va true) fun ga e s => afterCo (isRel o.ord) s fun s => reaching va ga s fun s =>
      .next (advance (storeG s a ga n e (rdS (core s a) o.b).toNat))

/-- The checks of a scratchpad access (R104): alignment, then bounds. -/
def padChecks (addr n : Nat) (s : State) (k : State → Out) : Out :=
  if addr % n ≠ 0 then trapWord 0x05 (BitVec.ofNat 64 addr) s
  else if (hdr s s.cur).scratch < addr + n then trapWord 0x04 (BitVec.ofNat 64 addr) s
  else k s

/-- An AMOS.CO of the agent to its own scratchpad has not performed there. -/
def ownCo (s : State) (a : Nat) : Bool :=
  let mine := fun (t : Transit) => t.src == a && t.co.isSome
  s.transit.any (fun t => mine t && t.dst == a)
    || (match (tile s a).reed.port with | some p => mine p.t | none => false)
    || (match (tile s a).reed.portNext with | some p => mine p.t | none => false)

/-- An access of the own scratchpad comes after every earlier AMOS.CO of this core that goes there, whatever its element (R103; log entry 39). -/
def afterOwnCo (s : State) (k : State → Out) : Out := if ownCo s s.cur then stallWord .ownAtomic s else k s

/-- LDS (R104). -/
def execLds (o : LoadS) (s : State) : Out :=
  word [] [o.d, o.a] o.g s fun s => writes o.d s fun s => needs [o.a] s fun s =>
    let addr := addrOf (core s s.cur) o.a o.off
    let n := sizeBytes o.size
    padChecks addr n s fun s => afterOwnCo s fun s =>
      if padPoisoned s s.cur addr n then trapWord 0x16 (BitVec.ofNat 64 addr) s
      else done (wrS o.d (extended n o.u (padRead s s.cur addr n))) s

/-- STS (R104). -/
def execSts (o : StoreS) (s : State) : Out :=
  word [] [o.a, o.b] o.g s fun s => needs [o.a, o.b] s fun s =>
    let addr := addrOf (core s s.cur) o.a o.off
    let n := sizeBytes o.size
    padChecks addr n s fun s => afterOwnCo s fun s =>
      .next (advance (padWrite s s.cur addr n (rdS (core s s.cur) o.b).toNat))

/-- PREF (R105): the line is brought into the L1 or the L2 where that meets no fault and no HC page; nothing else: a walk that fails
is not counted. R105 drops a PREF to a misaligned address and gives PREF no size to be aligned to: here none is misaligned (DESIGN
CHOICE, log entry 7). -/
def execPref (o : PrefOp) (s : State) : Out :=
  word [] [o.a] o.g s fun s => needs [o.a] s fun s =>
    let a := s.cur
    let va := addrOf (core s a) o.a o.off
    let ctx := ctxOf s a
    if 2 ^ 56 ≤ va then .next (advance s)
    else match walk s a ctx va true with
      | (some e, s) =>
        match gaOf s ctx va e with
        | some ga =>
          if eClass e = 2 ∨ lostAt s a ga ∨ (unroutedAt s ga).isSome then .next (advance s)
          else
            let s := serveRead s a ga e
            .next (advance (if o.l2 ∨ (cleanLine (core s a) ga e).isSome then s else fillL1 s a ga e))
        | none => .next (advance s)
      | (none, _) => .next (advance (if reachesAll s (dieOf a) (walkLines s ctx va) then unitReads s (dieOf a) (walkLines s ctx va) else s))

/-- The registers an atomic reads: sc only for CAS (R106). -/
def atomRegs (op : AOp) (a b c : Nat) : List Nat := if op = .cas then [a, b, c] else [a, b]

/-- What an atomic returns: the old value, sign-extended from bit 31 for .W (R106). -/
def oldValue (dw : Bool) (x : Nat) : Word := extended (if dw then 8 else 4) dw x

/-- AMO (R106, R107). A release waits for earlier AMOS.COs (R101). -/
def execAmo (o : AtomOp) (s : State) : Out :=
  word [] (o.d :: atomRegs o.op o.a o.b o.c) o.g s fun s => writes o.d s fun s => needs (atomRegs o.op o.a o.b o.c) s fun s =>
    let a := s.cur
    let va := addrOf (core s a) o.a o.off
    let n := if o.dw then 8 else 4
    if va % n ≠ 0 then trapWord 0x05 (BitVec.ofNat 64 va) s
    else storeChecks va true (translate s a false (ctxOf s a) va true) fun ga _ s => afterCo (isRel o.ord) s fun s =>
      if lostAt s a ga then
        let (x, s) := draw s
        done (wrS o.d x) (raiseLost s a va)
      else match unroutedAt s ga with
      | some dev =>
        let (x, s) := draw s
        .next (advance (respond (discarded s dev) a o.d x (8 + dev) va))
      | none =>
      if poisonG s a ga n then trapWord 0x16 (BitVec.ofNat 64 va) s
      else
        let s := flushLine s a (ga / 128)
        let c := core s a
        let (old, s) := homeAtomic s a ga o.dw o.op (rdS c o.b).toNat (rdS c o.c).toNat
        let s := if isAcq o.ord then acquire s a o.scope else s
        .next (advance (respond s a o.d (oldValue o.dw old) (servedBy ga) va))

/-- AMOS (R106, R108): one indivisible access of the tile's own scratchpad. -/
def execAmos (o : AtomS) (s : State) : Out :=
  word [] (o.d :: atomRegs o.op o.a o.b o.c) o.g s fun s => writes o.d s fun s => needs (atomRegs o.op o.a o.b o.c) s fun s =>
    let c := core s s.cur
    let addr := addrOf c o.a o.off
    let n := if o.dw then 8 else 4
    padChecks addr n s fun s => afterOwnCo s fun s =>
      if padPoisoned s s.cur addr n then trapWord 0x16 (BitVec.ofNat 64 addr) s
      else
        let w := 8 * n
        let old := padRead s s.cur addr n
        let new := aopNew o.op w old ((rdS c o.b).toNat % 2 ^ w) ((rdS c o.c).toNat % 2 ^ w)
        done (wrS o.d (oldValue o.dw old)) (padWrite s s.cur addr n new)

/-! ## AMOS.CO (R109, R110) -/

/-- The coordinates of a descriptor: 32 bits each from byte 16. -/
def descCoords (m : Mem) (addr : Nat) : List Nat := (List.range 12).map (fun d => readN m (addr + 16 + 4 * d) 4)

/-- The value of the first field that check 3 of R109 rejects: a die of 4 to 7 is outside the field's meaning "0–3" and is rejected
with the fields the check lists; where several fail, TRAPINFO holds the first of this order (DESIGN CHOICE, log entry 23). -/
def descBad (g0 g1 : Nat) (cs : List Nat) (dw : Bool) : Option Nat :=
  let nd := bits g0 43 40
  let f := bits g0 39 32
  if nd = 0 ∨ 12 < nd then some nd
  else if f ≠ INT32 ∧ f ≠ FP32 ∧ f ≠ FIX64 then some f
  else if (f == FIX64) != dw then some f
  else if bits g0 63 53 ≠ 0 then some (bits g0 63 53)
  else if bits g1 63 21 ≠ 0 then some (bits g1 63 21)
  else if 4 ≤ bits g0 52 50 then some (bits g0 52 50)
  else (cs.drop nd).find? (· ≠ 0)

/-- The ATOMIC burst (R206): operation, v and sc in one payload flit. -/
def atomBurst (g0 : Nat) (cs : List Nat) (op : AOp) (dw : Bool) (v c : Nat) : Burst where
  tensor := bits g0 31 0
  fmt := bits g0 39 32
  ndim := bits g0 43 40
  kind := 1
  runlen := 1
  sync := false
  ext := false
  bscl := false
  contrib := 0
  weight := 0
  coords := cs.take (bits g0 43 40)
  flits := [v + c * 2 ^ 64 + aopNum op * 2 ^ 128 + natOf dw * 2 ^ 132]
  scales := 0
  poison := []
where
  aopNum (op : AOp) : Nat :=
    match op with
    | .add => 0 | .and => 1 | .or => 2 | .xor => 3 | .min => 4 | .max => 5 | .minu => 6 | .maxu => 7 | .swap => 8 | .cas => 9

/-- Marks an AMOS.CO as outstanding; an owner that is lost is answered for at once (R110). Responses of older words to the same
register no longer write it (R90). -/
def expectCo (s : State) (a d : Nat) (dw : Bool) (dev : Option Nat) (die : Nat) (ans : Option (Option Word)) : State :=
  modCore s a (fun c => { supersede d c with co := (supersede d c).co ++ [⟨c.coNext, d, dw, dev, die, ans⟩], coNext := c.coNext + 1 })

/-- AMOS.CO (R109, R110). One to a die that no path reaches fails as at a forced reset: its response carries no old value (R389, R392).
Its descriptor is read after every earlier AMOS.CO that goes to the own scratchpad (R103). One to another device waits, before any effect,
while the copy of its burst has no room (R368). R384 has no row for that read: a descriptor
on a poisoned granule is used as it stands (DESIGN CHOICE, log entry 27). -/
def execAmosCo (o : AtomS) (s : State) : Out :=
  word [12] (o.d :: atomRegs o.op o.a o.b o.c) o.g s fun s => writes o.d s fun s => needs (atomRegs o.op o.a o.b o.c) s fun s =>
    let a := s.cur
    let c := core s a
    let addr := addrOf c o.a o.off
    padChecks addr 64 s fun s => afterOwnCo s fun s =>
      let m := (tile s a).pad
      let g0 := readN m addr 8
      let g1 := readN m (addr + 8) 8
      let cs := descCoords m addr
      match descBad g0 g1 cs o.dw with
      | some x => trapWord 0x02 (info02 9 x) s
      | none =>
        let b := atomBurst g0 cs o.op o.dw (rdS c o.b).toNat (rdS c o.c).toNat
        let dev := bits g1 19 0
        let id := c.coNext
        let d := bits g0 52 50
        let t := bits g0 49 44
        if bitOf g1 20 ∨ dev = s.dev.devid then
          (if diePath s (dieOf a) d then
            .next (advance (sendTile (expectCo s a o.d o.dw none d none) a (64 * d + t) 0 b s.now (some id)))
           else .next (advance (expectCo s a o.d o.dw none d (some none))))
        else if diePath s (dieOf a) 4 && noRoom s dev b then stallWord .sends s
        else if diePath s (dieOf a) 4 then
          let s1 := expectCo s a o.d o.dw (some dev) 4 (if s.dev.lost.contains dev then some none else none)
          .next (advance (sendDevice s1 dev 0 (ctxOf s a).id d t 0 0 none b))
        else .next (advance (expectCo s a o.d o.dw (some dev) 4 (some none)))

/-! ## Responses -/

/-- No response can come yet: the peer has no route and is not declared lost (R364, R390). -/
def unanswered (s : State) (r : Resp) : Bool := decide (8 ≤ r.home) && !s.dev.lost.contains (r.home - 8) && !routed s (r.home - 8)

/-- The die a response comes from: what lies beyond the package comes over die 4. -/
def respDie (r : Resp) : Nat := if r.home < 4 then r.home else 4

/-- No response comes over a link any more: the device has been declared lost since, no path reaches the die, or its forced reset has
abandoned the request (R389, R390, R392). -/
def goneResp (s : State) (a : Nat) (r : Resp) : Bool :=
  r.home == 6 || (decide (8 ≤ r.home) && s.dev.lost.contains (r.home - 8)) || (decide (r.home < 4) && !diePath s (dieOf a) r.home)

/-- The response brings poisoned data: its flit is poisoned, or none comes any more (R383, R389, R390, R392). -/
def brokenResp (s : State) (a : Nat) (r : Resp) : Bool := r.bad || goneResp s a r

/-- The flits of a response wait while a link of their path retrains, within the package or at the port to a peer (R388). -/
def respWaits (s : State) (a : Nat) (r : Resp) : Bool :=
  !goneResp s a r && (!pathOpen s (respDie r) (dieOf a) || (decide (8 ≤ r.home) && !linkedTo s (r.home - 8)))

/-- The response a load or an AMO waits for; one for an earlier incarnation is dropped and counted (R90, R393). The word has gone
on: poisoned data leaves its register with a free value and raises trap 0x16 asynchronously (R384; log entry 40). -/
def execMemoryResponse (a k : Nat) (s : State) : Out :=
  let c := core s a
  match c.resp[k]? with
  | none =>
    if k - c.resp.length < c.late.length then
      .next (bump (modCore s a (fun c => { c with late := c.late.eraseIdx (k - c.resp.length) })) (dieOf a) 0x08)
    else .next s
  | some r =>
    let s1 := modCore s a (fun c => { c with resp := c.resp.eraseIdx k })
    let write := fun (x : Word) (c : Core) => if r.dst = 0 then c else { c with s := setAt 0 c.s r.dst x }
    if r.inc ≠ (die s (dieOf a)).incarn then .next (bump s1 (dieOf a) 0x08)
    else if unanswered s r then .next s
    else if respWaits s a r then .next s
    else if brokenResp s a r then
      let (x, s1) := draw s1
      .next (raiseAsync (modCore s1 a (write x)) a 0x16 (BitVec.ofNat 64 r.va) (trapSrc 0 r.pc 0))
    else .next (modCore s1 a (write r.value))

/-- The answer for an owner on another device, whose map is not this device's: an old value or none, a free choice (log entry 15). It
comes over the port to that device, once that works and does not retrain (R388). -/
def coAnswer (r : CoResp) (s : State) : Option (Option Word) × State :=
  match r.ans, r.dev with
  | some x, _ => (some x, s)
  | none, some d =>
    if s.dev.lost.contains d then (some none, s)
    else if !routed s d || !linkedTo s d then (none, s)
    else
    let (v, s1) := draw s
    let (x, s2) := draw s1
    (some (if v.toNat % 2 = 0 then none else some x), s2)
  | none, none => (none, s)

/-- The owner's response (R110): the old value, or 0 with AMISS counting. Its flits wait while a link of their path retrains (R388);
where no path is left it carries no old value (R389). -/
def execAmosCoResponse (a k : Nat) (s : State) : Out :=
  match (core s a).co[k]? with
  | none => .next s
  | some r =>
    let there := diePath s r.die (dieOf a)
    match coAnswer r s with
    | (none, _) => .next s
    | (some v, s1) =>
      if there && !pathOpen s r.die (dieOf a) then .next s
      else let v := if there then v else none
      let s := s1
      .next (modCore s a (fun c => { c with
        co := c.co.eraseIdx k
        s := if r.dst = 0 then c.s else setAt 0 c.s r.dst (match v with | some x => oldValue r.dw x.toNat | none => 0)
        amiss := if v.isNone then c.amiss + 1 else c.amiss }))

end Sys2Proof.Machine
end

