-- ==== Sys2Proof/Machine/Engines.lean ====
section
/-! DEFINITION. The engines as the control core handles them: queues, stops, tokens, idleness (R114 to R123, R263 to R269). -/

namespace Sys2Proof.Machine

/-! ## FIFOs (R20, R69) -/

/-- Every FIFO named has room. -/
def roomFor (f : Fifos) (p : Push) : Bool :=
  (!p.xm || f.xm < 16) && (!p.mx || f.mx < 16) && (!p.xv || f.xv < 16) && (!p.vx || f.vx < 16) && (!p.mv || f.mv < 16) && (!p.vm || f.vm < 16)

def pushInto (f : Fifos) (p : Push) : Fifos :=
  ⟨f.xm + natOf p.xm, f.mx + natOf p.mx, f.xv + natOf p.xv, f.vx + natOf p.vx, f.mv + natOf p.mv, f.vm + natOf p.vm⟩

/-- Every FIFO named holds a token. -/
def tokensFor (f : Fifos) (p : Push) : Bool :=
  (!p.xm || 0 < f.xm) && (!p.mx || 0 < f.mx) && (!p.xv || 0 < f.xv) && (!p.vx || 0 < f.vx) && (!p.mv || 0 < f.mv) && (!p.vm || 0 < f.vm)

def popFrom (f : Fifos) (p : Push) : Fifos :=
  ⟨f.xm - natOf p.xm, f.mx - natOf p.mx, f.xv - natOf p.xv, f.vx - natOf p.vx, f.mv - natOf p.mv, f.vm - natOf p.vm⟩

def Push.isNone (p : Push) : Bool := !(p.xm || p.mx || p.xv || p.vx || p.mv || p.vm)

/-! ## Idleness (R118, R267) -/

def vecBusy (v : Vec) : Bool := v.run.isSome || v.push.isSome
def matBusy (m : Mat) : Bool := m.run.isSome || !m.busy.isEmpty || m.push.isSome
def movBusy (x : Mov) : Bool := x.run.isSome || x.busy.isSome || x.push.isSome

/-- The named engines are idle, with empty queues, and everything of their last units is done (R118). -/
def enginesIdle (t : Tile) (e : EMask) : Bool :=
  (!e.x || (t.mov.queue.isEmpty && !movBusy t.mov)) && (!e.m || (t.mat.queue.isEmpty && !matBusy t.mat))
    && (!e.v || (t.vec.queue.isEmpty && !vecBusy t.vec))

def allEngines : EMask := ⟨true, true, true⟩

/-- The event latch is set (R145). -/
def setLatch (s : State) (a : Nat) : State := modCore s a (fun c => { c with latch := true })

/-! ## Token registers (R121, R122) -/

/-- A token value: done, status, count. -/
def tokenValue (status count : Nat) : Word := BitVec.ofNat 64 (2 ^ 63 + status * 2 ^ 56 + count % 2 ^ 48)

/-- The token value is written and the mark clears; treg 0 names none. -/
def writeToken (s : State) (a r status count : Nat) : State :=
  if r = 0 then s
  else modCore s a (fun c => { clearTok r (wrS r (tokenValue status count) c) with latch := true })

/-! ## Stopping runs (R116, R119, R120) -/

/-- A result writes its destination: its lanes or its mask bits, and its flags (R150, R155, R384). -/
def landFlight (v : Vec) (f : Flight) : Vec :=
  let wrote := fun (k : Nat) => f.v.any (fun e => e.1 == k)
  { v with
    v := f.v.foldl (fun m e => setAt 0 m e.1 e.2) v.v
    m := match f.m with
      | some (n, which, x) => if n = 0 then v.m else setAt 0 v.m n ((getAt 0 v.m n &&& ~~~which) ||| (x &&& which))
      | none => v.m
    flags := v.flags ||| f.flags
    poison := v.poison.filter (fun g => !(wrote (2 * g) && wrote (2 * g + 1))) }

/-- The flight buffer writes back at once, in ascending order of what was left; its pushes are not made (R179). -/
def flushBuffer (v : Vec) : Vec :=
  { (List.range 11).foldl (fun v r => (v.buffer.filter (fun f => f.due == r)).foldl landFlight v) v with buffer := [] }

/-- The vector engine issues no further pair; results in flight write back. A trapped run ends with its buffer
emptied (R179, R269). Pushes not yet made are not made, in either case (R268). -/
def stopVec (v : Vec) : Vec :=
  if v.trapped then { flushBuffer v with run := none, trapped := false, held := none, draining := false, push := none }
  else if v.run.isSome then { v with draining := true, push := none, run := v.run.map (fun r => { r with stop := true }) }
  else v

/-- The record after MREP has begun its repetitions: they are part of the record in progress (R203). -/
def repeating (m : Mat) : Bool := m.rep.isSome && (m.o0 != 0 || m.o1 != 0)

/-- The parked matrix record is discarded, with the repetitions left of it (R122). One that an overrun holds is not parked by a fault:
it and its repetitions go on to their end (R203, R341). -/
def discardMat (m : Mat) : Mat := if m.parked then { m with parked := false, popped := false, held := none, rep := none, o0 := 0, o1 := 0 } else m

/-- The matrix engine stops at the next record boundary, which comes after every repetition; a parked record is discarded, and a push
that waits is not made (R116, R203, R268). -/
def stopMat (m : Mat) : Mat :=
  if m.run.isNone then m
  else
  let m := discardMat { m with push := none, paused := false }
  if m.busy.isEmpty ∧ !repeating m then { m with run := none, popped := false, rep := none }
  else { m with run := m.run.map (fun r => { r with stop := true }) }

/-- The fields of an X record. -/
def recOf (i : Instr) : Option XRec :=
  match i with
  | .xnop r | .xend r | .xrep r | .load r | .store r | .copy r | .fill r | .send r | .gather r | .scatter r | .coll r | .reds r
  | .signal r | .mapset r | .mapswap r | .mapclr r | .mapready r | .wellrd r => some r
  | _ => none

/-- The discarded record's completion record, with its token (R254). -/
def discardRecord (s : State) (a cause : Nat) (b : MovDone) : State :=
  match b.crec with
  | none => s
  | some (addr, g) =>
    let gs := (tokenValue cause (b.bits / 8)).toNat :: b.n :: (g.map (·.toNat))
    modTile s a (fun t => { t with pad := (List.range 8).foldl (fun m i => writeN m (addr + 8 * i) 8 (gs.getD i 0)) t.pad })

/-- Records above `tl` that have completed are taken into the timeline (R123). -/
def settle (tl : Word) (ahead : List Nat) : Nat → Word × List Nat
  | 0 => (tl, ahead)
  | n + 1 =>
    let next := (tl + 1).toNat
    if ahead.contains next then settle (tl + 1) (ahead.filter (· != next)) n else (tl, ahead)

/-- A record discarded where it parked at its acceptance: it has no number, so its completion record, where CREC asks for one at a
place that can be written, holds number 0 (R254; log entry 23). -/
def discardUnaccepted (s : State) (a cause pc : Nat) : State :=
  let b := (tile s a).banks
  match decodeX (readN (if b.actX then b.xB else b.xA) (64 * pc) 64) with
  | .ok i => (match recOf i with
    | some r =>
      let p := r.crec.toNat
      if r.fl.crec ∧ p % 64 = 0 ∧ p + 64 ≤ (hdr s a).scratch then
        padWrite s a p 64 (tokenValue cause 0).toNat
      else s
    | none => s)
  | .error _ => s

/-- The parked move record is discarded: its token is written with the fault code, and its run ends (R122, R257, R269). -/
def discardMov (s : State) (a : Nat) : State :=
  let m := (tile s a).mov
  match m.parked, m.run with
  | some (cause, treg), some r =>
    let s := match m.busy with | some b => discardRecord s a cause b | none => discardUnaccepted s a cause r.pc
    let s := modCore s a closeRecord
    let s := writeToken s a treg cause (match m.busy with | some b => b.bits / 8 | none => 0)
    modMov (setLatch s a) a (fun m => { m with
      run := none
      parked := none
      popped := false
      held := none
      rep := none
      resume := 0
      fetch := none
      pre := none
      tl := match m.busy with | some b => BitVec.ofNat 64 b.n | none => m.tl
      busy := none })
  | _, _ => s

/-- Pieces a cancelled run has written to global memory count in SPECWR. One "write" of R116 is one piece of one element within a line,
as it is issued; the record in progress at the cancel completes, and what it writes later is issued too (DESIGN CHOICE, log entry 41). -/
def countSpec (s : State) (a n : Nat) : State := modCore s a (fun c => { c with specwr := c.specwr + BitVec.ofNat 64 n })

/-- The run of the move engine has been cancelled; one that its XEND has ended has no record in progress any more. -/
def movStopped (m : Mov) : Bool := match m.run with | some r => r.stop | none => false

/-- The move engine stops at the next record boundary; a record that a fault has parked is discarded, and one that an overrun holds
completes (R116, R257, R341). A repetition under way keeps its place: it is the record in progress. A push that waits is not made
(R268). -/
def stopMov (s : State) (a : Nat) : State :=
  let m := (tile s a).mov
  if m.run.isNone then s
  else
    let s := countSpec s a (m.runWrites + (match m.busy with | some b => b.writes | none => 0))
    let s := modMov s a (fun m => { m with push := none, paused := false, runWrites := 0, busy := m.busy.map (fun b => { b with writes := 0 }) })
    if m.parked.isSome then discardMov s a
    else if m.busy.isNone then modMov s a (fun m => { m with run := none, popped := false, rep := none, fetch := none })
    else modMov s a (fun m => { m with run := m.run.map (fun r => { r with stop := true }) })

/-- The engine's run, if its tag and bank fit, stops, one that its end or an earlier cancel has stopped too: a push that waits is
dropped. An engine that is idle at once sets the event latch (R145, R268). -/
def stopIf (s : State) (a : Nat) (e : EMask) (p : RunEntry → Bool) : State :=
  let hit := fun (r : Option RunState) => match r with | some r => p r.e | none => false
  let ended := fun (r : Option RunState) (s : State) => if r.isNone then setLatch s a else s
  let s := if e.v && hit (tile s a).vec.run then (let s := modVec s a stopVec; ended (tile s a).vec.run s) else s
  let s := if e.m && hit (tile s a).mat.run then (let s := modMat s a stopMat; ended (tile s a).mat.run s) else s
  if e.x && hit (tile s a).mov.run then (let s := stopMov s a; ended (tile s a).mov.run s) else s

/-- Queue entries that fit are removed from the named engines. -/
def unqueue (s : State) (a : Nat) (e : EMask) (p : RunEntry → Bool) : State :=
  modTile s a (fun t => { t with
    vec := if e.v then { t.vec with queue := t.vec.queue.filter (fun r => !p r) } else t.vec
    mat := if e.m then { t.mat with queue := t.mat.queue.filter (fun r => !p r) } else t.mat
    mov := if e.x then { t.mov with queue := t.mov.queue.filter (fun r => !p r) } else t.mov })

/-- A bank is cancelled: entries removed, a started run stopped (R116). -/
def cancelRuns (s : State) (a : Nat) (e : EMask) (p : RunEntry → Bool) : State := stopIf (unqueue s a e p) a e p

/-- Entries and runs that fit become ordinary. -/
def commitRuns (s : State) (a : Nat) (e : EMask) (p : RunEntry → Bool) : State :=
  let f := fun (r : RunEntry) => if p r then { r with bank := Bank.none } else r
  let g := fun (r : Option RunState) => r.map (fun r => { r with e := f r.e })
  modTile s a (fun t => { t with
    vec := if e.v then { t.vec with queue := t.vec.queue.map f, run := g t.vec.run } else t.vec
    mat := if e.m then { t.mat with queue := t.mat.queue.map f, run := g t.mat.run } else t.mat
    mov := if e.x then { t.mov with queue := t.mov.queue.map f, run := g t.mov.run } else t.mov })

/-- The held fault of a run that is no longer speculative is taken (R269). -/
def releaseHeld (s : State) (a : Nat) : State :=
  let t := tile s a
  let free := fun (r : Option RunState) => match r with | some r => r.e.bank == Bank.none | none => false
  let fire := fun (s : State) (h : Option Pending) => match h with | some q => raiseAsync s a q.cause q.info q.src | none => s
  let s := if free t.vec.run then modVec (fire s t.vec.held) a (fun v => { v with held := none }) else s
  let s := if free t.mat.run then modMat (fire s t.mat.held) a (fun m => { m with held := none }) else s
  if free t.mov.run then modMov (fire s t.mov.held) a (fun m => { m with held := none }) else s

/-- A fault of an engine: held while its run is speculative, else an asynchronous trap (R137, R269). -/
def engineFault (s : State) (a : Nat) (e : Engine) (cause : Nat) (info src : Word) : State :=
  let t := tile s a
  let spec := fun (r : Option RunState) => match r with | some r => r.e.bank != Bank.none | none => false
  match e with
  | .v => if spec t.vec.run then modVec s a (fun v => { v with held := some ⟨cause, info, src⟩ }) else raiseAsync s a cause info src
  | .m => if spec t.mat.run then modMat s a (fun m => { m with held := some ⟨cause, info, src⟩ }) else raiseAsync s a cause info src
  | .x => if spec t.mov.run then modMov s a (fun m => { m with held := some ⟨cause, info, src⟩ }) else raiseAsync s a cause info src

/-! ## Fetch (R15, R16, R59): the active bank, little-endian -/

def fetchC (s : State) (a pc : Nat) : Nat := let b := (tile s a).banks; readN (if b.actC then b.cB else b.cA) (8 * pc) 8
def fetchV (s : State) (a pc : Nat) : Nat := let b := (tile s a).banks; readN (if b.actV then b.vB else b.vA) (16 * pc) 16
def fetchM (s : State) (a pc : Nat) : Nat := let b := (tile s a).banks; readN (if b.actM then b.mB else b.mA) (64 * pc) 64
def fetchX (s : State) (a pc : Nat) : Nat := let b := (tile s a).banks; readN (if b.actX then b.xB else b.xA) (64 * pc) 64

/-- The word at a place, with the words SAFEPT takes (R71). Words beyond the bank read as zero: a SAFEPT at words 8,189 to 8,191 takes
them without the trap that R76 gives a fetch at word 8,192, and the core goes on to the word after it, where that trap is taken with
that TRAPPC (DESIGN CHOICE, log entry 36). -/
def decodeAt (s : State) (a pc : Nat) : Except DecodeError Instr :=
  decodeC (fetchC s a pc) (fetchC s a (pc + 1)) (fetchC s a (pc + 2)) (fetchC s a (pc + 3))

/-! ## FORK (R114, R115) -/

/-- Every named engine has a free queue entry (R21). -/
def queuesFree (t : Tile) (e : EMask) : Bool :=
  (!e.x || t.mov.queue.length < 8) && (!e.m || t.mat.queue.length < 8) && (!e.v || t.vec.queue.length < 8)

/-- TRAPINFO of the first entry point at or beyond the header's count, in X, M, V order (R114, R401). -/
def entryBeyond (h : Header) (e : EMask) (x m v : Nat) : Option Word :=
  if e.x ∧ h.xrecs ≤ x then some (info02 3 x)
  else if e.m ∧ h.mrecs ≤ m then some (info02 4 m)
  else if e.v ∧ h.vpairs ≤ v then some (info02 5 v)
  else none

/-- One entry on each named queue, all in one cycle. -/
def queueRuns (e : EMask) (x m v : Nat) (p0 p1 : Word) (tag : Nat) (bank : Bank) (t : Tile) : Tile :=
  let r := fun (n : Nat) => RunEntry.mk n p0 p1 tag bank
  { t with
    mov := if e.x then { t.mov with queue := t.mov.queue ++ [r x] } else t.mov
    mat := if e.m then { t.mat with queue := t.mat.queue ++ [r m] } else t.mat
    vec := if e.v then { t.vec with queue := t.vec.queue ++ [r v] } else t.vec }

/-- FORK and FORKS once their checks and waits are behind them; sd and sa are both sources. The control core's accesses come before every
unit of the run, its AMOS.COs among them (R114, R287). -/
def forkWord (op : Nat) (feats : List Nat) (spec : Bool) (g : Guard) (d a : Nat) (e : EMask) (tag x m v : Nat) (bank : Bank) (s : State) : Out :=
  word feats [d, a] g s fun s => needs [d, a] s fun s =>
    if isSeq s.cur && (spec || e.m || e.v) then trapWord 0x02 (info02 7 op) s
    else match entryBeyond (hdr s s.cur) e x m v with
      | some i => trapWord 0x02 i s
      | none =>
        afterCo true s fun s =>
          if queuesFree (tile s s.cur) e then
            .next (advance (modTile s s.cur (fun t => queueRuns e x m v (rdS t.core d) (rdS t.core a) tag bank t)))
          else stall .fork s

/-- FORK (R114). -/
def execFork (o : ForkOp) (s : State) : Out :=
  forkWord 0x60 [] false o.g o.d o.a o.e o.tag o.xentry o.mentry o.ventry .none s

/-- FORKS (R115). -/
def execForks (o : ForkSOp) (s : State) : Out :=
  forkWord 0x61 [6] true o.g o.d o.a o.e o.tag o.xentry o.mentry o.ventry (if o.bank then .b else .a) s

/-- The stalled FORK finds room on every named queue and queues its runs (R114). -/
def execForkQueueEntryFree (a : Nat) (s : State) : Out :=
  if (core s a).wait = .fork then
    match decodeAt s a (core s a).pc with
    | .ok (.fork o) => if queuesFree (tile s a) o.e then execFork o { s with cur := a } else .next s
    | .ok (.forks o) => if queuesFree (tile s a) o.e then execForks o { s with cur := a } else .next s
    | _ => .next s
  else .next s

/-- RESOLVE (R116): one bank becomes ordinary, the other is cancelled; nothing is waited for. -/
def execResolve (o : ResolveOp) (s : State) : Out :=
  word [6] [] o.g s fun s =>
    if isSeq s.cur then trapWord 0x02 (info02 7 0x62) s
    else
      let keep : Bank := if o.bank then .b else .a
      let drop : Bank := if o.bank then .a else .b
      let s := cancelRuns s s.cur o.e (fun r => r.tag == o.tag.val && r.bank == drop)
      .next (advance (releaseHeld (commitRuns s s.cur o.e (fun r => r.tag == o.tag.val && r.bank == keep)) s.cur))

/-- CANCEL (R117): unstarted entries of a tag go, whatever their bank. -/
def execCancel (o : CancelOp) (s : State) : Out :=
  word [] [] o.g s fun s => .next (advance (unqueue s s.cur o.e (fun r => r.tag == o.tag.val)))

/-- RDV (R118). -/
def execRdv (o : RdvOp) (s : State) : Out :=
  word [] [] o.g s fun s =>
    if enginesIdle (tile s s.cur) o.e then .next (advance s) else stall (.rdv o.e) s

/-- The named engines have become idle and RDV acquires their effects (R118). -/
def execRdvComplete (a : Nat) (s : State) : Out :=
  match (core s a).wait with
  | .rdv e => if enginesIdle (tile s a) e then .next (advanceAt a s) else .next s
  | _ => .next s

/-! ## MAPWAIT (R125) -/

def slotOf (s : State) (a i : Nat) : Slot := (lookup (tile s a).reed.slots i).getD ⟨none, none, 0, false, 0, false, false, false⟩

/-- MAPWAIT: check 3 of R75 covers the slot (R260). -/
def execMapwait (o : MapWaitOp) (s : State) : Out :=
  wordX [] [o.d] (if (hdr s s.cur).maps ≤ o.slot.val then some (BitVec.ofNat 64 (2 * 64 + o.slot.val)) else none) o.g s fun s =>
    if isSeq s.cur then trapWord 0x02 (info02 7 0x67) s
    else writes o.d s fun s =>
      let sl := slotOf s s.cur o.slot
      if sl.ready then .next (advance (writeToken s s.cur o.d 0 sl.readyCount))
      else if o.d.val = 0 then stall (.mapwait o.slot) s
      else done (fun c => markTok o.d { c with mapTok := c.mapTok ++ [(o.d.val, o.slot.val)] }) s

/-- The awaited flag is set: the token values are written, and a stalled MAPWAIT goes on (R125). -/
def execMapwaitReady (a slot : Nat) (s : State) : Out :=
  let sl := slotOf s a slot
  if sl.ready then
    let due := (core s a).mapTok.filter (fun q => q.2 == slot)
    let s := due.foldl (fun s q => writeToken s a q.1 0 sl.readyCount) s
    let s := modCore s a (fun c => { c with mapTok := c.mapTok.filter (fun q => q.2 != slot) })
    .next (if (core s a).wait = .mapwait slot then advanceAt a s else s)
  else .next s

/-! ## Timelines (R123, R124) -/

/-- A timeline of an agent; a sequencer's tlc is its move engine's (R123, R366). -/
def timelineAt (s : State) (a : Nat) (t : Timeline) : Word :=
  match t with
  | .m => (tile s a).mat.tl
  | _ => (tile s a).mov.tl

/-- WAITTL (R124). -/
def execWaittl (o : WaitTlOp) (s : State) : Out :=
  word [] [o.a] o.g s fun s => needs [o.a] s fun s =>
    if o.tl = .c ∧ !isSeq s.cur then trapWord 0x02 (info02 7 0x68) s
    else
      let n := (rdS (core s s.cur) o.a).toNat
      if n ≤ (timelineAt s s.cur o.tl).toNat then .next (advance (acquire s s.cur o.scope))
      else stall (.waittl o.tl n o.scope) s

/-- The timeline has reached the awaited value (R124). -/
def execWaittlComplete (a : Nat) (s : State) : Out :=
  match (core s a).wait with
  | .waittl t n sc => if n ≤ (timelineAt s a t).toNat then .next (advanceAt a (acquire s a sc)) else .next s
  | _ => .next s

/-! ## Pushes that wait (R69) -/

/-- The pushes of a unit are made when every FIFO named has room; otherwise the engine holds them. -/
def pushOrHold (s : State) (a : Nat) (e : Engine) (p : Push) : State :=
  let t := tile s a
  if roomFor t.fifo p then modTile s a (fun t => { t with fifo := pushInto t.fifo p })
  else match e with
    | .v => modVec s a (fun v => { v with push := some p })
    | .m => modMat s a (fun m => { m with push := some p })
    | .x => modMov s a (fun m => { m with push := some p })

def heldPush (t : Tile) (e : Engine) : Option Push :=
  match e with
  | .v => t.vec.push
  | .m => t.mat.push
  | .x => t.mov.push

def clearPush (e : Engine) (t : Tile) : Tile :=
  match e with
  | .v => { t with vec := { t.vec with push := none } }
  | .m => { t with mat := { t.mat with push := none } }
  | .x => { t with mov := { t.mov with push := none } }

/-- The engine stands still at a trap or for an overrun: its results and pushes stay where they are until it goes on (R178, R341). -/
def standsStill (t : Tile) (e : Engine) : Bool :=
  match e with
  | .v => t.vec.trapped
  | .m => t.mat.paused
  | .x => t.mov.paused

/-- A stopped or ended run of an engine whose last unit is done is over: the engine is idle (R118, R160, R187). A drain that an overrun
has captured is not done (R160, R341). -/
def retire (s : State) (a : Nat) (e : Engine) : State :=
  let t := tile s a
  match e with
  | .v =>
    if t.vec.draining && !t.vec.trapped && t.vec.flight.isEmpty && t.vec.buffer.isEmpty && t.vec.push.isNone then
      setLatch (modVec s a (fun v => { v with run := none, draining := false })) a
    else s
  | .m =>
    match t.mat.run with
    | some r =>
      if r.stop && t.mat.busy.isEmpty && t.mat.push.isNone && !repeating t.mat then
        setLatch (modMat s a (fun m => { m with run := none, popped := false, rep := none })) a
      else s
    | none => s
  | .x =>
    match t.mov.run with
    | some r => if r.stop && t.mov.busy.isNone && t.mov.push.isNone then setLatch (modMov s a (fun m => { m with run := none, popped := false, rep := none, fetch := none, o0 := 0, o1 := 0 })) a else s
    | none => s

/-- A unit that waits for room makes its pushes (R69). -/
def execFifoPush (a : Nat) (e : Engine) (s : State) : Out :=
  match heldPush (tile s a) e with
  | none => .next s
  | some p =>
    if !standsStill (tile s a) e && roomFor (tile s a).fifo p then
      .next (retire (modTile s a (fun t => clearPush e { t with fifo := pushInto t.fifo p, progress := true })) a e)
    else .next s

end Sys2Proof.Machine
end

