-- ==== Sys2Proof/Machine/Tasks.lean ====
section
/-! DEFINITION. Tasks as the tiles and the scheduler share them: reports, kills, saves, joins (R342 to R356). -/

namespace Sys2Proof.Machine

/-! ## Reports -/

/-- gid and run number of a task, as group 4 of an event (R363). -/
def originGroup (t : Task) : Nat :=
  match t.origin with
  | .node _ gid _ run => gid * 2 ^ 48 + run % 2 ^ 48
  | _ => 0

/-- An event about an agent's task (R363). -/
def evTask (s : State) (type cause a g1 g2 g3 : Nat) : State :=
  match taskOf s a with
  | some t => event s type cause (dieOf a) (tileIdOf a) t.ctx.id g1 g2 g3 (originGroup t) 0 0
  | none => event s type cause (dieOf a) (tileIdOf a) 0 g1 g2 g3 0 0 0

/-! ## Ending on a tile (R120, R342) -/

/-- Every engine is stopped as EXIT.ABANDON stops it, and the core runs no more: the tile is done once they are idle (R120, R342). -/
def stopTile (s : State) (a : Nat) : State :=
  modTile (withdraw (cancelRuns s a allEngines (fun _ => true)) a) a (fun t => { t with
    core := { t.core with run := .ending, wait := .none, resp := [], co := [], mapTok := [], async := [], tok := 0, afterGbar := false }
    stepOpen := none
    killAt := none
    preemptAt := none })

/-- A killed tile: the flight buffer is dropped, its unpublished stores are retracted, those of a record in progress among them, dirty
PHASE lines are discarded (R297, R342). -/
def killTile (s : State) (a : Nat) : State :=
  let s := stopTile (modVec (dropClean s a false) a (fun v => { v with buffer := [] })) a
  modCore s a (fun c => { c with unpub := [], recUnpub := [], ownPoison := c.ownPoison.filter (lies c.dirty) })

/-- The core stands at a word boundary, or at a kill point that has not been let go (R342, R377). -/
def killable (w : Wait) : Bool :=
  match w with
  | .collapse _ _ => false
  | .retry => false
  | .published => false
  | .phase _ => false
  | _ => true

/-- The tile can be killed where it stands: it has not exited, its word has completed, and no trap that has reached the reeve core is
still to be handled (R342, R355, R377). -/
def killReady (c : Core) : Bool := c.run != .exited && c.run != .ending && c.run != .reeve false && killable c.wait

/-- A tile of a task that is killed, or that the reeve core or the host ends: a task that is not killable ends as by EXIT.ABANDON (R342,
R354). -/
def overTile (s : State) (a : Nat) : State := if (hdr s a).killable then killTile s a else stopTile s a

/-- A tile is over where it stands, or else at its next turn: a word that waits for a collapse, or whose PHASE has begun, completes first
(R377). -/
def killIfDue (s : State) (a : Nat) : State := if killReady (core s a) then overTile s a else s

/-- A killed task: every tile of the gang at its next word boundary; a suspended one is killed in place and its save slots
freed (R342, R345). -/
def killTask (s : State) (u cause : Nat) (how : Ending) : State :=
  match lookup s.tasks u with
  | none => s
  | some t =>
    let s := if t.state = .running then (gangOf t).foldl killIfDue s else s
    let s := modTask s u (fun t => { t with killed := some (cause, how), saved := [], slots := [] })
    event s 0x01 cause t.die (t.corner % 64) t.ctx.id 0 0 0 (originGroup t) 0 0

/-- A task that ends abnormally on the reeve core's account (R354): every tile at its next word boundary, killed if the task is killable,
otherwise as by EXIT.ABANDON; RESTART does not requeue it (R356). -/
def endTask (s : State) (u cause : Nat) : State :=
  match lookup s.tasks u with
  | none => s
  | some t =>
    let s := (gangOf t).foldl killIfDue s
    modTask s u (fun t => { t with killed := some (cause, .ended) })

/-- The task of an agent is killed because its quorum join has closed (R135, R342). -/
def killHere (s : State) (a : Nat) : State := match (tile s a).task with | some u => killTask s u 0x10 .close | none => s

/-- A kill is pending for the agent's killable task (R135). -/
def killDue (s : State) (a : Nat) : Bool := (tile s a).killAt.isSome && (hdr s a).killable

/-- The tile has done with its task: it has exited, or has been stopped and its engines are idle (R338, R342). -/
def tileDone (s : State) (a : Nat) : Bool :=
  let t := tile s a
  t.core.run == .exited || (t.core.run == .ending && enginesIdle t allEngines)

/-! ## Graph parts and joins (R327 to R331, R343 to R345) -/

def partKey (d gid : Nat) : Nat := d * 65536 + gid

def part (s : State) (d gid : Nat) : Option Part := lookup s.parts (partKey d gid)

def nodeAt (s : State) (d gid n : Nat) : Option Node := (part s d gid).bind (fun p => lookup p.nodes n)

def modNode (s : State) (d gid n : Nat) (f : Node → Node) : State :=
  match part s d gid with
  | none => s
  | some p => match lookup p.nodes n with
    | none => s
    | some x => { s with parts := insAt s.parts (partKey d gid) { p with nodes := insAt p.nodes n (f x) } }

/-- A join that is not plain (R329). -/
def isQuorum (k : NodeKind) : Bool := match k with | .join total need _ _ _ _ => !(total == 0 && need == 0) | _ => false

/-- A node's successors: die and node. -/
def succs (p : Part) (n : Node) : List (Nat × Nat) := (p.edges.drop n.edge0).take n.nsucc

/-- A join's predecessors in ascending order of die, then node (R343). -/
def preds (s : State) (gid jd jn : Nat) : List (Nat × Nat) :=
  (List.range 4).flatMap (fun d => match part s d gid with
    | none => []
    | some p => (p.nodes.filter (fun n => (succs p n.2).contains (jd, jn))).map (fun n => (d, n.1)))

def indexOfPair (x : Nat × Nat) : List (Nat × Nat) → Nat
  | [] => 0
  | y :: ys => if x = y then 0 else indexOfPair x ys + 1

/-- The quorum joins a task feeds (R344). -/
def joinsOf (s : State) (t : Task) : List (Nat × Nat) :=
  match t.origin with
  | .node d gid n _ =>
    match part s d gid with
    | none => []
    | some p => match lookup p.nodes n with
      | none => []
      | some x => (succs p x).filter (fun e => match nodeAt s e.1 gid e.2 with | some y => isQuorum y.kind | none => false)
  | _ => []

/-- The first quorum join a task feeds and has not arrived at. -/
def nextJoin (s : State) (t : Task) : Option (Nat × Nat) :=
  (joinsOf s t).find? (fun e => !t.arrivedAt.contains (partKey e.1 e.2))

/-- A contributor arrives at a join (R343 to R345): its weight and bit, and GRACE once the weight reaches QNEED. -/
def arriveAt (s : State) (gid : Nat) (j : Nat × Nat) (src : Nat × Nat) (weight : Nat) : State :=
  let i := indexOfPair src (preds s gid j.1 j.2)
  modNode s j.1 gid j.2 (fun n =>
    let q := n.qarr + weight
    let need := match n.kind with | .join _ need _ _ _ _ => need | _ => 0
    let enter := decide (n.qst = 0 ∧ need ≤ q)
    { n with
      qarr := q % 2 ^ 32
      qset := n.qset ||| 2 ^ i
      qst := if enter then 1 else n.qst
      graceAt := if enter then s.now else n.graceAt })

/-- GRACE is over: its cycles have run out, or every contributor has arrived (R345). -/
def graceOver (s : State) (gid : Nat) (j : Nat × Nat) (n : Node) : Bool :=
  match n.kind with
  | .join _ _ grace _ _ _ => decide (n.graceAt + grace ≤ s.now) || n.qset == 2 ^ (preds s gid j.1 j.2).length - 1
  | _ => false

/-- The join still accepts arrivals: OPEN, or GRACE that is not over; from that cycle on it is CLOSING (R344, R345). -/
def accepts (s : State) (gid : Nat) (j : Nat × Nat) : Bool :=
  match nodeAt s j.1 gid j.2 with | some n => n.qst == 0 || (n.qst == 1 && !graceOver s gid j n) | none => false

/-! ## Saving a gang (R134, R349, R350, R352) -/

/-- A slot that is not live keeps its ready and overflow flags, which MAPRDY and MAPOVF always save, with the count ready rose at; its
map, its shadow and its counter are left out (R349). -/
def flagsOnly (sl : Slot) : Slot := ⟨none, none, if sl.rising then sl.count else 0, sl.ready, sl.readyCount, sl.ovf, false, sl.rising⟩

/-- Registers, accumulators, regions and slots that are not live are left out, their poison with them; the planes go (R349). -/
def liveOnly (m : SafeMasks) (t : Tile) : Tile :=
  { t with
    core := { t.core with s := t.core.s.filter (fun e => m.s.getLsbD e.1), wait := .none, pc := t.core.pc + 4, afterGbar := false }
    vec := { t.vec with
      v := t.vec.v.filter (fun e => m.v.getLsbD (e.1 / 64))
      poison := t.vec.poison.filter (fun g => m.v.getLsbD (g / 32)) }
    mat := { t.mat with
      acc := t.mat.acc.filter (fun e => m.accs.getLsbD (e.1 / 8192))
      accPoison := t.mat.accPoison.filter (fun k => m.accs.getLsbD (k / 8192))
      active := .reset
      shadow := .reset }
    pad := t.pad.filter (fun e => m.regions.getLsbD (e.1 / 32768))
    padPoison := t.padPoison.filter (fun g => m.regions.getLsbD (g / 4096))
    reed := { t.reed with slots := t.reed.slots.map (fun e => if m.slots.getLsbD e.1 then e else (e.1, flagsOnly e.2)), port := none, portNext := none }
    preemptAt := none }

/-- A heavy save: everything declared, the vector engine's results captured as at a trap (R350). A move record that waits for a collapse
is made again from its element when the task resumes (R257, R377). -/
def heavyOnly (t : Tile) : Tile :=
  { t with
    core := { t.core with wait := .none }
    vec := { t.vec with
      buffer := t.vec.buffer ++ t.vec.flight.map (fun f => { f with due := f.due - t.vec.slot })
      flight := [] }
    mov := { t.mov with busy := t.mov.busy.map (fun b => { b with
      wait := match b.wait with | .collapse _ false => .resume | w => w }) }
    reed := { t.reed with port := none, portNext := none }
    preemptAt := none }

/-- Only the declared scratchpad is saved (R261). -/
def declaredOnly (h : Header) (t : Tile) : Tile :=
  { t with
    pad := t.pad.filter (fun e => decide (e.1 < h.scratch))
    padPoison := t.padPoison.filter (fun g => decide (8 * g < h.scratch)) }

/-- What stays of a control core when its task leaves: the numbers of its AMOS.COs go on, so that no answer to an ended task's
reaches a later one, and responses of an earlier incarnation are still to come (R110, R393). -/
def coreLeft (c : Core) : Core := { Core.reset with coNext := c.coNext, late := c.late }

/-- A Reedbed as a task finds or leaves it: its landing port goes on with the flits it holds (R338, R352). -/
def portOnly (r : Reed) : Reed := { Reed.reset with port := r.port, portNext := r.portNext, taken := r.taken, heads := r.heads }

/-- What a suspended task leaves of its tile: the landing port goes on with the flits it holds (R352). -/
def vacate (ctx : Nat) (t : Tile) : Tile :=
  { Tile.reset with
    core := coreLeft t.core
    pad := t.pad
    padPoison := t.padPoison
    banks := t.banks
    reed := portOnly t.reed
    lastCtx := ctx }

/-- Save slots a context's suspended tasks hold. -/
def slotsInUse (s : State) (ctx : Nat) : List Nat :=
  s.tasks.flatMap (fun e => if e.2.ctx.id = ctx ∧ e.2.state = .suspended then e.2.slots else [])

/-- The lowest free save slots of a context, as many as asked for. -/
def freeSlots (s : State) (c : Ctx) (n : Nat) : List Nat :=
  ((List.range c.nslot).filter (fun i => !(slotsInUse s c.id).contains i)).take n

/-- An agent's task leaves: the collapses that its accesses wait for go on without them, in the task's context (R376). A later access of
the page finds it LOCAL, or begins anew. -/
def leaveCollapses (s : State) (a : Nat) (ctx : Ctx) : State :=
  { s with collapses := s.collapses.map (fun c => if c.agent = a ∧ c.left.isNone then { c with left := some ctx } else c) }

/-- Saves one tile with `f`: a SEMWAIT is withdrawn, to be asked again (R400); PRIV lines written back; a task that is not killable
publishes (R286, R349, R350). -/
def saveTile (s : State) (u a : Nat) (f : Tile → Tile) : State :=
  match lookup s.tasks u with
  | none => s
  | some t =>
    let s := writeBack (withdraw s a) a
    let s := if t.hdr.killable then s else publish s a
    let s := modTask s u (fun x => { x with saved := insAt x.saved a (declaredOnly t.hdr (f (tile s a))) })
    modTile (leaveCollapses s a t.ctx) a (vacate t.ctx.id)

/-- Saves a gang at its safe points, each tile with the masks it stands at (R349). -/
def saveGang (s : State) (u : Nat) (heavy : Bool) : State :=
  match lookup s.tasks u with
  | none => s
  | some t =>
    let g := gangOf t
    let slots := freeSlots s t.ctx g.length
    let s := g.foldl (fun s a => saveTile s u a
      (if heavy then heavyOnly
       else match (core s a).wait with | .safept m => liveOnly m | _ => heavyOnly)) s
    modTask s u (fun t => { t with
      state := .suspended
      slots := slots
      heavy := heavy
      ovf := []
      ovfLost := [] })

/-- Nothing of the tile's engines is under way: records done or parked, results written back (R134, R349). A matrix record parks before
it is accepted; repetitions still to come are part of the record in progress (R203). -/
def quiet (t : Tile) : Bool :=
  t.mat.busy.isEmpty && (t.mat.parked || !repeating t.mat) && (t.mov.busy.isNone || t.mov.parked.isSome) && t.vec.flight.isEmpty

/-- The task can be saved now: its context has a free slot for each of its tiles (R348). -/
def slotsFree (s : State) (t : Task) : Bool := (freeSlots s t.ctx (gangOf t).length).length == (gangOf t).length

end Sys2Proof.Machine
end

