-- ==== Sys2Proof/Machine/Control.lean ====
section
/-! DEFINITION. Branches, synchronisation, safe points, task end, traps and system registers (R111 to R113, R118 to R146, R267). -/

namespace Sys2Proof.Machine

/-! ## Branches, calls and jumps (R111 to R113) -/

/-- A taken branch writes its link and goes to its target; a target beyond the bank traps at the branch (R76, R111). A target below
word 0, of which the spec does not speak, is outside the bank and traps alike (DESIGN CHOICE, log entry 36). -/
def jumpTo (link : Nat) (target : Int) (s : State) : Out :=
  if 0 ≤ target ∧ target < 8192 then
    .next (goTo target.toNat (modCore s s.cur (fun c => wrS link (BitVec.ofNat 64 (c.pc + 1)) c)))
  else trapWord 0x02 (info02 1 (wrap 64 target)) s

/-- The branch's own index plus the signed offset (R111). -/
def branchTarget (c : Core) (woff : BitVec 46) : Int := (c.pc : Int) + woff.toInt

def execBr (o : BrOp) (s : State) : Out :=
  word [] [] o.g s fun s => jumpTo 0 (branchTarget (core s s.cur) o.woff) s

def execCall (o : CallOp) (s : State) : Out :=
  word [] [o.link] o.g s fun s => writes o.link s fun s => jumpTo o.link (branchTarget (core s s.cur) o.woff) s

def execJmp (o : JmpOp) (s : State) : Out :=
  word [] [o.a] o.g s fun s => needs [o.a] s fun s => jumpTo 0 (rdS (core s s.cur) o.a).toNat s

/-- CALLR reads sa before it writes sd (R112). -/
def execCallr (o : RR) (s : State) : Out :=
  word [] [o.d, o.a] o.g s fun s => writes o.d s fun s => needs [o.a] s fun s => jumpTo o.d (rdS (core s s.cur) o.a).toNat s

def execRet (o : JmpOp) (s : State) : Out :=
  word [] [o.a] o.g s fun s => needs [o.a] s fun s => jumpTo 0 (rdS (core s s.cur) o.a).toNat s

/-! ## Semaphores and launches (R127 to R129) -/

/-- The clean line an agent holds of an address leaves its L1: the agent has written it at its home, or has seen its newer value
there, and reads no older one (R103, R287, R288). -/
def dropLine (s : State) (a ga : Nat) : State := modCore s a (fun c => { c with clean := delAt c.clean (ga / 128) })

/-- An addition to a 64-bit semaphore at its home (R127). -/
def semAdd (s : State) (a ga : Nat) (x : Word) : State := (homeAtomic s a ga true .add x.toNat 0).2

/-- SEMINC (R127). -/
def execSeminc (o : SemOp) (s : State) : Out :=
  word [] [o.a, o.b] o.g s fun s => needs [o.a, o.b] s fun s =>
    let a := s.cur
    let va := addrOf (core s a) o.a o.off
    if va % 8 ≠ 0 then trapWord 0x05 (BitVec.ofNat 64 va) s
    else match translate s a false (ctxOf s a) va true with
      | (.fail, s) => trapWord 0x07 (BitVec.ofNat 64 va) s
      | (.wprot, s) => trapWord 0x08 (BitVec.ofNat 64 va) s
      | (.collapse _, s) => awaitCollapse va s
      | (.ok ga e, s) =>
        if eClass e ≠ 2 ∨ (hdr s a).killable then trapWord 0x09 (BitVec.ofNat 64 va) s
        else afterCo true s fun s => reaching va ga s fun s => .next (advance (dropLine (semAdd s a ga (rdS (core s a) o.b)) a ga))

/-- The home holds this SEMWAIT of an agent (R128). -/
def semHeld (s : State) (a ga n : Nat) : Bool := s.waits.any (fun w => w.agent == a && w.ga == ga && w.n == n)

/-- The home's answer has come: an update has reached the awaited value, whatever has come after it, and the way back passes. A lost
device or die, or a peer without a route, answers none (R128, R388 to R390). -/
def semAnswered (s : State) (a ga n : Nat) : Bool :=
  s.waits.any (fun w => w.agent == a && w.ga == ga && w.n == n && w.met)
    && !lostAt s a ga && (unroutedAt s ga).isNone && wayOpen s a (servedBy ga)

/-- The wait is over: the home forgets it, and the agent acquires and goes on (R128). -/
def semGo (a ga : Nat) (sc : Scope) (s : State) : State := advanceAt a (dropLine (acquire (withdraw s a) a sc) a ga)

/-- The home is asked: the semaphore is read there once, and a wait that is not over is held there (R128, R314, R317). -/
def semAsk (w : Wait) (ga n : Nat) (sc : Scope) (s : State) : Out :=
  let a := s.cur
  let s := reachHome s a ga
  if n ≤ readN s.mem ga 8 then .next (semGo a ga sc s)
  else stall w { withdraw s a with waits := (withdraw s a).waits ++ [⟨a, ga, n, false⟩] }

/-- SEMWAIT, its checks behind it: it asks the home once, where a link of the way retrains as soon as that is over. R384, R389 and R390
say nothing of one on poisoned or lost memory: it raises trap 0x16 asynchronously as it issues, and goes on waiting (DESIGN CHOICE, log
entry 40). -/
def semWait (va ga n : Nat) (sc : Scope) (s : State) : Out :=
  let a := s.cur
  let w := Wait.semwait va ga n sc
  let held := semHeld s a ga n
  if lostAt s a ga || (!held && poisonedAt s.memPoison 32 ga 8) then stall w (raiseLost s a va)
  else if semAnswered s a ga n then .next (semGo a ga sc s)
  else if held then stall w s
  else match unroutedAt s ga with
    | some dev => stall w (if (core s a).wait = w then s else discarded s dev)
    | none => if wayOpen s a (servedBy ga) then semAsk w ga n sc s else stall w s

/-- SEMWAIT (R128): the permission and the class are not checked for a killable task. -/
def execSemwait (o : SemOp) (s : State) : Out :=
  word [] [o.a, o.b] o.g s fun s => needs [o.a, o.b] s fun s =>
    let a := s.cur
    let va := addrOf (core s a) o.a o.off
    if va % 8 ≠ 0 then trapWord 0x05 (BitVec.ofNat 64 va) s
    else match translate s a false (ctxOf s a) va false with
      | (.ok ga e, s) =>
        let k := (hdr s a).killable
        if !k && !eW e then trapWord 0x08 (BitVec.ofNat 64 va) s
        else if !k && eClass e != 2 then trapWord 0x09 (BitVec.ofNat 64 va) s
        else semWait va ga (rdS (core s a) o.b).toNat o.scope s
      | (_, s) => trapWord 0x06 (BitVec.ofNat 64 va) s

/-- The home answers a held wait once an update has crossed the threshold (R128). -/
def execSemwaitWake (a : Nat) (s : State) : Out :=
  match (core s a).wait with
  | .semwait _ ga n sc => if semAnswered s a ga n then .next (semGo a ga sc s) else .next s
  | _ => .next s

def queueOf (s : State) (d q : Nat) : Queue := (lookup (die s d).queues q).getD ⟨[], 0, true⟩

def putQueue (s : State) (d q : Nat) (x : Queue) : State := modDie s d (fun y => { y with queues := insAt y.queues q x })

/-- LAUNCHQ (R129, R335): a release at DEV scope, after every earlier AMOS.CO. Towards a die that no path reaches it fails as an access
there does: nothing is queued, sd holds a free value, and trap 0x16 is raised (R389; DESIGN CHOICE, log entry 40). While a link of the
path retrains it waits, before any effect (R388). -/
def execLaunchq (o : RRR) (s : State) : Out :=
  word [] [o.d, o.a, o.b] o.g s fun s => writes o.d s fun s => needs [o.a, o.b] s fun s =>
    let c := core s s.cur
    let va := (rdS c o.a).toNat
    let b := (rdS c o.b).toNat
    if 256 ≤ b then trapWord 0x02 (info02 9 (b / 256)) s
    else if va % 64 ≠ 0 then trapWord 0x05 (BitVec.ofNat 64 va) s
    else if (hdr s s.cur).killable then trapWord 0x09 (BitVec.ofNat 64 va) s
    else afterCo true s fun s =>
      let d := bits b 1 0
      let k := bits b 5 2
      let q := queueOf s d k
      if !diePath s (dieOf s.cur) d then
        let (x, s) := draw s
        done (wrS o.d x) (raiseLost s s.cur va)
      else if !pathOpen s (dieOf s.cur) d then stall .sends s
      else if 256 ≤ q.entries.length then done (wrS o.d 0) s
      else
        let e : QEntry := ⟨va, (ctxOf s s.cur).pa, bits b 7 6, q.next⟩
        let s1 := putQueue s d k { q with entries := q.entries ++ [e], next := (q.next + 1) % 2 ^ 48 }
        done (wrS o.d (BitVec.ofNat 64 (2 ^ 63 + q.next))) s1

/-! ## Fences, phases, barriers, steps (R130 to R133) -/

/-- FENCE (R130): an acquire at GANG scope or wider is a view boundary. Every order waits for earlier AMOS.COs: they are atomics, whose
words a later access may not pass. -/
def execFence (o : FenceOp) (s : State) : Out :=
  word [] [] o.g s fun s => afterCo true s fun s => .next (advance (if isAcq o.ord then acquire s s.cur o.scope else s))

/-- PHASE (R131): publication begins, and the core stalls until it has performed. -/
def execPhase (o : NoOp) (s : State) : Out :=
  word [] [] o.g s fun s => stall (.phase .phase) (beginPublish (progress s s.cur) s.cur)

/-- The publication has performed, once the answers of the homes have come: the boundary is set and the word goes on (R131, R290,
R388). -/
def execPhasePerformed (a : Nat) (s : State) : Out :=
  match (core s a).wait with
  | .phase f =>
    if !pubAnswered s a then .next s
    else
    let s := modCore (dropClean s a false) a (fun c => { c with pubAt := [] })
    match f with
    | .phase => .next (advanceAt a s)
    | .qarrive => .next (advanceAt a s)
    | .store => .next (modCore s a (fun c => { c with wait := .published }))
    | .exit => .next (modCore s a (fun c => { c with
        wait := .none
        run := .exited
        tok := 0 }))
  | _ => .next s

def arrivals (s : State) (a n : Nat) : Nat := getAt 0 (tile s a).bars n

def hasExited (s : State) (a : Nat) : Bool := (core s a).run == .exited

/-- A SYNC flit of a tile of the gang has not landed (R296). -/
def syncPending (s : State) (g : List Nat) : Bool := s.sync.any (fun f => g.contains f.src)

/-- A step's issue cycles are not over: a SYNC burst may still leave in it (R133). -/
def stepGoing (s : State) (a : Nat) : Bool := match (tile s a).stepOpen with | some st => decide (s.now < st.start + st.n) | none => false

/-- The generation the agent has arrived at is complete, no tile's step still issues, and no landing of a step of the gang is still to
come; an exited tile holds no other (R132, R273, R296). -/
def barComplete (s : State) (a n : Nat) : Bool :=
  let g := gang s a
  g.all (fun b => hasExited s b || (decide (arrivals s a n ≤ arrivals s b n) && !stepGoing s b)) && !syncPending s g

/-- The barrier lets an agent go: an acquire and release at GANG scope; the next word follows a GBAR (R132). -/
def passBar (a : Nat) (s : State) : State :=
  let pc := (core s a).pc
  let s := modTile (dropClean s a true) a (fun t => { t with arrived := t.arrived.filter (· != pc) })
  modCore (advanceAt a s) a (fun c => { c with afterGbar := true })

/-- Arrives once at the word's barrier (R400). -/
def arriveBar (a n : Nat) (s : State) : State :=
  modTile s a (fun t =>
    if t.arrived.contains t.core.pc then t
    else { t with arrived := t.core.pc :: t.arrived, bars := insAt t.bars n (getAt 0 t.bars n + 1), progress := true })

/-- Every gang tile that stands at a complete generation is released, all on one cycle (R132). -/
def releaseBar (a n : Nat) (s : State) : State :=
  (gang s a).foldl (fun s1 b => if (core s b).wait = .gbar n ∧ barComplete s b n then passBar b s1 else s1) s

/-- GBAR (R132): as a release it comes after every earlier AMOS.CO; then it arrives and waits; the arrival that completes the generation
releases every tile, and a gang of one at once. -/
def execGbar (o : GBarOp) (s : State) : Out :=
  wordX [] [] (if (hdr s s.cur).barriers ≤ o.n.val then some (info02 0 o.n.val) else none) o.g s fun s =>
    if isSeq s.cur then trapWord 0x02 (info02 7 0x5A) s
    else afterCo true s fun s => .next (releaseBar s.cur o.n (modCore (arriveBar s.cur o.n s) s.cur (fun c => { c with wait := .gbar o.n })))

/-- The last landing a complete generation waited for is over, and all are released on one cycle (R132, R296). -/
def execGbarRelease (a n : Nat) (s : State) : Out := .next (releaseBar a n s)

/-- SSTEP (R133). -/
def execSstep (o : SStepOp) (s : State) : Out :=
  word [7] [] o.g s fun s =>
    let t := tile s s.cur
    if isSeq s.cur || !t.core.afterGbar then trapWord 0x02 (info02 7 0x5B) s
    else
      if stepGoing s s.cur || syncPending s [s.cur] then stall .sstep s
      else
        let s := if o.n = 0 then s else modTile s s.cur (fun t => { t with stepOpen := some ⟨s.now + 1, o.n.toNat, 0⟩ })
        .next (advance s)

/-- The step's issue cycles have run out (R133). -/
def execCommunicationStepEnd (a : Nat) (s : State) : Out :=
  match (tile s a).stepOpen with
  | some st => if st.start + st.n ≤ s.now then .next (modTile s a (fun t => { t with stepOpen := none })) else .next s
  | none => .next s

/-! ## Safe points, kill points, arrival (R134 to R136) -/

/-- The lowest set bit at or above `n` of a mask of w bits. -/
def lowBit (x n : Nat) : Nat → Option Nat
  | 0 => none
  | w + 1 => if bitOf x n then some n else lowBit x (n + 1) w

/-- TRAPINFO of the first mask bit beyond the declarations (R134, R401): for a scratchpad region the failing field is the mask. R401 names
the lowest number of one kind; where masks of several kinds fail, accumulators, s, v, regions and slots are looked at in that order
(DESIGN CHOICE, log entry 23). -/
def maskBeyond (h : Header) (m : SafeMasks) : Option Word :=
  match lowBit m.accs.toNat h.accs (4 - h.accs) with
  | some i => some (BitVec.ofNat 64 i)
  | none => match lowBit m.s.toNat (Nat.max 1 h.sregs) (64 - Nat.max 1 h.sregs) with
    | some i => some (BitVec.ofNat 64 i)
    | none => match lowBit m.v.toNat h.vregs (32 - h.vregs) with
      | some i => some (BitVec.ofNat 64 (64 + i))
      | none => match lowBit m.regions.toNat (h.scratch / 32768) (32 - h.scratch / 32768) with
        | some _ => some (info02 9 m.regions.toNat)
        | none => match lowBit m.slots.toNat h.maps (32 - h.maps) with
          | some i => some (BitVec.ofNat 64 (128 + i))
          | none => none

def atSafept (w : Wait) : Bool := match w with | .safept _ => true | _ => false

/-- An agent stands at a SAFEPT word that directly follows a GBAR: it reaches the gang's safe point next (R134). -/
def nearsSafept (s : State) (a : Nat) : Bool :=
  (core s a).afterGbar && (match decodeAt s a (core s a).pc with | .ok (.safept _) => true | _ => false)

/-- SAFEPT (R134): four words long; never guarded. A request whose save slots have been taken since is withdrawn (R348). -/
def execSafept (o : SafeMasks) (s : State) : Out :=
  let a := s.cur
  match maskBeyond (hdr s a) o with
  | some i => trapWord 0x02 i s
  | none =>
    let pass := .next (goTo ((core s a).pc + 4) s)
    if killDue s a then .next (killHere s a)
    else match (tile s a).preemptAt, (tile s a).task with
      | some _, some u =>
        let g := gang s a
        let room := match taskOf s a with | some t => slotsFree s t | none => false
        if !room then .next (goTo ((core s a).pc + 4) (g.foldl (fun s b => modTile s b (fun t => { t with preemptAt := none })) s))
        else if g.length ≤ 1 ∨ (core s a).afterGbar then
          let others := g.filter (· != a)
          if others.all (fun b => atSafept (core s b).wait || nearsSafept s b) then
            let s1 := modCore s a (fun c => { c with wait := .safept o })
            if others.all (fun b => atSafept (core s b).wait) && g.all (fun b => quiet (tile s b)) then .next (saveGang s1 u false)
            else .next s1
          else pass
        else pass
      | _, _ => pass

/-- KILLPT (R135). -/
def execKillpt (o : NoOp) (s : State) : Out :=
  word [] [] o.g s fun s =>
    if isSeq s.cur then trapWord 0x02 (info02 7 0x5D) s
    else if killDue s s.cur then .next (killHere s s.cur)
    else .next (advance s)

/-- QARRIVE names a quorum join of the task's graph that has its LAUNCH node among its predecessors (R136). -/
def joinNamed (s : State) (a : Nat) (j : Nat × Nat) : Bool :=
  match taskOf s a with | some t => (joinsOf s t).contains j | none => false

/-- QARRIVE (R136). Where several of its checks for trap 0x02 fail, R136 says not which one TRAPINFO names: here the upper field of sa
comes before that of sb, and both before the join (DESIGN CHOICE, log entry 23). -/
def execQarrive (o : QArrOp) (s : State) : Out :=
  word [8] [o.a, o.b] o.g s fun s => needs [o.a, o.b] s fun s =>
    let c := core s s.cur
    let x := (rdS c o.a).toNat
    let w := (rdS c o.b).toNat
    let j := (bits x 17 16, bits x 15 0)
    if isSeq s.cur then trapWord 0x02 (info02 7 0x5E) s
    else if 2 ^ 18 ≤ x then trapWord 0x02 (info02 9 (x / 2 ^ 18)) s
    else if 2 ^ 16 ≤ w then trapWord 0x02 (info02 9 (w / 2 ^ 16)) s
    else if !joinNamed s s.cur j then trapWord 0x02 (info02 9 x) s
    else if killDue s s.cur then .next (killHere s s.cur)
    else if (match taskOf s s.cur with | some t => t.arrivedAt.contains (partKey j.1 j.2) | none => false) then .next (advance s)
    else stall (.qask j.1 j.2 (if o.b.val = 0 then (hdr s s.cur).weight else w) false) s

/-! ## EXIT (R119, R120, R344) -/

def notOrdinary (r : RunEntry) : Bool := r.bank != Bank.none

/-- EXIT's PHASE begins (R119). -/
def exitPhase (s : State) (a : Nat) : State := modCore (beginPublish s a) a (fun c => { c with wait := .phase .exit })

/-- The tile is at EXIT: it holds its PHASE, is at it, or is past it. -/
def atExit (s : State) (a : Nat) : Bool := hasExited s a || (core s a).wait == .hold || (core s a).wait == .phase .exit

/-- No join is left to ask: the tile's PHASE begins, and once every tile of the gang is at EXIT so do those held there (R344). -/
def exitFree (s : State) (t : Task) (a : Nat) : State :=
  let s := exitPhase s a
  if (gangOf t).all (atExit s) then (gangOf t).foldl (fun s b => if (core s b).wait = .hold then exitPhase s b else s) s else s

/-- EXIT stands before its PHASE: it asks each quorum join not arrived at, once every tile of the gang is there (R344). EXIT.ABANDON, of
which R344 does not speak, ends the task as EXIT does and asks as EXIT does (DESIGN CHOICE, log entry 28). -/
def exitAsk (s : State) (a : Nat) : State :=
  match taskOf s a with
  | none => exitPhase s a
  | some t =>
    match nextJoin s t with
    | none => exitFree s t a
    | some j =>
      if ((gangOf t).filter (· != a)).all (atExit s) then modCore s a (fun c => { c with wait := .qask j.1 j.2 t.hdr.weight true })
      else modCore s a (fun c => { c with wait := .hold })

/-- The steps of EXIT and EXIT.ABANDON; made again on reissue they have no further effect (R119, R120, R400). A pending MAPWAIT is
withdrawn as the word is reached: its register keeps its mark until the task ends (R125). Both wait for the responses of loads and AMOs
as well, which step 3 of R119 does not list (DESIGN CHOICE, log entry 28). -/
def exitWord (abandon : Bool) (s : State) : Out :=
  let a := s.cur
  if killDue s a then .next (killHere s a)
  else
    let s := modCore s a (fun c => { c with mapTok := [] })
    let s := if abandon then cancelRuns s a allEngines (fun _ => true) else cancelRuns s a allEngines notOrdinary
    let t := tile s a
    if enginesIdle t allEngines && t.core.co.isEmpty && t.core.resp.isEmpty then .next (exitAsk (progress s a) a)
    else stall (.exit abandon) s

def execExit (o : NoOp) (s : State) : Out := word [] [] o.g s fun s => exitWord false s

def execExitAbandon (o : NoOp) (s : State) : Out := word [] [] o.g s fun s => exitWord true s

/-- The join's scheduler answers an agent that asks (R136, R344): accepted, or kill. While no path reaches the join's die no answer comes,
nor while a link of the path retrains (R388, R389; DESIGN CHOICE, log entry 40). -/
def execQarriveAnswer (a : Nat) (s : State) : Out :=
  match (core s a).wait, taskOf s a, (tile s a).task with
  | .qask jd jn w exiting, some t, some u =>
    match t.origin with
    | .node d gid n _ =>
      if t.arrivedAt.contains (partKey jd jn) then .next (if exiting then exitAsk s a else advanceAt a s)
      else if !pathOpen s (dieOf a) jd then .next s
      else if accepts s gid (jd, jn) then
        let s := arriveAt s gid (jd, jn) (d, n) w
        let s := modTask s u (fun t => { t with
          arrivedAt := t.arrivedAt ++ [partKey jd jn]
          exitAt := if exiting then t.exitAt ++ [partKey jd jn] else t.exitAt })
        if exiting then
          match taskOf s a with
          | some t' => match nextJoin s t' with
            | some _ => .next (exitAsk s a)
            | none => .next (exitFree s t' a)
          | none => .next s
        else .next (modCore (beginPublish s a) a (fun c => { c with wait := .phase .qarrive }))
      else .next (killTask s u 0x10 .close)
    | _ => .next s
  | _, _, _ => .next s

/-! ## Traps, NOP, WFE, HALT (R137, R140, R141, R145, R146) -/

/-- TRAP: TRAPPC is the word after (R137, R141). -/
def execTrap (o : CodeOp) (s : State) : Out :=
  word [] [] o.g s fun s => trapAt 0x0E ((core s s.cur).pc + 1) (BitVec.ofNat 64 o.code.toNat) s

/-- BRK: TRAPPC is the BRK word itself (R137, R141). -/
def execBrk (o : CodeOp) (s : State) : Out :=
  word [] [] o.g s fun s => trapWord 0x0D (BitVec.ofNat 64 o.code.toNat) s

/-- ERET (R140): with IN clear, trap 0x01. -/
def execEret (o : NoOp) (s : State) : Out :=
  word [] [] o.g s fun s =>
    if (core s s.cur).trapIn then .next (returnTo (progress s s.cur) s.cur true)
    else trapWord 0x01 0x71 s

def execNop (o : NoOp) (s : State) : Out := word [] [] o.g s fun s => .next (advance s)

/-- WFE (R145). -/
def execWfe (o : NoOp) (s : State) : Out :=
  word [] [] o.g s fun s =>
    if (core s s.cur).latch then done (fun c => { c with latch := false }) s else stall .wfe s

/-- HALT (R146): TRAPPC, a halt record, and no other trap register. -/
def execHalt (o : NoOp) (s : State) : Out :=
  word [] [] o.g s fun s =>
    let next := (core s s.cur).pc + 1
    let s := advance s
    let s := modTile s s.cur (fun t => { holdCount t with core := { t.core with trapPc := BitVec.ofNat 64 next, run := .halted } })
    .next (evTask s 0x02 0 s.cur next 0 0)

/-- An asynchronous trap may be taken where the core stands (R400). The rule's two lists leave out five stalls: a word that waits for
earlier loads before its precise trap, one that waits for earlier AMOS.COs, and a LAUNCHQ or an AMOS.CO that waits before it sends, have
had no effect and stand at a boundary; SSTEP and WFE complete first (DESIGN CHOICE, log entry 28). -/
def atBoundary (w : Wait) : Bool :=
  match w with
  | .collapse _ _ => false
  | .retry => false
  | .published => false
  | .qask _ _ _ exit => exit
  | .phase _ => false
  | .sstep => false
  | .wfe => false
  | .safept _ => false
  | _ => true

/-- The first asynchronous trap that has fallen due is taken at a word boundary (R137, R400). TRAPSRC of 0x11 holds TRAPPC (R138, R379),
and that of 0x0F, which a stopped tile takes as it goes on, too (DESIGN CHOICE, log entry 44). -/
def execAsyncTrapTaken (a : Nat) (s : State) : Out :=
  let c := core s a
  match c.async with
  | [] => .next s
  | q :: qs =>
    if c.run = .running ∧ atBoundary c.wait then
      .next (takeTrap (modCore s a (fun c => { c with async := qs })) a q.cause c.pc q.info (if q.cause = 0x11 ∨ q.cause = 0x0F then trapSrc 0 c.pc 0 else q.src))
    else .next s

/-- The tile stays stopped at the reeve core, its trap handled; a kill that is due kills it at once (R355). -/
def stayStopped (s : State) (a : Nat) : State :=
  let s := modCore s a (fun c => { c with run := .reeve true })
  let killed := match taskOf s a with | some t => t.killed.isSome | none => false
  if killed then killIfDue s a else if killDue s a then killHere s a else s

/-- The reeve core handles a trap that has come to it, by cause and trap policy (R354); a kill that is pending, or an end that has been
made meanwhile, waits for that (R355). -/
def execTrapToReeveCore (a : Nat) (s : State) : Out :=
  let c := core s a
  if c.run = .reeve false then
    let cause := c.trapCause.toNat
    let s1 := evTask s 0x01 cause a c.trapPc.toNat c.trapInfo.toNat c.trapSrc.toNat
    match (tile s a).task, taskOf s a with
    | some u, some t =>
      if t.killed.isSome ∨ cause = 0x10 ∨ cause = 0x14 ∨ (cause = 0x0F ∧ t.hdr.killable) ∨ t.ctx.tpol = 1 then .next (stayStopped s1 a)
      else .next (endTask (modCore s1 a (fun c => { c with run := .reeve true })) u cause)
    | _, _ => .next (stayStopped s1 a)
  else .next s

/-! ## System registers (R142, R143, R267, R223, R312) -/

/-- RUNQ (R267). -/
def runqReg (t : Tile) : Word :=
  BitVec.ofNat 64 (t.mov.queue.length * 2 ^ 28 + t.mat.queue.length * 2 ^ 24 + t.vec.queue.length * 2 ^ 20
    + natOf (movBusy t.mov) * 2 ^ 19 + natOf (matBusy t.mat) * 2 ^ 18 + natOf (vecBusy t.vec) * 2 ^ 17)

/-- FIFOCT (R267). -/
def fifoctReg (f : Fifos) : Word :=
  BitVec.ofNat 64 (f.xm * 2 ^ 25 + f.mx * 2 ^ 20 + f.xv * 2 ^ 15 + f.vx * 2 ^ 10 + f.mv * 2 ^ 5 + f.vm)

/-- One bit per slot of a Reedbed. -/
def slotBits (t : Tile) (f : Slot → Bool) : Nat :=
  t.reed.slots.foldl (fun n e => n + natOf (f e.2) * 2 ^ e.1) 0

/-- REEDST (R223). -/
def reedstReg (r : Reed) : Word :=
  BitVec.ofNat 64 (natOf r.wellOvf * 2 ^ 63 + r.policy * 2 ^ 61 + r.well.length * 2 ^ 48 + r.lost)

def gangCorner (s : State) (a : Nat) : Nat := match taskOf s a with | some t => t.corner % 64 | none => tileIdOf a
def gangW (s : State) (a : Nat) : Nat := if isSeq a then 1 else match taskOf s a with | some t => t.gw | none => 1
def gangH (s : State) (a : Nat) : Nat := if isSeq a then 1 else match taskOf s a with | some t => t.gh | none => 1

/-- A system register as GETSYS reads it; none for a number that is not listed (R142). -/
def sysRead (s : State) (a n : Nat) : Option Word :=
  let t := tile s a
  let c := t.core
  let d := die s (dieOf a)
  let w := fun (x : Nat) => some (BitVec.ofNat 64 x)
  match n with
  | 0x000 => w (tileIdOf a)
  | 0x001 => w (dieOf a)
  | 0x002 => w s.dev.devid
  | 0x003 => w (if isSeq a then tileIdOf a else gangCorner s a)
  | 0x004 => w (gangW s a)
  | 0x005 => w (gangH s a)
  | 0x006 => w (if isSeq a then 0 else indexOf a (gang s a))
  | 0x007 => w d.incarn
  | 0x010 => w (cycle s (dieOf a))
  | 0x011 => some t.mov.tl
  | 0x012 => some t.mat.tl
  | 0x013 => some t.mov.accepted
  | 0x014 => some t.mat.accepted
  | 0x015 => some (runqReg t)
  | 0x016 => some (fifoctReg t.fifo)
  | 0x020 => w c.trapCause.toNat
  | 0x021 => some c.trapPc
  | 0x022 => some c.trapInfo
  | 0x023 => w (natOf c.trapVecEn * 2 ^ 63 + c.trapVec.toNat)
  | 0x024 => w (natOf c.trapIn)
  | 0x025 => some c.trapSrc
  | 0x030 => w t.vec.seed.toNat
  | 0x031 => w t.mov.seed.toNat
  | 0x032 => w t.vec.flags.toNat
  | 0x033 => w t.mat.flags.toNat
  | 0x034 => w t.mov.flags.toNat
  | 0x035 => some c.amiss
  | 0x036 => some c.specwr
  | 0x037 => w t.mat.seed.toNat
  | 0x040 => w 0xFFFF
  | 0x041 => w 0
  | 0x042 => w 0
  | 0x043 => w 0
  | 0x044 => some (getAt 0 s.dev.featen 0)
  | 0x045 => some (getAt 0 s.dev.featen 1)
  | 0x046 => some (getAt 0 s.dev.featen 2)
  | 0x047 => some (getAt 0 s.dev.featen 3)
  | 0x050 => w d.quaglim
  | 0x051 => some d.replctl
  | 0x052 => some d.sluicew
  | 0x053 => some c.replva
  | 0x056 => w 0
  | 0x057 => w (d.free2m.length * 2 ^ 32 + d.free64.length)
  | 0x058 => w d.pgrace
  | 0x060 => some (reedstReg t.reed)
  | 0x061 => w (slotBits t (·.ready))
  | 0x062 => w (slotBits t (·.ovf))
  | 0x063 => w t.reed.sslate.toNat
  | _ => none

/-- GETSYS (R142). -/
def execGetsys (o : GetSysOp) (s : State) : Out :=
  word [] [o.d] o.g s fun s => writes o.d s fun s =>
    match sysRead s s.cur o.sysno.toNat with
    | some x => done (wrS o.d x) s
    | none => trapWord 0x02 (info02 2 o.sysno.toNat) s

/-- The region of a physical address as REPLST shows it (R320). -/
def replstWord (s : State) (pa : Nat) : Word :=
  let r := region s (pa / 2 ^ 21)
  let sat := fun (n : Nat) => Nat.min n 65535
  BitVec.ofNat 64 (2 ^ 63 + r.dies % 16 * 2 ^ 56 + r.deg * 2 ^ 54 + homeDie pa * 2 ^ 52
    + sat (r.reads.foldl (fun n e => n + e.2) 0) * 2 ^ 32 + sat r.writes * 2 ^ 16 + sat r.colls)

/-- GETSYS REPLST (R320): REPLVA translated as a read, without a fault and without binding; a malformed entry counts (R306). Where no
path reaches the region's home, which keeps its state, the answer is a free value (R389; DESIGN CHOICE, log entry 40). -/
def execGetsysReplst (o : GetOwnOp) (s : State) : Out :=
  word [] [o.d] o.g s fun s => writes o.d s fun s =>
    let va := (core s s.cur).replva.toNat
    let ctx := ctxOf s s.cur
    if 2 ^ 56 ≤ va then done (wrS o.d 0) s
    else
      let (e, s) := walk s s.cur ctx va true
      match e.bind (fun e => if eState e = 2 ∨ eState e = 3 then gaOf s ctx va e else none) with
      | none => done (wrS o.d 0) s
      | some ga =>
        if lostAt s s.cur ga then
          let (x, s) := draw s
          done (wrS o.d x) s
        else done (wrS o.d (replstWord s ga)) s

/-- A free frame pushed onto a die's list, or the write discarded and counted (R312). -/
def ffPush (s : State) (d : Nat) (w : Word) : State :=
  let x := w.toNat
  let big := bitOf x 63
  let frame := bits x 35 16 * 65536
  let full := if big then decide (256 ≤ (die s d).free2m.length) else decide (1024 ≤ (die s d).free64.length)
  if bits x 62 36 ≠ 0 ∨ bits x 15 0 ≠ 0 ∨ (big ∧ bits x 20 16 ≠ 0) ∨ full then bump s d 0x02
  else modDie s d (fun y => if big then { y with free2m := y.free2m ++ [frame] } else { y with free64 := y.free64 ++ [frame] })

/-- SLUICEW of a die; on compute dies the two low fields stay 0 (R373). -/
def sluiceWrite (s : State) (d : Nat) (w : Word) : State :=
  modDie s d (fun y => { y with sluicew := BitVec.ofNat 64 (if d = 4 then w.toNat % 2 ^ 48 else w.toNat % 2 ^ 48 / 2 ^ 24 * 2 ^ 24) })

/-- FEATEN: only before the lock, and never a bit FEAT lacks (R395). -/
def featenWrite (s : State) (i : Nat) (w : Word) : State :=
  if s.dev.featLock then s
  else modDev s (fun v => { v with featen := setAt 0 v.featen i (if i = 0 then w &&& 0xFFFF else 0) })

/-- Sets the overflow flags of every slot; one that the present cycle has set stays set (R223). -/
def setOvf (x : Nat) (r : Reed) : Reed :=
  { r with slots := (List.range 32).foldl (fun m i =>
      let on := bitOf x i || r.fresh.ovf.contains i
      match lookup m i with
      | some sl => insAt m i { sl with ovf := on }
      | none => if on then insAt m i ⟨none, none, 0, false, 0, true, false, false⟩ else m) r.slots }

/-- Writes OVF and lost of REEDST; what the present cycle has set or counted is ORed or added in (R223). -/
def setReedst (x : Nat) (r : Reed) : Reed :=
  { r with wellOvf := bitOf x 63 || r.fresh.well, lost := satAdd 48 (x % 2 ^ 48) r.fresh.lost }

/-- A system register as SETSYS writes it; none where the writer may not (R142). -/
def sysWrite (s : State) (a n : Nat) (x : Word) : Option State :=
  let sys := isReeve a
  let d := dieOf a
  match n with
  | 0x020 => some (modCore s a (fun c => { c with trapCause := BitVec.ofNat 8 x.toNat }))
  | 0x021 => some (modCore s a (fun c => { c with trapPc := x }))
  | 0x022 => some (modCore s a (fun c => { c with trapInfo := x }))
  | 0x023 => some (modCore s a (fun c => { c with trapVecEn := bitOf x.toNat 63, trapVec := BitVec.ofNat 13 x.toNat }))
  | 0x025 => some (modCore s a (fun c => { c with trapSrc := x }))
  | 0x032 => some (modVec s a (fun v => { v with flags := BitVec.ofNat 6 x.toNat }))
  | 0x033 => some (modMat s a (fun m => { m with flags := BitVec.ofNat 6 x.toNat }))
  | 0x034 => some (modMov s a (fun m => { m with flags := BitVec.ofNat 6 x.toNat }))
  | 0x035 => some (modCore s a (fun c => { c with amiss := x }))
  | 0x036 => some (modCore s a (fun c => { c with specwr := x }))
  | 0x053 => some (modCore s a (fun c => { c with replva := x }))
  | 0x060 => some (modReed s a (setReedst x.toNat))
  | 0x062 => some (modReed s a (setOvf x.toNat))
  | 0x063 => some (modReed s a (fun r => { r with sslate := BitVec.ofNat 32 x.toNat }))
  | 0x044 => if sys then some (featenWrite s 0 x) else none
  | 0x045 => if sys then some (featenWrite s 1 x) else none
  | 0x046 => if sys then some (featenWrite s 2 x) else none
  | 0x047 => if sys then some (featenWrite s 3 x) else none
  | 0x052 => if sys then some (sluiceWrite s d x) else none
  | 0x056 => if sys then some (ffPush s d x) else none
  | _ => none

/-- SETSYS (R142). -/
def execSetsys (o : SetSysOp) (s : State) : Out :=
  word [] [o.a] o.g s fun s => needs [o.a] s fun s =>
    match sysWrite s s.cur o.sysno.toNat (rdS (core s s.cur) o.a) with
    | some s1 => .next (advance s1)
    | none => trapWord 0x02 (info02 2 o.sysno.toNat) s

/-- A SETSYS with a row of its own: its effect, given the value. -/
def setOwn (o : SetOwnOp) (s : State) (f : Word → State → State) : Out :=
  word [] [o.a] o.g s fun s => needs [o.a] s fun s => .next (advance (f (rdS (core s s.cur) o.a) s))

/-- The same for a register only system mode may write (R142). -/
def setOwnSys (sysno : Nat) (o : SetOwnOp) (s : State) (f : Word → State → State) : Out :=
  word [] [o.a] o.g s fun s => needs [o.a] s fun s =>
    if isReeve s.cur then .next (advance (f (rdS (core s s.cur) o.a) s))
    else trapWord 0x02 (info02 2 sysno) s

/-- A seed of 32 bits from the 64-bit value that SETSYS writes to SEEDV, SEEDX or SEEDM: R54 and R142 give those registers no layout, and
here the upper half is ignored, so that a value whose lower half is zero seeds as 0 does (DESIGN CHOICE, log entry 44). -/
def low32 (x : Word) : BitVec 32 := BitVec.ofNat 32 x.toNat

/-- SETSYS SEEDV (R54). -/
def execSetsysSeedv (o : SetOwnOp) (s : State) : Out :=
  setOwn o s fun x s => modVec s s.cur (fun v => { v with seed := seedOf (low32 x) })

/-- SETSYS SEEDX (R54): the move generator, and the read-out generator with the seed rotated left by 16. -/
def execSetsysSeedx (o : SetOwnOp) (s : State) : Out :=
  setOwn o s fun x s => modMat (modMov s s.cur (fun m => { m with seed := seedOf (low32 x) })) s.cur
    (fun m => { m with seed := (seedOf (low32 x)).rotateLeft 16 })

/-- SETSYS SEEDM (R54). -/
def execSetsysSeedm (o : SetOwnOp) (s : State) : Out :=
  setOwn o s fun x s => modMat s s.cur (fun m => { m with seed := seedOf (low32 x) })

/-- REPLCTL's fields of a word: reserved bits read zero (R319). -/
def replctlOf (x : Nat) : Nat := bits x 63 62 * 2 ^ 62 + bits x 52 48 * 2 ^ 48 + bits x 47 40 * 2 ^ 40 + bits x 39 32 * 2 ^ 32

/-- A write of REPLCTL (R319): EPOCH at once, with a new epoch; the rest at the next epoch end. -/
def replctlWrite (d : Nat) (x : Word) (s : State) : State :=
  let e := bits x.toNat 52 48
  if bits x.toNat 63 62 = 3 ∨ e < 12 ∨ 24 < e then s
  else modDie s d (fun y => { y with
    replctl := BitVec.ofNat 64 (y.replctl.toNat - bits y.replctl.toNat 52 48 * 2 ^ 48 + e * 2 ^ 48)
    replNext := some (BitVec.ofNat 64 (replctlOf x.toNat))
    epochAt := s.now })

def execSetsysReplctl (o : SetOwnOp) (s : State) : Out :=
  setOwnSys 0x051 o s fun x s => replctlWrite (dieOf s.cur) x s

/-- QUAGLIM (R378). -/
def quaglimWrite (d : Nat) (x : Word) (s : State) : State :=
  let lg := bits x.toNat 5 0
  if lg = 0 ∨ (16 ≤ lg ∧ lg ≤ 40) then modDie s d (fun y => { y with quaglim := lg }) else s

def execSetsysQuaglim (o : SetOwnOp) (s : State) : Out :=
  setOwnSys 0x050 o s fun x s => quaglimWrite (dieOf s.cur) x s

/-- PGRACE (R342). -/
def pgraceWrite (d : Nat) (x : Word) (s : State) : State :=
  let lg := bits x.toNat 5 0
  if 16 ≤ lg ∧ lg ≤ 30 then modDie s d (fun y => { y with pgrace := lg }) else s

def execSetsysPgrace (o : SetOwnOp) (s : State) : Out :=
  setOwnSys 0x058 o s fun x s => pgraceWrite (dieOf s.cur) x s

/-! ## TLBINV (R144, R310) -/

/-- Entries that do not cover a VA. -/
def keepVa (va : Nat) (ts : List TlbEntry) : List TlbEntry := ts.filter (fun t => !(decide (t.va ≤ va) && decide (va < t.va + t.size)))

def keepCtx (ctx : Nat) (ts : List TlbEntry) : List TlbEntry := ts.filter (fun t => t.ctx != ctx)

/-- Drops entries from an agent's TLBs and its die's last level. R144 has kinds 0 and 1 drop "this tile's entries", and has no later access
of the core use an old one: the last level serves this tile too, so its entries go, for the other tiles of the die as well (DESIGN CHOICE,
log entry 8). -/
def dropTlb (s : State) (a : Nat) (f : List TlbEntry → List TlbEntry) : State :=
  let s := modCore s a (fun c => { c with ctlb := f c.ctlb })
  let s := modMov s a (fun m => { m with xtlb := f m.xtlb })
  modDie s (dieOf a) (fun d => { d with lltlb := f d.lltlb })

/-- Every TLB of a die (R144, kind 2). -/
def flushDieTlbs (s : State) (d : Nat) : State :=
  let s := s.tiles.foldl (fun s e => if dieOf e.1 = d then
      modMov (modCore s e.1 (fun c => { c with ctlb := [] })) e.1 (fun m => { m with xtlb := [] }) else s) s
  modDie s d (fun y => { y with lltlb := [] })

/-- TLBINV (R144). -/
def execTlbinv (o : TlbinvOp) (s : State) : Out :=
  word [] [o.a] o.g s fun s => needs [o.a] s fun s =>
    let a := s.cur
    if o.kind.val = 0 then .next (advance (dropTlb s a (keepVa (rdS (core s a) o.a).toNat)))
    else if o.kind.val = 1 then .next (advance (dropTlb s a (keepCtx (ctxOf s a).id)))
    else if isReeve a then .next (advance (flushDieTlbs s (dieOf a)))
    else trapWord 0x02 (info02 8 2) s

end Sys2Proof.Machine
end

