-- ==== Sys2Proof/Machine/Coherence.lean ====
section
/-! DEFINITION. Migration, replication degrees and the collapse of READDUP pages (R314 to R325, R376, R377, R403). -/

namespace Sys2Proof.Machine

/-! ## Migration (R314) -/

/-- The slice that holds a line. -/
def sliceOf (s : State) (line : Nat) : Nat := (lookup s.placed line).getD (hashSlice (128 * line))

/-- Puts a line into a slice; its hashed slice needs no forwarding entry, and a full one lets its oldest line return first. -/
def placeLine (s : State) (line slice : Nat) : State :=
  let h := hashSlice (128 * line)
  let d := homeDie (128 * line)
  let rest := s.placed.filter (fun e => e.1 != line)
  let mine := rest.filter (fun e => hashSlice (128 * e.1) == h && homeDie (128 * e.1) == d)
  let rest := if 2048 ≤ mine.length then (match mine with | e :: _ => rest.erase e | [] => rest) else rest
  { s with placed := if slice = h then rest else rest ++ [(line, slice)] }

/-- LINE_MIGRATION (R314): four consecutive accesses from one tile of the home die, three hops or more away. -/
def execLineMigration (line a : Nat) (s : State) : Out :=
  match lookup s.access line with
  | some (b, n) =>
    if b = a ∧ 4 ≤ n ∧ a < 256 ∧ dieOf a = homeDie (128 * line) ∧ 3 ≤ hops (sliceOf s line) (a % 64) then
      .next (placeLine s line (a % 64))
    else .next s
  | none => .next s

/-! ## Degrees (R316, R317, R319) -/

/-- REPLCTL's MODE, OFF where cross-die replication is disabled (R394). -/
def replMode (s : State) (w : Word) : Nat := if feature s 10 then bits w.toNat 63 62 else 1

/-- The degree at an epoch's end (R317). -/
def nextDegree (mode raise lower : Nat) (r : Region) : Nat :=
  let reads := r.reads.foldl (fun n e => n + e.2) 0
  if mode = 1 then 0
  else if mode = 2 then 3
  else if lower ≤ r.colls ∨ reads < r.writes * raise then r.deg - 1
  else if raise * (r.writes + 1) ≤ reads then Nat.min (r.deg + 1) 3
  else r.deg

/-- The other dies in falling order of reads, ties to the lower number. -/
def rankDies (r : Region) (home : Nat) : List Nat :=
  let n := fun (d : Nat) => getAt 0 r.reads d
  let put := fun (d : Nat) (l : List Nat) => (l.filter (fun e => decide (n d ≤ n e))) ++ d :: l.filter (fun e => decide (n e < n d))
  (otherDies home).foldl (fun l d => put d l) []

/-- Replicas of a region's lines on dies outside a mask are invalidated. -/
def keepReplicas (m : SMap Nat) (reg mask : Nat) : SMap Nat :=
  m.filterMap (fun e =>
    if e.1 / 16384 = reg then (if e.2 &&& mask = 0 then none else some (e.1, e.2 &&& mask)) else some e)

/-- A region's epoch ends (R317): a die whose accesses carry RDEG MAX stays among the replica dies whatever the degree (R316), and
migrated lines return where the degree falls to 0 (R314). -/
def endRegion (mode raise lower home : Nat) (s : State) (e : Nat × Region) : State :=
  let (i, r) := e
  let deg := nextDegree mode raise lower r
  let dies := maskOf ((rankDies r home).take deg) ||| r.max
  let fell := decide (deg = 0) && r.deg != 0
  let r := { r with
    deg := deg
    dies := dies
    reads := r.reads.map (fun q => (q.1, q.2 / 2))
    writes := r.writes / 2
    colls := r.colls / 2 }
  { s with
    regions := insAt s.regions i r
    replicas := keepReplicas s.replicas i dies
    placed := if fell then s.placed.filter (fun q => q.1 / 16384 != i) else s.placed }

/-- The epoch of a die's regions that nothing has counted in: their degree is one value of the die (R317). -/
def endQuiet (mode raise lower d : Nat) (s : State) : State :=
  let old := (die s d).deg0
  let deg := nextDegree mode raise lower ⟨old, 0, 0, [], 0, 0⟩
  let s := modDie s d (fun y => { y with deg0 := deg })
  if deg = 0 ∧ old ≠ 0 then
    { s with placed := s.placed.filter (fun q => homeDie (128 * q.1) != d || (lookup s.regions (q.1 / 16384)).isSome) }
  else s

/-- REPLICATION_EPOCH_END (R317, R319): a written REPLCTL is in force from here. -/
def execReplicationEpochEnd (d : Nat) (s : State) : Out :=
  let y := die s d
  let lg := bits y.replctl.toNat 52 48
  if s.now < y.epochAt + 2 ^ lg then .next s
  else
    let w := match y.replNext with
      | some n => BitVec.ofNat 64 (n.toNat - bits n.toNat 52 48 * 2 ^ 48 + lg * 2 ^ 48)
      | none => y.replctl
    let s := modDie s d (fun y => { y with replctl := w, replNext := none, epochAt := s.now })
    let mine := s.regions.filter (fun e => homeDie (2 ^ 21 * e.1) == d)
    let s := endQuiet (replMode s w) (bits w.toNat 47 40) (bits w.toNat 39 32) d s
    .next (mine.foldl (endRegion (replMode s w) (bits w.toNat 47 40) (bits w.toNat 39 32) d) s)

/-! ## Contexts by their descriptors (R326, R403) -/

/-- A context descriptor at a PA of local memory; none where it is refused. -/
def ctxAt (s : State) (pa : Nat) : Option Ctx :=
  let g := fun (i : Nat) => readN s.mem (pa + 8 * i) 8
  let bad := bits (g 0) 12 0 != 0 || bits (g 5) 31 2 != 0 || g 6 != 0 || g 7 != 0 || bits (g 0) 63 52 == 0 || decide (2 ≤ bits (g 5) 1 0)
  if pa % 64 ≠ 0 ∨ 2 ^ 38 ≤ pa ∨ bad then none
  else some
    { pa := pa
      id := bits (g 0) 63 52
      root := bits (g 0) 51 13 * 8192
      peers := g 1
      dsets := g 2
      savea := g 3
      ovfa := g 4
      savesz := bits (g 5) 63 56
      nslot := bits (g 5) 55 44
      ovfrec := bits (g 5) 43 32
      tpol := bits (g 5) 1 0 }

/-- A die's scheduler or reeve core reads a context descriptor at its home; one whose home it cannot reach it cannot read (R314, R317,
R389). -/
def ctxRead (s : State) (d pa : Nat) : Option Ctx × State :=
  if diePath s d (homeDie pa) then (ctxAt s pa, unitReads s d [pa]) else (none, s)

/-- Die 4's reeve core reads the descriptor its registry names (R403). -/
def registryRead (s : State) (id : Nat) : Option Ctx × State :=
  match lookup s.dev.registry id with | some pa => ctxRead s 4 pa | none => (none, s)

/-! ## The collapse of a READDUP page (R323 to R325, R376, R377) -/

/-- A duplicate set: SPLIT and the devices; none where it is malformed. -/
def dupSet (s : State) (ctx : Ctx) (xref writer : Nat) : Option (Bool × List Nat) :=
  if ctx.dsets = 0 ∨ ctx.dsets % 8 ≠ 0 then none
  else match tableRead s ctx (ctx.dsets + 64 * xref) 64 with
    | none => none
    | some w =>
      let n := w % 16
      let dev := fun (i : Nat) => w / 2 ^ (8 * (4 + 4 * i)) % 2 ^ 32
      let devs := (List.range n).map dev
      let bad := bits w 30 4 != 0 || decide (n < 2) || decide (8 < n) || w / 2 ^ 288 != 0
        || (List.range 8).any (fun i => if i < n then decide (2 ^ 19 ≤ dev i) else dev i != 0)
        || !devs.contains writer || decide (devs.eraseDups.length < n)
      if bad then none else some (bitOf w 31, devs)

/-- The entry of a VA, with its own PA, while its page is READDUP. -/
def dupEntry (s : State) (ctx : Ctx) (va : Nat) : Option (Nat × Nat) :=
  match walkFrom s.mem va 4 ctx.root with
  | .leaf e lvl pa => if eState e = 3 ∧ !entryBad s ctx lvl e then some (e, pa) else none
  | .bad _ => none

/-- A reeve core's walk for a page that is to collapse: a malformed entry counts at the die that asks, and one met on the way to the
duplicate set at the owner's (R306, R402). -/
def countDup (s : State) (d : Nat) (ctx : Ctx) (va : Nat) : State :=
  match dupEntry s ctx va with
  | some (e, _) => countTable s (eOwner e) ctx ctx.dsets (ctx.dsets + 64 * eXref e) 64
  | none => if walkBad s ctx va then bump s d 0x01 else s

/-- What the reeve core of a READDUP page's owner die reads for its collapse: the page's entry and its duplicate set (R325, R402). -/
def dupLines (s : State) (ctx : Ctx) (va e : Nat) : List Nat :=
  entryReads s ctx va ++ tableReads s ctx ctx.dsets (ctx.dsets + 64 * eXref e) 64

/-- TLBINV kind 2 on every die: R325 has no agent read an old copy after it, and the sequencers of die 4 have TLBs as well. -/
def flushAllTlbs (s : State) : State := (List.range 5).foldl flushDieTlbs s

/-- The page's 32 entries become 64 KiB READDUP entries at the same frames. -/
def splitPage (s : State) (d e pa : Nat) : State :=
  let small := e - eSize e * 2 ^ 57
  (List.range 32).foldl (fun s i => homeWrite s (272 + d) (groupBase 1 pa + 8 * i) 8 (small + i * 2 ^ 12)) s

/-- Rewrites every entry of the group of one block. -/
def rewriteGroup (s : State) (d size pa new : Nat) : State :=
  let n := groupSize size
  (List.range n).foldl (fun s i => homeWrite s (272 + d) (groupBase size pa + 8 * i) 8 new) s

/-- The waiting access is let go: retried, or failed once declined. The hold of the quag count ends (R377, R378). -/
def releaseCollapse (s : State) (a : Nat) (x : Bool) (va : Nat) (declined : Bool) : State :=
  let s := { s with collapses := s.collapses.filter (fun c => !(c.agent == a && c.x == x && c.left.isNone)) }
  modTile s a (fun t =>
    let t := resumeCount t
    if x then { t with mov := { t.mov with busy := t.mov.busy.map (fun b => { b with
      wait := if declined then .collapse va true else .resume }) } }
    else { t with core := { t.core with wait := if declined then .collapse va true else .retry } })

/-- A collapse is over: the access that waits for it is let go; one that has left its agent is gone. -/
def endCollapse (s : State) (c : Collapse) (declined : Bool) : State :=
  if c.left.isNone then releaseCollapse s c.agent c.x c.va declined else { s with collapses := s.collapses.erase c }

/-- The context of a collapse's access. -/
def collapseCtx (s : State) (c : Collapse) : Ctx := c.left.getD (ctxOf s c.agent)

/-- The other devices of a set have answered, or count as having answered: answers come over ports that work and do not retrain (R376,
R388). -/
def setReached (s : State) (ds : List Nat) : Bool := ds.all (fun d => s.dev.lost.contains d || (routed s d && linkedTo s d))

def othersReached (s : State) (c : Collapse) : Bool := setReached s c.others

/-- A collapse of an agent that meets a test. -/
def findCollapse (s : State) (a : Nat) (p : Collapse → Bool) : Option Collapse := s.collapses.find? (fun c => c.agent == a && p c)

/-- The collapse an access that waits at its agent has under way. -/
def ownCollapse (s : State) (a : Nat) (x : Bool) : Option Collapse := findCollapse s a (fun c => c.x == x && c.left.isNone)

/-- The next part of an access's collapse can be made: it has none under way yet, or its answers are all there. -/
def collapseGoes (s : State) (a : Nat) (w : Bool × Nat) : Bool :=
  match ownCollapse s a w.1 with
  | none => true
  | some c => !c.done && othersReached s c

/-- The access of an agent that waits for a collapse: the control core's or the move engine's, the first that can go on (R376). -/
def collapseWait (s : State) (a : Nat) : Option (Bool × Nat) :=
  let ofCore := match (core s a).wait with | .collapse va false => [(false, va)] | _ => []
  let ofMov := match (tile s a).mov.busy with
    | some b => (match b.wait with | .collapse va false => [(true, va)] | _ => [])
    | none => []
  (ofCore ++ ofMov).find? (collapseGoes s a)

/-- The owner die's reeve core takes an access's collapse: a path leads there from the agent's die, and from there to what it reads. Where
none does, it declines (R389; DESIGN CHOICE, log entry 40). -/
def ownerReaches (s : State) (a e : Nat) (pas : List Nat) : Bool :=
  diePath s (endDie a) (eOwner e) && reachesAll s (eOwner e) pas

/-- A collapse begins (R325): the owner die's reeve core reads the set, which is malformed where it cannot be read, and asks every other
device of it. The requests go out as bursts of the collective class, each kept until its device acknowledges it, and wait for room as those
do; one without a route is discarded and counted, and waited for (R364, R369, R376). -/
def askSet (s : State) (a : Nat) (x : Bool) (va : Nat) : State :=
  let ctx := ctxOf s a
  match dupEntry s ctx va with
  | none => releaseCollapse (countDup s (dieOf a) ctx va) a x va false
  | some (e, _) =>
    if !ownerReaches s a e (dupLines s ctx va e) then releaseCollapse s a x va true
    else
      let s1 := unitReads s (eOwner e) (dupLines s ctx va e)
      match dupSet s ctx (eXref e) s.dev.devid with
      | none => releaseCollapse (countDup s1 (dieOf a) ctx va) a x va true
      | some (split, devs) =>
        let others := devs.filter (· != s.dev.devid)
        let asked := others.filter (fun d => !s.dev.lost.contains d)
        if asked.any (fun d => noRoom s d collapseNote) then s
        else
        let s := asked.foldl (fun s d => sendNote s d ctx.id) s1
        { s with collapses := s.collapses ++ [⟨a, x, ctx.id, va, others, split, false, none⟩] }

/-- With every answer yes, the page is split here, its translations go, and the others redirect (R325, R376); a page that is READDUP no
more needs no collapse. Where the owner die no longer reaches the entries, it declines (R389; DESIGN CHOICE, log entry 40). -/
def splitBlock (s : State) (c : Collapse) : State :=
  let ctx := collapseCtx s c
  match dupEntry s ctx c.va with
  | none => endCollapse (countDup s (dieOf c.agent) ctx c.va) c false
  | some (e, pa) =>
    if !ownerReaches s c.agent e (entryReads s ctx c.va) then endCollapse s c true
    else
    let s := flushAllTlbs (if c.split ∧ eSize e = 1 then splitPage s (eOwner e) e pa else s)
    { s with collapses := s.collapses.map (fun q => if q = c then { q with done := true } else q) }

/-- READDUP_COLLAPSE (R325, R376): the first part of an agent's collapse that can be made: the set is checked and the others are asked;
then the page is split here and the others redirect. A collapse whose access has been saved with its task goes on without it. -/
def execReaddupCollapse (a : Nat) (s : State) : Out :=
  match collapseWait s a with
  | some (x, va) => .next (match ownCollapse s a x with | some c => splitBlock s c | none => askSet s a x va)
  | none => .next (match findCollapse s a (fun c => c.left.isSome && !c.done && othersReached s c) with
    | some c => splitBlock s c
    | none => s)

/-- COLLAPSE_DECLINE (R325): a device of the set cannot redirect; one declared lost has answered yes (R376). -/
def execCollapseDecline (a dev : Nat) (s : State) : Out :=
  match findCollapse s a (fun c => !c.done && c.others.contains dev) with
  | some c => if s.dev.lost.contains dev ∨ !routed s dev ∨ !linkedTo s dev then .next s else .next (endCollapse s c true)
  | none => .next s

/-- A READDUP entry as its device comes to own its block: LOCAL with W set, the xref zero (R325, step 4). -/
def ownedEntry (e : Nat) : Nat := e - eState e * 2 ^ 61 + 2 * 2 ^ 61 - eXref e + (if eW e then 0 else 2 ^ 53)

/-- COLLAPSE_RETRY (R325, R376, R377): after the last acknowledgement the block becomes LOCAL with W set and its translations go; the
write is made again, where it still waits. -/
def execCollapseRetry (a : Nat) (s : State) : Out :=
  match findCollapse s a (fun c => c.done && othersReached s c) with
  | none => .next s
  | some c =>
      let ctx := collapseCtx s c
      match dupEntry s ctx c.va with
      | none => .next (endCollapse (countDup s (dieOf a) ctx c.va) c false)
      | some (e, pa) =>
        if !ownerReaches s a e (entryReads s ctx c.va) then .next (endCollapse s c true)
        else .next (endCollapse (flushAllTlbs (rewriteGroup s (eOwner e) (eSize e) pa (ownedEntry e))) c false)

/-- The index of a valid peer-table entry naming a device. -/
def peerIndex (s : State) (ctx : Ctx) (dev : Nat) : Option Nat := (List.range 4096).find? (fun i => peerDev s ctx i == some dev)

/-- A die's reeve core writes zeros over a range: writes at its home like any other, which collapse the replicas (R314, R317, R376). -/
def zeroRange (s : State) (d ga n : Nat) : State := homePaste s (272 + d) ga n [] []

/-- A frame given up goes to its die's list, or to the host by an event (R312, R325). -/
def returnFrame (s : State) (d pa size : Nat) : State :=
  let y := die s d
  let big := size == 1
  let full := if big then decide (256 ≤ y.free2m.length) else decide (1024 ≤ y.free64.length)
  if full ∨ 2 ≤ size then event s 0x2C 0 d 0 0 0 pa 0 0 size 0
  else modDie s d (fun y => if big then { y with free2m := y.free2m ++ [pa % 2 ^ 36] } else { y with free64 := y.free64 ++ [pa % 2 ^ 36] })

/-- The move records in progress on the device: agent and number. -/
def recordsInProgress (s : State) : List (Nat × Nat) :=
  s.tiles.filterMap (fun e => e.2.mov.busy.map (fun b => (e.1, b.n)))

/-- A frame given up is zeroed and returned once every record accepted before has completed, and the writer is sent its acknowledgement,
once there is room for its copy (R325, R369, R376). -/
def giveUp (s : State) (l : Leaving) : State :=
  if (recordsInProgress s).any (l.recs.contains ·) ∨ noRoom s l.writer collapseNote then { s with leaving := s.leaving ++ [l] }
  else sendNote (returnFrame (zeroRange s l.die l.frame (pageBytes l.size)) l.die l.frame l.size) l.writer l.ctx

/-- The frames given up whose records have completed by now. -/
def giveUpAll (s : State) : State := s.leaving.foldl giveUp { s with leaving := [] }

/-- This device, one of the set, redirects the block to the writer: split, entries rewritten, TLBs emptied (R325, steps 2 and 3). The
owner die's reeve core reads the page's entry and the peer table up to the writer's; where it cannot reach them, it cannot redirect. A
malformed entry counts, and each that the walks of the peer table meet; where an entry names no owner, at die 4, which the request came
through (R306; DESIGN CHOICE, log entry 19). -/
def redirect (q : CollapseReq) (ctx : Ctx) (s : State) : State :=
  match dupEntry s ctx q.va, peerIndex s ctx q.writer with
  | some (e, pa), some i =>
    let reads := entryReads s ctx q.va ++ tableReads s ctx ctx.peers ctx.peers (8 * (i + 1))
    if !reachesAll s (eOwner e) reads then s
    else
    let s := countTable (unitReads s (eOwner e) reads) (eOwner e) ctx ctx.peers ctx.peers (8 * (i + 1))
    let s := if q.split && eSize e == 1 then splitPage s (eOwner e) e pa else s
    (match dupEntry s ctx q.va with
    | none => s
    | some (e, pa) =>
      let new := e - eState e * 2 ^ 61 + 4 * 2 ^ 61 - eFrame e * 2 ^ 12 + q.frame % 2 ^ 36 * 2 ^ 12 - eXref e + i
      let s := flushAllTlbs (rewriteGroup s (eOwner e) (eSize e) pa new)
      giveUp s ⟨eOwner e, eFrame e * 2 ^ 16, eSize e, recordsInProgress s, q.writer, q.ctx⟩)
  | none, _ => countDup s 4 ctx q.va
  | some (e, _), none => countTable s (eOwner e) ctx ctx.peers ctx.peers 32768

/-- COLLAPSE_REQUEST (R376): the block is redirected at once; its frame is given up here, or at a later request's event, once every
record accepted before has completed. The answer goes to the writer at once, and an acknowledgement with it where the registry has no such
context (R403). None comes while the ports to the writer retrain or have failed, nor from another domain while feature 14 is disabled
(R388, R394), nor before there is room for what answers it (R368). -/
def execCollapseRequest (q : CollapseReq) (s : State) : Out :=
  let s := giveUpAll s
  if !linkedTo s q.writer || noRoom s q.writer collapseNote then .next s
  else
    let note := fun (s : State) => sendNote s q.writer q.ctx
    match registryRead s q.ctx with
    | (none, s) => .next (note (if (lookup s.dev.registry q.ctx).isNone then note s else s))
    | (some ctx, s) => .next (redirect q ctx (note s))

end Sys2Proof.Machine
end

