-- ==== Sys2Proof/Machine/Graphs.lean ====
section
/-! DEFINITION. Contexts, graphs, triggers, runs and joins (R326 to R333, R343 to R347, R356, R403, R405). -/

namespace Sys2Proof.Machine

/-! ## The accesses of a scheduler or reeve core (R327, R402) -/

/-- What an access of a die's own units comes to. -/
inductive Access where
  | ok (ga e : Nat)
  /-- a peer without a route has discarded it (R364) -/
  | gone
  | bad (cause : Nat)
  deriving DecidableEq, Repr

/-- The block at a VA becomes this device's: the page split where the set says so, the entries LOCAL with W set (R325, steps 2 and 4). -/
def takeBlock (s : State) (ctx : Ctx) (va : Nat) (split : Bool) : State :=
  let s := match dupEntry s ctx va with
    | some (e, pa) => if split ∧ eSize e = 1 then splitPage s (eOwner e) e pa else s
    | none => s
  match dupEntry s ctx va with
  | some (e, pa) => flushAllTlbs (rewriteGroup (flushAllTlbs s) (eOwner e) (eSize e) pa (ownedEntry e))
  | none => s

/-- A write of die d's own unit collapses a READDUP page in one step: whether it does, and the state after. It is declined where the
set is malformed, which it is where it cannot be read, or where a device that is not declared lost cannot redirect: its answer is a free
choice (R325; log entry 19). While a device of the set that is not declared lost cannot be reached, or has no room for its request, the
write waits (R368, R376): the devices are noted, and the event the write is part of does not come (`eventTurn`). The requests go out as
those of any collapse do (R369). -/
def collapseNow (s : State) (d : Nat) (ctx : Ctx) (va : Nat) : Bool × State :=
  match dupEntry s ctx va with
  | none => (false, countDup s d ctx va)
  | some (e, _) =>
    if !ownerReaches s (272 + d) e (dupLines s ctx va e) then (false, s)
    else
      let s := unitReads s (eOwner e) (dupLines s ctx va e)
      match dupSet s ctx (eXref e) s.dev.devid with
      | none => (false, countDup s d ctx va)
      | some (split, devs) =>
        let asked := devs.filter (fun d => d != s.dev.devid && !s.dev.lost.contains d)
        let away := asked.filter (fun d => !(routed s d && linkedTo s d) || noRoom s d collapseNote)
        if !away.isEmpty then (false, { s with awaited := s.awaited ++ away })
        else if asked.isEmpty then (true, takeBlock s ctx va split)
        else
          let (v, s) := draw (asked.foldl (fun s d => sendNote s d ctx.id) s)
          if v.toNat % 2 = 1 then (false, s) else (true, takeBlock s ctx va split)

/-- An access of die d's scheduler or reeve core in a context. -/
def ownAccess (s : State) (d : Nat) (ctx : Ctx) (va : Nat) (wr : Bool) : Access × State :=
  match translate s (272 + d) false ctx va wr with
  | (.ok ga e, s) => (.ok ga e, s)
  | (.fail, s) => (.bad 0x06, s)
  | (.wprot, s) => (.bad 0x08, s)
  | (.collapse _, s) =>
    match collapseNow s d ctx va with
    | (false, s) => (.bad 0x08, s)
    | (true, s) =>
      match translate s (272 + d) false ctx va wr with
      | (.ok ga e, s) => (.ok ga e, s)
      | (_, s) => (.bad 0x08, s)

/-- What a translated access of die d's own unit meets where it goes: a lost device, or a die that no path reaches, fails it with code
0x16, and a peer without a route discards it (R364, R389, R390; DESIGN CHOICE, log entry 40). A read asks such a peer once. -/
def ownReach (d : Nat) (wr : Bool) (r : Access × State) : Access × State :=
  match r with
  | (.ok ga e, s) =>
    if lostAt s (272 + d) ga then (.bad 0x16, s)
    else match unroutedAt s ga with
      | some dev => (.gone, if wr || (findFlow s.dev.flows dev 0).since.isNone then discarded s dev else s)
      | none => (.ok ga e, s)
  | r => r

/-- Every line of a range counts as read at its home (R314, R317). -/
def reachLines (s : State) (a ga n : Nat) : State := (linesIn ga n).foldl (fun s l => reachHome s a l) s

/-- A range of VAs cut at multiples of 64 KiB: each piece's VA and bytes. -/
def pieces (va : Nat) : Nat → Nat → List (Nat × Nat)
  | 0, _ => []
  | f + 1, n =>
    if n = 0 then [] else
      let k := Nat.min n (65536 - va % 65536)
      (va, k) :: pieces (va + k) f (n - k)

def piecesOf (va n : Nat) : List (Nat × Nat) := pieces va (n / 65536 + 2) n

/-- What a read of a range gives: its bytes counted from 0, the poisoned spans among them (R384), or the cause and the VA that failed. -/
structure Fetched where
  s : State
  mem : Mem
  bad : List (Nat × Nat)
  err : Option (Nat × Nat)

/-- Reads n bytes at a VA; with `k` only from pages with K set (R309). The wait for a peer that no route reaches is folded into the step:
the read fails as one of a lost device does (DESIGN CHOICE, log entry 40). -/
def ownRead (s : State) (d : Nat) (ctx : Ctx) (k : Bool) (va n : Nat) : Fetched :=
  (piecesOf va n).foldl (fun f p =>
    match f.err with
    | some _ => f
    | none =>
      match ownReach d false (ownAccess f.s d ctx p.1 false) with
      | (.bad c, s) => { f with s := s, err := some (c, p.1) }
      | (.gone, s) => { f with s := s, err := some (0x16, p.1) }
      | (.ok ga e, s) =>
        if k && !eK e then { f with s := s, err := some (0x08, p.1) }
        else
          { f with
            s := reachLines s (272 + d) ga p.2
            mem := f.mem ++ (slice s.mem ga p.2).map (fun c => (c.1 + (p.1 - va), c.2))
            bad := f.bad ++ poisonSpans s.memPoison 32 ga p.2 (p.1 - va) }) ⟨s, [], [], none⟩

/-- A range's writes would pass: it translates, has W, and, where a class is asked for, that class (R86). -/
def ownCheck (s : State) (d : Nat) (ctx : Ctx) (cls : Option Nat) (va n : Nat) : State × Option (Nat × Nat) :=
  (piecesOf va n).foldl (fun f p =>
    match f.2 with
    | some _ => f
    | none =>
      match ownAccess f.1 d ctx p.1 true with
      | (.bad c, s) => (s, some (c, p.1))
      | (.gone, s) => (s, none)
      | (.ok _ e, s) => (s, match cls with | some c => if eClass e = c then none else some (0x09, p.1) | none => none)) (s, none)

/-- Writes n bytes at a VA, piece by piece, up to one that fails; spans that come from poisoned bytes are written poisoned (R384). -/
def ownWrite (s : State) (d : Nat) (ctx : Ctx) (va n : Nat) (b : Mem) (bad : List (Nat × Nat)) : State × Option (Nat × Nat) :=
  (piecesOf va n).foldl (fun f p =>
    match f.2 with
    | some _ => f
    | none =>
      match ownReach d true (ownAccess f.1 d ctx p.1 true) with
      | (.bad c, s) => (s, some (c, p.1))
      | (.gone, s) => (s, none)
      | (.ok ga _, s) => (homePaste s (272 + d) ga p.2 (slice b (p.1 - va) p.2) (spansIn bad (p.1 - va) p.2), none)) (s, none)

def group (m : Mem) (i : Nat) : Nat := readN m (8 * i) 8

/-! ## Increments the device makes (R127, R405) -/

/-- The checks of SEMINC (R127): the location, or the code of the failing check. -/
def semCheck (s : State) (d : Nat) (ctx : Ctx) (va : Nat) (wr : Bool) : Access × State :=
  if va % 8 ≠ 0 then (.bad 0x05, s)
  else match ownAccess s d ctx va wr with
    | (.ok ga e, s) => if eClass e = 2 then ownReach d wr (.ok ga e, s) else (.bad 0x09, s)
    | (.gone, s) => (.gone, s)
    | (.bad c, s) => (.bad (if c = 0x06 ∧ wr then 0x07 else c), s)

/-- An increment of a semaphore as SEMINC at SYS scope, in the context of an id, if one is found; one that is not made is reported
(R405). -/
def ownInc (s : State) (d : Nat) (ctx : Option Ctx) (id va : Nat) (x : Word) (g4 : Nat) : State :=
  match ctx with
  | none => event s 0x0A 0 d 0 id 0 va 0 g4 0x02 0
  | some c =>
    match semCheck s d c va true with
    | (.ok ga _, s) => semAdd s (272 + d) ga x
    | (.gone, s) => s
    | (.bad code, s) => event s 0x0A 0 d 0 id 0 va 0 g4 code 0

/-- A context in hand, for an increment: the registry must hold an entry for it (R405). -/
def inRegistry (s : State) (c : Ctx) : Option Ctx := if (lookup s.dev.registry c.id).isSome then some c else none

/-- A descriptor named by a graph, a task or the host is registered under its id (R403). -/
def register (s : State) (c : Ctx) : State := modDev s (fun v => { v with registry := insAt v.registry c.id c.pa })

/-! ## Uploads (R327 to R330) -/

/-- A node record's groups, checked for reserved fields: the node, or none (R328, R329). -/
def nodeOf (d : Nat) (g : Nat → Nat) : Option Node :=
  let zero := fun (l : List Nat) => l.all (fun i => g i == 0)
  let kind : Option NodeKind :=
    match bits (g 0) 63 61 with
    | 0 => if zero [2, 3, 4, 5, 6, 7] then some (.endNode (g 1)) else none
    | 1 => if zero [5, 6, 7] && bits (g 4) 55 0 == 0 && bits (g 4) 63 62 == d then
        some (.launch (g 1) (BitVec.ofNat 64 (g 2)) (BitVec.ofNat 64 (g 3)) (bits (g 4) 61 58) (bits (g 4) 57 56)) else none
    | 2 => if zero [5, 6, 7] && bits (g 2) 31 2 == 0 && bits (g 2) 1 0 != 3 && decide (g 4 ≤ 4) then
        some (.join (bits (g 1) 63 32) (bits (g 1) 31 0) (bits (g 2) 63 32) (bits (g 2) 1 0) (g 3) (g 4)) else none
    | 3 => if zero [4, 5, 6, 7] && decide (g 3 ≤ 4) then some (.signal (g 1) (g 2) (g 3)) else none
    | 4 => if zero [3, 4, 5, 6, 7] then some (.wait (g 1) (g 2)) else none
    | _ => none
  if bits (g 0) 60 58 ≠ 0 ∨ bits (g 0) 7 0 ≠ 0 then none
  else kind.map (fun k => ⟨k, bits (g 0) 57 40, bits (g 0) 39 24, bits (g 0) 23 8, 0, false, 0, 0, 0, 0⟩)

/-- The first index of a list that meets a test. -/
def firstIndex {α : Type} (p : α → Bool) : List α → Nat → Option Nat
  | [], _ => none
  | x :: xs, i => if p x then some i else firstIndex p xs (i + 1)

/-- Every die of a mask below 4. -/
def diesOf (mask : Nat) : List Nat := (List.range 4).filter (bitOf mask)

/-- The parts of a graph accepted so far. -/
def partsOf (s : State) (gid : Nat) : List (Nat × Part) :=
  (List.range 4).filterMap (fun d => (part s d gid).map (fun p => (d, p)))

/-- Every part that the mask names has been accepted (R333). -/
def graphWhole (s : State) (gid : Nat) : Bool :=
  match partsOf s gid with
  | [] => false
  | (_, p) :: ps => (diesOf p.dies).all (fun d => (part s d gid).isSome) && ps.all (fun q => q.2.dies == p.dies)

/-- One pass over the nodes not yet known to lie on no cycle: those all of whose successors are known. -/
def peel (ps : List (Nat × Part)) (left : List (Nat × Nat)) : List (Nat × Nat) :=
  left.filter (fun x =>
    match (ps.find? (fun p => p.1 == x.1)).bind (fun p => (lookup p.2.nodes x.2).map (fun n => succs p.2 n)) with
    | some es => es.any (fun e => left.contains e)
    | none => false)

/-- The nodes on or before a cycle of edges among these parts. -/
def cyclic (ps : List (Nat × Part)) : List (Nat × Nat) :=
  let all := ps.flatMap (fun p => p.2.nodes.map (fun n => (p.1, n.1)))
  all.foldl (fun left _ => peel ps left) all

/-- Follows successors among the nodes left until on a cycle. -/
def onCycle (ps : List (Nat × Part)) (left : List (Nat × Nat)) : Option (Nat × Nat) :=
  left.foldl (fun x _ => x.bind (fun x =>
    ((ps.find? (fun p => p.1 == x.1)).bind (fun p => (lookup p.2.nodes x.2).map (fun n => succs p.2 n))).bind (fun es =>
      es.find? (fun e => left.contains e)))) left.head?

/-- A task descriptor that can be read has KILL set (R330, R334); the read is an access as any other (R306, R311, R314, R317). -/
def hasKill (s : State) (d : Nat) (ctx : Ctx) (va : Nat) : Bool × State :=
  if va % 64 ≠ 0 then (false, s)
  else let f := ownRead s d ctx false va 64; (f.err.isNone && bitOf (group f.mem 5) 57, f.s)

/-- A predecessor of a quorum join that is no LAUNCH node with KILL is among these. -/
def predBad (ctx : Ctx) (s : State) : List (Nat × Node) → Bool × State
  | [] => (false, s)
  | m :: ms =>
    match m.2.kind with
    | .launch desc _ _ _ _ => (match hasKill s m.1 ctx desc with | (true, s) => predBad ctx s ms | (false, s) => (true, s))
    | _ => (true, s)

/-- A quorum join of a part fails its checks, looking at the predecessors that lie in these parts (R330). -/
def joinBad (s : State) (ctx : Ctx) (ps : List (Nat × Part)) (d : Nat) (n : Nat × Node) : Bool × State :=
  match n.2.kind with
  | .join total need _ _ _ _ =>
    if total = 0 ∧ need = 0 then (false, s)
    else
      let from_ := ps.flatMap (fun p => (p.2.nodes.filter (fun m => (succs p.2 m.2).contains (d, n.1))).map (fun m => (p.1, m.2)))
      if need = 0 ∨ total < need ∨ 64 < from_.length ∨ !feature s 8 then (true, s) else predBad ctx s from_
  | _ => (false, s)

/-- The first node of a list, by die and number, whose join fails its checks. -/
def firstJoinBad (ctx : Ctx) (ps : List (Nat × Part)) (s : State) : List (Nat × Nat × Node) → Option Nat × State
  | [] => (none, s)
  | n :: ns => match joinBad s ctx ps n.1 n.2 with | (true, s) => (some n.2.1, s) | (false, s) => firstJoinBad ctx ps s ns

def isEnd (n : Nat × Node) : Bool := match n.2.kind with | .endNode _ => true | _ => false

def ends (p : Part) : List (Nat × Node) := p.nodes.filter isEnd

/-- A part's first node with an edge outside the graph, as far as these parts show it (R330). -/
def edgeBad (ps : List (Nat × Part)) (whole : Bool) (p : Part) : Option Nat :=
  let target := fun (e : Nat × Nat) => match ps.find? (fun q => q.1 == e.1) with
    | some q => decide (e.2 < q.2.nodes.length)
    | none => !whole
  (p.nodes.find? (fun n => (succs p n.2).any (fun e => !bitOf p.dies e.1 || !target e))).map (·.1)

/-- A check made over these parts fails: the first offending node. On the last upload the edges of every part are looked at (R330).
`joins` says that the joins, whose checks read descriptors, are looked at now. -/
def checkParts (s : State) (ctx : Ctx) (ps : List (Nat × Part)) (whole joins : Bool) (d : Nat) (p : Part) : Option Nat × State :=
  match (p :: ps.map (·.2)).findSome? (edgeBad ps whole) with
  | some n => (some n, s)
  | none =>
    if 1 < (ends p).length ∨ (0 < (ends p).length ∧ ps.any (fun q => q.1 != d && 0 < (ends q.2).length)) then
      (some (((ends p).getLast?.map (·.1)).getD 0), s)
    else if whole ∧ (ps.flatMap (fun q => ends q.2)).length ≠ 1 then (some 0, s)
    else match onCycle ps (cyclic ps) with
      | some x => (some x.2, s)
      | none => if joins then firstJoinBad ctx ps s (ps.flatMap (fun q => q.2.nodes.map (fun n => (q.1, n)))) else (none, s)

/-- What an upload holds: header, nodes, edges; the refusal's cause and node otherwise. -/
def uploadPart (s : State) (d : Nat) (g : Nat → Nat) : Except (Nat × Nat) (Part × Ctx × Nat) :=
  let nnode := bits (g 0) 29 13
  let nedge := bits (g 0) 47 30
  let gid := bits (g 0) 63 48
  let size := 64 + 64 * nnode + 4 * nedge
  let node := fun (n : Nat) => nodeOf d (fun i => g (8 + 8 * n + i))
  let edge := fun (i : Nat) => bits (g (8 + 8 * nnode + i / 2)) (32 * (i % 2) + 31) (32 * (i % 2))
  let edges := (List.range nedge).map edge
  let nodes := (List.range nnode).filterMap (fun n => (node n).map (fun x => (n, x)))
  let p : Part := ⟨gid, g 1, g 2, nodes, edges.map (fun w => (bits w 17 16, bits w 15 0))⟩
  if bits (g 0) 12 0 ≠ 0 ∨ gid = 0 ∨ nnode = 0 ∨ 65536 < nnode ∨ 16 ≤ g 2 ∨ (List.range 5).any (fun i => g (3 + i) != 0) then .error (0, 0)
  else if !bitOf (g 2) d ∨ (part s d gid).isSome ∨ 8323072 < (die s d).used + size then .error (0, 0)
  else match firstIndex (fun n => match node n with
      | none => true
      | some x => decide (nedge < x.edge0 + x.nsucc) || ((edges.drop x.edge0).take x.nsucc).any (fun w => bits w 31 18 != 0)) (List.range nnode) 0 with
    | some n => .error (0, n)
    | none =>
      if edges.any (fun w => bits w 31 18 != 0) then .error (0, 0)
      else if (partsOf s gid).any (fun q => q.2.dies != g 2 || q.2.ctx != g 1) then .error (0, 0)
      else match (ctxRead s d (g 1)).1 with
        | none => .error (0x02, 0)
        | some c => .ok (p, c, size)

/-- The host's windows answer: bring-up is over and the device is in D0 (R396, R398, R399). -/
def hostOpen (s : State) : Bool := s.dev.stage == .up && !s.dev.d3hot

/-- The feature enables lock at the first upload, trigger or CSTART; type 0x32 is written (R395). -/
def lockFeat (s : State) : State :=
  if s.dev.featLock then s
  else event (modDev s (fun v => { v with featLock := true })) 0x32 0 4 0 0 0 (getAt 0 s.dev.featen 0).toNat 0 0 0 0

/-- GRAPH_UPLOAD (R330): accepted or refused whole; the part's own checks, and those of every part on the last. One to a die that no
path reaches is dropped (R389; DESIGN CHOICE, log entry 40). -/
def execGraphUpload (d : Nat) (data : List Word) (s : State) : Out :=
  if !hostOpen s ∨ !(die s d).up ∨ !diePath s 4 d then .next s else
  let s := lockFeat s
  let g := fun (i : Nat) => (data.getD i 0).toNat
  let refuse := fun (s : State) (cause node ctx : Nat) => event s 0x05 cause d 0 ctx node 0 0 (bits (g 0) 63 48 * 2 ^ 48) 0 0
  match uploadPart s d g with
  | .error (cause, node) => .next (refuse (if cause = 0x02 then (ctxRead s d (g 1)).2 else s) cause node 0)
  | .ok (p, c, size) =>
    let s := (ctxRead s d (g 1)).2
    let others := partsOf s p.gid
    let whole := (diesOf p.dies).all (fun e => e == d || others.any (fun q => q.1 == e))
    let bad := match checkParts s c [(d, p)] false (!whole) d p with
      | (some n, s) => (some n, s)
      | (none, s) => if whole then checkParts s c (others ++ [(d, p)]) true true d p
        else (if 0 < (ends p).length ∧ others.any (fun q => 0 < (ends q.2).length) then (ends p).head?.map (·.1) else none, s)
    match bad with
    | (some n, s) => .next (refuse s 0 n c.id)
    | (none, s) =>
      let s := modDie s d (fun y => { y with used := y.used + size })
      .next (register { s with parts := insAt s.parts (partKey d p.gid) p } c)

/-! ## Triggers (R332, R333, R359) -/

def runOf (s : State) (gid : Nat) : GraphRun := (lookup s.runs gid).getD ⟨0, .idle, []⟩

def putRun (s : State) (gid : Nat) (r : GraphRun) : State := { s with runs := insAt s.runs gid r }

def modRun (s : State) (gid : Nat) (f : GraphRun → GraphRun) : State := putRun s gid (f (runOf s gid))

/-- A trigger's reserved fields, its inline patches' among them. -/
def triggerBad (g : Nat → Nat) : Bool :=
  let np := bits (g 0) 47 45
  let list := bitOf (g 0) 44
  bits (g 0) 31 0 != 0 || decide (6 < np) || (list && np != 0) || (!list && g 1 != 0)
    || (List.range 6).any (fun i => if i < np then bits (g (2 + i)) 41 32 != 0 else g (2 + i) != 0)

/-- The context id of a graph uploaded on a die, for its event records; zero for none. -/
def graphCtxId (s : State) (d gid : Nat) : Nat :=
  match (part s d gid).bind (fun p => ctxAt s p.ctx) with
  | some c => c.id
  | none => 0

/-- TRIGGER_WRITE (R333, R359): the trigger waits with the die that took it; otherwise it is dropped and reported. One to a die that no
path reaches is dropped (R389; DESIGN CHOICE, log entry 40). -/
def execTriggerWrite (d : Nat) (data : List Word) (s : State) : Out :=
  if !hostOpen s ∨ !(die s d).up ∨ !diePath s 4 d then .next s else
  let s := if data.length = 8 then lockFeat s else s
  let g := fun (i : Nat) => (data.getD i 0).toNat
  let gid := bits (g 0) 63 48
  let drop := .next (event s 0x06 0 d 0 (graphCtxId s d gid) 0 0 0 (gid * 2 ^ 48) 0 0)
  if data.length ≠ 8 then .next (event s 0x06 0 d 0 0 0 0 0 0 0 0)
  else if (part s d gid).isNone ∨ !graphWhole s gid ∨ triggerBad g ∨ 4 ≤ (runOf s gid).pending.length then drop
  else .next (modRun s gid (fun r => { r with pending := r.pending ++ [data ++ [BitVec.ofNat 64 d]] }))

/-- A patch's field replaced in a node; none where the index is not defined for its type (R329, R333). -/
def patchKind (k : NodeKind) (i v : Nat) : Option NodeKind :=
  let lo := fun (x : Word) => BitVec.ofNat 64 (x.toNat / 2 ^ 32 * 2 ^ 32 + v)
  let hi := fun (x : Word) => BitVec.ofNat 64 (x.toNat % 2 ^ 32 + v * 2 ^ 32)
  match k, i with
  | .launch desc p0 p1 q c, 0 => some (.launch desc (lo p0) p1 q c)
  | .launch desc p0 p1 q c, 1 => some (.launch desc (hi p0) p1 q c)
  | .launch desc p0 p1 q c, 2 => some (.launch desc p0 (lo p1) q c)
  | .launch desc p0 p1 q c, 3 => some (.launch desc p0 (hi p1) q c)
  | .join total _ grace fill tgt n, 0 => some (.join total v grace fill tgt n)
  | .join _ need grace fill tgt n, 1 => some (.join v need grace fill tgt n)
  | .join total need _ fill tgt n, 2 => some (.join total need v fill tgt n)
  | .signal va x sc, 0 => some (.signal va (x / 2 ^ 32 * 2 ^ 32 + v) sc)
  | .wait va x, 0 => some (.wait va (x / 2 ^ 32 * 2 ^ 32 + v))
  | _, _ => none

/-- A patched join keeps its kind and passes R330 (R333). -/
def patchFits (old new : NodeKind) : Bool :=
  isQuorum old == isQuorum new && (match new with
    | .join total need _ _ _ _ => !isQuorum new || (need != 0 && decide (need ≤ total))
    | _ => true)

/-- One patch, applied or skipped and reported (R333). -/
def applyPatch (gid by_ : Nat) (s : State) (w : Nat) : State :=
  let d := bits w 63 62
  let n := bits w 57 42
  let skip := event s 0x06 0 by_ 0 (graphCtxId s by_ gid) n 0 0 (gid * 2 ^ 48) 0 0
  match nodeAt s d gid n with
  | none => skip
  | some x =>
    match patchKind x.kind (bits w 61 58) (bits w 31 0) with
    | none => skip
    | some k => if bits w 41 32 = 0 ∧ patchFits x.kind k then modNode s d gid n (fun x => { x with kind := k }) else skip

/-- A graph's nodes stand as at a run's start (R343). -/
def freshNodes (s : State) (gid : Nat) : State :=
  (partsOf s gid).foldl (fun s q => { s with parts := insAt s.parts (partKey q.1 gid) { q.2 with
    nodes := q.2.nodes.map (fun n => (n.1, { n.2 with arrivals := 0, fired := false, qarr := 0, qset := 0, qst := 0, graceAt := 0 })) } }) s

/-- A die's scheduler reads the context descriptor of a graph it holds a part of. -/
def partCtx (s : State) (d gid : Nat) : Option Ctx × State := match part s d gid with | some p => ctxRead s d p.ctx | none => (none, s)

/-- The patches of a trigger: inline, or read from its list now; none where the list cannot be read (R333). -/
def triggerPatches (s : State) (d gid : Nat) (g : Nat → Nat) : State × Option (List Nat) :=
  if bitOf (g 0) 44 then
    let n := bits (g 0) 43 32
    match partCtx s d gid with
    | (none, s) => (s, none)
    | (some c, s) =>
      if g 1 % 8 ≠ 0 then (s, none)
      else
        let f := ownRead s d c false (g 1) (8 * n)
        match f.err with
        | some _ => (f.s, none)
        | none => (f.s, some ((List.range n).map (group f.mem)))
  else (s, some ((List.range (bits (g 0) 47 45)).map (fun i => g (2 + i))))

/-- RUN_START_TRIGGER (R333): the next pending trigger of an idle graph starts a run; every node without predecessors may then
fire. The die is the one that took the trigger; the run waits while it does not reach every die that holds a part (R389; DESIGN CHOICE,
log entry 40). -/
def execRunStartTrigger (d gid : Nat) (s : State) : Out :=
  let r := runOf s gid
  match r.pending with
  | [] => .next s
  | w :: ws =>
    let g := fun (i : Nat) => (w.getD i 0).toNat
    if r.phase ≠ .idle ∨ g 8 ≠ d ∨ !graphWhole s gid ∨ (partsOf s gid).any (fun q => !diePath s d q.1) then .next s
    else
      let s := putRun s gid { r with pending := ws }
      match triggerPatches s d gid g with
      | (s, none) => .next (event s 0x06 0 d 0 (graphCtxId s d gid) 0 (g 1) 0 (gid * 2 ^ 48) 0 0)
      | (s, some ps) =>
        let s := ps.foldl (applyPatch gid d) s
        .next (freshNodes (modRun s gid (fun r => { r with run := r.run + 1, phase := .going })) gid)

/-! ## Runs as they end (R331, R356) -/

/-- The tasks of a graph's present run that have not ended. -/
def runTasks (s : State) (gid : Nat) : List (Nat × Task) :=
  s.tasks.filter (fun e => match e.2.origin with
    | .node _ g _ _ => g == gid && e.2.state != .ended
    | _ => false)

/-- A node arrives at its successors; a quorum join counts no arrival (R331, R345). An arrival at a die that no path reaches is lost, as
a request that a forced reset abandons: that die's part goes with the reset of its return (R389, R392; DESIGN CHOICE, log entry 40). -/
def arriveSuccs (s : State) (d gid n : Nat) : State :=
  match part s d gid with
  | none => s
  | some p => match lookup p.nodes n with
    | none => s
    | some x => ((succs p x).filter (fun e => diePath s d e.1)).foldl (fun s e =>
        modNode s e.1 gid e.2 (fun y => { y with arrivals := y.arrivals + 1 })) s

/-- Preloads made for a task are discarded (R340, R356). -/
def dropPreloads (s : State) (p : Nat → Bool) : State :=
  { s with tiles := s.tiles.map (fun e => (e.1, match e.2.preload with | some q => if p q.u then { e.2 with preload := none } else e.2 | none => e.2)) }

/-- The number of a queue's next entry. -/
def nextSeq (q : Queue) : Nat := match q.entries with | e :: _ => e.seq | [] => q.next

/-- The entry after a queue's task may become ready: a task that starts again lets no later entry go (R335). -/
def unblockQueue (s : State) (t : Task) : State :=
  match t.origin with
  | .queue d q seq =>
    let x := queueOf s d q
    if nextSeq x = (seq + 1) % 2 ^ 48 then putQueue s d q { x with clear := true } else s
  | _ => s

/-- The done increment of a task's end, in the task's context; a task whose context was refused has none (R334, R405). -/
def incDone (s : State) (t : Task) : State :=
  if t.d.done = 0 then s else ownInc s t.die (inRegistry s t.ctx) t.ctx.id t.d.done (BitVec.ofNat 64 t.d.dinc) (originGroup t)

/-- A task that has not started never does: it is removed, and done is incremented (R345, R356). -/
def removeTask (s : State) (u : Nat) : State :=
  match lookup s.tasks u with
  | none => s
  | some t =>
    dropPreloads (incDone (unblockQueue (modTask s u (fun t => { t with state := .ended })) t) t) (· == u)

/-- The run becomes stranded, by a die's scheduler or reeve core: what has not started is removed, preloads are discarded (R356), on the
dies that a path leads to (R389; DESIGN CHOICE, log entry 40). -/
def strand (s : State) (d gid : Nat) : State :=
  if (runOf s gid).phase ≠ .going then s
  else
    let s := modRun s gid (fun r => { r with phase := .stranded })
    let mine := (runTasks s gid).filter (fun e => diePath s d e.2.die)
    let s := (mine.filter (fun e => e.2.state == .ready || e.2.state == .placed)).foldl (fun s e =>
      let s := event s 0x03 0x14 e.2.die (e.2.corner % 64) e.2.ctx.id 0 0 0 (originGroup e.2) 0 0
      removeTask s e.1) s
    dropPreloads s (fun u => mine.any (fun e => e.1 == u))

/-- A task is a contributor of a quorum join (R356). -/
def contributes (s : State) (t : Task) : Bool := !(joinsOf s t).isEmpty

/-- A task ends abnormally: the report, and the run is stranded unless the task contributes to a quorum join (R356). -/
def abnormal (s : State) (t : Task) (cause : Nat) (info : Nat) : State :=
  let node := match t.origin with | .node _ _ n _ => n | _ => 0
  let s := event s 0x03 cause t.die (t.corner % 64) t.ctx.id node info 0 (originGroup t) 0 0
  match t.origin with
  | .node _ gid _ _ => if contributes s t then s else strand s t.die gid
  | _ => s

/-- A task is not started: it is removed and ends abnormally (R334, R337, R339). -/
def notStarted (s : State) (u cause info : Nat) : State :=
  match lookup s.tasks u with
  | none => s
  | some t => removeTask (abnormal (modTask s u (fun t => { t with state := .ended })) t cause info) u

/-! ## Nodes as they fire (R331) -/

/-- A node of a run in progress whose predecessors have arrived and that has not fired; LAUNCH and END do not fire in a
stranded run (R356). -/
def fires (s : State) (d gid n : Nat) (stranded : Bool) : Option Node :=
  match nodeAt s d gid n with
  | none => none
  | some x =>
    let ph := (runOf s gid).phase
    if x.fired ∨ x.arrivals < x.npred ∨ isQuorum x.kind then none
    else if ph = .going ∨ (stranded ∧ ph = .stranded) then some x else none

def markFired (s : State) (d gid n : Nat) : State := modNode s d gid n (fun x => { x with fired := true })

/-- Reads a task descriptor: the descriptor, or the cause and TRAPINFO (R334). -/
def readDesc (s : State) (d : Nat) (ctx : Ctx) (va : Nat) : State × Except (Nat × Nat) Desc :=
  if va % 64 ≠ 0 then (s, .error (0x02, va))
  else
    let f := ownRead s d ctx false va 64
    match f.err with
    | some e => (f.s, .error e)
    | none =>
      let g := group f.mem
      (f.s, .ok
        { va := va
          image := g 0
          ctx := g 1
          param0 := BitVec.ofNat 64 (g 2)
          param1 := BitVec.ofNat 64 (g 3)
          done := g 4
          gw := bits (g 5) 63 61 + 1
          gh := bits (g 5) 60 58 + 1
          kill := bitOf (g 5) 57
          restart := bitOf (g 5) 56
          dinc := bits (g 5) 31 0 + bits (g 5) 55 32 * 2 ^ 32
          budget := g 6
          plist := g 7 })

/-- The context a task descriptor names by its VA (R334): a LAUNCH node's is the graph's, and a queue's is read at that VA in the
launcher's context. The cause otherwise. -/
def namedCtx (s : State) (d : Nat) (ctx : Ctx) (va : Nat) (same : Bool) : State × Except Nat Ctx :=
  if same then (s, if va = ctx.pa then .ok ctx else .error 0x02)
  else match ownReach d false (ownAccess s d ctx va false) with
    | (.bad c, s) => (s, .error c)
    | (.gone, s) => (s, .error 0x16)
    | (.ok ga _, s) => (reachHome s (272 + d) ga, match ctxAt s ga with | some c => .ok c | none => .error 0x02)

/-- A task becomes ready, its descriptor read now; one it cannot be read from, or whose reserved bits or context are wrong, is
not started (R331, R334). -/
def makeReady (s : State) (d : Nat) (ctx : Ctx) (va : Nat) (params : Option (Word × Word)) (o : Origin) (cls seq : Nat)
    (same : Bool) : State :=
  let blank : Task := ⟨.ready, o, ⟨va, 0, 0, 0, 0, 0, 1, 1, false, false, 0, 0, 0⟩, .full, ctx, d, cls, s.now, 0, 1, 1, seq, 0, false, [], none, false, [], [], false, [], [], []⟩
  let u := s.nextTask
  match readDesc s d ctx va with
  | (s, .error (c, i)) => notStarted { putTask s u blank with nextTask := u + 1 } u c i
  | (s, .ok e) =>
    let e' := match params with | some (a, b) => { e with param0 := a, param1 := b, dinc := e.dinc % 2 ^ 32 } | none => { e with dinc := e.dinc % 2 ^ 32 }
    let t := { blank with d := e', ctx := Ctx.none, gw := e.gw, gh := e.gh }
    match namedCtx s d ctx e.ctx same with
    | (s, .error c) => notStarted { putTask s u t with nextTask := u + 1 } u c (if c = 0x06 then e.ctx else va)
    | (s, .ok named) =>
      let s := { putTask s u { t with ctx := named } with nextTask := u + 1 }
      if 2 ^ 32 ≤ e.dinc then notStarted s u 0x02 va else s

/-- The context descriptor of a graph is refused as a node fires, though it was not at the upload: the task of a LAUNCH node is not started,
with cause 0x02 (R326), or with 0x16 where no path leads to the descriptor (R389; DESIGN CHOICE, log entry 40). It has no descriptor. -/
def refuseLaunch (s : State) (d gid node va cls : Nat) : State :=
  let pa := match part s d gid with | some p => p.ctx | none => 0
  let r := (runOf s gid).run
  let u := s.nextTask
  let t : Task := ⟨.ready, .node d gid node r, ⟨va, 0, 0, 0, 0, 0, 1, 1, false, false, 0, 0, 0⟩, .full, .none, d, cls, s.now, 0, 1, 1, r, 0, false, [], none, false, [], [], false, [], [], []⟩
  notStarted { putTask s u t with nextTask := u + 1 } u (if diePath s d (homeDie pa) then 0x02 else 0x16) va

/-- LAUNCH_NODE_FIRES (R331): the task becomes ready, with the node's parameters and class; in a context that is refused it is not started
(R326). -/
def execLaunchNodeFires (d gid node : Nat) (s : State) : Out :=
  match fires s d gid node false with
  | none => .next s
  | some x =>
    match x.kind with
    | .launch desc p0 p1 _ cls =>
      let r := (runOf s gid).run
      (match partCtx s d gid with
      | (some c, t) => .next (makeReady (markFired t d gid node) d c desc (some (p0, p1)) (.node d gid node r) cls r true)
      | (none, t) => .next (refuseLaunch (markFired t d gid node) d gid node desc cls))
    | _ => .next s

/-- JOIN_NODE_FIRES (R331): a plain join. -/
def execJoinNodeFires (d gid node : Nat) (s : State) : Out :=
  match fires s d gid node true with
  | some x => (match x.kind with
    | .join _ _ _ _ _ _ => .next (arriveSuccs (markFired s d gid node) d gid node)
    | _ => .next s)
  | none => .next s

/-- The checks of a node's semaphore in its graph's context; in a context that is refused nothing translates (R326, R356). -/
def nodeCheck (s : State) (d gid va : Nat) (wr : Bool) : Access × State :=
  match partCtx s d gid with
  | (some c, s) => semCheck s d c va wr
  | (none, s) => (.bad 0x02, s)

/-- SIGNAL_NODE_FIRES (R331, R356): a failed check strands the run, and the node does not arrive. An increment that a peer without a
route discards is made as far as the node goes (R364). -/
def execSignalNodeFires (d gid node : Nat) (s : State) : Out :=
  match fires s d gid node true with
  | none => .next s
  | some x =>
    match x.kind with
    | .signal va n _ =>
      (match nodeCheck (markFired s d gid node) d gid va true with
      | (.ok ga _, s) => .next (arriveSuccs (semAdd s (272 + d) ga (BitVec.ofNat 64 n)) d gid node)
      | (.gone, s) => .next (arriveSuccs s d gid node)
      | (.bad _, s) => .next (strand s d gid))
    | _ => .next s

/-- WAIT_NODE_FIRES (R331, R356). -/
def execWaitNodeFires (d gid node : Nat) (s : State) : Out :=
  match fires s d gid node true with
  | none => .next s
  | some x =>
    match x.kind with
    | .wait va n =>
      (match nodeCheck s d gid va false with
      | (.ok ga _, s1) =>
        if n ≤ readN s1.mem ga 8 then .next (arriveSuccs (markFired (reachHome s1 (272 + d) ga) d gid node) d gid node) else .next s1
      | (.gone, s1) => .next s1
      | (.bad _, s1) => .next (strand (markFired s1 d gid node) d gid))
    | _ => .next s

/-- END_NODE_FIRES (R331): once no task of the run is left, the run-end semaphore gains one and the run ends; in a context that is refused
the increment is not made, and is reported (R326, R405). -/
def execEndNodeFires (d gid node : Nat) (s : State) : Out :=
  match fires s d gid node false with
  | none => .next s
  | some x =>
    match x.kind with
    | .endNode va =>
      if (runTasks s gid).isEmpty then
        let (c, s) := partCtx s d gid
        let s := markFired s d gid node
        let s := if va = 0 then s else
          ownInc s d (c.bind (inRegistry s)) (match c with | some c => c.id | none => 0) va 1 (gid * 2 ^ 48 + (runOf s gid).run % 2 ^ 48)
        .next (modRun s gid (fun r => { r with phase := .idle }))
      else .next s
    | _ => .next s

/-! ## Quorum joins (R343 to R347) -/

/-- The task of a LAUNCH node in the present run, if it has not ended. -/
def taskAtNode (s : State) (d gid n : Nat) : Option (Nat × Task) :=
  (runTasks s gid).find? (fun e => match e.2.origin with | .node e1 _ m _ => e1 == d && m == n | _ => false)

/-- A contributor's task has ended, or will not start. -/
def contributorOver (s : State) (gid : Nat) (c : Nat × Nat) : Bool :=
  (taskAtNode s c.1 gid c.2).isNone && (match nodeAt s c.1 gid c.2 with | some x => x.fired | none => true)

/-- A straggler at CLOSING: it never starts, is killed in place, or has a kill pending (R345, R355). The join's die asks for it where a
path leads to the straggler's (R389; DESIGN CHOICE, log entry 40). -/
def straggle (d gid : Nat) (s : State) (c : Nat × Nat) : State :=
  if !diePath s d c.1 then s
  else match taskAtNode s c.1 gid c.2 with
  | none => markFired s c.1 gid c.2
  | some (u, t) =>
    match t.state with
    | .running =>
      let g := gangOf t
      let s := g.foldl (fun s a => modTile s a (fun x => { x with killAt := some s.now })) s
      if g.any (fun a => (core s a).run == .reeve true) then killTask s u 0x10 .close else s
    | .suspended => killTask s u 0x10 .close
    | _ => removeTask s u

/-- QUORUM_CLOSE (R345): GRACE has run out, or every contributor has arrived. -/
def execQuorumClose (d gid node : Nat) (s : State) : Out :=
  match nodeAt s d gid node with
  | none => .next s
  | some x =>
    match x.kind with
    | .join _ _ _ _ _ _ =>
      let ps := preds s gid d node
      if x.qst = 1 ∧ isQuorum x.kind ∧ graceOver s gid (d, node) x then
        let s := modNode s d gid node (fun x => { x with qst := 2 })
        let late := (List.range ps.length).filterMap (fun i => if bitOf x.qset i then none else ps[i]?)
        .next (late.foldl (straggle d gid) s)
      else .next s
    | _ => .next s

/-- A fill-target descriptor (R346). -/
structure FillTarget where
  dst : Nat
  src : Nat
  stride : Nat
  stand : Nat
  n : Nat
  fmt : Nat
  deriving DecidableEq, Repr

/-- Reads and checks a fill-target descriptor; none is a failed fill (R346, R347). -/
def fillTarget (s : State) (d : Nat) (ctx : Ctx) (va : Nat) : State × Option FillTarget :=
  let f := ownRead s d ctx false va 64
  let g := group f.mem
  let n := bits (g 4) 63 32
  let fmt := bits (g 4) 31 24
  let w := fmtWidth fmt / 8
  if f.err.isSome ∨ !(fmt == FP32 || fmt == FIX64) ∨ n = 0 ∨ 2 ^ 24 < n ∨ bits (g 4) 23 0 ≠ 0 ∨ g 5 ≠ 0 ∨ g 6 ≠ 0 ∨ g 7 ≠ 0
      ∨ g 0 % w ≠ 0 ∨ g 1 % w ≠ 0 ∨ g 2 % w ≠ 0 ∨ g 3 % w ≠ 0 then (f.s, none)
  else (f.s, some ⟨g 0, g 1, g 2, g 3, n, fmt⟩)

def fillTargets (s : State) (d : Nat) (ctx : Ctx) (va : Nat) : Nat → State × Option (List FillTarget)
  | 0 => (s, some [])
  | n + 1 =>
    match fillTarget s d ctx va with
    | (s, none) => (s, none)
    | (s, some t) =>
      match fillTargets s d ctx (va + 64) n with
      | (s, none) => (s, none)
      | (s, some ts) => (s, some (t :: ts))

/-- The element of R347 from the partials' values and the stand-in's. -/
def fillValue (fill W a : Nat) (parts : List Val) (stand : Val) : Val :=
  let x := (valSum parts).1
  if fill = 1 then (match x with | .num s n d e => .num s (n * W) (d * a) e | y => y)
  else if fill = 2 then (valAdd x (valMul (.num false (W - a) 1 0) stand).1).1
  else x

/-- The word written for an element (R347). -/
def fillWord (fmt : Nat) (x : Val) : Nat :=
  if fmt = FP32 then (toFP32 x).1
  else match x with
    | .num s n d e =>
      let k := (roundN .rne 0 s n d e).1
      wrap 64 (if k < -(2 ^ 62) then -(2 ^ 62) else if 2 ^ 62 < k then 2 ^ 62 else k)
    | _ => 0

/-- Value of an element: FIX64 is the integer itself. -/
def fillElem (fmt : Nat) (b : Nat) : Val := if fmt = FIX64 then Val.ofInt (signed 64 b) else value FP32 b

/-- One element at a VA, and whether it is poisoned; none where the access fails. -/
def fillRead (s : State) (d : Nat) (ctx : Ctx) (fmt va : Nat) : State × Option (Val × Bool) :=
  let w := fmtWidth fmt / 8
  match ownReach d false (ownAccess s d ctx (va % 2 ^ 64) false) with
  | (.ok ga _, s) => (reachHome s (272 + d) ga, some (fillElem fmt (readN s.mem ga w), poisonedAt s.memPoison 32 ga w))
  | (.gone, s) => (s, none)
  | (.bad _, s) => (s, none)

def fillReads (s : State) (d : Nat) (ctx : Ctx) (fmt : Nat) : List Nat → State × Option (List (Val × Bool))
  | [] => (s, some [])
  | va :: vas =>
    match fillRead s d ctx fmt va with
    | (s, none) => (s, none)
    | (s, some v) =>
      match fillReads s d ctx fmt vas with
      | (s, none) => (s, none)
      | (s, some vs) => (s, some (v :: vs))

/-- Fills one target, element by element; false once an access has failed: elements before it stand (R347). An element summed from a
poisoned one is written poisoned (R384). -/
def fillOne (d : Nat) (ctx : Ctx) (fill W a : Nat) (who : List Nat) (p : State × Bool) (t : FillTarget) : State × Bool :=
  (List.range t.n).foldl (fun p e =>
    if !p.2 then p
    else
      let w := fmtWidth t.fmt / 8
      match fillReads p.1 d ctx t.fmt (who.map (fun i => t.src + i * t.stride + w * e)) with
      | (s, none) => (s, false)
      | (s, some vs) =>
        match (if fill = 2 then fillRead s d ctx t.fmt (t.stand + w * e) else (s, some (Val.zero, false))) with
        | (s, none) => (s, false)
        | (s, some st) =>
          match ownReach d true (ownAccess s d ctx (t.dst + w * e) true) with
          | (.gone, s) => (s, true)
          | (.ok ga _, s) =>
            let x := fillWord t.fmt (fillValue fill W a (vs.map (·.1)) st.1)
            (homePaste s (272 + d) ga w (writeN [] 0 w x) (if st.2 || vs.any (·.2) then [(0, w)] else []), true)
          | (.bad _, s) => (s, false)) p

/-- The PHASE of an arrival accepted at a join has not completed (R344, R345): a tile of the contributor stands at QARRIVE's, or, where it
was accepted as the task exits, a tile has not exited yet: it may still ask another join before EXIT's PHASE begins. -/
def publishing (s : State) (gid : Nat) (j c : Nat × Nat) : Bool :=
  match taskAtNode s c.1 gid c.2 with
  | none => false
  | some (_, t) => (gangOf t).any (fun a => (core s a).wait == .phase .qarrive
      || (t.exitAt.contains (partKey j.1 j.2) && !hasExited s a))

/-- The targets of a join are read, checked and filled in the graph's context; false where the fill fails, as it does in a context that is
refused (R326, R347). -/
def quorumFill (s : State) (d gid tgt ntgt fill W a : Nat) (who : List Nat) : State × Bool :=
  match partCtx s d gid with
  | (none, s) => (s, false)
  | (some c, s) =>
    match fillTargets s d c tgt ntgt with
    | (s, none) => (s, false)
    | (s, some ts) => ts.foldl (fillOne d c fill W a who) (s, true)

/-- QUORUM_FILL (R345, R347): after the stragglers have ended and the arrivals have published; then the join fires. -/
def execQuorumFill (d gid node : Nat) (s : State) : Out :=
  match nodeAt s d gid node with
  | none => .next s
  | some x =>
    match x.kind with
    | .join total _ _ fill tgt ntgt =>
      let ps := preds s gid d node
      let ix := List.range ps.length
      let late := ix.filterMap (fun i => if bitOf x.qset i then none else ps[i]?)
      if x.qst = 2 ∧ x.fired = false ∧ late.all (contributorOver s gid) ∧ ps.all (fun p => !publishing s gid (d, node) p) then
        match quorumFill s d gid tgt ntgt fill total x.qarr (ix.filter (bitOf x.qset)) with
        | (s, false) => .next (strand (markFired s d gid node) d gid)
        | (s, true) => .next (arriveSuccs (modNode s d gid node (fun x => { x with qst := 3, fired := true })) d gid node)
      else .next s
    | _ => .next s

/-- A quorum join of the graph cannot reach QNEED: every contributor has ended (R345). -/
def quorumLost (s : State) (gid : Nat) : Bool :=
  (partsOf s gid).any (fun q => q.2.nodes.any (fun n => match n.2.kind with
    | .join _ need _ _ _ _ => isQuorum n.2.kind && n.2.qst == 0 && decide (n.2.qarr < need)
        && (preds s gid q.1 n.1).all (contributorOver s gid)
    | _ => false))

/-- RUN_STRANDED (R345, R356): a join that cannot reach QNEED strands the run; a stranded run with no task left ends, and
cause 0x14 is recorded. -/
def execRunStranded (d gid : Nat) (s : State) : Out :=
  match part s d gid with
  | none => .next s
  | some p =>
    let r := runOf s gid
    if r.phase = .going ∧ quorumLost s gid then .next (strand s d gid)
    else if r.phase = .stranded ∧ (runTasks s gid).isEmpty then
      let id := match ctxAt s p.ctx with | some c => c.id | none => 0
      .next (modRun (event s 0x04 0x14 d 0 id 0 0 0 (gid * 2 ^ 48 + r.run % 2 ^ 48) 0 0) gid (fun r => { r with phase := .idle }))
    else .next s

end Sys2Proof.Machine
end

