-- ==== Sys2Proof/Machine/Landing.lean ====
section
/-! DEFINITION. Bursts as they arrive: map records, the place of an element, matching, the modes, counting, strays (R205 to R226). -/

namespace Sys2Proof.Machine

/-! ## Map records (R208 to R210) -/

def dimAt (m : Mem) (p : Nat) : MapDim :=
  let g := readN m (p + 8) 8
  ⟨readN m p 4, readN m (p + 4) 4, bits g 63 59, bits g 58 39, bits g 38 12⟩

/-- The map record at a place of the scratchpad (R208). -/
def mapAt (m : Mem) (p : Nat) : MapRec :=
  let g := fun (i : Nat) => readN m (p + 8 * i) 8
  { tensor := bits (g 0) 63 32
    fmt := bits (g 0) 31 24
    mode := bits (g 0) 18 16
    excl := bitOf (g 0) 15
    sync := bitOf (g 0) 14
    quorum := bitOf (g 0) 13
    cunit := bitOf (g 0) 12
    rtgt := bits (g 0) 11 10
    policy := bits (g 0) 9 8
    base := bits (g 1) 63 44
    sbase := bits (g 1) 43 24
    anchor := signed 8 (bits (g 1) 23 16)
    expect := bits (g 2) 63 16
    swz := bitOf (g 3) 63
    sdim := bits (g 3) 62 59
    sshift := bits (g 3) 58 54
    dims := (List.range (bits (g 0) 23 19)).map (fun d => dimAt m (p + 64 + 16 * d)) }

/-- A reserved field of the record is set (R208). -/
def mapReserved (m : Mem) (p : Nat) : Bool :=
  let g := fun (i : Nat) => readN m (p + 8 * i) 8
  bits (g 0) 7 0 != 0 || bits (g 1) 15 0 != 0 || bits (g 2) 15 0 != 0 || bits (g 3) 53 0 != 0
    || g 4 != 0 || g 5 != 0 || g 6 != 0 || g 7 != 0
    || (List.range (bits (g 0) 23 19)).any (fun d => bits (readN m (p + 72 + 16 * d) 8) 11 0 != 0)

/-- The mode and format pairs of R40. -/
def mapPair (mode fmt : Nat) : Bool :=
  match mode with
  | 0 => fmtWidth fmt != 0
  | 1 => fmt == FIX64
  | 2 => [FP32, BF16, FP16].contains fmt
  | 3 => [INT32, FP32, FIX64].contains fmt
  | 4 => fmt == INT8
  | 5 => fmtWidth fmt != 0
  | _ => false

/-- An arrival's format is compatible with a map's (R40). -/
def compat (mode fmt arrival : Nat) : Bool :=
  match mode with
  | 0 => arrival == fmt
  | 1 => [FP32, BF16, FP16, INT8, INT16, INT32, FIX64].contains arrival
  | 2 => if fmt = FP32 then [FP32, BF16, FP16].contains arrival else arrival == fmt
  | 3 => arrival == fmt
  | 4 => arrival == INT8 || arrival == UINT8
  | _ => fmtWidth arrival != 0

/-- The stored width in bits (R209). -/
def storedWidth (m : MapRec) : Nat :=
  match m.mode with
  | 1 => 64
  | 4 => 8
  | 5 => 0
  | _ => fmtWidth m.fmt

/-- For CODE: 0 C, 1 V, 2 M, 3 X. -/
def codeEngine (m : MapRec) : Nat := m.base / 2 ^ 18

def codeStandby (m : MapRec) : Bool := bitOf m.base 17

/-- Where offsets begin: in the scratchpad, or in the bank. -/
def landBase (m : MapRec) : Nat := if m.mode = 4 then m.base % 2 ^ 17 else m.base

def bankBytes (e : Nat) : Nat := match e with | 0 => 65536 | 1 => 32768 | _ => 16384

def unitBytes (e : Nat) : Nat := match e with | 0 => 8 | 1 => 16 | _ => 64

/-- The bytes dimension 0 of a dense map spans, less one (R210). -/
def denseSpan (m : MapRec) : Nat :=
  match m.dims with
  | d :: _ => if isDense m.fmt then ((d.hi - d.lo + 1) * fmtWidth m.fmt + 7) / 8 - 1 else 0
  | [] => 0

def dimBound (d : MapDim) : Nat := (d.hi - d.lo) / 2 ^ d.logb * d.S + Nat.min (d.hi - d.lo) (2 ^ d.logb - 1) * d.s

def mapBound (m : MapRec) : Nat :=
  denseSpan m + ((if isDense m.fmt then m.dims.drop 1 else m.dims).map dimBound).sum

def mapTop (m : MapRec) : Nat :=
  let d0 := denseSpan m
  if m.swz then ((landBase m + mapBound m - d0) ||| 0x7FF) + d0
  else landBase m + mapBound m + (if isDense m.fmt then 0 else storedWidth m / 8 - 1)

/-- What lo of dimension 0 is a multiple of, for a dense format. -/
def denseUnit (f : Nat) : Nat := if isMX f then 32 else if fmtWidth f = 6 then 4 else 2

/-- Dimension 0 of a dense format meets its packing conditions (R210). -/
def mapPacked (m : MapRec) : Bool :=
  match m.dims with
  | d :: ds =>
    !isDense m.fmt || (d.logb == 0 && d.s == 0 && d.S == 0 && d.lo % denseUnit m.fmt == 0
      && (!isMX m.fmt || ds.all (fun d => d.s % mxBytes m.fmt == 0 && d.S % mxBytes m.fmt == 0)))
  | [] => true

/-- The stored elements are aligned to their width. -/
def mapAligned (m : MapRec) : Bool :=
  let n := storedWidth m / 8
  n < 2 || (m.base % n == 0 && m.dims.all (fun d => d.s % n == 0 && d.S % n == 0))

/-- The checks of R210 on what a map stores. -/
def mapStores (scratch : Nat) (m : MapRec) : Bool :=
  mapAligned m && mapPacked m
    && decide (mapTop m < (if m.mode = 4 then bankBytes (codeEngine m) else scratch))
    && (m.mode != 4 || ((codeEngine m != 0 || codeStandby m) && landBase m % unitBytes (codeEngine m) == 0))
    && (!(m.mode == 0 && isMX m.fmt) || decide (m.sbase + mapBound m / mxBytes m.fmt < scratch))

/-- A record passes R210; a SYNC map needs scheduled landing (R395). A non-zero sbase outside PLACE of an MX format and COUNT, or a
non-zero anchor outside ACCUM.FX, counts as a reserved field: R208 says 'zero otherwise' and R210 does not name them (DESIGN CHOICE,
log entry 25). -/
def mapOk (scratch : Nat) (scheduled : Bool) (mem : Mem) (p : Nat) : Bool :=
  let m := mapAt mem p
  let n := m.dims.length
  !(n == 0 || decide (16 < n)) && !mapReserved mem p && mapPair m.mode m.fmt && decide (m.sdim < n)
    && m.dims.all (fun d => decide (d.lo ≤ d.hi))
    && (m.mode == 5 || (m.mode == 0 && isMX m.fmt) || m.sbase == 0) && (m.mode == 1 || m.anchor == 0)
    && (!m.sync || scheduled)
    && (m.mode == 5 || mapStores scratch m)

/-! ## Where an element lands (R211) -/

def dimsOff : List MapDim → List Nat → Nat
  | d :: ds, c :: cs => (c - d.lo) / 2 ^ d.logb * d.S + (c - d.lo) % 2 ^ d.logb * d.s + dimsOff ds cs
  | _, _ => 0

/-- Land: the byte offset, and the bit counted from it; without the swizzle for ByteOf. -/
def land (m : MapRec) (cs : List Nat) (swizzle : Bool) : Nat × Nat :=
  let off := landBase m + dimsOff m.dims cs
  let lo := fun (d : Nat) => match m.dims[d]? with | some x => x.lo | none => 0
  let k := (cs.getD m.sdim 0 - lo m.sdim) / 2 ^ m.sshift % 32
  (if swizzle && m.swz then off ^^^ (64 * k) else off, if isDense m.fmt then (cs.getD 0 0 - lo 0) * fmtWidth m.fmt else 0)

/-- Puts w bits at a bit counted from a byte. -/
def putBits (m : Mem) (off bit w x : Nat) : Mem :=
  let a := off + bit / 8
  let sh := bit % 8
  let n := (sh + w + 7) / 8
  let old := readN m a n
  writeN m a n (old - old / 2 ^ sh % 2 ^ w * 2 ^ sh + x % 2 ^ w * 2 ^ sh)

/-! ## Bursts (R205 to R207) -/

/-- Elements one payload flit holds. -/
def perFlit (f : Nat) : Nat := 512 / fmtWidth f

/-- An element of a burst: its index, coordinates and bits. -/
structure Elem where
  j : Nat
  cs : List Nat
  x : Nat
  deriving DecidableEq, Repr

/-- The elements of payload flit k, counted from 0 (R206). An ATOMIC element is v. -/
def flitElems (b : Burst) (k : Nat) : List Elem :=
  let w := fmtWidth b.fmt
  let per := perFlit b.fmt
  let f := b.flits.getD k 0
  (List.range (Nat.min per (b.runlen - k * per))).map (fun i =>
    ⟨k * per + i, (b.coords.getD 0 0 + k * per + i) :: b.coords.drop 1, f / 2 ^ (w * i) % 2 ^ w⟩)

/-- A malformed burst: any that breaks R205 or R206 (R207). It has the fewest payload flits that hold its elements. -/
def malformed (b : Burst) : Bool :=
  fmtWidth b.fmt == 0 || decide (2 ≤ b.kind) || b.ndim == 0 || decide (16 < b.ndim) || b.ext != decide (12 < b.ndim)
    || (b.coords.drop b.ndim).any (· != 0)
    || b.runlen == 0 || decide (512 < b.runlen) || decide (b.flits.length ≠ (b.runlen + perFlit b.fmt - 1) / perFlit b.fmt)
    || decide (4 < b.flits.length)
    || (b.bscl && (!isMX b.fmt || b.coords.getD 0 0 % 32 != 0 || b.runlen % 32 != 0))
    || (b.kind == 1 && (b.runlen != 1 || decide (9 < bits (b.flits.getD 0 0) 131 128) || decide (2 ^ 133 ≤ b.flits.getD 0 0)))

/-- A header flit with its first coordinate and run length as given (R205). -/
def headerNum (b : Burst) (c0 runlen : Nat) : Nat :=
  b.tensor * 2 ^ 480 + b.fmt * 2 ^ 472 + b.ndim * 2 ^ 467 + b.kind * 2 ^ 464 + runlen * 2 ^ 454 + natOf b.sync * 2 ^ 453
    + natOf b.ext * 2 ^ 452 + natOf b.bscl * 2 ^ 451 + b.contrib * 2 ^ 432 + b.weight * 2 ^ 416
    + ((List.range 12).map (fun d => (if d = 0 then c0 else b.coords.getD d 0) % 2 ^ 32 * 2 ^ (32 * d))).sum

def extNum (b : Burst) : Nat := ((List.range 4).map (fun d => b.coords.getD (12 + d) 0 * 2 ^ (32 * d))).sum

/-- A stray record of 256 bytes (R222); `cycle` is CYCLE at the flit's arrival. -/
def strayRecord (b : Burst) (k mask cycle : Nat) : Nat :=
  let per := perFlit b.fmt
  headerNum b (b.coords.getD 0 0 + k * per) (flitElems b k).length + extNum b * 2 ^ 512 + b.flits.getD k 0 * 2 ^ 1024
    + mask * 2 ^ 1536 + cycle % 2 ^ 64 * 2 ^ 1664

/-- CYCLE at arrival, as a stray record holds it. -/
def strayCycle (r : Nat) : Nat := bits r 1727 1664

/-- The burst of one flit that a stray record holds, poisoned where the record is (R384); its scale flit is not kept (R353, log entry 18). -/
def burstOf (r : Nat) (poison : Bool) : Burst :=
  let n := bits r 471 467
  { tensor := bits r 511 480
    fmt := bits r 479 472
    ndim := n
    kind := bits r 466 464
    runlen := bits r 463 454
    sync := bitOf r 453
    ext := bitOf r 452
    bscl := false
    contrib := bits r 447 432
    weight := bits r 431 416
    coords := (List.range n).map (fun d => if d < 12 then bits r (32 * d + 31) (32 * d) else bits r (512 + 32 * (d - 12) + 31) (512 + 32 * (d - 12)))
    flits := [bits r 1535 1024]
    scales := 0
    poison := if poison then [0] else [] }

/-! ## Matching (R214) -/

/-- The maps a burst may match by tensor, dimensions and SYNC, in slot order. -/
def candidates (r : Reed) (b : Burst) : List (Nat × MapRec) :=
  r.slots.filterMap (fun e => match e.2.map with
    | some m => if m.tensor = b.tensor ∧ m.dims.length = b.ndim ∧ (!b.sync || m.sync) then some (e.1, m) else none
    | none => none)

def inBox : List MapDim → List Nat → Bool
  | [], _ => true
  | d :: ds, cs => decide (d.lo ≤ cs.headD 0) && decide (cs.headD 0 ≤ d.hi) && inBox ds (cs.drop 1)

/-- What becomes of an element: its receivers, the lowest slot of X, whether it strays. -/
structure Fate where
  recv : List (Nat × MapRec)
  bad : Option Nat
  stray : Bool
  deriving DecidableEq, Repr

def fateOf (cands : List (Nat × MapRec)) (fmt : Nat) (cs : List Nat) : Fate :=
  let c := cands.filter (fun e => inBox e.2.dims cs)
  let m := c.filter (fun e => compat e.2.mode e.2.fmt fmt)
  let x := c.filter (fun e => !compat e.2.mode e.2.fmt fmt)
  ⟨match m.find? (fun e => e.2.excl) with | some e => [e] | none => m, x.head?.map (·.1), c.isEmpty⟩

/-! ## The modes (R216 to R218) -/

/-- Writes a byte of an instruction bank: the active one notes it, a standby one loses its preload (R340). -/
def writeBank (e : Nat) (standby : Bool) (off x : Nat) (t : Tile) : Tile :=
  let k := t.banks
  let act := match e with | 0 => k.actC | 1 => k.actV | 2 => k.actM | _ => k.actX
  let toB := act != standby
  let w := fun (m : Mem) => setB m off (BitVec.ofNat 8 x)
  let k := match e, toB with
    | 0, false => { k with cA := w k.cA }
    | 0, true => { k with cB := w k.cB }
    | 1, false => { k with vA := w k.vA }
    | 1, true => { k with vB := w k.vB }
    | 2, false => { k with mA := w k.mA }
    | 2, true => { k with mB := w k.mB }
    | _, false => { k with xA := w k.xA }
    | _, true => { k with xB := w k.xB }
  let k := if standby then k else match e with
    | 0 => { k with wroteC := true }
    | 1 => { k with wroteV := true }
    | 2 => { k with wroteM := true }
    | _ => { k with wroteX := true }
  let drop := fun (p : Preload) => match e with
    | 0 => { p with c := false }
    | 1 => { p with v := false }
    | 2 => { p with m := false }
    | _ => { p with x := false }
  { t with banks := k, preload := if standby then t.preload.map drop else t.preload }

/-- R217: the new element of an ATOMIC map, and whether the overflow flag is set. -/
def atomicNew (fmt op v c old : Nat) : Nat × Bool :=
  let aop := fun (n : Nat) => match n with
    | 0 => AOp.add | 1 => AOp.and | 2 => AOp.or | 3 => AOp.xor | 4 => AOp.min | 5 => AOp.max
    | 6 => AOp.minu | 7 => AOp.maxu | 8 => AOp.swap | _ => AOp.cas
  if fmt = FP32 then
    let x := value FP32 old
    let y := value FP32 v
    match aop op with
    | .add =>
      let (z, g) := valAdd x y
      let (r, h) := toFP32 z
      (r, (g ||| h) &&& (OF ||| NV) != 0)
    | .min => (if x.isNan || y.isNan then (toFP32 .nan).1 else if before x y then old else v, false)
    | .max => (if x.isNan || y.isNan then (toFP32 .nan).1 else if before x y then v else old, false)
    | o => (aopNew o 32 old v c, false)
  else (aopNew (aop op) (fmtWidth fmt) old v c, false)

/-- The state of a landing flit: the tile, and what the lowest ATOMIC slot answers: an old value, or none for a poisoned one. -/
structure Landed where
  t : Tile
  ans : Option (Option Word)

def setSlot (i : Nat) (f : Slot → Slot) (t : Tile) : Tile :=
  match lookup t.reed.slots i with
  | some sl => { t with reed := { t.reed with slots := insAt t.reed.slots i (f sl) } }
  | none => t

/-- A slot's overflow flag is set (R217, R223). -/
def noteOvf (i : Nat) (t : Tile) : Tile :=
  let t := setSlot i (fun sl => { sl with ovf := true }) t
  { t with reed := { t.reed with fresh := { t.reed.fresh with ovf := i :: t.reed.fresh.ovf } } }

/-- Updates the element a map stores at a landing offset of whole bytes; an unsound flit or element leaves it poisoned (R384). -/
def updateElem (slot : Nat) (m : MapRec) (poison : Bool) (cs : List Nat) (f : Nat → Nat × Bool) (t : Tile) : Tile :=
  let off := (land m cs true).1
  let n := storedWidth m / 8
  let (y, ovf) := f (readN t.pad off n)
  let t := { t with pad := writeN t.pad off n y, padPoison := if poison then addPoison t.padPoison 8 off n else t.padPoison }
  if ovf then noteOvf slot t else t

/-- The bits of an element go to their place unchanged. -/
def placeElem (m : MapRec) (poison : Bool) (e : Elem) (t : Tile) : Tile :=
  let (off, bit) := land m e.cs true
  let w := fmtWidth m.fmt
  { t with
    pad := putBits t.pad off bit w e.x
    padPoison := if poison then addPoison t.padPoison 8 (off + bit / 8) ((bit % 8 + w + 7) / 8) else t.padPoison }

/-- One map receives one element (R216). -/
def landElem (b : Burst) (poison : Bool) (slot : Nat) (m : MapRec) (e : Elem) (x : Landed) : Landed :=
  match m.mode with
  | 0 => { x with t := placeElem m poison e x.t }
  | 1 => { x with t := updateElem slot m poison e.cs (fun y =>
      if b.fmt = FIX64 then ((y + e.x) % 2 ^ 64, false)
      else let (n, o) := enterFIX64 (value b.fmt e.x) m.anchor; ((y + n) % 2 ^ 64, o)) x.t }
  | 2 => { x with t := updateElem slot m poison e.cs (fun y =>
      let (z, g) := valAdd (value m.fmt y) (value b.fmt e.x)
      let (r, h) := convert m.fmt .rne 0 z
      (r, (g ||| h) &&& (OF ||| NV) != 0)) x.t }
  | 3 =>
    if b.kind = 1 then
      let f := b.flits.getD 0 0
      let w := fmtWidth m.fmt
      let off := (land m e.cs true).1
      let old := readN x.t.pad off (w / 8)
      let ans := if poisonedAt x.t.padPoison 8 off (w / 8) then none else some (BitVec.ofNat 64 old)
      ⟨updateElem slot m poison e.cs (fun y => atomicNew m.fmt (bits f 131 128) (bits f 63 0 % 2 ^ w) (bits f 127 64 % 2 ^ w) y) x.t,
        some (x.ans.getD ans)⟩
    else { x with t := placeElem m poison e x.t }
  | 4 => { x with t := writeBank (codeEngine m) (codeStandby m) (land m e.cs true).1 e.x x.t }
  | _ => x

/-- A flit's placed elements cover a granule whole: its poison is cleared (R384). -/
def clearPlaced (m : MapRec) (es : List Elem) (t : Tile) : Tile :=
  let spans := es.map (fun e => let (off, bit) := land m e.cs true; (8 * off + bit, fmtWidth m.fmt))
  { t with padPoison := t.padPoison.filter (fun g =>
      !(List.range 64).all (fun i => spans.any (fun p => decide (p.1 ≤ 64 * g + i) && decide (64 * g + i < p.1 + p.2)))) }

/-- The scale bytes of the blocks whose first element the map received (R212). -/
def landScales (b : Burst) (poison : Bool) (m : MapRec) (es : List Elem) (t : Tile) : Tile :=
  es.foldl (fun t e =>
    if e.j % 32 = 0 then
      let (off, bit) := land m e.cs false
      let a := m.sbase + (off + bit / 8 - m.base) / mxBytes m.fmt
      { t with
        pad := writeN t.pad a 1 (b.scales / 2 ^ (8 * (e.j / 32)))
        padPoison := if poison then addPoison t.padPoison 8 a 1 else t.padPoison }
    else t) t

/-- The ready push of a map (R208). -/
def readyTokens (m : MapRec) : Push := { Push.none with xm := bitOf m.rtgt 0, xv := bitOf m.rtgt 1 }

/-- Counting (R219): the write that brings the counter to expect makes ready rise on the next cycle (R220). `first` says the burst's
weight has not counted here. -/
def countFlit (b : Burst) (slot : Nat) (m : MapRec) (first : Bool) (n : Nat) (t : Tile) : Tile :=
  setSlot slot (fun sl =>
    let add := if m.quorum then (if first then b.weight else 0) else if m.cunit then n * fmtWidth b.fmt / 8 else n
    let count := satAdd 48 sl.count add
    { sl with count := count, rising := sl.rising || (m.expect != 0 && decide (m.expect ≤ count) && !sl.ready) }) t

/-- The cycle after the write that reached expect: ready rises, with the count it rises at, and makes its push; one without room waits in
the slot. The event latch is set (R145, R219, R220). With rtgt 3 and room in one of the two FIFOs only, R220 does not say whether the other
push is made: here both wait, as the pushes of a unit do (R69; DESIGN CHOICE, log entry 26). -/
def raiseReady (t : Tile) (e : Nat × Slot) : Tile :=
  if e.2.rising then
    let p := match e.2.map with | some m => readyTokens m | none => Push.none
    let room := roomFor t.fifo p
    { setSlot e.1 (fun sl => { sl with ready := true, readyCount := sl.count, rising := false, push := !p.isNone && !room }) t with
      fifo := if room then pushInto t.fifo p else t.fifo
      core := { t.core with latch := true } }
  else t

/-- Every slot of a tile that has reached expect. -/
def raiseReadies (t : Tile) : Tile := t.reed.slots.foldl raiseReady t

/-- One map receives its elements of a flit, then counts them (R215). R212 does not say when a scale byte is written, nor by which maps,
where the maps change within a burst: its flit arrives last, and here it is written with the payload flit that holds its block's first
element, by the map that receives that element, before that flit counts (DESIGN CHOICE, log entry 26). -/
def landMap (b : Burst) (poison first : Bool) (slot : Nat) (m : MapRec) (es : List Elem) (x : Landed) : Landed :=
  let y := es.foldl (fun x e => landElem b poison slot m e x) x
  let placed := m.mode == 0 || (m.mode == 3 && b.kind == 0)
  let t := if placed && !poison then clearPlaced m es y.t else y.t
  let t := if m.mode == 0 && b.bscl then landScales b (poison || b.poison.contains b.flits.length) m es t else t
  ⟨countFlit b slot m first es.length t, y.ans⟩

/-! ## One payload flit (R213 to R215, R221, R224) -/

/-- The elements of a flit with what becomes of each. -/
def flitFates (t : Tile) (b : Burst) (k : Nat) : List (Elem × Fate) :=
  let c := candidates t.reed b
  (flitElems b k).map (fun e => (e, fateOf c b.fmt e.cs))

/-- A landing trap: one until ERET (R224). -/
def landingTrap (s : State) (a cause : Nat) (info : Nat) : State :=
  if (core s a).landTrap then s
  else raiseAsync (modCore s a (fun c => { c with landTrap := true })) a cause (BitVec.ofNat 64 info) (trapSrc 4 0 0)

/-- The landing trap of a flit: where several elements would trap, the first of them in element order gives cause and slot, since R224
gives no order (DESIGN CHOICE, log entry 26). -/
def flitTrap (policy : Nat) (b : Burst) : List (Elem × Fate) → Option (Nat × Nat)
  | [] => none
  | (_, f) :: r =>
    let info := b.tensor * 2 ^ 32 + b.fmt * 2 ^ 24
    match f.bad with
    | some i => some (0x15, info + i * 2 ^ 19)
    | none => if f.stray && policy == 3 then some (0x0A, info) else flitTrap policy b r

/-- Elements of a flit that go to no map without straying into the well. -/
def lose (n : Nat) (r : Reed) : Reed :=
  { r with lost := satAdd 48 r.lost n, fresh := { r.fresh with lost := r.fresh.lost + n } }

/-- Elements are lost from a full stray well: its overflow flag is set too (R222, R223). -/
def loseOvf (n : Nat) (r : Reed) : Reed :=
  let r := lose n r
  { r with wellOvf := true, fresh := { r.fresh with well := true } }

/-- The stray elements of a flit under the policy in force (R221, R222). -/
def strayFlit (cycle : Nat) (b : Burst) (k : Nat) (fs : List (Elem × Fate)) (r : Reed) : Reed :=
  let n := (fs.filter (fun f => f.2.stray)).length
  if n = 0 then r
  else if r.policy = 2 then
    if 32 ≤ r.well.length then loseOvf n r
    else
      let per := perFlit b.fmt
      let mask := fs.foldl (fun m f => if f.2.stray then m + 2 ^ (f.1.j - k * per) else m) 0
      { r with well := r.well ++ [strayRecord b k mask cycle + (if b.poison.contains k then 2 ^ 2048 else 0)] }
  else lose n r

/-- Slots that have counted the weight of a burst, by its number (R219). -/
def countedOf (r : Reed) (no : Nat) : List Nat := (r.counted.filter (fun c => c.1 == no)).map (·.2)

/-- A burst is written whole: what it has counted is forgotten (R219). -/
def forgetBurst (no : Nat) (r : Reed) : Reed := { r with counted := r.counted.filter (fun c => c.1 != no) }

/-- The Reedbed of a tile resolves and writes a payload flit of a burst of a number, which arrived as CYCLE stood at `at_`, and the slots
it counts in are noted (R219): the state, and the answer of an atomic. -/
def resolveFlit (s : State) (a : Nat) (b : Burst) (k at_ no : Nat) : State × Option (Option Word) :=
  let t := tile s a
  let counted := countedOf t.reed no
  let fs := flitFates t b k
  let got := (candidates t.reed b).filterMap (fun c =>
    let es := (fs.filter (fun f => f.2.recv.any (fun r => r.1 == c.1))).map (·.1)
    if es.isEmpty then none else some (c.1, c.2, es))
  let x := got.foldl (fun x g => landMap b (b.poison.contains k) (!counted.contains g.1) g.1 g.2.1 g.2.2 x) ⟨{ t with progress := true }, none⟩
  let wrong := (fs.filter (fun f => f.2.recv.isEmpty && f.2.bad.isSome)).length
  let reed := strayFlit at_ b k fs (lose wrong x.t.reed)
  let new := (got.map (·.1)).filter (fun i => !counted.contains i)
  let s := putTile s a { x.t with reed := { reed with counted := reed.counted ++ new.map (fun i => (no, i)) } }
  let s := match flitTrap t.reed.policy b fs with | some (c, i) => landingTrap s a c i | none => s
  (s, x.ans)

/-! ## Flits of a context (R338, R353, R393) -/

/-- The tile runs a task of a context. -/
def runsCtx (s : State) (a c : Nat) : Bool := match taskOf s a with | some t => t.ctx.id == c | none => false

/-- The suspended task of a context that a tile holds. -/
def suspendedOn (s : State) (a c : Nat) : Option (Nat × Task) :=
  s.tasks.find? (fun e => e.2.ctx.id == c && e.2.state == .suspended && (gangOf e.2).contains a)

/-- The VA of record n of a suspended tile's overflow slot (R326, R353). -/
def ovfVa (t : Task) (a n : Nat) : Nat := t.ctx.ovfa + 256 * (t.slots.getD (indexOf a (gangOf t)) 0 * t.ctx.ovfrec + n)

/-- A flit is diverted to the overflow slot by the die's scheduler, a poisoned one with its poison, or dropped from a full one, or from one
that its write does not reach (R353, R384, R389; DESIGN CHOICE, log entry 40). -/
def divert (s : State) (u : Nat) (t : Task) (a : Nat) (b : Burst) (k at_ no : Nat) : State :=
  let put := getAt [] t.ovf a
  let lost := fun (s : State) =>
    bump (modTask s u (fun t => { t with ovfLost := insAt t.ovfLost a (getAt 0 t.ovfLost a + (flitElems b k).length) })) (dieOf a) 0x0A
  if t.ctx.ovfrec ≤ put.length then lost s
  else
    match ownWrite s (dieOf a) t.ctx (ovfVa t a put.length) 256 (writeN [] 0 256 (strayRecord b k 0 at_)) (if b.poison.contains k then [(128, 64)] else []) with
    | (s, none) => modTask s u (fun t => { t with ovf := insAt t.ovf a (put ++ [no]) })
    | (s, some _) => lost s

/-- A core's AMOS.CO of a number has its answer. -/
def coTold (id : Nat) (x : Option Word) (c : Core) : Core :=
  { c with co := c.co.map (fun q => if q.id = id then { q with ans := some x } else q) }

/-- The owner answers an AMOS.CO (R110): its issuer on this device is told, where it was saved meanwhile in its saved state too. The
answer echoes the incarnation of the request; one for an earlier incarnation is dropped and counted (R393). -/
def answerCo (s : State) (src inc : Nat) (co : Option Nat) (x : Option Word) : State :=
  match co with
  | none => s
  | some id =>
    if inc ≠ (die s (dieOf src)).incarn then bump s (dieOf src) 0x08
    else
      let s := { s with tasks := s.tasks.map (fun e => (e.1, { e.2 with saved := e.2.saved.map (fun t =>
        if t.1 = src then (t.1, { t.2 with core := coTold id x t.2.core }) else t) })) }
      modCore s src (coTold id x)

/-- A payload flit that reached a tile on a cycle (R338). -/
def deliver (s : State) (a ctx : Nat) (b : Burst) (k at_ no : Nat) : State × Option (Option Word) :=
  let at_ := at_ - (die s (dieOf a)).base
  if runsCtx s a ctx then resolveFlit s a b k at_ no
  else match suspendedOn s a ctx with
    | some (u, t) => (if b.kind = 1 then s else divert s u t a b k at_ no, none)
    | none => (bump s (dieOf a) 0x03, none)

/-- A CODE map would write the active bank of a busy engine (R218). -/
def codeHeld (s : State) (a ctx : Nat) (b : Burst) (k : Nat) : Bool :=
  let t := tile s a
  runsCtx s a ctx && (flitFates t b k).any (fun f => f.2.recv.any (fun r =>
    r.2.mode == 4 && !codeStandby r.2 && !enginesIdle t ⟨codeEngine r.2 == 3, codeEngine r.2 == 2, codeEngine r.2 == 1⟩))

/-- A SYNC flit has its turn at the port of an agent (R226). -/
def syncDueAt (s : State) (a : Nat) : Bool := s.sync.any (fun f => f.dsts.any (fun d => d.1 == a && decide (d.2 ≤ s.now)))

/-! ## The events -/

/-- The port has taken a flit on this cycle (R19). -/
def portTaken (now : Nat) (r : Reed) : Reed := { r with taken := now + 1 }

/-- The k-th burst on its way to an agent, with its place among all. -/
def transitTo (a : Nat) : List Transit → Nat → Nat → Option (Nat × Transit)
  | [], _, _ => none
  | t :: ts, k, i => if t.dst = a then (if k = 0 then some (i, t) else transitTo a ts (k - 1) (i + 1)) else transitTo a ts k (i + 1)

/-- Bursts of one class that keep their order: of one sender to one receiver (R14), of one die to another (R11), of one agent of
another device (R369). -/
def sameOrder (u t : Transit) : Bool :=
  u.cls == t.cls && ((u.src == t.src && u.dst == t.dst)
    || (endDie u.src != endDie u.dst && endDie u.src == endDie t.src && endDie u.dst == endDie t.dst)
    || (u.src == t.src && decide (65536 ≤ t.src) && u.num != t.num))

/-- An earlier burst that keeps order with this one has not arrived. -/
def overtakes (ts : List Transit) (i : Nat) (t : Transit) : Bool := (ts.take i).any (fun u => sameOrder u t)

/-- A burst of an earlier incarnation of its sender's die (R393): an atomic anywhere, and any burst that would land on that die itself,
where a later incarnation runs. A data burst to another die has reached local completion and is delivered (R392; DEDUCED, log entry
20). -/
def stale (s : State) (src inc a kind : Nat) : Bool :=
  decide (src < 277) && inc != (die s (dieOf src)).incarn && (kind == 1 || endDie src == endDie a)

/-- The landing port of another agent still holds a burst of the same agent of another device, in the same class: bursts of one such
agent land in the order they were issued (R369). The copies of one burst to several tiles, which share its number, keep no order among
themselves. -/
def portHolds (s : State) (a : Nat) (t : Transit) : Bool :=
  let holds := fun (p : Option Port) => match p with
    | some p => p.t.src == t.src && p.t.cls == t.cls && p.t.num != t.num
    | none => false
  decide (65536 ≤ t.src) && s.tiles.any (fun e => e.1 != a && (holds e.2.reed.port || holds e.2.reed.portNext))

/-- Flits of a sender of this device pass to a receiver now; other devices' bursts come over the spoke (R11, R388, R389). -/
def reaches (s : State) (src a : Nat) : Bool := pathOpen s (endDie src) (endDie a)

/-- The landing port has room for a header: it is free, or every flit of the burst it still writes has arrived and none waits behind
(R13, R14, R220). -/
def portOpen (now : Nat) (r : Reed) : Bool :=
  match r.port with
  | none => true
  | some p => r.portNext.isNone && !p.held && decide (p.upto ≤ now)

/-- A header at the landing port on a cycle: its first payload flit comes a cycle after the header and any extension, and is written two
cycles later (R13, R220). -/
def portOf (t : Transit) (now no : Nat) : Port :=
  let first := now + 1 + natOf t.b.ext
  ⟨t, 0, first, first + 2, now + burstFlits t.b, false, no⟩

/-- The port takes a header on a cycle, at once or behind the burst it still writes; the burst has the next number. -/
def takeHeader (t : Transit) (now : Nat) (r : Reed) : Reed :=
  let p := portOf t now (r.heads + 1)
  let r := { r with heads := r.heads + 1 }
  if r.port.isNone then { r with port := some p } else { r with portNext := some p }

/-- The port's burst is written whole: the one behind it follows, at most one flit a cycle (R213). -/
def portDone (now : Nat) (r : Reed) : Reed :=
  { r with port := r.portNext.map (fun p => { p with due := Nat.max p.due (now + 1) }), portNext := none }

/-- The next flit of the port's burst: it arrived one cycle behind, or has waited at the port (R13, R213). -/
def portStep (now : Nat) (p : Port) : Port :=
  { p with
    flit := p.flit + 1
    at_ := now - 1
    due := now + 1
    upto := now - 1 + (p.t.b.flits.length - (p.flit + 1)) + natOf p.t.b.bscl
    held := false }

/-- A malformed burst lands nowhere: its elements are lost, at a suspended task in its own count; one for no task here is dropped
(R207, R338, R353). -/
def loseBurst (s : State) (a ctx : Nat) (b : Burst) : State :=
  let n := Nat.min b.runlen 512
  if runsCtx s a ctx then modReed s a (lose n)
  else match suspendedOn s a ctx with
    | some (u, _) => modTask s u (fun t => { t with ovfLost := insAt t.ovfLost a (getAt 0 t.ovfLost a + n) })
    | none => bump s (dieOf a) 0x03

/-- Another scheduled flit stands before the k-th at a receiver's port: one of an earlier cycle there, of one cycle the one issued
first. -/
def syncBefore (s : State) (k : Nat) (d : Nat × Nat) : Bool :=
  ((List.range s.sync.length).zip s.sync).any (fun e => e.2.dsts.any (fun c =>
    c.1 == d.1 && (decide (c.2 < d.2) || (c.2 == d.2 && decide (e.1 < k)))))

/-- A scheduled CODE flit has its turn at the port and waits there for a busy engine: later flits wait behind it (R218, R226). -/
def syncHeld (s : State) (a : Nat) : Bool :=
  ((List.range s.sync.length).zip s.sync).any (fun e => e.2.dsts.any (fun d =>
    d.1 == a && decide (d.2 ≤ s.now) && !syncBefore s e.1 d && codeHeld s a e.2.ctx e.2.b e.2.flit))

/-- HEADER_FLIT_ARRIVES (R213): the port takes the header and any extension flit, unless a scheduled flit is held there (R218). -/
def execHeaderFlitArrives (a k : Nat) (s : State) : Out :=
  match transitTo a s.transit k 0 with
  | none => .next s
  | some (i, t) =>
    if !portOpen s.now (tile s a).reed ∨ syncHeld s a ∨ s.now < t.due ∨ overtakes s.transit i t ∨ portHolds s a t ∨ !reaches s t.src a then .next s
    else
      let s := { s with transit := s.transit.eraseIdx i }
      if stale s t.src t.inc a t.b.kind then .next (bump s (dieOf a) 0x09)
      else if malformed t.b then .next (answerCo (loseBurst s a t.ctx t.b) t.src t.inc t.co none)
      else .next (modReed s a (takeHeader t s.now))

/-- The payload flit at the port lands; the last one ends the burst, and answers an atomic. A burst whose sender's die has been reset
meanwhile is dropped and counted where it may not land (R393). -/
def landPort (s : State) (a : Nat) (p : Port) : State :=
  let s := modReed s a (portTaken s.now)
  if stale s p.t.src p.t.inc a p.t.b.kind then bump (modReed s a (portDone s.now)) (dieOf a) 0x09
  else
  let (s, ans) := deliver s a p.t.ctx p.t.b p.flit p.at_ p.no
  if p.t.b.flits.length ≤ p.flit + 1 then
    answerCo (modReed s a (fun r => forgetBurst p.no (portDone s.now r))) p.t.src p.t.inc p.t.co (ans.getD none)
  else modReed s a (fun r => { r with port := some (portStep s.now p) })

/-- PAYLOAD_FLIT_LANDS (R19, R213, R218): one payload flit, on a cycle on which the port has taken none yet, or the port is held for a
busy engine. -/
def execPayloadFlitLands (a : Nat) (s : State) : Out :=
  match (tile s a).reed.port with
  | none => .next s
  | some p =>
    if p.held ∨ s.now < p.due ∨ s.now < (tile s a).reed.taken ∨ syncDueAt s a then .next s
    else if codeHeld s a p.t.ctx p.t.b p.flit then .next (modReed s a (fun r => { r with port := some { p with held := true } }))
    else .next (landPort s a p)

/-- CODE_LANDING_RELEASE (R19, R218): the held flit lands once its engine is idle, on a cycle on which the port has taken none yet. -/
def execCodeLandingRelease (a : Nat) (s : State) : Out :=
  let r := (tile s a).reed
  match r.port with
  | none => .next s
  | some p =>
    if p.held ∧ p.due ≤ s.now ∧ r.taken ≤ s.now ∧ !codeHeld s a p.t.ctx p.t.b p.flit then .next (landPort s a p) else .next s

/-- READY_PUSH (R220). -/
def execReadyPush (a slot : Nat) (s : State) : Out :=
  let t := tile s a
  match lookup t.reed.slots slot with
  | none => .next s
  | some sl =>
    match sl.map with
    | none => .next s
    | some m =>
      if sl.push ∧ roomFor t.fifo (readyTokens m) then
        .next (putTile s a (setSlot slot (fun sl => { sl with push := false }) { t with fifo := pushInto t.fifo (readyTokens m), progress := true }))
      else .next s

/-- The number of a SYNC burst: its sender and the cycle its first flit left on; no header of the port has one as high (R219, R353). -/
def syncNo (f : SyncFlit) : Nat := (f.src + 1) * 2 ^ 64 + (f.leave - f.flit)

/-- A SYNC flit lands at one receiver; one that is written by a map later than scheduled counts in SSLATE (R226, R275). The port takes
one flit a cycle: another one comes later (R19, R213). One of an earlier incarnation of its die is dropped and counted (R393), and those of
a malformed burst land nowhere: the first counts its elements as lost (R207). A step makes its landing whole: where its write to an
overflow slot would wait for a device of a duplicate set, the flit is lost instead (DESIGN CHOICE, log entry 19). -/
def landSync (f : SyncFlit) (s : State) (a : Nat) : State :=
  let s := modReed s a (portTaken s.now)
  if f.inc ≠ (die s (dieOf f.src)).incarn then bump s (dieOf a) 0x09
  else if malformed f.b then (if f.flit = 0 then loseBurst s a f.ctx f.b else s)
  else
  let written := runsCtx s a f.ctx
  let s := { (deliver s a f.ctx f.b f.flit (f.leave + 6 + 2 * hops (f.src % 64) (a % 64)) (syncNo f)).1 with awaited := s.awaited }
  modReed s a (fun r =>
    let r := if f.b.flits.length ≤ f.flit + 1 then forgetBurst (syncNo f) r else r
    if written ∧ f.sched < s.now then { r with sslate := BitVec.ofNat 32 (satAdd 32 r.sslate.toNat 1) } else r)

/-- The k-th scheduled flit is written at a receiver now: its cycle has come, the port has taken no flit on it, no scheduled flit stands
before it there, which may wait for a busy engine, and it waits for none itself (R19, R218, R226). A port that holds an asynchronous
CODE flit does not keep it back: R218 has every later flit wait behind that one, R13 and R226 make the cycle of a scheduled flit exact,
and the cycle stands (DESIGN CHOICE, log entry 29). -/
def syncLands (s : State) (k : Nat) (f : SyncFlit) (d : Nat × Nat) : Bool :=
  decide (d.2 ≤ s.now) && decide ((tile s d.1).reed.taken ≤ s.now) && !syncBefore s k d && !codeHeld s d.1 f.ctx f.b f.flit

/-- SYNC_LANDING (R226): the k-th scheduled flit, in every receiver that writes it now. -/
def execSyncLanding (k : Nat) (s : State) : Out :=
  match s.sync[k]? with
  | none => .next s
  | some f =>
    let due := f.dsts.filter (syncLands s k f)
    let s := due.foldl (fun s d => landSync f s d.1) s
    let left := f.dsts.filter (fun d => !due.contains d)
    let sync := s.sync.eraseIdx k
    .next { s with sync := if left.isEmpty then sync else sync.insertIdx k { f with dsts := left } }

/-! ## Changes of the maps (R225) -/

def Slot.clear (m : Option MapRec) : Slot := ⟨m, none, 0, false, 0, false, false, false⟩

/-- An install whose policy is not KEEP replaces the stray policy (R221). -/
def keepPolicy (m : MapRec) (r : Reed) : Reed := if m.policy = 0 then r else { r with policy := m.policy }

/-- The change at a flit boundary: the Reedbed after, and the old counter of a swap. -/
def applyChange (c : MapChange) (r : Reed) : Reed × Option Nat :=
  match c with
  | .set i m =>
    let sh := match lookup r.slots i with | some sl => sl.shadow | none => none
    (keepPolicy m { r with slots := insAt r.slots i { Slot.clear (some m) with shadow := sh } }, none)
  | .clear i =>
    let sh := match lookup r.slots i with | some sl => sl.shadow | none => none
    ({ r with slots := insAt r.slots i { Slot.clear none with shadow := sh } }, none)
  | .swap i =>
    match lookup r.slots i with
    | none => (r, some 0)
    | some sl =>
      let r1 := { r with slots := insAt r.slots i (Slot.clear sl.shadow) }
      (match sl.shadow with | some m => keepPolicy m r1 | none => r1, some sl.count)

def changedSlot (c : MapChange) : Nat := match c with | .set i _ => i | .swap i => i | .clear i => i

/-- MAP_CHANGE_AT_BOUNDARY (R213, R225): never between a flit's resolution and its writes, where a flit that waits for a busy engine, of
either kind, stands resolved (R218). -/
def execMapChangeAtBoundary (a : Nat) (s : State) : Out :=
  let r := (tile s a).reed
  match r.change with
  | none => .next s
  | some c =>
    if (match r.port with | some p => p.held | none => false) || syncHeld s a then .next s
    else
      let i := changedSlot c
      let (r, old) := applyChange c { r with
        change := none
        counted := r.counted.filter (fun c => c.2 != i)
        fresh := { r.fresh with ovf := r.fresh.ovf.filter (· != i) } }
      let s := modReed s a (fun _ => r)
      .next (modMov (progress s a) a (fun m => { m with busy := m.busy.map (fun b =>
        { b with wait := if b.wait = .boundary then .nothing else b.wait, bits := match old with | some n => 8 * n | none => b.bits }) }))

end Sys2Proof.Machine
end

