-- ==== Sys2Proof/Machine/Scheduler.lean ====
section
/-! DEFINITION. The die schedulers: images, placement, start, end, preloads, budgets, kills, pre-emption (R84 to R86, R281, R309, R334 to R342, R348 to R353). -/

namespace Sys2Proof.Machine

/-! ## Kernel headers and images (R84, R85) -/

/-- A kernel header's fields (R84). -/
def headerOf (m : Mem) : Header :=
  let g := group m
  { sregs := bits (g 0) 63 57
    vregs := bits (g 0) 56 51
    accs := bits (g 0) 50 48
    maps := bits (g 0) 47 42
    barriers := bits (g 0) 41 39
    killable := bitOf (g 0) 38
    hcstores := bitOf (g 0) 37
    scratch := (bits (g 0) 36 32 + 1) * 32768
    weight := bits (g 0) 31 16
    budget := g 1
    porig := bits (g 2) 63 44
    psize := bits (g 2) 43 23
    cwords := bits (g 3) 63 50
    vpairs := bits (g 3) 49 38
    mrecs := bits (g 3) 37 29
    xrecs := bits (g 3) 28 20
    nseg := bits (g 3) 19 12 }

/-- The lowest bit number of the first field of a header that fails, in rising order (R84). R84 names one "offending field" and not
which: psize where porig + psize passes the scratch size, hcstores where it stands beside killable, and for a reserved group its own
bit 0 (DESIGN CHOICE, log entry 23). -/
def headerBad (m : Mem) : Option Nat :=
  let g := group m
  let h := headerOf m
  let fails : List (Nat × Bool) :=
    [(0, bits (g 0) 15 0 != 0), (37, h.killable && h.hcstores), (39, decide (4 < h.barriers)), (42, decide (32 < h.maps)),
     (48, decide (4 < h.accs)), (51, h.vregs == 0 || decide (32 < h.vregs)), (57, h.sregs == 0 || decide (64 < h.sregs)),
     (128, bits (g 2) 22 0 != 0), (151, decide (1048576 < h.psize) || decide (h.scratch < h.porig + h.psize)),
     (192, bits (g 3) 11 0 != 0), (212, decide (256 < h.xrecs)), (221, decide (256 < h.mrecs)), (230, decide (2048 < h.vpairs)),
     (242, decide (8192 < h.cwords)), (256, g 4 != 0), (320, g 5 != 0), (384, g 6 != 0), (448, g 7 != 0)]
  (fails.find? (·.2)).map (·.1)

def up64 (n : Nat) : Nat := (n + 63) / 64 * 64

/-- A data section: its origin, class and bytes, with the poisoned spans among them (R384). -/
structure Section_ where
  origin : Nat
  cls : Nat
  len : Nat
  bytes : Mem
  bad : List (Nat × Nat)

/-- A kernel image as the scheduler reads it. -/
structure Image where
  hdr : Header
  c : Mem
  v : Mem
  m : Mem
  x : Mem
  secs : List Section_

/-- The data sections from a place of the image on: each checked and read in image order (R85). -/
def readSections (s : State) (d : Nat) (ctx : Ctx) (scratch : Nat) (va : Nat) : Nat → Nat → State × Except (Nat × Nat) (List Section_)
  | 0, _ => (s, .ok [])
  | n + 1, i =>
    let f := ownRead s d ctx true va 16
    match f.err with
    | some e => (f.s, .error e)
    | none =>
      let o := group f.mem 0
      let w := group f.mem 1
      let len := bits w 63 32
      let cls := bits w 31 30
      if cls = 3 ∨ bits w 29 0 ≠ 0 ∨ (bitOf o 63 ∧ (cls ≠ 0 ∨ (len ≠ 0 ∧ scratch < o % 2 ^ 63 + len))) then (f.s, .error (0x02, i))
      else
        let b := ownRead f.s d ctx true (va + 16) len
        match b.err with
        | some e => (b.s, .error e)
        | none =>
          match readSections b.s d ctx scratch (va + up64 (16 + len)) n (i + 1) with
          | (s, .error e) => (s, .error e)
          | (s, .ok rest) => (s, .ok (⟨o, cls, len, b.mem, b.bad⟩ :: rest))

/-- Reads and checks an image: the image, or the cause and TRAPINFO (R84, R85, R309). -/
def readImage (s : State) (d : Nat) (ctx : Ctx) (va : Nat) : State × Except (Nat × Nat) Image :=
  if va % 64 ≠ 0 then (s, .error (0x02, va))
  else
    let f := ownRead s d ctx true va 64
    match f.err with
    | some e => (f.s, .error e)
    | none =>
      match headerBad f.mem with
      | some b => (f.s, .error (0x02, b))
      | none =>
        let h := headerOf f.mem
        let nc := 8 * h.cwords
        let nv := 16 * h.vpairs
        let nm := 64 * h.mrecs
        let nx := 64 * h.xrecs
        let size := up64 nc + up64 nv + nm + nx
        let b := ownRead f.s d ctx true (va + 64) size
        match b.err with
        | some e => (b.s, .error e)
        | none =>
          match readSections b.s d ctx h.scratch (va + 64 + size) h.nseg 0 with
          | (s, .error e) => (s, .error e)
          | (s, .ok secs) =>
            (s, .ok ⟨h, slice b.mem 0 nc, slice b.mem (up64 nc) nv, slice b.mem (up64 nc + up64 nv) nm,
              slice b.mem (up64 nc + up64 nv + nm) nx, secs⟩)

/-- The global sections are written, each checked whole before any of its bytes, up to one that fails (R86). -/
def writeGlobals (s : State) (d : Nat) (ctx : Ctx) : List Section_ → State × Option (Nat × Nat)
  | [] => (s, none)
  | x :: xs =>
    if bitOf x.origin 63 then writeGlobals s d ctx xs
    else match ownCheck s d ctx (some x.cls) x.origin x.len with
      | (s, some e) => (s, some e)
      | (s, none) => match ownWrite s d ctx x.origin x.len x.bytes x.bad with
        | (s, some e) => (s, some e)
        | (s, none) => writeGlobals s d ctx xs

/-- The scratchpad with an image's sections written (R281). -/
def padSections (secs : List Section_) (pad : Mem) : Mem :=
  secs.foldl (fun m x => if bitOf x.origin 63 then paste m (x.origin % 2 ^ 63) x.len x.bytes else m) pad

/-- The poison of the scratchpad with an image's sections written: that of their bytes (R384). -/
def poisonSections (secs : List Section_) (ps : List Nat) : List Nat :=
  secs.foldl (fun ps x =>
    let o := x.origin % 2 ^ 63
    if bitOf x.origin 63 then addSpans (coverPoison ps 8 o x.len) 8 o x.bad else ps) ps

/-! ## The preload list (R339) -/

/-- The bytes a preload list names, and the poisoned spans among them (R384). -/
abbrev PreloadData := Mem × List (Nat × Nat)

/-- The bytes of the list's entries, in order. -/
def readEntries (s : State) (d : Nat) (ctx : Ctx) (at_ : Nat) : List (Nat × Nat) → State × Except (Nat × Nat) PreloadData
  | [] => (s, .ok ([], []))
  | (va, n) :: es =>
    let f := ownRead s d ctx false va n
    match f.err with
    | some e => (f.s, .error (0x06, e.2))
    | none =>
      match readEntries f.s d ctx (at_ + n) es with
      | (s, .error e) => (s, .error e)
      | (s, .ok m) => (s, .ok (f.mem.map (fun c => (c.1 + at_, c.2)) ++ m.1, f.bad.map (fun p => (p.1 + at_, p.2)) ++ m.2))

/-- The data of a preload list, counted from the region's origin. -/
def readPreload (s : State) (d : Nat) (ctx : Ctx) (plist psize : Nat) : State × Except (Nat × Nat) PreloadData :=
  if plist % 16 ≠ 0 then (s, .error (0x02, plist))
  else
    let f := ownRead s d ctx false plist 256
    match f.err with
    | some e => (f.s, .error (0x06, e.2))
    | none =>
      let es := (List.range 16).map (fun i => (group f.mem (2 * i), group f.mem (2 * i + 1)))
      if es.any (fun e => decide (2 ^ 32 ≤ e.2)) ∨ psize < (es.map (·.2)).sum then (f.s, .error (0x02, plist))
      else readEntries f.s d ctx 0 (es.filter (fun e => e.2 != 0))

/-! ## Ready tasks and placement (R335, R336) -/

/-- TASK_READY_QUEUE (R335): the head entry, once the entry before it has started. The scheduler reads the context's descriptor at its
home; one it cannot reach is cause 0x16 (R389; DESIGN CHOICE, log entry 40). -/
def execTaskReadyQueue (d q : Nat) (s : State) : Out :=
  let x := queueOf s d q
  match x.entries with
  | [] => .next s
  | e :: es =>
    if !x.clear then .next s
    else match ctxRead s d e.ctx with
      | (none, s) =>
        let cause := if diePath s d (homeDie e.ctx) then 0x02 else 0x16
        .next (event (putQueue s d q { x with entries := es }) 0x03 cause d 0 0 0 e.va 0 0 0 0)
      | (some c, s) => .next (makeReady (putQueue s d q { x with entries := es, clear := false }) d c e.va none (.queue d q e.seq) e.cls e.seq false)

/-- TASK_CLASS_PROMOTION (R336). -/
def execTaskClassPromotion (u : Nat) (s : State) : Out :=
  match lookup s.tasks u with
  | none => .next s
  | some t =>
    if t.state = .ready ∧ 0 < t.cls ∧ t.since + 2 ^ 20 ≤ s.now then
      .next (putTask s u { t with cls := t.cls - 1, since := s.now })
    else .next s

/-- The rectangle lies within the mesh. -/
def inMesh (corner gw gh : Nat) : Bool := decide (corner % 8 + gw ≤ 8) && decide (corner / 8 + gh ≤ 8)

/-- A task placed and not started holds the agent. -/
def placedOn (s : State) (a : Nat) : Option Nat :=
  (s.tasks.find? (fun e => e.2.state == .placed && (gangOf e.2).contains a)).map (·.1)

/-- The rectangle holds no tile out of service and no suspended task of the context, and every tile passes `free` (R336, R386). -/
def rectFits (s : State) (t : Task) (corner : Nat) (free : Nat → Bool) : Bool :=
  inMesh corner t.gw t.gh && (rect t.die corner t.gw t.gh).all (fun a =>
    (die s t.die).up && free a && (placedOn s a).isNone && (suspendedOn s a t.ctx.id).isNone && !(die s t.die).absent.contains a)

def lowestFit (s : State) (t : Task) (free : Nat → Bool) : Option Nat := (List.range 64).find? (fun c => rectFits s t c free)

def tileFree (s : State) (a : Nat) : Bool := (tile s a).task.isNone

/-- Considered before: a higher class, then an earlier time, then an earlier task (R336). -/
def comesBefore (a b : Nat × Task) : Bool :=
  decide (a.2.cls < b.2.cls) || (a.2.cls == b.2.cls && (decide (a.2.since < b.2.since) || (a.2.since == b.2.since && decide (a.1 < b.1))))

/-- The save slot a tile of the task needs, in bytes (R348). -/
def saveNeed (h : Header) : Nat :=
  (131072 + h.scratch + 32768 * h.accs + (if h.killable then 8388608 else 0) + 65535) / 65536 * 65536

/-- Pre-emption may be requested of a running task (R348). -/
def preemptible (s : State) (t : Task) : Bool :=
  let g := gangOf t
  t.state == .running && (match t.origin with | .cstart _ => false | _ => true)
    && (freeSlots s t.ctx g.length).length == g.length && decide (saveNeed t.hdr ≤ t.ctx.savesz * 65536)

/-- Requests pre-emption on every tile of the gang. -/
def requestPreempt (s : State) (u : Nat) : State :=
  match lookup s.tasks u with
  | none => s
  | some t =>
    if preemptible s t then (gangOf t).foldl (fun s a => modTile s a (fun x => { x with preemptAt := x.preemptAt.orElse (fun _ => some s.now) })) s
    else s

/-- A task's preload stands on exactly these tiles (R340). -/
def preloadedOn (s : State) (u : Nat) (g : List Nat) : Bool :=
  let mine := fun (a : Nat) => match (tile s a).preload with | some q => q.u == u | none => false
  g.all mine && (s.tiles.map (·.1)).all (fun a => !mine a || g.contains a)

/-- TASK_PLACEMENT (R336): the first ready task that a rectangle fits; a class-0 task that has waited long requests pre-emption.
A preload made on another rectangle is discarded whole, the tiles the two share among it (R340). -/
def execTaskPlacement (u : Nat) (s : State) : Out :=
  match lookup s.tasks u with
  | none => .next s
  | some t =>
    if t.state ≠ .ready then .next s
    else
      let earlier := s.tasks.filter (fun e => e.2.state == .ready && e.2.die == t.die && comesBefore e (u, t))
      if earlier.any (fun e => (lowestFit s e.2 (tileFree s)).isSome) then .next s
      else match lowestFit s t (tileFree s) with
        | some c =>
          let g := rect t.die c t.gw t.gh
          let s := putTask s u { t with state := .placed, corner := c }
          .next (if preloadedOn s u g then s else dropPreloads s (· == u))
        | none =>
          if t.cls = 0 ∧ t.since + 2 ^ 20 ≤ s.now then
            let low := fun (a : Nat) => match taskOf s a with | some x => decide (0 < x.cls) | none => true
            match lowestFit s t low with
            | none => .next s
            | some c => .next (((rect t.die c t.gw t.gh).filterMap (fun a => (tile s a).task)).eraseDups.foldl requestPreempt s)
          else .next s

/-! ## Starting (R272, R281, R337) -/

/-- The banks at a task's start: exchanged where preloaded, left for a rerun, otherwise written from the image (R337, R340). -/
def startBanks (im : Image) (p : Option Preload) (b : Banks) : Banks :=
  let pre := fun (f : Preload → Bool) => match p with | some q => f q | none => false
  let keep := fun (wrote : Bool) => pre (·.rerun) && !wrote
  { cA := if pre (·.c) || keep b.wroteC || b.actC then b.cA else im.c
    cB := if pre (·.c) || keep b.wroteC || !b.actC then b.cB else im.c
    vA := if pre (·.v) || keep b.wroteV || b.actV then b.vA else im.v
    vB := if pre (·.v) || keep b.wroteV || !b.actV then b.vB else im.v
    mA := if pre (·.m) || keep b.wroteM || b.actM then b.mA else im.m
    mB := if pre (·.m) || keep b.wroteM || !b.actM then b.mB else im.m
    xA := if pre (·.x) || keep b.wroteX || b.actX then b.xA else im.x
    xB := if pre (·.x) || keep b.wroteX || !b.actX then b.xB else im.x
    actC := b.actC != pre (·.c)
    actV := b.actV != pre (·.v)
    actM := b.actM != pre (·.m)
    actX := b.actX != pre (·.x)
    wroteC := false
    wroteV := false
    wroteM := false
    wroteX := false }

/-- The preload region written from a list's bytes: the scratchpad and its poison (R339, R384). -/
def putPreload (h : Header) (d : PreloadData) (x : Tile) : Mem × List Nat :=
  (paste x.pad h.porig h.psize d.1, addSpans (coverPoison x.padPoison 8 h.porig h.psize) 8 h.porig d.2)

/-- A tile's code made active and its scratchpad loaded, before the task starts: the preload region, then the data sections
(R281, R337, steps 2 and 3). -/
def loadTile (u : Nat) (im : Image) (data : Option PreloadData) (x : Tile) : Tile :=
  let p := match x.preload with | some q => if q.u = u then some q else none | none => none
  let ready := match p with | some q => q.data | none => false
  let (pad, bad) := match data with
    | some d => if ready then (x.pad, x.padPoison) else putPreload im.hdr d x
    | none => (x.pad, x.padPoison)
  { x with
    pad := padSections im.secs pad
    padPoison := poisonSections im.secs bad
    banks := startBanks im p x.banks
    preload := if p.isSome then none else x.preload }

/-- A byte of the scratchpad that the preload region or a data section of the image covers (R337). -/
def covered (im : Image) (a : Nat) : Bool :=
  (decide (im.hdr.porig ≤ a) && decide (a < im.hdr.porig + im.hdr.psize))
    || im.secs.any (fun x => bitOf x.origin 63 && decide (x.origin % 2 ^ 63 ≤ a) && decide (a < x.origin % 2 ^ 63 + x.len))

/-- After a task of another context every byte within `.scratch` that nothing covers is written zero, which clears the poison of the
granules it covers whole (R337, step 4; R384). -/
def zeroPad (im : Image) (x : Tile) : Tile :=
  let keep := fun (a : Nat) => decide (im.hdr.scratch ≤ a) || covered im a
  { x with
    pad := x.pad.filter (fun e => keep e.1)
    padPoison := x.padPoison.filter (fun g => (List.range 8).any (fun i => keep (8 * g + i))) }

/-- A loaded tile at word 0 (R337): every other state at its task-start value. No clean line of an earlier task serves a load: this
task sees what tasks that have ended stored (R285). -/
def startTile (u : Nat) (t : Task) (im : Image) (x : Tile) : Tile :=
  let y := if x.lastCtx = t.ctx.id then x else zeroPad im x
  { Tile.reset with
    core := { coreLeft x.core with
      s := setAt 0 (setAt 0 (setAt 0 [] 1 t.d.param0) 2 t.d.param1) 3 (BitVec.ofNat 64 t.runNo)
      run := .running
      ctlb := x.core.ctlb }
    mov := { Mov.reset with xtlb := x.mov.xtlb, portFree := x.mov.portFree }
    reed := portOnly x.reed
    pad := y.pad
    padPoison := y.padPoison
    banks := x.banks
    task := some u
    lastCtx := x.lastCtx
    preload := x.preload }

/-- Preloads on a task's tiles that are for another task go, whole, with every tile's part: its bytes are no longer to be relied on.
Those made while this very task ran are kept for the task after its rerun (R340). -/
def dropOthers (s : State) (u : Nat) (g : List Nat) : State :=
  let gone := g.filterMap (fun a => (tile s a).preload.bind (fun q => if q.u = u ∨ q.under = u then none else some q.u))
  dropPreloads s (gone.contains ·)

/-- A header a collective sequencer may start (R366). -/
def seqHeader (h : Header) : Bool :=
  h.vpairs == 0 && h.mrecs == 0 && h.accs == 0 && h.maps == 0 && h.barriers == 0 && !h.killable && decide (h.scratch ≤ 262144)

/-- Starts a task whose tiles are free: the checks, the code, the scratchpad, the global sections, and every tile at word 0 together.
A global section that fails leaves the code and the scratchpad written and the tiles not started (R86, R337). -/
def startTask (s : State) (u : Nat) (t : Task) : State :=
  match readImage s t.die t.ctx t.d.image with
  | (s, .error (c, i)) => notStarted s u c i
  | (s, .ok im) =>
    let seq : Bool := match t.origin with | .cstart _ => true | _ => false
    if im.hdr.killable ≠ t.d.kill then notStarted s u 0x02 t.d.va
    else if seq ∧ !seqHeader im.hdr then notStarted s u 0x02 t.d.va
    else
      let g := gangOf t
      let have_ := g.all (fun a => match (tile s a).preload with | some q => q.u == u && q.data | none => false)
      match (if t.d.plist = 0 ∨ have_ then (s, .ok none)
        else match readPreload s t.die t.ctx t.d.plist im.hdr.psize with
          | (s, .ok m) => (s, .ok (some m))
          | (s, .error e) => (s, .error e) : State × Except (Nat × Nat) (Option PreloadData)) with
      | (s, .error (c, i)) => notStarted s u c i
      | (s, .ok data) =>
        let s := g.foldl (fun s a => modTile s a (loadTile u im data)) (dropOthers s u g)
        match writeGlobals s t.die t.ctx im.secs with
        | (s, some (c, i)) => notStarted s u c i
        | (s, none) =>
          let t := { t with state := .running, hdr := im.hdr, counted := 0, begun := false, killed := none, overrun := false }
          let s := register (unblockQueue (putTask s u t) t) t.ctx
          g.foldl (fun s a => modTile s a (startTile u t im)) s

/-- A join the task feeds and has not arrived at accepts it no more: the task is a straggler, which never starts and is killed in place,
from the cycle GRACE is over (R345). -/
def straggler (s : State) (t : Task) : Bool :=
  match t.origin with
  | .node _ gid _ _ => (joinsOf s t).any (fun j => !t.arrivedAt.contains (partKey j.1 j.2) && !accepts s gid j)
  | _ => false

/-- TASK_START (R337): a placed task. -/
def execTaskStart (u : Nat) (s : State) : Out :=
  match lookup s.tasks u with
  | none => .next s
  | some t =>
    if t.state = .placed ∧ (gangOf t).all (tileFree s) ∧ !straggler s t then .next (startTask s u t) else .next s

/-- CSTART (R366): the descriptor's VA is read as a device PA, as a context descriptor's is (log entry 10), by
die 4's reeve core; one whose home no path reaches is refused with cause 0x16 (R389; DESIGN CHOICE, log entry 40). -/
def execCstart (q : Nat) (va : Word) (s : State) : Out :=
  if !hostOpen s then .next s else
  let s := lockFeat s
  let g := fun (i : Nat) => readN s.mem (va.toNat + 8 * i) 8
  let refuse := fun (s : State) (cause : Nat) => Host.Outcome.next (event s 0x03 cause 4 (q % 16) 0 0 va.toNat 0 0 0 0)
  if va.toNat % 64 ≠ 0 ∨ 2 ^ 38 ≤ va.toNat then refuse s 0x02
  else if !diePath s 4 (homeDie va.toNat) then refuse s 0x16
  else match ctxRead (unitReads s 4 [va.toNat]) 4 (g 1) with
  | (none, s) => refuse s (if diePath s 4 (homeDie (g 1)) then 0x02 else 0x16)
  | (some c, s) =>
    let bad := bits (g 5) 63 57 != 0 || bits (g 5) 55 32 != 0 || g 7 != 0
    if bad ∨ 16 ≤ q ∨ !tileFree s (256 + q) then refuse s 0x02
    else
      let d : Desc := ⟨va.toNat, g 0, g 1, BitVec.ofNat 64 (g 2), BitVec.ofNat 64 (g 3), g 4, 1, 1, false, bitOf (g 5) 56, bits (g 5) 31 0, g 6, 0⟩
      let u := s.nextTask
      let t : Task := ⟨.placed, .cstart q, d, .full, c, 4, 0, s.now, q, 1, 1, 0, 0, false, [], none, false, [], [], false, [], [], []⟩
      .next (startTask { putTask s u t with nextTask := u + 1 } u t)

/-! ## Ending (R120, R331, R338, R356) -/

/-- A tile's task is over: slots emptied, stray records discarded, dirty PRIV lines written home (R338). -/
def endTile (t : Task) (s : State) (a : Nat) : State :=
  let s := if (core s a).run = .ending ∧ !t.hdr.killable then dropClean (publish s a) a false else s
  modTile (leaveCollapses (writeBack s a) a t.ctx) a (fun x => { x with
    task := none
    lastCtx := t.ctx.id
    core := { x.core with run := .idle, wait := .none }
    reed := { x.reed with slots := [], well := [], counted := [], change := none }
    stepOpen := none
    bars := []
    arrived := []
    killAt := none
    preemptAt := none
    stalled := 0
    reported := false })

/-- What the end of a task does beyond its tiles: a kill outside a quorum close requeues it under RESTART, but a straggler, which never
starts again; otherwise it arrives, ends with its join, or ends abnormally (R331, R334, R338, R345, R356). -/
def finishTask (s : State) (u : Nat) (t : Task) : State :=
  let stranded := match t.origin with | .node _ gid _ _ => (runOf s gid).phase == .stranded | _ => false
  let again : Bool := match t.killed with | some (_, .kill) => t.d.restart && !stranded | _ => false
  let late := straggler s t
  if again ∧ !late then putTask s u { t with state := .ready, since := s.now, killed := none, overrun := false, counted := 0, begun := false, saved := [], slots := [], exitAt := [] }
  else
    let s := incDone (putTask s u { t with state := .ended, saved := [], slots := [] }) t
    match t.killed with
    | some (_, .close) => s
    | some (c, _) => if again then s else abnormal s t c 0
    | none => match t.origin with
      | .node d gid n _ => arriveSuccs s d gid n
      | _ => s

/-- TASK_END (R338): every tile has exited or has been stopped; a suspended task that was killed ends where it is. -/
def execTaskEnd (u : Nat) (s : State) : Out :=
  match lookup s.tasks u with
  | none => .next s
  | some t =>
    if t.state = .running ∧ (gangOf t).all (tileDone s) then
      .next (finishTask ((gangOf t).foldl (endTile t) s) u t)
    else if t.state = .suspended ∧ t.killed.isSome then .next (finishTask s u t)
    else .next s

/-! ## Preloading (R309, R339, R340) -/

/-- A CODE map of the running task names the standby bank of an engine. -/
def standbyMapped (x : Tile) (e : Nat) : Bool :=
  x.reed.slots.any (fun sl => match sl.2.map with | some m => m.mode == 4 && codeEngine m == e && codeStandby m | none => false)

/-- Preloads a tile: code into each standby bank that no CODE map names, data into a region beyond the running task's scratchpad. -/
def preloadTile (u : Nat) (im : Image) (rerun : Bool) (data : Option PreloadData) (cur : Header) (x : Tile) : Tile :=
  let b := x.banks
  let ok := fun (e : Nat) => !rerun && !standbyMapped x e
  let put := data.isSome && decide (cur.scratch ≤ im.hdr.porig)
  let (pad, bad) := if put then putPreload im.hdr (data.getD ([], [])) x else (x.pad, x.padPoison)
  { x with
    banks := { b with
      cA := if ok 0 && b.actC then im.c else b.cA
      cB := if ok 0 && !b.actC then im.c else b.cB
      vA := if ok 1 && b.actV then im.v else b.vA
      vB := if ok 1 && !b.actV then im.v else b.vB
      mA := if ok 2 && b.actM then im.m else b.mA
      mB := if ok 2 && !b.actM then im.m else b.mB
      xA := if ok 3 && b.actX then im.x else b.xA
      xB := if ok 3 && !b.actX then im.x else b.xB }
    pad := pad
    padPoison := bad
    preload := some ⟨u, x.task.getD u, ok 0, ok 1, ok 2, ok 3, put, rerun⟩ }

/-- PRELOAD (R339): for a ready task, on the lowest rectangle whose every tile runs a task and holds no preload. A task whose image lies
on a page without K is not started, as its start would find (R309); an image that fails otherwise is left to its start. -/
def execPreload (u : Nat) (s : State) : Out :=
  match lookup s.tasks u with
  | none => .next s
  | some t =>
    if t.state ≠ .ready then .next s
    else match lowestFit s t (fun a => (taskOf s a).isSome && (tile s a).preload.isNone) with
      | none => .next s
      | some c =>
        match readImage s t.die t.ctx t.d.image with
        | (s1, .error (c, i)) => .next (if c = 0x08 then notStarted s1 u c i else s1)
        | (s1, .ok im) =>
          match (if t.d.plist = 0 then (s1, .ok none)
            else match readPreload s1 t.die t.ctx t.d.plist im.hdr.psize with
              | (s, .ok m) => (s, .ok (some m))
              | (s, .error e) => (s, .error e) : State × Except (Nat × Nat) (Option PreloadData)) with
          | (s2, .error (cause, i)) => .next (notStarted s2 u cause i)
          | (s2, .ok data) =>
            let g := rect t.die c t.gw t.gh
            let rerun := fun (a : Nat) => match taskOf s2 a with | some x => x.d.image == t.d.image && x.ctx.id == t.ctx.id | none => false
            .next (g.foldl (fun s a => modTile s a (preloadTile u im (rerun a) data (hdr s a))) s2)

/-! ## Budgets and kills (R341, R342) -/

/-- The engines stop as a heavy save stops them: the flight buffer captured, records held where they stand (R341, R350). -/
def holdEngines (x : Tile) : Tile :=
  { x with
    vec := { x.vec with
      trapped := true
      buffer := x.vec.buffer ++ x.vec.flight.map (fun f => { f with due := f.due - x.vec.slot })
      flight := [] }
    mat := { x.mat with paused := true }
    mov := { x.mov with paused := true } }

/-- A tile stops for an overrun at the word its core stands at: its engines are held, and it takes trap 0x0F. One that is stopped already,
by a trap or HALT, takes it as soon as it goes on, before any other (R341). R138 and R341 give the trap neither TRAPSRC nor TRAPINFO:
here they are as for cause 0x11, the control core at TRAPPC, and zero (DESIGN CHOICE, log entry 44). -/
def overrunTile (s : State) (a : Nat) : State :=
  let src := trapSrc 0 (core s a).pc 0
  match (core s a).run with
  | .running => takeTrap (modTile s a holdEngines) a 0x0F (core s a).pc 0 src
  | .reeve _ => modCore (modTile s a holdEngines) a (fun c => { c with async := ⟨0x0F, 0, src⟩ :: c.async, latch := true })
  | .halted => modCore (modTile s a holdEngines) a (fun c => { c with async := ⟨0x0F, 0, src⟩ :: c.async, latch := true })
  | _ => s

/-- BUDGET_OVERRUN (R341). -/
def execBudgetOverrun (u : Nat) (s : State) : Out :=
  match lookup s.tasks u with
  | none => .next s
  | some t =>
    let b := if t.d.budget = 0 then t.hdr.budget else t.d.budget
    let g := gangOf t
    if t.state ≠ .running ∨ b = 0 ∨ t.counted < b ∨ t.overrun ∨ t.killed.isSome then .next s
    else
      let s := putTask s u { t with overrun := true }
      if t.hdr.killable then .next (killTask s u 0x0F .kill)
      else if g.any (fun a => !killable (core s a).wait) then .next (putTask s u t)
      else .next (g.foldl overrunTile s)

/-- FORCED_KILL (R342): PGRACE cycles with a kill pending. -/
def execForcedKill (u : Nat) (s : State) : Out :=
  match lookup s.tasks u with
  | none => .next s
  | some t =>
    let due := (gangOf t).any (fun a => match (tile s a).killAt with | some c => decide (c + 2 ^ (die s t.die).pgrace ≤ s.now) | none => false)
    if t.state = .running ∧ t.killed.isNone ∧ due then .next (killTask s u 0x10 .close) else .next s

/-! ## Pre-emption (R348 to R353, R355) -/

/-- PREEMPT_REQUEST (R348). -/
def execPreemptRequest (u : Nat) (s : State) : Out := .next (requestPreempt s u)

/-- The core has been stopped by a trap or HALT (R354, R355). -/
def stopped (s : State) (a : Nat) : Bool :=
  match (core s a).run with
  | .reeve _ => true
  | .halted => true
  | _ => false

/-- HEAVY_SAVE (R350): a request unmet after PGRACE kills a killable task, and saves any other whole once no step is open,
every word is done and no tile is stopped. -/
def execHeavySave (u : Nat) (s : State) : Out :=
  match lookup s.tasks u with
  | none => .next s
  | some t =>
    let g := gangOf t
    let due := g.any (fun a => match (tile s a).preemptAt with | some c => decide (c + 2 ^ (die s t.die).pgrace ≤ s.now) | none => false)
    if t.state ≠ .running ∨ t.killed.isSome ∨ !due ∨ g.any (stopped s) ∨ g.any (fun a => !killable (core s a).wait) then .next s
    else if t.hdr.killable then .next (killTask s u 0x10 .kill)
    else if syncPending s g ∨ (freeSlots s t.ctx g.length).length < g.length then .next s
    else .next (saveGang (g.foldl (fun s a => modTile s a (fun x => { x with stepOpen := none })) s) u true)

/-- An overflow record and its number among those of its tile, read by the die's scheduler and resolved as a flit of its burst (R353, log
entry 18). One that cannot be read is lost. A record that lands through a CODE map onto the active bank of an engine restored busy is
written at once: R218 holds such a flit until the engine is idle, R353 has every record presented before a sequencer issues, and the
second is kept (DESIGN CHOICE, log entry 18). -/
def replayOne (t : Task) (a : Nat) (s : State) (e : Nat × Nat) : State :=
  let f := ownRead s (dieOf a) t.ctx false (ovfVa t a e.1) 256
  let r := readN f.mem 0 256
  if f.err.isSome then f.s else (resolveFlit f.s a (burstOf r (!f.bad.isEmpty)) 0 (strayCycle r) e.2).1

/-- A burst of a number is still under way at an agent: the port holds it, or scheduled flits of it are to come. -/
def burstGoes (s : State) (a no : Nat) : Bool :=
  (match (tile s a).reed.port with | some p => p.no == no | none => false)
    || s.sync.any (fun f => syncNo f == no && f.dsts.any (fun d => d.1 == a))

/-- Replays a tile's overflow records in arrival order, after the elements its full slot lost have been counted; what bursts that are over
have counted is forgotten (R219, R353). -/
def replay (t : Task) (s : State) (a : Nat) : State :=
  let nos := getAt [] t.ovf a
  let s := ((List.range nos.length).zip nos).foldl (replayOne t a) (modReed s a (lose (getAt 0 t.ovfLost a)))
  modReed s a (fun r => { r with counted := r.counted.filter (fun c => burstGoes s a c.1) })

/-- A saved tile on its tile again; the landing port, the L1, the TLBs and the scratchpad beyond the declared bytes are the tile's own
(R261, R351). -/
def restoreTile (u scratch : Nat) (now : Tile) (x : Tile) : Tile :=
  { resumeCount x with
    task := some u
    core := { x.core with clean := [], ctlb := now.core.ctlb, late := now.core.late, coNext := Nat.max x.core.coNext now.core.coNext }
    mov := { x.mov with xtlb := now.mov.xtlb }
    reed := { x.reed with
      port := now.reed.port
      portNext := now.reed.portNext
      taken := now.reed.taken
      heads := now.reed.heads
      fresh := .none }
    pad := x.pad ++ now.pad.filter (fun e => decide (scratch ≤ e.1))
    padPoison := x.padPoison ++ now.padPoison.filter (fun g => decide (scratch ≤ 8 * g))
    preload := none
    preemptAt := none
    killAt := none }

/-- CONTEXT_RESUME (R351, R353): on the same tiles, once they are free. -/
def execContextResume (u : Nat) (s : State) : Out :=
  match lookup s.tasks u with
  | none => .next s
  | some t =>
    let g := gangOf t
    if t.state ≠ .suspended ∨ t.killed.isSome ∨ straggler s t ∨ !g.all (fun a => tileFree s a && (placedOn s a).isNone) then .next s
    else
      let back := g.foldl (fun s a => modTile s a (fun x => match lookup t.saved a with | some y => restoreTile u t.hdr.scratch x y | none => x)) s
      let back := putTask back u { t with state := .running, saved := [], slots := [], ovf := [], ovfLost := [] }
      let back := g.foldl (replay t) back
      .next (if t.heavy then g.foldl restartEngines back else back)

end Sys2Proof.Machine
end

