-- ==== Sys2Proof/Machine/Switch.lean ====
section
/-! DEFINITION. Switch reduction groups and the flows between devices (R368 to R372, R375, R390, R391). -/

namespace Sys2Proof.Machine

/-! ## Group descriptors (R370) -/

def Group.empty : Group where
  desc := []
  armed := false
  round := 0
  st := 0
  graceAt := 0
  weight := 0
  late := 0
  early := 0
  dup := 0
  part := 0
  acc := []
  accPoison := []
  aw := []
  folded := []
  held := []
  heldW := []
  heldCtx := []
  seen := []
  ctx := 0
  complete := 0
  sent := 0

def switchGroup (s : State) (g : Nat) : Group := (lookup s.dev.groups g).getD Group.empty

def putGroup (s : State) (g : Nat) (x : Group) : State := modDev s (fun v => { v with groups := insAt v.groups g x })

/-- A word of a descriptor. -/
def descWord (d : List Word) (i : Nat) : Nat := (d.getD i 0).toNat

def gCnt (d : List Word) : Bool := bitOf (descWord d 0) 62
def gFill (d : List Word) : Nat := bits (descWord d 0) 61 60
def gFmt (d : List Word) : Nat := bits (descWord d 0) 59 52
def gBlocks (d : List Word) : Nat := bits (descWord d 0) 43 30
def gBase (d : List Word) : Nat := bits (descWord d 0) 29 16
def gCtb (d : List Word) : Nat := bits (descWord d 0) 15 0
/-- W of R372. -/
def gW (d : List Word) : Nat := if gCnt d then gCtb d else bits (descWord d 1) 63 32
def gNeed (d : List Word) : Nat := bits (descWord d 1) 31 0

/-- Elements of a block (R371). -/
def blockElems (fmt : Nat) : Nat := 4096 / (fmtWidth fmt / 8)

/-- The reduction memory a descriptor takes: its first byte and its bytes (R370). -/
def gSpan (d : List Word) : Nat × Nat := (gBase d * 4096, gBlocks d * (if gFmt d = BF16 then 8192 else 4096))

/-- A receiver word that is unused, or a dest of R229 in range (R370). -/
def rcvOk (w : Nat) : Bool :=
  w == 0 || ((!bitOf w 63 || bits w 62 43 == 0) && !bitOf w 62 && decide (bits w 42 40 < 4) && bits w 27 0 == 0
    && decide (bits w 36 34 + bits w 33 31 < 8) && decide (bits w 39 37 + bits w 30 28 < 8))

/-- Every field of a descriptor is in range (R370). -/
def descOk (d : List Word) : Bool :=
  decide (gFill d ≤ 1) && [FP32, BF16, INT32, FIX64].contains (gFmt d) && decide (1 ≤ gBlocks d) && decide (1 ≤ gCtb d)
    && decide (1 ≤ gNeed d) && decide (gNeed d ≤ gW d) && rcvOk (descWord d 4) && rcvOk (descWord d 5) && rcvOk (descWord d 6)
    && descWord d 7 == 0

/-- The reduction memory passes 64 MiB or overlaps an armed group's. -/
def memoryTaken (s : State) (g : Nat) (d : List Word) : Bool :=
  let (a, n) := gSpan d
  decide (2 ^ 26 < a + n) || s.dev.groups.any (fun e => e.1 != g && e.2.armed &&
    (let (b, m) := gSpan e.2.desc; decide (a < b + m) && decide (b < a + n)))

/-- Type 0x08 for a group (R370). -/
def groupEvent (s : State) (g : Nat) : State := event s 0x08 0 4 0 0 0 g 0 0 0 0

/-- A descriptor as it stands: reserved fields read zero, word 7 and bits 5:0 of the receivers (R6, R229, R370). -/
def descHeld (d : List Word) : List Word :=
  d.mapIdx (fun i w => if i = 7 then 0 else if 4 ≤ i ∧ i ≤ 6 then BitVec.ofNat 64 (w.toNat / 64 * 64) else w)

/-- Blocks in flight to a group go: bursts on their way within the device, and those a flow still holds, which keep their numbers and
reach no group (R369, R370). -/
def dropInFlight (g : Nat) (s : State) : State :=
  let s := modDev s (fun v => { v with flows := v.flows.map (fun f => { f with
    wait := f.wait.map (fun b => if b.group = some g then { b with group := some 65536 } else b) }) })
  { s with transit := s.transit.filter (fun t => t.dst != 1024 + g) }

/-- The round is to close: GRACE has run out, or every contributor is complete (R372). -/
def roundDue (now : Nat) (x : Group) : Bool :=
  x.armed && ((x.st == 1 && decide (x.graceAt + bits (descWord x.desc 2) 63 32 ≤ now)) || (decide (x.st ≤ 1) && x.complete == gCtb x.desc))

/-- The group's state: from the cycle the round is to close on it is CLOSING (R370, R372). -/
def groupState (now : Nat) (x : Group) : Nat := if roundDue now x then 2 else x.st

/-- A descriptor write: arms, is refused, is dropped, or disarms: the status words keep the values they have, CLOSING among them (R370). -/
def writeDesc (g : Nat) (data : List Word) (s : State) : State :=
  let x := switchGroup s g
  if data.length ≠ 8 ∨ 65536 ≤ g then groupEvent s g
  else if bitOf (descWord data 0) 63 then
    if x.armed then s
    else if !descOk data ∨ memoryTaken s g data ∨ !feature s 9 then groupEvent s g
    else putGroup s g { Group.empty with desc := descHeld data, armed := true }
  else putGroup (if x.armed then dropInFlight g s else s) g
    { x with desc := descHeld data, armed := false, st := groupState s.now x, held := [], heldW := [], heldCtx := [] }

/-- SWITCH_GROUP_ARM (R370). -/
def execSwitchGroupArm (g : Nat) (data : List Word) (s : State) : Out :=
  if s.dev.stage = .up ∧ !s.dev.d3hot then .next (writeDesc g data s) else .next s

/-- SWITCH_GROUP_DISARM (R370). -/
def execSwitchGroupDisarm (g : Nat) (data : List Word) (s : State) : Out :=
  if s.dev.stage = .up ∧ !s.dev.d3hot then .next (writeDesc g data s) else .next s

/-! ## Arriving bursts (R371) -/

/-- What becomes of a burst at a group. -/
inductive SwitchCase where
  | dup | late | early | held
  deriving DecidableEq, Repr

def switchCase (now : Nat) (x : Group) (b : Burst) : SwitchCase :=
  let blk := b.coords.getD 0 0 / blockElems b.fmt
  let r := b.coords.getD 1 0 % 256
  let behind := (x.round + 256 - r) % 256
  if !x.armed then .dup
  else if b.fmt ≠ gFmt x.desc ∨ gCtb x.desc ≤ b.contrib ∨ gBlocks x.desc ≤ blk then .dup
  else if 1 ≤ behind ∧ behind ≤ 127 then .late
  else if 128 ≤ behind then .early
  else if 2 ≤ groupState now x then .late
  else if (lookup x.folded (b.contrib * 65536 + blk)).isSome then .dup
  else .held

/-- Counts a discarded burst once for its contributor, block and round under its case. -/
def countCase (c : Nat) (b : Burst) (x : Group) : Group :=
  let key := (c, b.contrib, b.coords.getD 0 0 / blockElems b.fmt, b.coords.getD 1 0 % 256)
  if x.seen.contains key then x
  else
    let x := { x with seen := key :: x.seen }
    match c with
    | 0 => { x with dup := satAdd 16 x.dup 1 }
    | 1 => { x with late := satAdd 16 x.late 1 }
    | _ => { x with early := satAdd 16 x.early 1 }

/-- One element folded into its accumulator (R371). -/
def foldElem (fmt acc x : Nat) : Nat :=
  if fmt = FP32 ∨ fmt = BF16 then (toFP32 (valAdd (value FP32 acc) (value fmt x)).1).1
  else (acc + x) % 2 ^ fmtWidth fmt

/-- The elements of a burst, with whether its flit is poisoned. -/
def burstElems (b : Burst) : List (Elem × Bool) :=
  (List.range b.flits.length).flatMap (fun k => (flitElems b k).map (fun e => (e, b.poison.contains k)))

/-- Bits above the elements' in a held word say that the element is there, and that it is poisoned. -/
def heldMark : Nat := 2 ^ 64
def heldBad : Nat := 2 ^ 65

/-- A whole block folds (R371, R384): the elements, the arrived weight, the contributor's completion, GRACE. -/
def foldBlock (now contrib blk : Nat) (x : Group) : Group :=
  let fmt := gFmt x.desc
  let n := blockElems fmt
  let key := contrib * 65536 + blk
  let w := if gCnt x.desc then 1 else getAt 0 x.heldW key
  let mine := fun (k : Nat) => k / 4096 == key
  let elem := fun (j : Nat) => getAt 0 x.held (key * 4096 + j)
  let acc := (List.range n).foldl (fun m j => setAt 0 m (blk * 4096 + j) (BitVec.ofNat 64 (foldElem fmt (getAt 0 m (blk * 4096 + j)).toNat (elem j % 2 ^ 64)))) x.acc
  let bad := (List.range n).filterMap (fun j => if heldBad ≤ elem j ∧ !x.accPoison.contains (blk * 4096 + j) then some (blk * 4096 + j) else none)
  let folded := insAt x.folded key w
  let done := decide ((folded.filter (fun e => e.1 / 65536 == contrib)).length = gBlocks x.desc)
  let weight := if done then x.weight + w else x.weight
  let enter := decide (x.st = 0 ∧ gNeed x.desc ≤ weight)
  { x with
    acc := acc
    accPoison := x.accPoison ++ bad
    aw := insAt x.aw blk (getAt 0 x.aw blk + w)
    folded := folded
    held := x.held.filter (fun e => !mine e.1)
    heldW := delAt x.heldW key
    heldCtx := delAt x.heldCtx key
    ctx := if x.ctx = 0 then getAt 0 x.heldCtx key else x.ctx
    complete := x.complete + natOf done
    weight := weight
    st := if enter then 1 else x.st
    graceAt := if enter then now else x.graceAt }

/-- A burst that is held joins its block; a whole block folds at once. -/
def holdBurst (now ctx : Nat) (b : Burst) (x : Group) : Group :=
  let n := blockElems b.fmt
  let blk := b.coords.getD 0 0 / n
  let key := b.contrib * 65536 + blk
  let x := { x with
    held := (burstElems b).foldl (fun m e => insAt m (key * 4096 + (b.coords.getD 0 0 + e.1.j) % n) (e.1.x + heldMark + (if e.2 then heldBad else 0))) x.held
    heldW := insAt x.heldW key b.weight
    heldCtx := if (lookup x.heldCtx key).isSome then x.heldCtx else insAt x.heldCtx key ctx }
  if (x.held.filter (fun e => e.1 / 4096 == key)).length = n then foldBlock now b.contrib blk x else x

/-- A group takes a burst (R370, R371). -/
def groupTake (s : State) (g ctx : Nat) (b : Burst) : State :=
  let x := switchGroup s g
  putGroup s g (match switchCase s.now x b with
    | .dup => countCase 0 b x
    | .late => countCase 1 b x
    | .early => countCase 2 b x
    | .held => holdBurst s.now ctx b x)

/-- SWITCH_BURST_ARRIVAL (R371): the k-th burst on its way to a switch group, in its sender's order. -/
def execSwitchBurstArrival (k : Nat) (s : State) : Out :=
  match s.transit[k]? with
  | none => .next s
  | some t =>
    if t.dst < 1024 ∨ s.now < t.due ∨ overtakes s.transit k t ∨ portHolds s t.dst t ∨ !reaches s t.src t.dst then .next s
    else .next (groupTake { s with transit := s.transit.eraseIdx k } (t.dst - 1024) t.ctx t.b)

/-! ## Closing a round (R372) -/

/-- SWITCH_ROUND_CLOSE (R372): blocks not yet whole are discarded and counted; the results stand to be sent. -/
def execSwitchRoundClose (g : Nat) (s : State) : Out :=
  let x := switchGroup s g
  if roundDue s.now x then
    .next (putGroup s g { x with
      part := satAdd 16 x.part x.heldW.length
      held := []
      heldW := []
      heldCtx := []
      st := 3
      sent := 0 })
  else .next s

/-- The accumulator's exact value (R372). -/
def foldedValue (fmt a : Nat) : Val :=
  if fmt = FP32 ∨ fmt = BF16 then value FP32 a else Val.ofInt (signed (fmtWidth fmt) a)

/-- The result element y of a block's accumulator (R372). -/
def resultElem (d : List Word) (aw a : Nat) : Nat :=
  let fmt := gFmt d
  let x := foldedValue fmt a
  let x := if gFill d = 1 ∧ 0 < aw then (match x with | .num s n m e => .num s (n * gW d) (m * aw) e | y => y) else x
  if fmt = FP32 ∨ fmt = BF16 then (convert fmt .rne 0 x).1
  else match x with
    | .num s n m e => wrap (fmtWidth fmt) (roundN .rne 0 s n m e).1
    | _ => 0

/-- The i-th result burst, in element order: at most four payload flits (R237, R372). -/
def resultBurst (x : Group) (i : Nat) : Burst :=
  let fmt := gFmt x.desc
  let per := perFlit fmt
  let w := fmtWidth fmt
  let first := 4 * per * i
  let n := blockElems fmt
  let at_ := fun (e : Nat) => e / n * 4096 + e % n
  let flit := fun (k : Nat) => ((List.range per).map (fun j =>
    let e := first + k * per + j
    resultElem x.desc (getAt 0 x.aw (e / n)) (getAt 0 x.acc (at_ e)).toNat % 2 ^ w * 2 ^ (w * j))).sum
  { tensor := bits (descWord x.desc 2) 31 0
    fmt := fmt
    ndim := 2
    kind := 0
    runlen := 4 * per
    sync := false
    ext := false
    bscl := false
    contrib := 0
    weight := Nat.min (getAt 0 x.aw (first / n)) 65535
    coords := [first, x.round]
    flits := (List.range 4).map flit
    scales := 0
    poison := (List.range 4).filter (fun k => (List.range per).any (fun j => x.accPoison.contains (at_ (first + k * per + j)))) }

/-- Result bursts of a round, to all receivers: receiver word and burst index. -/
def roundSends (x : Group) : List (Nat × Nat) :=
  let n := gBlocks x.desc * blockElems (gFmt x.desc) / (4 * perFlit (gFmt x.desc))
  let rs := [descWord x.desc 4, descWord x.desc 5, descWord x.desc 6].filter (· != 0)
  (List.range n).flatMap (fun i => rs.map (fun r => (r, i)))

/-- Hands result bursts over while the staging memory takes them: the state, and what is left. -/
def sendResults (x : Group) (g : Nat) : State → List (Nat × Nat) → State × Nat
  | s, [] => (s, 0)
  | s, (r, i) :: rest =>
    let b := resultBurst x i
    let dev := bits r 62 43
    if bitOf r 63 ∨ dev = s.dev.devid then
      let s := (rect (bits r 42 40) (bits r 39 34) (bits r 33 31 + 1) (bits r 30 28 + 1)).foldl (fun s a =>
        { s with transit := s.transit ++ [⟨1024 + g, a, 1, x.ctx, 0, b, s.now + meshDelay (1024 + g) a, none, 0⟩] }) s
      sendResults x g s rest
    else if routed s dev ∧ !s.dev.lost.contains dev ∧ stagingFull s dev b then (s, rest.length + 1)
    else sendResults x g (sendDevice s dev 1 x.ctx (bits r 42 40) (bits r 39 34) (bits r 33 31) (bits r 30 28) none b) rest

/-! ## Flows between devices (R368, R369, R390) -/

/-- BURST_ACK (R369): the retained copy is released. An acknowledgement waits while every port to the device retrains (R388). -/
def execBurstAck (dev cls seq : Nat) (s : State) : Out :=
  let f := findFlow s.dev.flows dev cls
  match f.kept.find? (fun e => e.1 == seq) with
  | none => .next s
  | some (_, b) =>
    if !linkedTo s dev then .next s else
    let kept := f.kept.filter (fun e => e.1 != seq)
    .next (modDev s (fun v => { v with
      flows := putFlow v.flows { f with kept := kept, since := if kept.isEmpty then none else some s.now }
      staging := v.staging - stagingOf s dev b.b }))

/-- BURST_RETRANSMIT (R369): the copy goes out again and stays retained; nothing of this device's state changes. -/
def execBurstRetransmit (_dev _cls _seq : Nat) (s : State) : Out := .next s

/-- A burst of a flow is handed to the compute dies or to a switch group; its sender stands as 2^16 and its device, and its copies share
its number. One for a group that has been disarmed goes nowhere. -/
def handOver (s : State) (d : DevBurst) : State :=
  let dsts := match d.group with
    | some g => if g < 65536 then [1024 + g] else []
    | none => rect d.die d.tile (d.mw + 1) (d.mh + 1)
  { s with transit := s.transit ++ dsts.map (fun a => ⟨65536 + d.src, a, d.cls, d.ctx, 0, d.b, s.now + meshDelay (65536 + d.src) a, none, d.seq⟩) }

/-- Bursts held behind a gap that is now filled. -/
def drainFlow (s : State) (f : Flow) : Nat → State × Flow
  | 0 => (s, f)
  | n + 1 =>
    match f.wait.find? (fun b => b.seq == f.recv) with
    | none => (s, f)
    | some b => drainFlow (handOver s b) { f with recv := (f.recv + 1) % 2 ^ 48, wait := f.wait.filter (fun c => c.seq != b.seq) } n

/-- DEVICE_BURST_RECEIVE (R369): each sequence number once, in order; further copies are discarded. None comes while every port to the
device retrains or has failed, nor from another domain while feature 14 is disabled (R388, R394). A message of a collapse takes its number
here, as a burst for no tile and no group; what it says acts in the COLLAPSE_* events (log entry 19). -/
def execDeviceBurstReceive (b : DevBurst) (s : State) : Out :=
  if s.dev.stage ≠ .up ∨ !linkedTo s b.src then .next s
  else
    let f := findFlow s.dev.flows b.src b.cls
    if (b.seq + 2 ^ 48 - f.recv) % 2 ^ 48 ≥ 2 ^ 47 ∨ f.wait.any (fun c => c.seq == b.seq) then .next s
    else
      let f := { f with wait := f.wait ++ [b] }
      let (s, f) := drainFlow s f f.wait.length
      .next (modDev s (fun v => { v with flows := putFlow v.flows f }))

end Sys2Proof.Machine
end

