-- ==== Sys2Proof/Machine/HostPort.lean ====
section
/-! DEFINITION. The host's accesses: commands, rings, registers, the semaphore window, BAR2, attestation (R357 to R363, R395 to R397, R403). -/

namespace Sys2Proof.Machine

/-! ## Commands (R361) -/

/-- Type 0x09 for a refused command. -/
def refuseCommand (s : State) (w : Nat) : State := event s 0x09 0 (bits w 59 57) (bits w 56 51) (bits w 50 39) 0 0 0 0 0 0

/-- RESUME (R140, R146, R354, R355): of a halted core TRAPSTATE.IN stays as it stands; a pre-emption's grace counts from here. The engines
of a tile that has still to take the trap of an overrun stay held (R341). -/
def resumeTile (s : State) (a : Nat) : State :=
  let s := returnTo (modTile s a resumeCount) a ((core s a).run != .halted)
  let s := if (core s a).async.any (fun q => q.cause == 0x0F) then modTile s a holdEngines else s
  (gang s a).foldl (fun s b => modTile s b (fun t => { t with preemptAt := t.preemptAt.map (fun _ => s.now) })) s

/-- A word written to the command register. -/
def command (w : Nat) (s : State) : State :=
  let a := 64 * bits w 59 57 + bits w 56 51
  let refuse := refuseCommand s w
  if bits w 38 0 ≠ 0 ∨ 4 ≤ bits w 59 57 then refuse
  else if !diePath s 4 (bits w 59 57) then s
  else match taskOf s a, (tile s a).task with
    | some t, some u =>
      let held := (core s a).run == .reeve true || (core s a).run == .halted
      if t.ctx.id ≠ bits w 50 39 then refuse
      else match bits w 63 60 with
        | 1 => if held then resumeTile s a else refuse
        | 2 => if held then endTask s u (if (core s a).run == .halted then 0 else (core s a).trapCause.toNat) else refuse
        | 3 => if preemptible s t then requestPreempt s u else refuse
        | _ => refuse
    | _, _ => refuse

/-- CMD_RESUME (R361). -/
def execCmdResume (w : Word) (s : State) : Out := if hostOpen s then .next (command w.toNat s) else .next s

/-- CMD_END (R361). -/
def execCmdEnd (w : Word) (s : State) : Out := if hostOpen s then .next (command w.toNat s) else .next s

/-- CMD_PREEMPT (R361). -/
def execCmdPreempt (w : Word) (s : State) : Out := if hostOpen s then .next (command w.toNat s) else .next s

/-! ## The event ring (R362, R398) -/

/-- EVSIZE_WRITE (R362). -/
def execEvsizeWrite (w : Word) (s : State) : Out :=
  let lg := bits w.toNat 4 0
  if hostOpen s ∧ 6 ≤ lg ∧ lg ≤ 20 then .next (modDev s (fun v => { v with evsize := lg })) else .next s

/-- A held bring-up event is written, with its die's CYCLE as it stands now (R363, R398). -/
def writeHeld (s : State) (g : List Word) : State :=
  let n := g.map (·.toNat)
  writeRecord s ((n.take 5) ++ [cycle s (bits (n.getD 0 0) 47 45)] ++ n.drop 6)

/-- EVBASE_WRITE (R362, R398): enabling releases up to 64 held events; the others count as lost. -/
def execEvbaseWrite (w : Word) (s : State) : Out :=
  if !hostOpen s then .next s
  else
    let base := BitVec.ofNat 64 (bits w.toNat 51 12 * 4096 + bits w.toNat 0 0)
    let held := s.dev.evheld
    let s := modDev s (fun v => { v with evbase := base })
    if bitOf w.toNat 0 then
      let s := modDev s (fun v => { v with evheld := [] })
      let s := (held.take 64).foldl writeHeld s
      .next (modDev s (fun v => { v with evlost := satAdd 16 v.evlost (held.length - 64) }))
    else .next s

/-! ## Registers with rows of their own -/

/-- FFPUSH (R312). A write to a register of a die that no path reaches is dropped (R389; DESIGN CHOICE, log entry 40). -/
def execFfpush (d : Nat) (w : Word) (s : State) : Out := if hostOpen s ∧ d < 4 ∧ diePath s 4 d then .next (ffPush s d w) else .next s

/-- CTXREG (R403). -/
def execCtxreg (w : Word) (s : State) : Out :=
  let id := bits w.toNat 63 52
  if !hostOpen s then .next s
  else if id = 0 ∨ bits w.toNat 5 1 ≠ 0 then .next (event s 0x09 0 4 0 id 0 0 0 0 0 0)
  else if bitOf w.toNat 0 then .next (modDev s (fun v => { v with registry := insAt v.registry id (bits w.toNat 51 6 * 64) }))
  else .next (modDev s (fun v => { v with registry := delAt v.registry id }))

/-- SLUICEW_WRITE (R373). -/
def execSluicewWrite (d : Nat) (w : Word) (s : State) : Out := if hostOpen s ∧ d < 5 ∧ diePath s 4 d then .next (sluiceWrite s d w) else .next s

/-- FEATEN_WRITE (R395). -/
def execFeatenWrite (i : Nat) (w : Word) (s : State) : Out := if hostOpen s ∧ i < 4 then .next (featenWrite s i w) else .next s

/-! ## The semaphore window (R360, R397) -/

/-- An answer to a host read. -/
def reply (s : State) (bs : List Byte) (bad : Bool) : State := { s with replies := (bs, bad) :: s.replies }

/-- The PA an aligned 8-byte window access reaches; none where it reaches nothing. -/
def windowPa (s : State) (off : Nat) : Option Nat :=
  let pa := s.dev.sempa + off
  if off % 8 = 0 ∧ off < 2 ^ 20 ∧ pa + 8 ≤ 2 ^ 38 then some pa else none

def allOnes (s : State) (n : Nat) : State := reply s (List.replicate n 0xFF) false

/-- n bytes of free values. -/
def freeBytes (s : State) : Nat → List Byte × State
  | 0 => ([], s)
  | n + 1 =>
    let (x, s) := draw s
    let (bs, s) := freeBytes s n
    (BitVec.ofNat 8 x.toNat :: bs, s)

/-- The agent at which the host port's accesses stand: the reeve core of die 4. -/
def hostAgent : Nat := 276

/-- The answer to a host read of a die that no path reaches: poisoned data, as at a forced reset (R389, R392). -/
def lostReply (s : State) (n : Nat) : State :=
  let (bs, s) := freeBytes s n
  reply s bs true

/-- SEM_WINDOW_READ (R358, R360): an acquire load at the home; of a die that no path reaches, poisoned data (R389). -/
def execSemWindowRead (off : Nat) (s : State) : Out :=
  if !hostOpen s then .next (reply s (List.replicate 8 0) false)
  else match windowPa s off with
    | some pa =>
      if lostAt s hostAgent pa then .next (lostReply s 8)
      else .next (reply (reachHome s hostAgent pa) (bytesOf (readN s.mem pa 8) 8) (poisonedAt s.memPoison 32 pa 8))
    | none => .next (allOnes s 8)

/-- SEM_WINDOW_WRITE (R360): a release store at the home. One to a die that no path reaches is dropped: a posted write of the host has no
issuer to trap (R389; DESIGN CHOICE, log entry 40). -/
def execSemWindowWrite (off : Nat) (w : Word) (s : State) : Out :=
  if !hostOpen s then .next s
  else match windowPa s off with
    | some pa => .next (if lostAt s hostAgent pa then s else homeWrite s hostAgent pa 8 w.toNat)
    | none => .next s

/-- Where the mailbox's request count stands in the window (R397). -/
def requestCount : Nat := 0xFFFF8

/-- A FetchAdd on the window: SEMINC at SYS scope, the old value answered; one on the request count asks for a report. One at a die that no
path reaches adds nothing and is answered with poisoned data (R389). -/
def fetchAdd (s : State) (off : Nat) (w : Word) : State :=
  match windowPa s off with
  | none => allOnes s 8
  | some pa =>
    if lostAt s hostAgent pa then lostReply s 8
    else
    let (old, s1) := homeAtomic s hostAgent pa true .add w.toNat 0
    let s2 := reply s1 (bytesOf old 8) (poisonedAt s.memPoison 32 pa 8)
    if off = requestCount then modDev s2 (fun v => { v with attest := v.attest ++ [(old + w.toNat) % 2 ^ 64] }) else s2

/-- SEM_WINDOW_FETCHADD (R360). -/
def execSemWindowFetchadd (off : Nat) (w : Word) (s : State) : Out := if hostOpen s then .next (fetchAdd s off w) else .next s

/-- SEM_WINDOW_CAS (R360): AMO.CAS.D.AR.SYS; at a die that no path reaches it writes nothing and brings poisoned data (R389). -/
def execSemWindowCas (off : Nat) (expect new : Word) (s : State) : Out :=
  if !hostOpen s then .next s
  else match windowPa s off with
    | none => .next (allOnes s 8)
    | some pa =>
      if lostAt s hostAgent pa then .next (lostReply s 8)
      else
      let (old, s1) := homeAtomic s hostAgent pa true .cas expect.toNat new.toNat
      .next (reply s1 (bytesOf old 8) (poisonedAt s.memPoison 32 pa 8))

/-! ## Attestation (R397) -/

/-- ATTESTATION_REQUEST (R397): the FetchAdd on the mailbox's request count. -/
def execAttestationRequest (w : Word) (s : State) : Out := if hostOpen s then .next (fetchAdd s requestCount w) else .next s

/-- FEAT0 to FEAT3, or FEATEN0 to FEATEN3, as bytes. -/
def featBytes : List Byte := bytesOf 0xFFFF 32
def featenBytes (s : State) : List Byte := (List.range 4).flatMap (fun i => bytesOf (getAt 0 s.dev.featen i).toNat 8)

/-- A list as exactly n bytes. -/
def exactly (n : Nat) (l : List Byte) : List Byte := l.take n ++ List.replicate (n - l.length) 0

/-- The report up to its signature (R397). -/
def reportBody (s : State) (nonce : Nat) : List Byte :=
  let digest := fun (i : Nat) => exactly 64 (Config.sha3_512 (s.dev.firmware.getD i []))
  bytesOf 1 4 ++ bytesOf 7619 4 ++ bytesOf s.dev.devid 4 ++ bytesOf 0 4 ++ bytesOf nonce 32 ++ featenBytes s
    ++ digest 0 ++ digest 1 ++ digest 2 ++ digest 3 ++ exactly 64 (Config.sha3_512 (featBytes ++ featenBytes s))
    ++ exactly 2592 Config.identityKey

def report (s : State) (nonce : Nat) : List Byte :=
  let b := reportBody s nonce
  b ++ exactly 4627 (Config.identitySign (exactly 64 (Config.sha3_512 b)))

/-- ATTESTATION_REPORT (R397): the oldest request is answered from the mailbox as it stands, which die 4's reeve core reads at its home
(R314, R317); while no path reaches the mailbox's die the request waits (R389; DESIGN CHOICE, log entry 40). A report on a poisoned
mailbox is written poisoned (R384). -/
def execAttestationReport (s : State) : Out :=
  match s.dev.attest with
  | [] => .next s
  | n :: ns =>
    let box := s.dev.sempa + 0xFFFC0
    if lostAt s hostAgent box then .next s else
    let buf := readN s.mem (box + 32) 8
    let bad := poisonedAt s.memPoison 32 box 64
    let s := reachLines (modDev s (fun v => { v with attest := ns })) 276 box 64
    if buf % 4096 ≠ 0 ∨ 2 ^ 52 < buf + 8192 then .next (event s 0x30 0 4 0 0 0 n 0 0 1 0)
    else
      let r := report s (readN s.mem box 32)
      .next (event (homePaste s 276 (hostBase + buf) 7619 (memOf r 0) (if bad then [(0, 7619)] else [])) 0x30 0 4 0 0 0 n 0 0 0 0)

/-! ## BAR2 (R358, R360) -/

/-- A range of local memory cut at the dies' borders: first byte and bytes. -/
def diePieces (ga n : Nat) : List (Nat × Nat) :=
  (List.range 4).filterMap (fun d =>
    let lo := Nat.max ga (2 ^ 36 * d)
    let hi := Nat.min (ga + n) (2 ^ 36 * (d + 1))
    if lo < hi then some (lo, hi - lo) else none)

/-- BAR2_WRITE (R360): the bytes below 2^38 perform at their lines' homes; those to a die that no path reaches are dropped (R389; DESIGN
CHOICE, log entry 40). -/
def execBar2Write (off : Nat) (data : List Byte) (s : State) : Out :=
  if !hostOpen s ∨ 2 ^ 38 ≤ off then .next s
  else
    let n := Nat.min data.length (2 ^ 38 - off)
    let b := memOf (data.take n) 0
    .next ((diePieces off n).foldl (fun s p =>
      if lostAt s hostAgent p.1 then s else homePaste s hostAgent p.1 p.2 (slice b (p.1 - off) p.2) []) s)

/-- BAR2_READ (R360, R384): the bytes at their homes; all ones beyond 2^38. One that touches a die that no path reaches brings poisoned
data (R389). -/
def execBar2Read (off n : Nat) (s : State) : Out :=
  if !hostOpen s ∨ 2 ^ 38 ≤ off then .next (allOnes s n)
  else
    let k := Nat.min n (2 ^ 38 - off)
    if (diePieces off k).any (fun p => lostAt s hostAgent p.1) then .next (lostReply s n)
    else .next (reply (reachLines s hostAgent off k) (bytesOf (readN s.mem off k) k ++ List.replicate (n - k) 0xFF) (poisonedAt s.memPoison 32 off k))

/-! ## Accesses of peer devices (R282, R364, R365) -/

/-- An answer to another device's read or atomic. -/
def peerReply (s : State) (dev : Nat) (bs : List Byte) (bad : Bool) : State := { s with peerReplies := (dev, bs, bad) :: s.peerReplies }

/-- First byte and bytes of an access of another device. -/
def PeerAccess.span : PeerAccess → Nat × Nat
  | .read ga n => (ga, n)
  | .write ga data => (ga, data.length)
  | .atomic ga dw _ _ _ => (ga, if dw then 8 else 4)

/-- An access of another device to this device's memory: die 4 hands it to the homes, where it performs; the agent is the device, numbered
as the sender of its bursts is. None comes before bring-up, beyond local memory, or while the ports to that device or the links to a home
retrain or fail (R388, R394). At a die that no path reaches a write is dropped, as one of the host is, and what it would answer is
poisoned data (R389; DESIGN CHOICE, log entry 40). -/
def peerAccess (dev : Nat) (q : PeerAccess) (s : State) : Out :=
  let a := 65536 + dev
  let (ga, n) := q.span
  let at_ := diePieces ga n
  if s.dev.stage ≠ .up ∨ !linkedTo s dev ∨ 2 ^ 38 < ga + n ∨ at_.any (fun p => !wayOpen s a (homeDie p.1)) then .next s
  else
    let lost := at_.any (fun p => lostAt s a p.1)
    let gone := fun (s : State) =>
      let (bs, s) := freeBytes s n
      peerReply s dev bs true
    let bad := poisonedAt s.memPoison 32 ga n
    match q with
    | .read _ _ => .next (if lost then gone s else peerReply (reachLines s a ga n) dev (bytesOf (readN s.mem ga n) n) bad)
    | .write _ data => .next (at_.foldl (fun s p => if lostAt s a p.1 then s else homePaste s a p.1 p.2 (slice (memOf data 0) (p.1 - ga) p.2) []) s)
    | .atomic _ dw op v c =>
      if lost then .next (gone s)
      else
        let (old, s) := homeAtomic s a ga dw op v c
        .next (peerReply s dev (bytesOf old n) bad)

/-! ## Rounds end (R372, R405): done is incremented through the registry -/

/-- A group at the next round (R372). -/
def nextRound (x : Group) : Group :=
  let r := (x.round + 1) % 256
  { x with
    round := r
    st := 0
    weight := 0
    acc := []
    accPoison := []
    aw := []
    folded := []
    seen := x.seen.filter (fun k => k.2.2.2 != (r + 128) % 256)
    ctx := 0
    complete := 0
    sent := 0 }

/-- SWITCH_ROUND_ADVANCE (R372): results go out as the staging memory takes them; with the last, done and the next round. -/
def execSwitchRoundAdvance (g : Nat) (s : State) : Out :=
  let x := switchGroup s g
  if x.armed ∧ x.st = 3 then
    let all := roundSends x
    let (s, left) := sendResults x g s (all.drop x.sent)
    if left ≠ 0 then .next (putGroup s g { x with sent := all.length - left })
    else
      let va := descWord x.desc 3
      let s := if va = 0 then s else (let (c, s) := registryRead s x.ctx; ownInc s 4 c x.ctx va 1 0)
      .next (putGroup s g (nextRound x))
  else .next s

/-! ## Other BAR0 registers (R358) -/

/-- The value of an aligned 8-byte write. -/
def word8 (data : List Byte) : Word := BitVec.ofNat 64 (ofBytes data)

/-- A write of eight bytes to a register without a row of its own: EVTAIL, REPLQ, QSEL, SEMPA; others ignore it. -/
def plainWrite (off : Nat) (w : Word) (s : State) : State :=
  match off with
  | 0x3018 => modDev s (fun v => { v with evtail := w.toNat % 2 ^ 48 })
  | 0x5000 => modDev s (fun v => { v with replq := w })
  | 0x10000 => modDev s (fun v => { v with qsel := BitVec.ofNat 64 (w.toNat / 2 ^ 30 * 2 ^ 30) })
  | 0x200000 => modDev s (fun v => { v with sempa := bits w.toNat 51 20 * 2 ^ 20 })
  | _ => s

/-- BAR0_REGISTER_WRITE (R358, R359, R370): a register with a row of its own takes only the access its row allows; a write to a
trigger register or a group descriptor that is not its one aligned 64-byte write is dropped and reported. -/
def execBar0RegisterWrite (off : Nat) (data : List Byte) (s : State) : Out :=
  if !hostOpen s then .next s
  else
    let end_ := off + data.length
    let eight := decide (data.length = 8 ∧ off % 8 = 0)
    let trig := (List.range 4).find? (fun d => decide (off < 0x1040 + 0x40 * d) && decide (0x1000 + 0x40 * d < end_))
    match trig with
    | some d => if off = 0x1000 + 0x40 * d ∧ data.length = 64 then .next s else .next (event s 0x06 0 d 0 0 0 0 0 0 0 0)
    | none =>
      if off < 0x800000 ∧ 0x400000 < end_ then
        (if 0x400000 ≤ off ∧ off % 64 = 0 ∧ data.length = 64 then .next s
         else .next (groupEvent s ((Nat.max off 0x400000 - 0x400000) / 64)))
      else if eight then .next (plainWrite off (word8 data) s)
      else .next s

/-! ## What the host reads in BAR0 (R320, R343, R358, R370) -/

/-- A quorum join's QARR, QSET or QST as QSEL selects it; all ones where there is none (R343). -/
def quorumReg (s : State) (i : Nat) : Nat :=
  let q := s.dev.qsel.toNat
  match nodeAt s (bits q 47 46) (bits q 63 48) (bits q 45 30) with
  | some n => if isQuorum n.kind then (match i with | 0 => n.qarr | 1 => n.qset | _ => n.qst) else 2 ^ 64 - 1
  | none => 2 ^ 64 - 1

/-- A switch group's status words (R370). -/
def groupStatus (now : Nat) (x : Group) (i : Nat) : Nat :=
  if i = 0 then x.weight % 2 ^ 32 * 2 ^ 32 + x.round * 2 ^ 24 + groupState now x * 2 ^ 22
  else x.late * 2 ^ 48 + x.early * 2 ^ 32 + x.dup * 2 ^ 16 + x.part

/-- The registers and windows of BAR0: first offset and bytes (R358). -/
def bar0Map : List (Nat × Nat) :=
  [(0, 0x40), (0x1000, 0x100), (0x2000, 8), (0x2100, 0x80), (0x3000, 0x20), (0x4000, 0x20), (0x5000, 0x10), (0x6000, 8), (0x10000, 0x20),
   (0x20000, 0x28), (0x100000, 0x100000), (0x200000, 8), (0x400000, 0x400000), (0x800000, 0x100000)]

/-- A read of n bytes touches a listed register or window. -/
def bar0Listed (off n : Nat) : Bool := bar0Map.any (fun r => decide (off < r.1 + r.2) && decide (r.1 < off + n))

/-- A listed register read as its row allows: 8 aligned bytes; write-only ones read all ones (R358). -/
def bar0Word (s : State) (off : Nat) : Nat :=
  if off < 0x40 then (if off < 0x20 then (if off = 0 then 0xFFFF else 0) else (getAt 0 s.dev.featen ((off - 0x20) / 8)).toNat)
  else if off = 0x3000 then s.dev.evbase.toNat
  else if off = 0x3008 then s.dev.evsize
  else if off = 0x3010 then s.dev.evlost * 2 ^ 48 + s.dev.evhead
  else if off = 0x3018 then s.dev.evtail
  else if off = 0x5000 then s.dev.replq.toNat
  else if off = 0x5008 then (if isLocal s.dev.replq.toNat then (replstWord s s.dev.replq.toNat).toNat else 0)
  else if off = 0x10000 then s.dev.qsel.toNat
  else if 0x10008 ≤ off ∧ off ≤ 0x10018 then quorumReg s ((off - 0x10008) / 8)
  else if 0x20000 ≤ off ∧ off ≤ 0x20020 then (die s ((off - 0x20000) / 8)).sluicew.toNat
  else if off = 0x200000 then s.dev.sempa
  else if 0x400000 ≤ off ∧ off < 0x800000 then descWord (switchGroup s ((off - 0x400000) / 64)).desc ((off - 0x400000) / 8 % 8)
  else if 0x800000 ≤ off ∧ off < 0x900000 then groupStatus s.now (switchGroup s ((off - 0x800000) / 16)) ((off - 0x800000) / 8 % 2)
  else if (0x1000 ≤ off ∧ off < 0x1100) ∨ off = 0x2000 ∨ (0x2100 ≤ off ∧ off < 0x2180) ∨ (0x4000 ≤ off ∧ off < 0x4020) ∨ off = 0x6000 then 2 ^ 64 - 1
  else 0

/-- A read of n bytes of BAR0 (R358): zero before bring-up is over and at offsets not listed, all ones for an access of a size or
alignment that its row does not allow. -/
def bar0Read (s : State) (off n : Nat) : Nat :=
  if !hostOpen s ∨ !bar0Listed off n then 0
  else if n = 8 ∧ off % 8 = 0 then bar0Word s off
  else 2 ^ (8 * n) - 1

/-- A register that stands on a die which no path reaches: a quorum join's, SLUICEW of a compute die, REPLST of a line (R389). -/
def registerLost (s : State) (off : Nat) : Bool :=
  let away := fun (d : Nat) => !diePath s 4 d
  (decide (0x10008 ≤ off ∧ off < 0x10020) && away (bits s.dev.qsel.toNat 47 46))
    || (decide (0x20000 ≤ off ∧ off < 0x20028) && away ((off - 0x20000) / 8))
    || (decide (off = 0x5008) && away (homeDie s.dev.replq.toNat))

/-- The host reads n bytes of BAR0; the semaphore window has its own row (R358, R360). A register that no path reaches brings poisoned
data (R389). -/
def readRegister (off n : Nat) (s : State) : Out :=
  if 0x100000 ≤ off ∧ off < 0x200000 ∧ n = 8 then execSemWindowRead (off - 0x100000) s
  else if hostOpen s && n == 8 && off % 8 == 0 && registerLost s off then .next (lostReply s n)
  else .next (reply s (bytesOf (bar0Read s off n) n) false)

end Sys2Proof.Machine
end

