-- ==== Sys2Proof/Machine/Integer.lean ====
section
/-! DEFINITION. Integer, logic, immediate, compare and predicate words (R93 to R98). -/

namespace Sys2Proof.Machine

/-! ## What the words compute -/

/-- b[5:0] (R93). -/
def sh (b : Word) : Nat := b.toNat % 64

/-- DIV and REM (R94): quotient toward zero, remainder with the dividend's sign, fixed results for zero and overflow. -/
def divS (a b : Word) : Word :=
  if b = 0 then BitVec.ofInt 64 (-1)
  else if a.toInt = -(2 ^ 63) ∧ b.toInt = -1 then a
  else BitVec.ofInt 64 (a.toInt.tdiv b.toInt)

def remS (a b : Word) : Word :=
  if b = 0 then a
  else if a.toInt = -(2 ^ 63) ∧ b.toInt = -1 then 0
  else BitVec.ofInt 64 (a.toInt.tmod b.toInt)

def divU (a b : Word) : Word := if b = 0 then BitVec.ofNat 64 (2 ^ 64 - 1) else BitVec.ofNat 64 (a.toNat / b.toNat)

def remU (a b : Word) : Word := if b = 0 then a else BitVec.ofNat 64 (a.toNat % b.toNat)

def minS (a b : Word) : Word := if a.toInt ≤ b.toInt then a else b
def maxS (a b : Word) : Word := if a.toInt ≤ b.toInt then b else a
def minU (a b : Word) : Word := if a.toNat ≤ b.toNat then a else b
def maxU (a b : Word) : Word := if a.toNat ≤ b.toNat then b else a

/-- The number of one bits among the low n bits. -/
def popN (x : Nat) : Nat → Nat
  | 0 => 0
  | n + 1 => x % 2 + popN (x / 2) n

/-- Trailing zero bits among the low n bits. -/
def ctzN (x : Nat) : Nat → Nat
  | 0 => 0
  | n + 1 => if x % 2 = 1 then 0 else 1 + ctzN (x / 2) n

def clzW (a : Word) : Word := BitVec.ofNat 64 (if a = 0 then 64 else 63 - Nat.log2 a.toNat)
def ctzW (a : Word) : Word := BitVec.ofNat 64 (ctzN a.toNat 64)
def popW (a : Word) : Word := BitVec.ofNat 64 (popN a.toNat 64)

/-- The field that sb names (R95): its width, at most 64. -/
def fieldW (b : Word) : Nat := Nat.min (bits b.toNat 14 8) 64

def bextW (a b : Word) : Word := BitVec.ofNat 64 (a.toNat / 2 ^ sh b % 2 ^ fieldW b)

def binsMask (b : Word) : Word := BitVec.ofNat 64 ((2 ^ fieldW b - 1) * 2 ^ sh b)

def binsW (d a b : Word) : Word := (d &&& ~~~(binsMask b)) ||| ((a <<< sh b) &&& binsMask b)

def sextW (a b : Word) : Word := sextN (sh b + 1) a.toNat

def zextW (a b : Word) : Word := BitVec.ofNat 64 (a.toNat % 2 ^ (sh b + 1))

/-- X(imm34) (R96). -/
def immX (i : BitVec 34) : Word := i.signExtend 64

/-- Register, register to register (format CR). -/
def binary (o : RRR) (f : Word → Word → Word) (s : State) : Out :=
  wordOp [o.a, o.b] o.d o.g s (fun c => f (rdS c o.a) (rdS c o.b))

/-- Register to register (format CR). -/
def unary (o : RR) (f : Word → Word) (s : State) : Out :=
  wordOp [o.a] o.d o.g s (fun c => f (rdS c o.a))

/-- Register and immediate to register (format CI). -/
def immediate (o : RRI) (f : Word → Word → Word) (s : State) : Out :=
  wordOp [o.a] o.d o.g s (fun c => f (rdS c o.a) (immX o.imm))

def shiftImm (o : ShiftI) (f : Word → Nat → Word) (s : State) : Out :=
  wordOp [o.a] o.d o.g s (fun c => f (rdS c o.a) o.amt)

def compare (o : CmpRR) (f : Word → Word → Bool) (s : State) : Out :=
  wordCmp [o.a, o.b] o.d o.g s (fun c => f (rdS c o.a) (rdS c o.b))

def compareImm (o : CmpRI) (f : Word → Word → Bool) (s : State) : Out :=
  wordCmp [o.a] o.d o.g s (fun c => f (rdS c o.a) (immX o.imm))

def predicates (o : PPP) (f : Bool → Bool → Bool) (s : State) : Out :=
  wordCmp [] o.d o.g s (fun c => f (rdP c o.a) (rdP c o.b))

/-- The conditions of R97. -/
def condEq (a b : Word) : Bool := a == b
def condNe (a b : Word) : Bool := a != b
def condLt (a b : Word) : Bool := decide (a.toInt < b.toInt)
def condLtu (a b : Word) : Bool := decide (a.toNat < b.toNat)
def condLe (a b : Word) : Bool := decide (a.toInt ≤ b.toInt)
def condLeu (a b : Word) : Bool := decide (a.toNat ≤ b.toNat)

/-! ## The words -/

def execAdd (o : RRR) (s : State) : Out := binary o (· + ·) s
def execSub (o : RRR) (s : State) : Out := binary o (· - ·) s
def execMul (o : RRR) (s : State) : Out := binary o (· * ·) s
def execMulh (o : RRR) (s : State) : Out := binary o (fun a b => BitVec.ofInt 64 ((a.toInt * b.toInt) / 2 ^ 64)) s
def execMulhu (o : RRR) (s : State) : Out := binary o (fun a b => BitVec.ofNat 64 ((a.toNat * b.toNat) / 2 ^ 64)) s
def execDiv (o : RRR) (s : State) : Out := binary o divS s
def execDivu (o : RRR) (s : State) : Out := binary o divU s
def execRem (o : RRR) (s : State) : Out := binary o remS s
def execRemu (o : RRR) (s : State) : Out := binary o remU s

/-- MADD: c from field c. -/
def execMadd (o : RRRR) (s : State) : Out :=
  wordOp [o.a, o.b, o.c] o.d o.g s (fun c => rdS c o.a * rdS c o.b + rdS c o.c)

/-- SEL: a if the predicate is true, else b; both are sources. -/
def execSel (o : SelOp) (s : State) : Out :=
  wordOp [o.a, o.b] o.d o.g s (fun c => if rdP c o.p then rdS c o.a else rdS c o.b)

def execMin (o : RRR) (s : State) : Out := binary o minS s
def execMinu (o : RRR) (s : State) : Out := binary o minU s
def execMax (o : RRR) (s : State) : Out := binary o maxS s
def execMaxu (o : RRR) (s : State) : Out := binary o maxU s
def execAnd (o : RRR) (s : State) : Out := binary o (· &&& ·) s
def execOr (o : RRR) (s : State) : Out := binary o (· ||| ·) s
def execXor (o : RRR) (s : State) : Out := binary o (· ^^^ ·) s
def execAndn (o : RRR) (s : State) : Out := binary o (fun a b => a &&& ~~~b) s
def execShl (o : RRR) (s : State) : Out := binary o (fun a b => a <<< sh b) s
def execShr (o : RRR) (s : State) : Out := binary o (fun a b => a >>> sh b) s
def execSra (o : RRR) (s : State) : Out := binary o (fun a b => a.sshiftRight (sh b)) s
def execRol (o : RRR) (s : State) : Out := binary o (fun a b => a.rotateLeft (sh b)) s
def execClz (o : RR) (s : State) : Out := unary o clzW s
def execCtz (o : RR) (s : State) : Out := unary o ctzW s
def execPopc (o : RR) (s : State) : Out := unary o popW s
def execBext (o : RRR) (s : State) : Out := binary o bextW s

/-- BINS reads sd as well (R95). -/
def execBins (o : RRR) (s : State) : Out :=
  wordOp [o.d, o.a, o.b] o.d o.g s (fun c => binsW (rdS c o.d) (rdS c o.a) (rdS c o.b))

def execSext (o : RRR) (s : State) : Out := binary o sextW s
def execZext (o : RRR) (s : State) : Out := binary o zextW s
def execAddi (o : RRI) (s : State) : Out := immediate o (· + ·) s
def execAndi (o : RRI) (s : State) : Out := immediate o (· &&& ·) s
def execOri (o : RRI) (s : State) : Out := immediate o (· ||| ·) s
def execXori (o : RRI) (s : State) : Out := immediate o (· ^^^ ·) s
def execShli (o : ShiftI) (s : State) : Out := shiftImm o (fun a n => a <<< n) s
def execShri (o : ShiftI) (s : State) : Out := shiftImm o (fun a n => a >>> n) s
def execSrai (o : ShiftI) (s : State) : Out := shiftImm o (fun a n => a.sshiftRight n) s
def execLi (o : LoadImm) (s : State) : Out := wordOp [] o.d o.g s (fun _ => immX o.imm)

/-- LIH: imm[31:0] × 2^32 + a[31:0]. -/
def execLih (o : LoadHigh) (s : State) : Out :=
  wordOp [o.a] o.d o.g s (fun c => BitVec.ofNat 64 (o.imm.toNat * 2 ^ 32 + (rdS c o.a).toNat % 2 ^ 32))

def execCmpEq (o : CmpRR) (s : State) : Out := compare o condEq s
def execCmpNe (o : CmpRR) (s : State) : Out := compare o condNe s
def execCmpLt (o : CmpRR) (s : State) : Out := compare o condLt s
def execCmpLtu (o : CmpRR) (s : State) : Out := compare o condLtu s
def execCmpLe (o : CmpRR) (s : State) : Out := compare o condLe s
def execCmpLeu (o : CmpRR) (s : State) : Out := compare o condLeu s
def execCmpiEq (o : CmpRI) (s : State) : Out := compareImm o condEq s
def execCmpiNe (o : CmpRI) (s : State) : Out := compareImm o condNe s
def execCmpiLt (o : CmpRI) (s : State) : Out := compareImm o condLt s
def execCmpiLtu (o : CmpRI) (s : State) : Out := compareImm o condLtu s
def execCmpiLe (o : CmpRI) (s : State) : Out := compareImm o condLe s
def execCmpiLeu (o : CmpRI) (s : State) : Out := compareImm o condLeu s
def execPand (o : PPP) (s : State) : Out := predicates o (· && ·) s
def execPor (o : PPP) (s : State) : Out := predicates o (· || ·) s
def execPxor (o : PPP) (s : State) : Out := predicates o (· != ·) s
def execPnot (o : PP) (s : State) : Out := wordCmp [] o.d o.g s (fun c => !rdP c o.a)

end Sys2Proof.Machine
end

