-- ==== Sys2Proof/Machine/Operands.lean ====
section
/-! DEFINITION. Operand forms of the vector engine, the checks of a slot, and how a slot's effect is issued (R147 to R156, R177, R178). -/

namespace Sys2Proof.Machine

/-! ## Registers (R147) -/

/-- Lane i of a v register. -/
def rdV (v : Vec) (r i : Nat) : Lane := getAt 0 v.v (64 * r + i)

/-- A mask register; m0 reads all ones. -/
def rdM (v : Vec) (n : Nat) : Word := if n = 0 then BitVec.allOnes 64 else getAt 0 v.m n

/-- A k register; k0 reads zero. -/
def rdK (v : Vec) (n : Nat) : Lane := if n = 0 then 0 else getAt 0 v.k n

def wrK (n : Nat) (x : Lane) (v : Vec) : Vec := if n = 0 then v else { v with k := setAt 0 v.k n x }

/-- A flag; g0 reads true. -/
def rdG (v : Vec) (n : Nat) : Bool := if n = 0 then true else v.g.getLsbD n

def wrG (n : Nat) (x : Bool) (v : Vec) : Vec :=
  if n = 0 then v else { v with g := if x then v.g ||| (1#8 <<< n) else v.g &&& ~~~(1#8 <<< n) }

/-- The guard of a pair holds (R65). -/
def pairGuard (v : Vec) (g : VGuard) : Bool := rdG v g.flag != g.neg

/-- The pair an agent's vector engine stands at. -/
def vecPc (v : Vec) : Nat := match v.run with | some r => r.pc | none => 0

/-- Lanes selected by a mask word, ascending (R155). -/
def lanesOf (mask : Word) : List Nat := (List.range 64).filter (fun i => mask.getLsbD i)

/-! ## A precise vector trap (R177, R178) -/

/-- The engine stops before the pair: results still due move into the flight buffer, and the trap goes to the control core. -/
def vecTrap (cause : Nat) (info : Word) (s : State) : Out :=
  let a := s.cur
  let pc := vecPc (tile s a).vec
  let s := modVec (progress s a) a (fun v => { v with
    trapped := true
    buffer := v.buffer ++ v.flight.map (fun f => { f with due := f.due - v.slot })
    flight := [] })
  .next (engineFault s a .v cause info (trapSrc 1 pc 0))

/-- Checks 2 and 3 of R75 on a slot: features, then v registers, given in d, a, b, c order; a disallowed VCVT format code comes after
them. Where several fail, TRAPINFO names the first in that order (DESIGN CHOICE, log entry 23: R75 and R177 give none). -/
def vecChecks (feats regs : List Nat) (s : State) (k : State → Out) : Out :=
  match feats.find? (fun n => !feature s n) with
  | some n => vecTrap 0x12 (BitVec.ofNat 64 n) s
  | none =>
    match regs.find? (fun r => decide ((hdr s s.cur).vregs ≤ r)) with
    | some r => vecTrap 0x02 (BitVec.ofNat 64 (64 + r)) s
    | none => k s

/-! ## The scalar slot (R152, R157): it ends the pair -/

/-- The slot passes and the engine stands at a pair. -/
def vecGo (pc : Nat) (v : Vec) : Vec := { v with run := v.run.map (fun r => { r with pc := pc }), slot := v.slot + 1 }

/-- The pair is done, with a change of the scalar registers. -/
def vecNext (f : Vec → Vec) (s : State) : Out :=
  .next (modVec (progress s s.cur) s.cur (fun v => vecGo (vecPc v + 1) (f v)))

/-- A scalar-slot operation: its checks, its guard, its effect. -/
def kslot (feats regs : List Nat) (g : VGuard) (s : State) (k : State → Out) : Out :=
  vecChecks feats regs s fun s => if pairGuard (tile s s.cur).vec g then k s else vecNext id s

/-- One that only changes scalar registers. -/
def kop (g : VGuard) (s : State) (f : Vec → Vec) : Out := kslot [] [] g s fun s => vecNext f s

/-- A taken branch (R159): a target beyond the bank traps at the branch. R401 has TRAPINFO hold the target index and gives no form for one
below 0: here the low 56 bits of its two's complement (DESIGN CHOICE, log entry 44). -/
def kjump (off : BitVec 12) (f : Vec → Vec) (s : State) : Out :=
  let target : Int := (vecPc (tile s s.cur).vec : Int) + off.toInt
  if 0 ≤ target ∧ target < 2048 then
    .next (modVec (progress s s.cur) s.cur (fun v => vecGo target.toNat (f v)))
  else vecTrap 0x02 (info02 1 (wrap 64 target)) s

/-! ## The vector slot (R150, R153, R154) -/

def popsOf (t : VTok) : Push := ⟨false, false, t.popX, false, t.popM, false⟩
def pushesOf (t : VTok) : Push := ⟨false, false, false, t.pushX, false, t.pushM⟩

/-- What a vector slot leaves: a changed state, and a result to write back or none. -/
structure Issued where
  s : State
  f : Option Flight

/-- The slot issues: its pops, its effect, and its result in flight; one that writes no register pushes at once (R153). -/
def vecIssue (c : VCtl) (f : State → Issued) (s : State) : Out :=
  let a := s.cur
  let s := modTile s a (fun t => { t with fifo := popFrom t.fifo (popsOf c.tok), progress := true })
  let r := f s
  match r.f with
  | some fl => .next (modVec r.s a (fun v => { v with flight := v.flight ++ [{ fl with push := pushesOf c.tok, unit := vecPc (tile s a).vec }] }))
  | none => .next (pushOrHold (modVec r.s a (fun v => { v with unit := vecPc (tile s a).vec })) a .v (pushesOf c.tok))

/-- A vector-slot operation, ready once every FIFO it pops holds a token (R69, R177): checks 2 and 3, the guard, its own check (R164,
R384), then issue. A false guard pops and pushes and does nothing else. -/
def vslotX (feats regs : List Nat) (other : Option Word) (c : VCtl) (s : State)
    (own : State → Option (Nat × Word)) (f : State → Issued) : Out :=
  if !tokensFor (tile s s.cur).fifo (popsOf c.tok) then .next s
  else vecChecks feats regs s fun s =>
    match other with
    | some i => vecTrap 0x02 i s
    | none =>
      if pairGuard (tile s s.cur).vec c.g then
        match own s with
        | some (cause, info) => vecTrap cause info s
        | none => vecIssue c f s
      else vecIssue c (fun s => ⟨s, none⟩) s

def vslot (feats regs : List Nat) (c : VCtl) (s : State) (f : State → Issued) : Out :=
  vslotX feats regs none c s (fun _ => none) f

/-- A result of v lanes: for each active lane its value and flags, due after `lat` slots. -/
def lanesFlight (v : Vec) (lat d : Nat) (mask : Word) (f : Nat → Lane × Flags) : Flight :=
  let rs := (lanesOf mask).map (fun i => (i, f i))
  { due := v.slot + lat
    v := rs.map (fun r => (64 * d + r.1, r.2.1))
    m := none
    flags := rs.foldl (fun g r => g ||| r.2.2) 0
    push := Push.none
    unit := 0 }

/-- A result of mask bits. -/
def maskFlight (v : Vec) (lat d : Nat) (which x : Word) : Flight :=
  { due := v.slot + lat, v := [], m := some (d, which, x), flags := 0, push := Push.none, unit := 0 }

/-- A slot that computes lanes of a v register from the registers as they stand at issue (R152). -/
def laneSlot (feats regs : List Nat) (c : VCtl) (lat d : Nat) (mask : Fin 8) (s : State) (f : Vec → Nat → Lane × Flags) : Out :=
  vslot feats (d :: regs) c s fun s =>
    let v := (tile s s.cur).vec
    ⟨s, some (lanesFlight v lat d (rdM v mask) (f v))⟩

/-- A word whose bits are a Boolean function of the lane. -/
def wordOf (f : Nat → Bool) : Word :=
  BitVec.ofNat 64 ((List.range 64).foldl (fun n i => n + natOf (f i) * 2 ^ i) 0)

/-- Operand b, in lane i: a register or the broadcast immediate (R156); a 16-bit immediate goes to both elements. -/
def srcLane (v : Vec) (wide : Bool) (b : VSrc) (i : Nat) : Lane :=
  match b with
  | .reg r => rdV v r i
  | .imm x => if wide then x else BitVec.ofNat 32 (x.toNat % 65536 * 65537)

def srcRegs (b : VSrc) : List Nat := match b with | .reg r => [r.val] | .imm _ => []

/-! ## Element types (R26, R66) -/

def typeFmt (t : VType) : Nat := match t with | .f32 => FP32 | .bf16 => BF16 | .f16 => FP16

def isWide (t : VType) : Bool := t == .f32

/-- The elements of a lane: one, or the low and the high half. -/
def perElem1 (t : VType) (f : Nat → Nat × Flags) (x : Lane) : Lane × Flags :=
  if isWide t then let (y, g) := f x.toNat; (BitVec.ofNat 32 y, g)
  else
    let (y, g) := f (x.toNat % 65536)
    let (z, h) := f (x.toNat / 65536)
    (BitVec.ofNat 32 (y + z * 65536), g ||| h)

def perElem2 (t : VType) (f : Nat → Nat → Nat × Flags) (x y : Lane) : Lane × Flags :=
  if isWide t then let (z, g) := f x.toNat y.toNat; (BitVec.ofNat 32 z, g)
  else
    let (z, g) := f (x.toNat % 65536) (y.toNat % 65536)
    let (w, h) := f (x.toNat / 65536) (y.toNat / 65536)
    (BitVec.ofNat 32 (z + w * 65536), g ||| h)

def perElem3 (t : VType) (f : Nat → Nat → Nat → Nat × Flags) (x y z : Lane) : Lane × Flags :=
  if isWide t then let (w, g) := f x.toNat y.toNat z.toNat; (BitVec.ofNat 32 w, g)
  else
    let (u, g) := f (x.toNat % 65536) (y.toNat % 65536) (z.toNat % 65536)
    let (w, h) := f (x.toNat / 65536) (y.toNat / 65536) (z.toNat / 65536)
    (BitVec.ofNat 32 (u + w * 65536), g ||| h)

/-! ## Conditions (R97, R168) -/

/-- The condition of R97 on two integers given signed and unsigned. -/
def condInt (c : Cond) (x y : Lane) : Bool :=
  match c with
  | .eq => x == y
  | .ne => x != y
  | .lt => x.slt y
  | .ltu => x.ult y
  | .le => x.sle y
  | .leu => x.ule y

/-- The condition of R168 on two floating elements: LTU and LEU hold of unordered operands too. -/
def condFloat (c : Cond) (x y : Val) : Bool :=
  let un := x.isNan || y.isNan
  match c with
  | .eq => valEq x y
  | .ne => !valEq x y
  | .lt => valLt x y
  | .le => !un && valLe x y
  | .ltu => un || valLt x y
  | .leu => un || valLe x y

end Sys2Proof.Machine
end

