-- ==== Sys2Proof/Machine/VectorScalar.lean ====
section
/-! DEFINITION. The scalar slot of a V pair, run start and write-back (R148 to R160, R263). -/

namespace Sys2Proof.Machine

def execKnop (o : KNone) (s : State) : Out := kop o.g s id

def execKadd (o : KRRR) (s : State) : Out := kop o.g s fun v => wrK o.d (rdK v o.a + rdK v o.b) v

def execKsub (o : KRRR) (s : State) : Out := kop o.g s fun v => wrK o.d (rdK v o.a - rdK v o.b) v

def execKaddi (o : KRRI) (s : State) : Out := kop o.g s fun v => wrK o.d (rdK v o.a + o.imm.signExtend 32) v

def execKli (o : KImm) (s : State) : Out := kop o.g s fun v => wrK o.d (o.imm.signExtend 32) v

def execKand (o : KRRR) (s : State) : Out := kop o.g s fun v => wrK o.d (rdK v o.a &&& rdK v o.b) v

def execKor (o : KRRR) (s : State) : Out := kop o.g s fun v => wrK o.d (rdK v o.a ||| rdK v o.b) v

def execKxor (o : KRRR) (s : State) : Out := kop o.g s fun v => wrK o.d (rdK v o.a ^^^ rdK v o.b) v

def execKshl (o : KRRR) (s : State) : Out := kop o.g s fun v => wrK o.d (rdK v o.a <<< ((rdK v o.b).toNat % 32)) v

def execKshr (o : KRRR) (s : State) : Out := kop o.g s fun v => wrK o.d (rdK v o.a >>> ((rdK v o.b).toNat % 32)) v

/-- KCMP.cc (R157): the condition of R97 on 32-bit values. -/
def execKcmp (o : KCmpOp) (s : State) : Out := kop o.g s fun v => wrG o.d (condInt o.cc (rdK v o.a) (rdK v o.b)) v

def setLc (n : Nat) (x : Lane) (v : Vec) : Vec := { v with lc := setAt 0 v.lc n x }

/-- The counter after KLOOP (R158). -/
def loopCount (v : Vec) (n : Nat) : Lane := let x := getAt 0 v.lc n; if x = 0 then 0 else x - 1

/-- KLOOP (R158). -/
def execKloop (o : KLoopOp) (s : State) : Out :=
  kslot [] [] o.g s fun s =>
    let x := loopCount (tile s s.cur).vec o.n
    if x = 0 then vecNext (setLc o.n 0) s else kjump o.off (setLc o.n x) s

/-- KLOOP.SET (R158). -/
def execKloopSet (o : KLoopSetOp) (s : State) : Out := kop o.g s fun v => setLc o.n (rdK v o.a + o.imm.zeroExtend 32) v

/-- KBR (R159). -/
def execKbr (o : KBrOp) (s : State) : Out := kslot [] [] o.g s fun s => kjump o.off id s

/-- KEND (R160): the engine issues nothing more and drains; with nothing in flight the run is complete. -/
def execKend (o : KNone) (s : State) : Out :=
  kslot [] [] o.g s fun s =>
    let s := modVec (progress s s.cur) s.cur (fun v => { vecGo (vecPc v + 1) v with draining := true })
    .next (retire s s.cur .v)

/-- KFROM (R157): a poisoned granule traps (R384); the spec gives that trap no TRAPINFO. -/
def execKfrom (o : KFromOp) (s : State) : Out :=
  kslot [] [o.v] o.g s fun s =>
    if (tile s s.cur).vec.poison.contains (32 * o.v.val + o.lane.val / 2) then
      let (x, s) := draw s
      vecTrap 0x16 x s
    else vecNext (fun v => wrK o.d (rdV v o.v o.lane) v) s

/-- KSEED (R54). -/
def execKseed (o : KSeedOp) (s : State) : Out :=
  kslot [5] [] o.g s fun s => vecNext (fun v => { v with seed := seedOf (rdK v o.a) }) s

/-! ## Run start (R114, R148, R263) -/

/-- The parameters in k12 to k15 (R148). -/
def runParams (e : RunEntry) (v : Vec) : Vec :=
  let half := fun (w : Word) (n : Nat) => BitVec.ofNat 32 (w.toNat / 2 ^ (32 * n))
  wrK 15 (half e.p1 1) (wrK 14 (half e.p1 0) (wrK 13 (half e.p0 1) (wrK 12 (half e.p0 0) v)))

/-- An idle engine starts the run at its queue's head. -/
def startRun (s : State) (a : Nat) (e : Engine) : State :=
  let go := fun (r : RunEntry) => some (RunState.mk r r.entry false)
  match e with
  | .v =>
    match (tile s a).vec.queue with
    | r :: rs => if vecBusy (tile s a).vec then s
      else modVec s a (fun v => { runParams r v with queue := rs, run := go r, draining := false })
    | [] => s
  | .m =>
    match (tile s a).mat.queue with
    | r :: rs => if matBusy (tile s a).mat then s
      else modMat s a (fun m => { m with queue := rs, run := go r, popped := false, rep := none, o0 := 0, o1 := 0 })
    | [] => s
  | .x =>
    match (tile s a).mov.queue with
    | r :: rs => if movBusy (tile s a).mov then s
      else modMov s a (fun m => { m with queue := rs, run := go r, popped := false, rep := none, o0 := 0, o1 := 0, runWrites := 0, asked := none })
    | [] => s

/-- RUN_START (R114, R263): it counts as the start of work, and moves the queue. -/
def execRunStart (a : Nat) (e : Engine) (s : State) : Out := .next (startRun s a e)

/-! ## Write-back (R150, R153, R178) -/

/-- The results due, in issue order, until a push must wait (R153); the pushes of a cancelled run are not made (R268). -/
def landDue (s : State) (a : Nat) : List Flight → State
  | [] => s
  | f :: fs =>
    if (tile s a).vec.push.isNone ∧ f.due ≤ (tile s a).vec.slot then
      let s := modVec s a (fun v => { landFlight v f with flight := v.flight.erase f, unit := f.unit })
      let stopped := match (tile s a).vec.run with | some r => r.stop | none => false
      landDue (if stopped then progress s a else pushOrHold (progress s a) a .v f.push) a fs
    else landDue s a fs

/-- VECTOR_WRITEBACK (R150): the results due at this slot write, and a drained run ends. -/
def execVectorWriteback (a : Nat) (s : State) : Out :=
  .next (retire (landDue s a (tile s a).vec.flight) a .v)

end Sys2Proof.Machine
end

