-- ==== Sys2Proof/Machine/Matrix.lean ====
section
/-! DEFINITION. The matrix engine: acceptance, checks, planes, passes, accumulators, completion (R180 to R204, R45 to R48, R259). -/

namespace Sys2Proof.Machine

/-! ## Operand formats (R24, R181, R193) -/

/-- Elements of one pass by format width. -/
def passK (f : Nat) : Nat := if fmtWidth f = 16 then 64 else if fmtWidth f = 8 then 128 else 256

/-- Bytes one pass of an A row occupies. -/
def passBytes (f : Nat) : Nat := passK f * fmtWidth f / 8

/-- MX blocks of one pass. -/
def passBlocks (f : Nat) : Nat := passK f / 32

/-- The matrix operand formats. -/
def isOperand (f : Nat) : Bool :=
  isMX f || [BF16, FP16, E4M3, E5M2, E2M1, E3M2, E2M3, INT8, INT4].contains f

/-- Formats that pair (R193): those of one class. -/
def pairClass (f : Nat) : Nat :=
  if f = BF16 then 1 else if f = FP16 then 2
  else if f = E4M3 ∨ f = E5M2 then 3
  else if f = E2M1 ∨ f = E3M2 ∨ f = E2M3 then 4
  else if f = MXE4M3 ∨ f = MXE5M2 then 5
  else if f = MXINT8 then 6
  else if f = MXFP4 ∨ f = MXE3M2 ∨ f = MXE2M3 then 7
  else if f = INT8 then 8
  else if f = INT4 then 9
  else 0

/-! ## Fields and bases (R67, R185, R201) -/

/-- TRAPINFO of a record's cause 0x02: the lowest bit of the failing field (R186, R401). -/
def recInfo (bit : Nat) : Word := BitVec.ofNat 64 (192 + bit / 8)

/-- The sum of index times stride over the levels. -/
def linear (str : Quad (BitVec 20)) (i : Quad Nat) : Int :=
  i.l0 * str.l0.toInt + i.l1 * str.l1.toInt + i.l2 * str.l2.toInt + i.l3 * str.l3.toInt

/-- A base moved by an offset, modulo 2^20. -/
def mod20 (x : Int) : Nat := wrap 20 x

/-- The primed bases of R185, with the offsets of MREP (R201). -/
structure Bases where
  a : Nat
  b : Nat
  c : Nat
  sa : Nat
  sb : Nat
  /-- the outer offset of basea, which scalea follows -/
  outer : Int

def basesOf (m : Mat) (r : MRec) : Bases :=
  let p0 := match m.run with | some q => q.e.p0.toNat | none => 0
  let p1 := match m.run with | some q => q.e.p1.toNat | none => 0
  let i : Quad Nat := ⟨m.o0, m.o1, 0, 0⟩
  let off := fun (str : MRec → Quad (BitVec 20)) => (match m.rep with | some q => linear (str q) i | none => 0 : Int)
  let p := fun (on : Bool) (x n : Nat) => (if on then x / 2 ^ (20 * n) % 2 ^ 20 else 0 : Nat)
  { a := mod20 (r.basea.toNat + p r.fl.p0 p0 0 + off (·.stra))
    b := mod20 (r.baseb.toNat + p r.fl.p0 p0 1 + off (·.strb))
    c := mod20 (r.basec.toNat + p r.fl.p0 p0 2 + off (·.strc))
    sa := mod20 (r.scalea.toNat + p r.fl.p1 p1 0)
    sb := mod20 (r.scaleb.toNat + p r.fl.p1 p1 1)
    outer := off (·.stra) }

/-! ## Faults (R75, R137, R186) -/

/-- A record fault: the record parks at its start and the trap goes to the control core, or is held (R269). A repetition of a cancelled
run is discarded as it parks, with no trap (R122, R203; DEDUCED, log entry 28). -/
def matFault (cause : Nat) (info : Word) (s : State) : State :=
  let a := s.cur
  let run := (tile s a).mat.run
  let pc := match run with | some r => r.pc | none => 0
  let stopped := match run with | some r => r.stop | none => false
  let s := modMat (progress s a) a (fun m => { m with parked := true })
  if stopped then retire (modMat s a discardMat) a .m else engineFault s a .m cause info (trapSrc 2 pc 0)

/-- The features a record belongs to (R394), lowest first: `a` and `b` say which format fields it uses. Of several disabled ones TRAPINFO
names the lowest (DESIGN CHOICE, log entry 23: R75 and R138 give no order). -/
def matFeats (r : MRec) (a b : Bool) (more : List Nat) : List Nat :=
  let has := fun (fs : List Nat) => (a && fs.contains r.fmta.toNat) || (b && fs.contains r.fmtb.toNat)
  (if has [E4M3, E5M2] then [0] else []) ++ (if has [E2M1, E3M2, E2M3, INT4] then [1] else [])
    ++ (if r.fl.bs || more.contains 2 then [2] else []) ++ (if has [INT8, RNS30] then [3] else [])
    ++ (if more.contains 4 then [4] else []) ++ (if r.fl.sr then [5] else [])

/-- Check 3 of R75: the accumulator, then the format codes (R25). Where several of these fields fail, TRAPINFO names the accumulator
(bit 482) before fmta (492) before fmtb (484): R401 says nothing of an order within the check (DESIGN CHOICE, log entry 23). A listed code
that is no operand, such as UINT8 in ACCLD's fmtb, R25 faults in any matrix record before any effect, and R186 has a format that a record
does not allow fault in its check 4, after the pops: a record that multiplies or loads a plane (`operand`) takes the first, an accumulator
or rank record the second (DESIGN CHOICE, log entry 23). -/
def matCheck3 (s : State) (r : MRec) (acc a b operand : Bool) : Option Word :=
  let bad := fun (f : Nat) => fmtWidth f == 0 || (operand && !isOperand f)
  if acc ∧ (hdr s s.cur).accs ≤ r.acc.val then some (recInfo 482)
  else if a ∧ bad r.fmta.toNat then some (recInfo 492)
  else if b ∧ bad r.fmtb.toNat then some (recInfo 484)
  else none

/-- A run of bytes a record touches. -/
structure Span where
  at_ : Int
  n : Nat

/-- The least of a list of addresses. -/
def leastOf : List Int → Option Int
  | [] => none
  | x :: xs => match leastOf xs with | some y => some (min x y) | none => some x

/-- The lowest address of the spans that lies outside the declared scratchpad. -/
def outside (scratch : Nat) (ss : List Span) : Option Int :=
  leastOf (ss.filterMap (fun p =>
    if p.n = 0 then none
    else if p.at_ < 0 then some p.at_
    else if (scratch : Int) < p.at_ + p.n then some (max p.at_ scratch)
    else none))

/-- What check 4 finds (R186): in its order, field, alignment with its address where one fails, bounds. -/
inductive Check4 where
  | ok
  | field (bit : Nat)
  | misaligned (addr : Option Int)
  | bounds (addr : Int)
  /-- MREP before a record it cannot repeat: the spec names no field (R201) -/
  | next

/-- Checks 2 and 3 of R186: alignment in units of `n` bytes, then bounds. -/
def spansCheck (scratch n : Nat) (strides : List (BitVec 20)) (aligned : List Int) (ss : List Span) : Check4 :=
  let off := aligned.filter (fun a => a % (n : Int) != 0)
  if 2 ≤ n ∧ (!off.isEmpty ∨ strides.any (fun x => x.toInt % (n : Int) != 0)) then .misaligned (leastOf off)
  else match outside scratch ss with
    | some a => .bounds a
    | none => .ok

/-- The fault check 4 raises; a value the spec does not state is free. An address below 0 is its 64-bit two's complement (DESIGN CHOICE,
log entry 23). -/
def raise4 (c : Check4) (s : State) : State :=
  match c with
  | .ok => s
  | .field b => matFault 0x02 (recInfo b) s
  | .misaligned (some a) => matFault 0x05 (BitVec.ofInt 64 a) s
  | .misaligned none => let (x, s) := draw s; matFault 0x05 x s
  | .bounds a => matFault 0x04 (BitVec.ofInt 64 a) s
  | .next => let (x, s) := draw s; matFault 0x02 (BitVec.ofNat 64 (192 + x.toNat % 64)) s

/-! ## Acceptance and completion (R69, R75, R123, R187, R201) -/

def matPops (r : MRec) : Push := ⟨r.popX, false, false, false, false, r.popV⟩
def matPushes (r : MRec) : Push := ⟨false, r.pushX, false, false, r.pushV, false⟩

/-- The engine may accept a record now; `ld` says it is an LDSTAT, which may overlap one record that leaves the shadow plane alone; once
overlapped, that record is marked, so the next LDSTAT waits for both (R187). -/
def mayAccept (m : Mat) (ld : Bool) : Bool :=
  m.push.isNone && !m.parked && !m.paused && (m.busy.isEmpty || (ld && (match m.busy with | [b] => !b.shadow | _ => false)))

/-- The engine goes on to the record it executes next: the same one while repetitions are left (R201). -/
def matNext (m : Mat) : Mat :=
  let go := fun (m : Mat) => { m with rep := none, o0 := 0, o1 := 0, run := m.run.map (fun r => { r with pc := r.pc + 1 }) }
  match m.rep with
  | none => go m
  | some _ =>
    if m.o0 + 1 < Nat.max m.ml0 1 then { m with o0 := m.o0 + 1 }
    else if m.o1 + 1 < Nat.max m.ml1 1 then { m with o0 := 0, o1 := m.o1 + 1 }
    else go m

/-- What a record does at acceptance. -/
structure MatEffect where
  t : Tile
  flags : Flags

/-- How a record completes: at acceptance, or by an event. -/
inductive MatEnd where
  | now
  | later (shadow last : Bool)

/-- A record completes (R58, R123, R187): flags, timeline, then pushes; a stopped run makes no push (R268). -/
def matComplete (s : State) (a : Nat) (d : MatDone) : State :=
  let old := (tile s a).mat.tl
  let s := modMat (progress s a) a (fun m =>
    let (tl, ahead) := settle m.tl (m.ahead ++ [d.n]) (m.ahead.length + 1)
    { m with flags := m.flags ||| d.flags, tl := tl, ahead := ahead })
  let s := if (tile s a).mat.tl = old then s else setLatch s a
  let stopped := match (tile s a).mat.run with | some r => r.stop | none => false
  let s := if stopped then s else pushOrHold s a .m d.push
  let s := if d.last then modMat s a (fun m => { m with run := m.run.map (fun r => { r with stop := true }) }) else s
  retire s a .m

/-- Acceptance of a record once its checks have passed. -/
def matAccept (r : MRec) (e : MatEnd) (f : Tile → MatEffect) (s : State) : State :=
  let a := s.cur
  let res := f (tile s a)
  let s := putTile s a res.t
  let n := ((tile s a).mat.accepted + 1).toNat
  let pc := match (tile s a).mat.run with | some q => q.pc | none => 0
  let s := modMat (progress s a) a (fun m => { matNext m with accepted := m.accepted + 1, popped := false, unit := pc })
  match e with
  | .now => matComplete s a ⟨n, res.flags, matPushes r, false, false⟩
  | .later shadow last => modMat s a (fun m => { m with
      busy := m.busy.map (fun d => { d with shadow := true }) ++ [⟨n, res.flags, matPushes r, last, shadow⟩] })

/-- A matrix record: the engine ready to accept it, checks 2 and 3, its pops, check 4, then acceptance (R75, R187). -/
def mrec (feats : List Nat) (c3 : Option Word) (ld : Bool) (r : MRec) (s : State)
    (c4 : State → Check4) (e : MatEnd) (f : Tile → MatEffect) : Out :=
  let a := s.cur
  if mayAccept (tile s a).mat ld then
    match feats.find? (fun n => !feature s n) with
    | some n => .next (matFault 0x12 (BitVec.ofNat 64 n) s)
    | none =>
      match c3 with
      | some i => .next (matFault 0x02 i s)
      | none =>
        if (tile s a).mat.popped ∨ tokensFor (tile s a).fifo (matPops r) then
          let s := if (tile s a).mat.popped then s
            else modTile s a (fun t => { t with fifo := popFrom t.fifo (matPops r), progress := true, mat := { t.mat with popped := true } })
          match c4 s with
          | .ok => .next (matAccept r e f s)
          | bad => .next (raise4 bad s)
        else .next s
  else .next s

/-- A record still makes passes. -/
def passesLeft (m : Mat) (d : MatDone) : Bool := match m.going with | some g => g.n == d.n | none => false

/-- MATRIX_RECORD_COMPLETE (R187): the record in progress, its passes made, or the LDSTAT that overlaps it and finishes first. -/
def execMatrixRecordComplete (a k : Nat) (s : State) : Out :=
  let m := (tile s a).mat
  match m.busy[k]? with
  | some d =>
    if m.push.isNone && !m.paused && !passesLeft m d then .next (matComplete (modMat s a (fun m => { m with busy := m.busy.eraseIdx k })) a d) else .next s
  | none => .next s

/-! ## The plain records (R201, R202) -/

def noEffect (t : Tile) : MatEffect := ⟨t, 0⟩

def execMnop (r : MRec) (s : State) : Out := mrec [] none false r s (fun _ => .ok) .now noEffect

/-- MEND (R202): no record after it is reached, so none overlaps it. -/
def execMend (r : MRec) (s : State) : Out := mrec [] none false r s (fun _ => .ok) (.later true true) noEffect

/-- The record after MREP may be repeated (R201). -/
def repeatable (s : State) : Check4 :=
  let pc := match (tile s s.cur).mat.run with | some q => q.pc | none => 0
  if 256 ≤ pc + 1 ∨ bits (fetchM s s.cur (pc + 1)) 511 504 ≤ 2 then .next else .ok

/-- MREP (R201): the next record takes its strides. -/
def execMrep (r : MRec) (s : State) : Out :=
  match mrec [] none false r s repeatable .now noEffect with
  | .next s' =>
    if (tile s s.cur).mat.accepted = (tile s' s.cur).mat.accepted then .next s'
    else .next (modMat s' s.cur (fun m => { m with ml0 := r.trip.l0.toNat, ml1 := r.trip.l1.toNat, o0 := 0, o1 := 0, rep := some r }))
  | x => x

/-! ## Planes (R190 to R192) -/

/-- Element k of a dense run whose bytes are the number `run` (R26). -/
def elemOf (run w k : Nat) : Nat := run / 2 ^ (k * w) % 2 ^ w

/-- Bytes of n elements. -/
def runBytes (w n : Nat) : Nat := (n * w + 7) / 8

/-- The runs LDSTAT reads: one per K row, or with T one per column. -/
def statRuns (b : Bases) (r : MRec) : List Span :=
  let w := fmtWidth r.fmtb.toNat
  let (n, len) := if r.fl.t then (r.cols.toNat, r.rows.toNat) else (r.rows.toNat, r.cols.toNat)
  (List.range n).map (fun (i : Nat) => ⟨(b.b : Int) + (i : Int) * r.strb.l0.toInt, runBytes w len⟩)

/-- The block-scale rows LDSTAT reads. -/
def statScales (b : Bases) (r : MRec) : List Span :=
  if r.fl.bs then (List.range (r.rows.toNat / 32)).map (fun (i : Nat) => ⟨((b.sb + 64 * i : Nat) : Int), r.cols.toNat⟩) else []

/-- LDSTAT's check 4 (R186, R190): of several fields TRAPINFO names rows (bit 44) before cols (28) before BS (478) (DESIGN CHOICE, log
entry 23). -/
def statCheck (r : MRec) (s : State) : Check4 :=
  let f := r.fmtb.toNat
  let b := basesOf (tile s s.cur).mat r
  let w := fmtWidth f
  if r.rows = 0 ∨ passK f < r.rows.toNat ∨ (isMX f ∧ r.rows.toNat % 32 ≠ 0) then .field 44
  else if r.cols = 0 ∨ 64 < r.cols.toNat then .field 28
  else if r.fl.bs != isMX f then .field 478
  else spansCheck (hdr s s.cur).scratch (w / 8) [r.strb.l0] ((statRuns b r).map (·.at_)) (statRuns b r ++ statScales b r)

/-- Element k of a run touches a poisoned granule (R384). -/
def badElem (ps : List Nat) (p : Span) (w k : Nat) : Bool := poisonedAt ps 8 (p.at_.toNat + k * w / 8) (runBytes w (k + 1) - k * w / 8)

/-- The shadow plane LDSTAT leaves (R190); without BS the block scales keep their values. A column is poisoned by what was read for it
alone (R384). -/
def loadPlane (r : MRec) (t : Tile) : Plane :=
  let f := r.fmtb.toNat
  let b := basesOf t.mat r
  let w := fmtWidth f
  let runs := (statRuns b r).map (fun p => readN t.pad p.at_.toNat p.n)
  let code := fun (k j : Nat) => if r.fl.t then elemOf (runs.getD j 0) w k else elemOf (runs.getD k 0) w j
  let cells := (List.range r.rows.toNat).flatMap (fun k => (List.range r.cols.toNat).map (fun j => (k, j)))
  let scales := (List.range (r.rows.toNat / 32)).flatMap (fun i => (List.range r.cols.toNat).map (fun j => (i, j)))
  let badCol := fun (j : Nat) =>
    (if r.fl.t then (match (statRuns b r)[j]? with | some p => poisonedAt t.padPoison 8 p.at_.toNat p.n | none => false)
      else (statRuns b r).any (fun p => badElem t.padPoison p w j))
    || (statScales b r).any (fun p => poisonedAt t.padPoison 8 (p.at_.toNat + j) 1)
  { w := cells.foldl (fun m e => setAt 0 m (64 * e.1 + e.2) (BitVec.ofNat 32 (code e.1 e.2))) []
    fmt := f
    ext := r.rows.toNat
    sw := if r.fl.bs then scales.foldl (fun m e => setAt 0x7F m (64 * e.1 + e.2) (getB t.pad (b.sb + 64 * e.1 + e.2))) [] else t.mat.shadow.sw
    bad := (List.range r.cols.toNat).filter badCol }

def execLdstat (r : MRec) (s : State) : Out :=
  mrec (matFeats r false true []) (matCheck3 s r false false true true) true r s (statCheck r) (.later true false)
    (fun t => ⟨{ t with mat := { t.mat with shadow := loadPlane r t } }, 0⟩)

def swapPlanes (m : Mat) : Mat := { m with active := m.shadow, shadow := m.active }

def execMswap (r : MRec) (s : State) : Out :=
  mrec [] none false r s (fun _ => .ok) (.later true false) (fun t => ⟨{ t with mat := swapPlanes t.mat }, 0⟩)

/-! ## Passes (R45 to R48, R193 to R196, R259) -/

/-- Steps of the loop nest in order, level 0 the fastest (R195). -/
def steps (t : Quad (BitVec 16)) : List (Quad Nat) :=
  let n := fun (x : BitVec 16) => Nat.max x.toNat 1
  (List.range (n t.l3)).flatMap fun i3 => (List.range (n t.l2)).flatMap fun i2 =>
    (List.range (n t.l1)).flatMap fun i1 => (List.range (n t.l0)).map fun i0 => ⟨i0, i1, i2, i3⟩

/-- A pass of one row: where A and its scales stand, the accumulator row, and which plane. -/
structure Pass where
  run : Int
  scale : Int
  row : Int
  shadow : Bool

/-- Passes per row. -/
def passes (r : MRec) : Nat := Nat.max r.kpass.toNat 1

/-- The offset of A's scales that goes with a byte offset of A (R193). -/
def scaleOff (f : Nat) (x : Int) : Int := x * passBlocks f / passBytes f

/-- Pass p of row q of step i (R193). -/
def passAt (b : Bases) (r : MRec) (i : Quad Nat) (q p : Nat) : Pass :=
  let f := r.fmta.toNat
  let sa0 : Int := (mod20 ((b.sa : Int) + scaleOff f b.outer) : Nat)
  let k := q * passes r + p
  { run := b.a + linear r.stra i + (k * passBytes f : Nat)
    scale := sa0 + scaleOff f (linear r.stra i) + (k * passBlocks f : Nat)
    row := b.c + linear r.strc i + (q : Int)
    shadow := p == 1 }

/-- Every pass of a multiplying record, in the order of R195. -/
def allPasses (b : Bases) (r : MRec) : List Pass :=
  (steps r.trip).flatMap fun i => (List.range r.rows.toNat).flatMap fun q => (List.range (passes r)).map (passAt b r i q)

/-- The step after one, or none after the last: level 0 is the fastest (R195). -/
def nextStep (t : Quad (BitVec 16)) (i : Quad Nat) : Option (Quad Nat) :=
  if i.l0 + 1 < t.l0.toNat then some { i with l0 := i.l0 + 1 }
  else if i.l1 + 1 < t.l1.toNat then some { i with l0 := 0, l1 := i.l1 + 1 }
  else if i.l2 + 1 < t.l2.toNat then some { i with l0 := 0, l1 := 0, l2 := i.l2 + 1 }
  else if i.l3 + 1 < t.l3.toNat then some ⟨0, 0, 0, i.l3 + 1⟩
  else none

/-- The resume coordinate after one more pass: pass, then row, then step (R195, R204). -/
def MatGoing.after (g : MatGoing) : Option MatGoing :=
  if g.pass + 1 < passes g.r then some { g with pass := g.pass + 1 }
  else if g.row + 1 < g.r.rows.toNat then some { g with pass := 0, row := g.row + 1 }
  else (nextStep g.r.trip g.step).map (fun i => { g with pass := 0, row := 0, step := i })

def planeOf (m : Mat) (shadow : Bool) : Plane := if shadow then m.shadow else m.active

/-- The lowest bit of A's stride at a level. -/
def straBit (l : Nat) : Nat := 280 - 20 * l

/-- A stride of A, or MREP's offset of it, that the scales cannot follow (R193, R201). The offset is judged in the repetition that meets
it, under the record's innermost stride (DESIGN CHOICE, log entry 23). -/
def badStride (b : Bases) (r : MRec) : Option Nat :=
  let f := r.fmta.toNat
  let bad := fun (x : Int) => x * passBlocks f % passBytes f != 0
  if bad r.stra.l0.toInt || bad b.outer then some (straBit 0)
  else if bad r.stra.l1.toInt then some (straBit 1)
  else if bad r.stra.l2.toInt then some (straBit 2)
  else if bad r.stra.l3.toInt then some (straBit 3)
  else none

/-- Check 4 of MMA, MMABS and MDIST; `allowed` is the record's own set of formats. Of several bad fields rows is named first, then kpass,
cols, basec for an accumulator row that does not exist, and the formats (DESIGN CHOICE, log entry 23). -/
def mulCheck (r : MRec) (mx : Bool) (allowed : Nat → Bool) (s : State) : Check4 :=
  let m := (tile s s.cur).mat
  let f := r.fmta.toNat
  let b := basesOf m r
  let ps := allPasses b r
  if r.rows = 0 ∨ 128 < r.rows.toNat then .field 44
  else if 2 < r.kpass.toNat then .field 36
  else if r.cols = 0 ∨ 64 < r.cols.toNat then .field 28
  else if ps.any (fun p => decide (p.row < 0) || decide (127 < p.row)) then .field 404
  else if !allowed f ∨ !allowed r.fmtb.toNat ∨ pairClass f ≠ pairClass r.fmtb.toNat then .field 484
  else if m.active.fmt ≠ r.fmtb.toNat ∨ (r.kpass.toNat = 2 ∧ m.shadow.fmt ≠ r.fmtb.toNat) then .field 484
  else match (if mx then badStride b r else none) with
    | some bit => .field bit
    | none =>
      let w := fmtWidth f
      let reads := ps.map (fun p => Span.mk p.run (runBytes w (planeOf m p.shadow).ext))
      let scales := if mx then ps.map (fun p => Span.mk p.scale (passBlocks f)) else []
      spansCheck (hdr s s.cur).scratch (w / 8) [r.stra.l0, r.stra.l1, r.stra.l2, r.stra.l3] (ps.map (·.run)) (reads ++ scales)

/-- The sum of a pass's terms, special values first (R47): NaN where a term or its block's scale is NaN, or both infinities stand among
the products, which sets NV whatever the scales. A term is a product, its flags, and what it comes to with its block's scales. -/
def passSum (ts : List (Val × Flags × Val)) : Val × Flags :=
  let g := ts.foldl (fun g t => g ||| t.2.1) 0
  let pos := ts.any (fun t => t.1 == .inf false)
  let neg := ts.any (fun t => t.1 == .inf true)
  let g := if pos && neg then g ||| NV else g
  if ts.any (fun t => t.2.2.isNan) || (pos && neg) then (.nan, g)
  else if pos then (.inf false, g)
  else if neg then (.inf true, g)
  else ((valSum (ts.map (·.2.2))).1, g)

/-- The kind of word a record's accumulators hold (R182, R193). -/
inductive AccKind where
  | fp | int | rns
  deriving DecidableEq, Repr

def accKindOf (f : Nat) : AccKind := if f = INT8 then .rns else if f = INT4 then .int else .fp

/-- One pass on one accumulator word: K positions of A and of the plane's column, the blocks' scales, the old word (R46, R48, R194). -/
def onePass (f fb kp ext : Nat) (dist : Bool) (a w : Nat → Nat) (sa sw : Nat → Nat) (old : Nat) : Nat × Flags :=
  let ks := List.range ext
  match accKindOf f with
  | .fp =>
    let elem := fun (g x : Nat) => if isMX g then (if g = MXINT8 then (Val.ofInt (signed 8 x)).scale (-6) else value (mxElem g) x) else value g x
    let term := fun (k : Nat) =>
      let x := elem f (a k)
      let y := elem fb (w k)
      if dist then
        let (d, g) := valAdd x y.neg
        let (q, h) := valMul d d
        (q, g ||| h, q)
      else
        let (p, g) := valMul x y
        if isMX f then
          let i := sa (k / 32)
          let j := sw (k / 32)
          (p, g, if i = 255 ∨ j = 255 then Val.nan else p.scale ((i : Int) + j - 254))
        else (p, g, p)
    let beyondExt := if ext < kp && !dist then [(Val.zero, 0, Val.zero)] else []
    let (p, g) := passSum (ks.map term ++ beyondExt)
    let (sBits, h) := toFP32 p
    let (q, i) := valAdd (value FP32 old) (value FP32 sBits)
    let (y, j) := toFP32 q
    (y, g ||| h ||| i ||| j)
  | .int =>
    let sum := ks.foldl (fun n k => n + signed 4 (a k) * signed 4 (w k)) (0 : Int)
    (wrap 32 ((old : Int) + sum), 0)
  | .rns =>
    -- per channel, the residues of the exact sum of products (R49)
    let sum := ks.foldl (fun n k => n + signed 8 (a k) * signed 8 (w k)) (0 : Int)
    (rnsOp (· + ·) old (toRNS sum), 0)

def accKey (acc row col : Nat) : Nat := acc * 8192 + row * 64 + col

/-- The accumulators while a record runs: words, poisoned words, flags. -/
structure AccRun where
  acc : SMap Lane
  bad : List Nat
  flags : Flags

def setBad (bad : List Nat) (k : Nat) (on : Bool) : List Nat :=
  if on then (if bad.contains k then bad else k :: bad) else bad.filter (· != k)

/-- One pass of one row over every column. -/
def rowPass (r : MRec) (dist : Bool) (t : Tile) (x : AccRun) (p : Pass) : AccRun :=
  let f := r.fmta.toNat
  let pl := planeOf t.mat p.shadow
  let w := fmtWidth f
  let n := runBytes w pl.ext
  let run := readN t.pad p.run.toNat n
  let sc := if isMX f then readN t.pad p.scale.toNat (passBlocks f) else 0
  let badA := poisonedAt t.padPoison 8 p.run.toNat n || (isMX f && poisonedAt t.padPoison 8 p.scale.toNat (passBlocks f))
  (List.range r.cols.toNat).foldl (fun x j =>
    let k := accKey r.acc p.row.toNat j
    let (y, g) := onePass f r.fmtb.toNat (passK pl.fmt) pl.ext dist (elemOf run w)
      (fun i => (getAt 0 pl.w (64 * i + j)).toNat) (fun b => sc / 256 ^ b % 256) (fun b => (getAt 0x7F pl.sw (64 * b + j)).toNat)
      (getAt 0 x.acc k).toNat
    { acc := setAt 0 x.acc k (BitVec.ofNat 32 y)
      bad := if badA || pl.bad.contains j then setBad x.bad k true else x.bad
      flags := x.flags ||| g }) x

/-- ZERO (R196): every word the record updates, before its passes. -/
def zeroFirst (r : MRec) (ps : List Pass) (m : Mat) : AccRun :=
  let keys := ps.flatMap (fun p => (List.range r.cols.toNat).map (fun j => accKey r.acc p.row.toNat j))
  if r.fl.zero then ⟨m.acc.filter (fun e => !keys.contains e.1), m.accPoison.filter (fun k => !keys.contains k), 0⟩
  else ⟨m.acc, m.accPoison, 0⟩

/-- MMA, MMABS and MDIST at acceptance (R193, R196): ZERO at once; the passes are to come, from the first, with the record's number. -/
def multiply (r : MRec) (dist : Bool) (t : Tile) : MatEffect :=
  let b := basesOf t.mat r
  let x := zeroFirst r (allPasses b r) t.mat
  ⟨{ t with mat := { t.mat with
      acc := x.acc
      accPoison := x.bad
      going := some ⟨(t.mat.accepted + 1).toNat, r, dist, ⟨0, 0, 0, 0⟩, 0, 0, b.a, b.c, b.sa, b.outer⟩ } }, 0⟩

/-- The pass the resume coordinate stands at. -/
def MatGoing.here (g : MatGoing) : Pass := passAt ⟨g.a, 0, g.c, g.sa, 0, g.outer⟩ g.r g.step g.row g.pass

/-- One pass of the record in progress, on every column of its row; its flags go with the record, and after the last pass SWAP acts
(R192, R194, R195, R204). -/
def passTurn (g : MatGoing) (t : Tile) : Tile :=
  let x := rowPass g.r g.dist t ⟨t.mat.acc, t.mat.accPoison, 0⟩ g.here
  let m := { t.mat with
    acc := x.acc
    accPoison := x.bad
    going := g.after
    busy := t.mat.busy.map (fun d => if d.n = g.n then { d with flags := d.flags ||| x.flags } else d) }
  { t with progress := true, mat := if g.after.isNone && g.r.fl.swap then swapPlanes m else m }

def mulEnd (r : MRec) : MatEnd := .later (r.kpass.toNat == 2 || r.fl.swap) false

def execMma (r : MRec) (s : State) : Out :=
  mrec (matFeats r true true []) (matCheck3 s r true true true true) false r s (mulCheck r false (fun f => !isMX f)) (mulEnd r) (multiply r false)

def execMmabs (r : MRec) (s : State) : Out :=
  mrec (matFeats r true true [2]) (matCheck3 s r true true true true) false r s (mulCheck r true isMX) (mulEnd r) (multiply r false)

def execMdist (r : MRec) (s : State) : Out :=
  mrec (matFeats r true true [4]) (matCheck3 s r true true true true) false r s
    (mulCheck r false (fun f => [BF16, FP16, E4M3, E5M2].contains f)) (mulEnd r) (multiply r true)

/-! ## The best per row (R197) -/

/-- Rows, columns and accumulator rows of the records below; a row that does not exist is basec's, whichever field causes it, and of several
fields TRAPINFO names rows (bit 44) before cols (28) before basec (404) (DESIGN CHOICE, log entry 23). -/
def rowsCheck (r : MRec) (b : Bases) : Option Nat :=
  if r.rows = 0 ∨ 128 < r.rows.toNat then some 44
  else if r.cols = 0 ∨ 64 < r.cols.toNat then some 28
  else if 127 < b.c + r.rows.toNat - 1 then some 404
  else none

/-- The check 4 of MTOPK and MBOTK (R186, R197): after rowsCheck's fields kpass (bit 36) is named, then fmta (492) (DESIGN CHOICE, log entry
23). -/
def topkCheck (r : MRec) (s : State) : Check4 :=
  let b := basesOf (tile s s.cur).mat r
  let k := r.kpass.toNat
  match rowsCheck r b with
  | some bit => .field bit
  | none =>
    if k = 0 ∨ r.cols.toNat < k then .field 36
    else if r.fmta.toNat ≠ FP32 ∧ r.fmta.toNat ≠ INT32 then .field 492
    else spansCheck (hdr s s.cur).scratch 8 [] [(b.b : Int)] [⟨b.b, 8 * k * r.rows.toNat⟩]

/-- Word x strictly outranks word y (R197); columns decide ties by the order of insertion. -/
def outranks (fp top : Bool) (x y : Nat) : Bool :=
  let v := fun (n : Nat) => if fp then value FP32 n else Val.ofInt (signed 32 n)
  if (v x).isNan then false
  else if (v y).isNan then true
  else if top then valLt (v y) (v x) else valLt (v x) (v y)

/-- Inserts an entry before the first one it outranks. -/
def insertRank (fp top : Bool) (e : Nat × Nat) : List (Nat × Nat) → List (Nat × Nat)
  | [] => [e]
  | f :: fs => if outranks fp top e.1 f.1 then e :: f :: fs else f :: insertRank fp top e fs

/-- The entries of one row, word and column, in rank. -/
def ranked (r : MRec) (top : Bool) (m : Mat) (row : Nat) : List (Nat × Nat) :=
  ((List.range r.cols.toNat).map (fun j => ((getAt 0 m.acc (accKey r.acc row j)).toNat, j))).foldl
    (fun l e => insertRank (r.fmta.toNat == FP32) top e l) []

/-- Writes one 8-byte entry, poisoned where the word is (R384). -/
def putEntry (t : Tile) (addr x : Nat) (bad : Bool) : Tile :=
  let ps := coverPoison t.padPoison 8 addr 8
  { t with pad := writeN t.pad addr 8 x, padPoison := if bad then addPoison ps 8 addr 8 else ps }

def topk (r : MRec) (top : Bool) (t : Tile) : MatEffect :=
  let b := basesOf t.mat r
  let k := r.kpass.toNat
  let t' := (List.range r.rows.toNat).foldl (fun t q =>
    let bad := (List.range r.cols.toNat).any (fun j => t.mat.accPoison.contains (accKey r.acc (b.c + q) j))
    (((ranked r top t.mat (b.c + q)).take k).foldl (fun (p : Tile × Nat) e =>
      (putEntry p.1 (b.b + 8 * (k * q + p.2)) (e.1 + e.2 * 2 ^ 32) bad, p.2 + 1)) (t, 0)).1) t
  ⟨t', 0⟩

def execMtopk (r : MRec) (s : State) : Out :=
  mrec (matFeats r true false [4]) (matCheck3 s r true true false false) false r s (topkCheck r) (.later false false) (topk r true)

def execMbotk (r : MRec) (s : State) : Out :=
  mrec (matFeats r true false [4]) (matCheck3 s r true true false false) false r s (topkCheck r) (.later false false) (topk r false)

/-! ## Accumulator records (R198 to R200) -/

/-- The words of rows and columns, in ascending order. -/
def accCells (r : MRec) : List (Nat × Nat) :=
  (List.range r.rows.toNat).flatMap (fun q => (List.range r.cols.toNat).map (fun j => (q, j)))

def acczCheck (r : MRec) (s : State) : Check4 :=
  match rowsCheck r (basesOf (tile s s.cur).mat r) with
  | some bit => .field bit
  | none => .ok

def accZero (r : MRec) (t : Tile) : MatEffect :=
  let b := basesOf t.mat r
  let keys := (accCells r).map (fun e => accKey r.acc (b.c + e.1) e.2)
  ⟨{ t with mat := { t.mat with
      acc := t.mat.acc.filter (fun e => !keys.contains e.1)
      accPoison := t.mat.accPoison.filter (fun k => !keys.contains k) } }, 0⟩

def execAccz (r : MRec) (s : State) : Out :=
  mrec [] (matCheck3 s r true false false false) false r s (acczCheck r) (.later false false) (accZero r)

/-- Row runs of an accumulator record in the scratchpad. -/
def accRuns (b : Bases) (r : MRec) : List Span :=
  (List.range r.rows.toNat).map (fun (q : Nat) => ⟨(b.b : Int) + (q : Int) * r.strb.l0.toInt, runBytes (fmtWidth r.fmtb.toNat) r.cols.toNat⟩)

/-- The combinations of R199. -/
def entryOk (acc src : Nat) : Bool :=
  (acc == FP32 && [FP32, BF16, FP16].contains src) || (acc == INT32 && [INT32, INT16, INT8].contains src)
    || (acc == RNS30 && [RNS30, INT32].contains src)

/-- The check 4 of ACCLD and ACCADD (R186, R199): after rowsCheck's fields the pair of formats is named by fmtb (bit 484; DESIGN CHOICE, log
entry 23). -/
def accldCheck (r : MRec) (s : State) : Check4 :=
  let b := basesOf (tile s s.cur).mat r
  match rowsCheck r b with
  | some bit => .field bit
  | none =>
    if !entryOk r.fmta.toNat r.fmtb.toNat then .field 484
    else spansCheck (hdr s s.cur).scratch (fmtWidth r.fmtb.toNat / 8) [r.strb.l0] ((accRuns b r).map (·.at_)) (accRuns b r)

/-- The word an element enters as (R199). -/
def entering (acc src x : Nat) : Nat :=
  if acc = FP32 then (toFP32 (value src x)).1
  else if acc = INT32 then wrap 32 (signed (fmtWidth src) x)
  else if src = INT32 then toRNS (signed 32 x)
  else rnsOp (fun x _ => x) x x

/-- The element after ACCADD (R199). -/
def accSum (acc old x : Nat) : Nat × Flags :=
  if acc = FP32 then
    let (v, g) := valAdd (value FP32 old) (value FP32 x)
    let (y, h) := toFP32 v
    (y, g ||| h)
  else if acc = INT32 then ((old + x) % 2 ^ 32, 0)
  else (rnsOp (· + ·) old x, 0)

/-- ACCLD and ACCADD: a replaced word loses its poison with its old value; a sum keeps it (R384). -/
def accEnter (r : MRec) (add : Bool) (t : Tile) : MatEffect :=
  let b := basesOf t.mat r
  let w := fmtWidth r.fmtb.toNat
  let x := (accCells r).foldl (fun (x : AccRun) e =>
    let k := accKey r.acc (b.c + e.1) e.2
    match (accRuns b r)[e.1]? with
    | none => x
    | some p =>
      let v := entering r.fmta.toNat r.fmtb.toNat (elemOf (readN t.pad p.at_.toNat p.n) w e.2)
      let (y, g) := if add then accSum r.fmta.toNat (getAt 0 x.acc k).toNat v else (v, 0)
      let bad := poisonedAt t.padPoison 8 (p.at_.toNat + e.2 * w / 8) (w / 8)
      ⟨setAt 0 x.acc k (BitVec.ofNat 32 y), setBad x.bad k (bad || (add && x.bad.contains k)), x.flags ||| g⟩)
    ⟨t.mat.acc, t.mat.accPoison, 0⟩
  ⟨{ t with mat := { t.mat with acc := x.acc, accPoison := x.bad } }, x.flags⟩

def execAccld (r : MRec) (s : State) : Out :=
  mrec (matFeats r true true []) (matCheck3 s r true true true false) false r s (accldCheck r) (.later false false) (accEnter r false)

def execAccadd (r : MRec) (s : State) : Out :=
  mrec (matFeats r true true []) (matCheck3 s r true true true false) false r s (accldCheck r) (.later false false) (accEnter r true)

/-- Raw bits are copied (R200). -/
def rawCopy (r : MRec) : Bool := r.fmta == r.fmtb && !r.fl.bs

/-- ACCRD's check 4 (R186, R200): after rowsCheck's fields fmta (bit 492) is named before fmtb (484), and SR of a raw copy (477) last (DESIGN
CHOICE, log entry 23). -/
def accrdCheck (r : MRec) (s : State) : Check4 :=
  let b := basesOf (tile s s.cur).mat r
  match rowsCheck r b with
  | some bit => .field bit
  | none =>
    if !([FP32, INT32, RNS30].contains r.fmta.toNat) then .field 492
    else if !(rawCopy r || [FP32, BF16, FP16, E4M3, E5M2, INT32, INT16, INT8].contains r.fmtb.toNat) then .field 484
    else if rawCopy r && r.fl.sr then .field 477
    else
      let w := fmtWidth r.fmtb.toNat
      let runs := accRuns b r
      let off := (runs.map (fun (p : Span) => p.at_)).filter (fun (a : Int) => decide (16 ≤ w) && a % ((w / 8 : Nat) : Int) != 0)
      let scale : List Int := if r.fl.bs && b.sa % 4 != 0 then [(b.sa : Int)] else []
      if !(off ++ scale).isEmpty ∨ (16 ≤ w ∧ r.strb.l0.toInt % ((w / 8 : Nat) : Int) ≠ 0) then .misaligned (leastOf (off ++ scale))
      else
        match outside (hdr s s.cur).scratch (runs ++ (if r.fl.bs then [Span.mk b.sa (4 * r.cols.toNat)] else [])) with
        | some a => .bounds a
        | none => .ok

/-- The value an accumulator word stands for (R200). -/
def accValue (kind w : Nat) : Val :=
  if kind = FP32 then value FP32 w else if kind = INT32 then Val.ofInt (signed 32 w) else Val.ofInt (fromRNS w)

/-- One output code (R200, R51). -/
def readOut (r : MRec) (word scale : Nat) (u : Nat) : Nat × Flags :=
  if rawCopy r then (word, 0)
  else
    let x := accValue r.fmta.toNat word
    let (p, g) := if r.fl.bs then valMul x (value FP32 scale) else (x, 0)
    let (y, h) := convert r.fmtb.toNat (if r.fl.sr then .sr else .rne) u p
    (y, g ||| h)

/-- ACCRD (R200): rows ascending, one generator step a row with SR; within a row the scale of a column is read after the elements
before it are written (R8); poisoned words poison what they are written to. -/
def accOut (r : MRec) (t : Tile) : MatEffect :=
  let b := basesOf t.mat r
  let w := fmtWidth r.fmtb.toNat
  let res := (List.range r.rows.toNat).foldl (fun (p : Tile × Flags) q =>
    let t := p.1
    let x := if r.fl.sr then seedStep t.mat.seed else t.mat.seed
    let t := { t with mat := { t.mat with seed := x } }
    match (accRuns b r)[q]? with
    | none => p
    | some sp =>
      let addr := sp.at_.toNat
      let (pad, g) := (List.range r.cols.toNat).foldl (fun (e : Mem × Flags) j =>
        let sc := if r.fl.bs then readN e.1 (b.sa + 4 * j) 4 else 0
        let (y, g) := readOut r (getAt 0 t.mat.acc (accKey r.acc (b.c + q) j)).toNat sc (fraction x w j)
        (writeN e.1 (addr + j * w / 8) (w / 8) y, e.2 ||| g)) (t.pad, p.2)
      let scBad := fun (j : Nat) => r.fl.bs && poisonedAt t.padPoison 8 (b.sa + 4 * j) 4
      let bad := (List.range r.cols.toNat).filter (fun j => t.mat.accPoison.contains (accKey r.acc (b.c + q) j) || scBad j)
      let ps := bad.foldl (fun ps j => addPoison ps 8 (addr + j * w / 8) (w / 8)) (coverPoison t.padPoison 8 addr sp.n)
      ({ t with pad := pad, padPoison := ps }, g)) (t, 0)
  ⟨res.1, res.2⟩

def execAccrd (r : MRec) (s : State) : Out :=
  mrec (matFeats r true true []) (matCheck3 s r true true true false) false r s (accrdCheck r) (.later false false) (accOut r)

end Sys2Proof.Machine
end

