-- ==== Sys2Proof/Machine/MoveRecords.lean ====
section
/-! DEFINITION. Move records: shapes and windows, traversal, the checks at acceptance, acceptance and completion (R227 to R237, R250 to R254). -/

namespace Sys2Proof.Machine

/-! ## Faults and completion (R137, R252, R254, R256) -/

def movPc (m : Mov) : Nat := match m.run with | some r => r.pc | none => 0

/-- A record fault: the record parks, and the trap goes to the control core or is held (R137, R269). A record that faults at its
acceptance has no number yet, and TRAPSRC holds sequence 0, as an M record's does (DESIGN CHOICE, log entry 23: R138 names none). The
record in progress of a cancelled run is discarded as it parks, with no trap (R122, R257, R269; DEDUCED, log entry 28). -/
def movFault (treg cause : Nat) (info : Word) (s : State) : State :=
  let a := s.cur
  let m := (tile s a).mov
  let n := match m.busy with | some b => b.n | none => 0
  let s := modMov (progress s a) a (fun m => { m with parked := some (cause, treg) })
  if movStopped m then discardMov s a else engineFault s a .x cause info (trapSrc 3 (movPc m) n)

/-- The eight groups of a completion record (R254). -/
def crecGroups (token n : Nat) (fp : List Word) : List Nat := token :: n :: fp.map (·.toNat)

/-- The engine goes on to the record it executes next: the same one while repetitions of XREP are left (R250). -/
def movNext (m : Mov) : Mov :=
  let go := fun (m : Mov) => { m with rep := none, fetch := none, o0 := 0, o1 := 0, run := m.run.map (fun r => { r with pc := r.pc + 1 }) }
  match m.rep with
  | none => go m
  | some _ =>
    if m.o0 + 1 < Nat.max m.xl0 1 then { m with o0 := m.o0 + 1 }
    else if m.o1 + 1 < Nat.max m.xl1 1 then { m with o0 := 0, o1 := m.o1 + 1 }
    else go m

/-- A record completes (R252): completion record, flags, token and timeline, then pushes; a stopped run makes none (R268). Its stores
are published by the next PHASE (R131). -/
def movComplete (s : State) (a : Nat) (b : MovDone) : State :=
  let s := match b.crec with
    | none => s
    | some (addr, fp) =>
      let gs := crecGroups (tokenValue 0 (b.bits / 8)).toNat b.n fp
      (List.range 8).foldl (fun s i => padWrite s a (addr + 8 * i) 8 (gs.getD i 0)) s
  let s := modCore s a closeRecord
  let s := modMov (progress s a) a (fun m => { movNext m with
    flags := m.flags ||| b.flags
    tl := BitVec.ofNat 64 b.n
    busy := none
    resume := 0
    pre := none
    runWrites := m.runWrites + b.writes })
  let s := setLatch (writeToken s a b.treg 0 (b.bits / 8)) a
  let s := if movStopped (tile s a).mov then s else pushOrHold s a .x b.push
  let s := if b.last then modMov s a (fun m => { m with run := m.run.map (fun r => { r with stop := true }) }) else s
  retire s a .x

/-- What the record in progress waits for has come about. -/
def movReady (s : State) (a : Nat) (b : MovDone) : Option MovDone :=
  match b.wait with
  | .nothing => some b
  | .port => if (tile s a).mov.portFree ≤ s.now then some b else none
  | .landing =>
    let own := s.transit.any (fun t => t.src == a && t.dst == a && t.co.isNone)
    let mine := fun (p : Option Port) => match p with | some p => p.t.src == a && p.t.co.isNone | none => false
    if own || mine (tile s a).reed.port || mine (tile s a).reed.portNext then none else some b
  | .boundary => none
  | .mapready i =>
    let sl := slotOf s a i
    if sl.ready then some { b with bits := 8 * sl.readyCount } else none
  | .resume => none
  | .collapse _ _ => none

/-- MOVE_RECORD_COMPLETE (R252). -/
def execMoveRecordComplete (a : Nat) (s : State) : Out :=
  let m := (tile s a).mov
  match m.busy with
  | some b =>
    if m.parked.isSome ∨ m.paused ∨ m.push.isSome then .next s
    else match movReady s a b with
      | some b => .next (movComplete s a b)
      | none => .next s
  | none => .next s

/-! ## Pointers and fetches (R231, R232, R234) -/

/-- A pointer with bit 63 set names the scratchpad (R68). -/
def isPad (p : Word) : Bool := p.getLsbD 63

def padPtr (p : Word) : Nat := p.toNat % 2 ^ 20

/-- Why a record stops part way. -/
inductive XStop where
  | fault (cause : Nat) (info : Word)
  /-- a write waits for the collapse of this VA (R377) -/
  | collapse (va : Nat)
  /-- it waits for a communication step, for room, for a path to die 4, or for a peer that no route reaches (R243, R364, R368, R389) -/
  | wait
  deriving DecidableEq, Repr

/-- Bytes read: their value, whether they are poisoned, whether a page lacks K. -/
structure XRead where
  x : Nat
  bad : Bool
  noK : Bool
  deriving DecidableEq, Repr

def vaWord (x : Int) : Word := BitVec.ofInt 64 x

/-- The bytes of one line as the engine reads them (R18, R384, R390): through the L1; poisoned where they are, where the device is lost,
and where no path reaches the die. -/
def readLine (s : State) (a ga n e : Nat) : XRead × State :=
  let bad := poisonG s a ga n
  if lostAt s a ga && !allOwn (core s a) ga n then
    let (x, s) := draw s
    (⟨x.toNat, true, !eK e⟩, s)
  else
    let (_, x, s) := loadL1 s a ga n e false
    (⟨x, bad, !eK e⟩, s)

/-- n bytes of global memory, line by line. A peer that no route reaches discards the request, and the engine waits (R364). -/
def readGlobal (s : State) (a : Nat) (va : Int) (n : Nat) : Nat → Except XStop XRead × State
  | 0 => (.ok ⟨0, false, false⟩, s)
  | k + 1 =>
    if n = 0 then (.ok ⟨0, false, false⟩, s)
    else if va < 0 then (.error (.fault 0x06 (vaWord va)), s)
    else
      let v := va.toNat
      match translate s a true (ctxOf s a) v false with
      | (.ok ga e, s) =>
        match unroutedAt s ga with
        | some dev => (.error .wait, modMov (discarded s dev) a (fun m => { m with asked := some dev }))
        | none =>
          let len := Nat.min n (128 - v % 128)
          let (q, s) := readLine s a ga len e
          match readGlobal s a (va + len) (n - len) k with
          | (.ok r, s) => (.ok ⟨q.x + 2 ^ (8 * len) * r.x, q.bad || r.bad, q.noK || r.noK⟩, s)
          | (.error st, s) => (.error st, s)
      | (_, s) => (.error (.fault 0x06 (vaWord va)), s)

/-- One indivisible read of a record of n bytes at a pointer (R234). -/
def fetchAt (s : State) (a : Nat) (p : Word) (n : Nat) : Except XStop XRead × State :=
  if isPad p then (.ok ⟨padRead s a (padPtr p) n, padPoisoned s a (padPtr p) n, false⟩, s) else readGlobal s a p.toNat n n

/-- n bytes of a fetched record from byte o. -/
def recField (x o n : Nat) : Nat := x / 2 ^ (8 * o) % 2 ^ (8 * n)

/-- The fields of a shape record (R232). -/
def shapeOf (x : Nat) : Shape :=
  let nd := recField x 4 2 / 256 % 32
  { tensor := recField x 0 4
    fmt := recField x 4 1
    ndim := nd
    zfill := recField x 6 2 % 2 == 1
    base := recField x 8 8
    scale := recField x 16 8
    ext := (List.range nd).map (fun d => recField x (64 + 4 * d) 4)
    stride := (List.range nd).map (fun d => signed 64 (recField x (128 + 8 * d) 8)) }

/-- A reserved field of a shape record, or one at or beyond ndim, is not zero (R232, R233). -/
def shapeReserved (x : Nat) : Bool :=
  let sh := shapeOf x
  recField x 5 1 / 32 != 0 || recField x 6 2 / 2 != 0 || recField x 24 40 != 0
    || (if bitOf sh.base 63 then bits sh.base 62 20 != 0 else bits sh.base 63 56 != 0)
    || (List.range 16).any (fun d => decide (sh.ndim ≤ d) && (recField x (64 + 4 * d) 4 != 0 || recField x (128 + 8 * d) 8 != 0))

/-- The conditions of R27 on base, strides and extents. -/
def shapePlain (sh : Shape) : Bool :=
  let w := fmtWidth sh.fmt
  let n : Nat := w / 8
  let e0 := sh.ext.getD 0 0
  let s0 := sh.stride.getD 0 0
  if isDense sh.fmt then s0 == 0 && e0 % denseUnit sh.fmt == 0
  else decide (1 ≤ e0) && (if w = 8 then s0 != 0 else sh.base % 2 ^ 63 % n == 0 && sh.stride.all (fun x => x % (n : Int) == 0))

/-- A shape record is valid apart from the elements a traversal touches (R233). -/
def shapeOk (x : Nat) : Bool :=
  let sh := shapeOf x
  !shapeReserved x && fmtWidth sh.fmt != 0 && decide (1 ≤ sh.ndim) && decide (sh.ndim ≤ 16) && shapePlain sh

/-! ## Traversal (R235, R244) -/

/-- A run: its step's indices, the first element's source and destination coordinates, the source dimension that varies, its length. -/
structure XRun where
  lev : List Nat
  c : List Int
  d0 : Nat
  d : List Int
  n : Nat
  deriving DecidableEq, Repr

/-- Index tuples below the counts, the first index fastest. -/
def tuples : List Nat → List (List Nat)
  | [] => [[]]
  | n :: ns => (tuples ns).flatMap (fun t => (List.range n).map (fun i => i :: t))

def addAt (l : List Int) (i : Nat) (x : Int) : List Int := l.set i (l.getD i 0 + x)

def stepBy (o : List Int) (st : XStep) (i : Nat) : List Int := addAt o st.dim.val (i * st.step.toInt)

def permute (perm : List Nat) (c : List Int) : List Int := perm.map (fun i => c.getD i 0)

/-- Runs of one box of extents (in source order) at a source and a destination origin. -/
def boxRuns (lev : List Nat) (src dst : List Int) (ext perm : List Nat) : List XRun :=
  let d0 := perm.headD 0
  if ext.getD d0 0 = 0 then []
  else
  let outer := perm.drop 1
  (tuples (outer.map (fun p => ext.getD p 0))).map (fun (q : List Nat) =>
    let moves := outer.zip q
    ⟨lev, moves.foldl (fun c e => addAt c e.1 (e.2 : Int)) src, d0,
      (q.zip (List.range q.length)).foldl (fun d e => addAt d (e.2 + 1) (e.1 : Int)) dst, ext.getD d0 0⟩)

/-- The window origin of a repetition: moved by the steps of the XREP record (R235, R250). -/
def repOrigin (x : Option XRec) (o0 o1 : Nat) (f : XFetch) : List Int :=
  let org : List Int := f.org.map (fun n => (n : Int))
  match x with | some q => stepBy (stepBy org q.step.l0 o0) q.step.l1 o1 | none => org

/-- The window origin of every step of a repetition, with the step's indices, level 0 the fastest (R235). -/
def stepOrigins (r : XRec) (org : List Int) : List (List Nat × List Int) :=
  let one := fun (t : BitVec 16) => Nat.max t.toNat 1
  (tuples [one r.trip.l0, one r.trip.l1, one r.trip.l2, one r.trip.l3]).map (fun lv =>
    let i := fun (k : Nat) => lv.getD k 0
    (lv, stepBy (stepBy (stepBy (stepBy org r.step.l0 (i 0)) r.step.l1 (i 1)) r.step.l2 (i 2)) r.step.l3 (i 3)))

/-- Traverse of a record, for one repetition. -/
def traverse (r : XRec) (x : Option XRec) (o0 o1 : Nat) (f : XFetch) (perm : List Nat) : List XRun :=
  (stepOrigins r (repOrigin x o0 o1 f)).flatMap (fun o => boxRuns o.1 o.2 (permute perm o.2) f.ext perm)

/-- Every repetition of XREP: its outer indices (R250). -/
def repetitions (m : Mov) : List (Nat × Nat) :=
  match m.rep with
  | none => [(0, 0)]
  | some _ => (tuples [Nat.max m.xl0 1, Nat.max m.xl1 1]).map (fun o => (o.getD 0 0, o.getD 1 0))

/-- The traversal over every repetition. -/
def traverseAll (m : Mov) (r : XRec) (f : XFetch) (perm : List Nat) : List XRun :=
  (repetitions m).flatMap (fun o => traverse r m.rep o.1 o.2 f perm)

/-- Element e of a run: source and destination coordinates. -/
def srcAt (r : XRun) (e : Nat) : List Int := addAt r.c r.d0 e
def dstAt (r : XRun) (e : Nat) : List Int := addAt r.d 0 e

/-- The permutation field, three bits a destination dimension (R230). -/
def permField (r : XRec) : Nat := r.limit.toNat / 256

/-- The permutation of a record over n dimensions (R235). -/
def permOf (r : XRec) (n : Nat) : List Nat :=
  if r.fl.trn then [1, 0] ++ (List.range n).drop 2
  else if permField r = 0 then List.range n
  else (List.range n).map (fun d => permField r / 2 ^ (3 * d) % 8)

/-- A permutation field that breaks R235. -/
def permBad (r : XRec) (n : Nat) : Bool :=
  let p := fun (d : Nat) => permField r / 2 ^ (3 * d) % 8
  permField r != 0 && (decide (8 < n) || !(List.range n).all (fun i => (List.range n).any (fun d => p d == i))
    || (List.range 8).any (fun d => decide (n ≤ d) && p d != 0))

/-! ## Where elements lie (R232, R35) -/

/-- The coordinates lie within the extents (R233). -/
def inExt (sh : Shape) (c : List Int) : Bool :=
  (List.range sh.ndim).all (fun d => decide (0 ≤ c.getD d 0) && decide (c.getD d 0 < (sh.ext.getD d 0 : Int)))

/-- Σ c_d × stride_d over dimensions from k up. -/
def strideSum (sh : Shape) (c : List Int) (k : Nat) : Int :=
  ((List.range sh.ndim).drop k).foldl (fun x d => x + c.getD d 0 * sh.stride.getD d 0) 0

/-- The offset of an element from its base: byte, bit within it, bytes touched. -/
def elemOff (sh : Shape) (c : List Int) : Int × Nat × Nat :=
  let w := fmtWidth sh.fmt
  if isDense sh.fmt then
    let b : Int := c.getD 0 0 * (w : Int)
    let bit := (b % 8).toNat
    (strideSum sh c 1 + b / 8, bit, (bit + w + 7) / 8)
  else (strideSum sh c 0, 0, w / 8)

/-- A base or scale pointer's address. Of a scratchpad scale pointer R35 gives both "in bits 19:0" and "the pointer with bit 63 cleared", and
R232 asks bits 62:20 to be zero of base alone: here bits 19:0 count, and the others raise nothing (DESIGN CHOICE, log entry 44). -/
def ptrAddr (p : Nat) : Nat := if bitOf p 63 then p % 2 ^ 20 else p

/-- The offset of the block's scale byte in the scale array (R35). -/
def shapeScale (sh : Shape) (c : List Int) : Int :=
  let x0 : Int := (sh.ext.getD 0 0 / 32 : Nat)
  let (v, _) := ((List.range sh.ndim).drop 1).foldl (fun (p : Int × Int) d =>
    (p.1 + c.getD d 0 * p.2, p.2 * (sh.ext.getD d 0 : Int))) (c.getD 0 0 / 32, x0)
  v

/-! ## What the checks find (R231) -/

/-- A fault at acceptance, or one whose TRAPINFO the spec leaves open in its low bits (R250); or no fault, but a fetch that waits. -/
inductive XBad where
  | at_ (cause : Nat) (info : Word)
  | next
  | hold
  deriving DecidableEq, Repr

def fieldBad (bit : Nat) : XBad := .at_ 0x02 (BitVec.ofNat 64 (192 + bit / 8))

/-- The first of a list of checks that fails. -/
def firstBad : List (Option XBad) → Option XBad
  | [] => none
  | some b :: _ => some b
  | none :: r => firstBad r

def badIf (c : Bool) (b : XBad) : Option XBad := if c then some b else none

def stepBit (l : Nat) : Nat := 224 - 16 * l

def levels (r : XRec) : List (Nat × BitVec 16 × XStep) :=
  [(0, r.trip.l0, r.step.l0), (1, r.trip.l1, r.step.l1), (2, r.trip.l2, r.step.l2), (3, r.trip.l3, r.step.l3)]

/-- A level run once holds a zero step word (R228). -/
def idleSteps (r : XRec) : Option XBad :=
  (levels r).findSome? (fun l => badIf (decide (l.2.1.toNat ≤ 1) && l.2.2 != ⟨0, 0⟩) (fieldBad (stepBit l.1)))

/-- Any other level names a dimension below ndim (R228). -/
def stepDims (r : XRec) (n : Nat) : Option XBad :=
  (levels r).findSome? (fun l => badIf (decide (1 < l.2.1.toNat) && decide (n ≤ l.2.2.dim.val)) (fieldBad (stepBit l.1)))

/-- The conversion formats (R236). -/
def cvtFmt (f : Nat) : Bool := [FP32, BF16, FP16, E4M3, E5M2, E2M1, E3M2, E2M3, INT4, INT8, UINT8, INT16, INT32].contains f

/-- The output format field. -/
def ofmtField (r : XRec) : Nat := r.limit.toNat % 256

/-- Fields of dest for bursts (R229). -/
structure XDest where
  here : Bool
  dev : Nat
  die : Nat
  tile : Nat
  mw : Nat
  mh : Nat
  space : Nat
  modulus : Nat
  deriving DecidableEq, Repr

def destOf (w : Word) : XDest :=
  let x := w.toNat
  ⟨bitOf x 63, bits x 62 43, bits x 42 40, bits x 39 34, bits x 33 31, bits x 30 28, bits x 27 26, bits x 25 6⟩

/-- Limits of dest for SEND and SCATTER (R229, R364). -/
def destBad (r : XRec) : Option XBad :=
  let d := destOf r.dest
  firstBad [
    badIf (r.dest.toNat % 64 != 0) (fieldBad 304),
    badIf (d.modulus != 0) (fieldBad 310),
    badIf (d.space != 0) (fieldBad 330),
    badIf (if r.fl.mc then decide (8 ≤ d.tile / 8 + d.mh) else d.mh != 0) (fieldBad 332),
    badIf (if r.fl.mc then decide (8 ≤ d.tile % 8 + d.mw) else d.mw != 0) (fieldBad 335),
    badIf (decide (4 ≤ d.die)) (fieldBad 344),
    badIf ((d.here && d.dev != 0) || bitOf d.dev 19) (fieldBad 347)]

/-- A SYNC record's receivers: this die, tiles of the gang (R243). -/
def syncBad (s : State) (r : XRec) : Option XBad :=
  let d := destOf r.dest
  let a := s.cur
  let dst := rect d.die d.tile (d.mw + 1) (d.mh + 1)
  if r.fl.sync then
    firstBad [
      badIf (isSeq a) (fieldBad 485),
      badIf (!d.here) (fieldBad 367),
      badIf (d.die != dieOf a) (fieldBad 344),
      badIf (!dst.all (fun b => (gang s a).contains b)) (fieldBad 338)]
  else none

/-- SR only with CVT, FPR only with CREC (R228), BSCL without CVT (R237), TRN without a permutation field (R235). -/
def flagsBad (r : XRec) : Option XBad :=
  firstBad [
    badIf (r.fl.sr && !r.fl.cvt) (fieldBad 490),
    badIf (r.fl.fpr && !r.fl.crec) (fieldBad 493),
    badIf (r.fl.bscl && r.fl.cvt) (fieldBad 487),
    badIf (r.fl.trn && permField r != 0) (fieldBad 489)]

/-- The output format: zero without CVT, else a conversion format (R230, R236). -/
def ofmtBad (r : XRec) : Option XBad :=
  badIf (if r.fl.cvt then !cvtFmt (ofmtField r) else ofmtField r != 0) (fieldBad 80)

/-! ## Checks of R75, acceptance (R231) -/

/-- Features of a record, lowest first (R394): where several are disabled, TRAPINFO names the lowest (DESIGN CHOICE, log entry 23). -/
def movFeats (r : XRec) (more : List Nat) : List Nat :=
  (if r.fl.bscl then [2] else []) ++ (if r.fl.sr then [5] else []) ++ (if r.fl.sync then [7] else [])
    ++ (if r.fl.wq then [8] else []) ++ more

/-- Check 3 of R75: token register, map slot, output format code; where several fail, TRAPINFO names the first in that order (DESIGN
CHOICE, log entry 23). -/
def movCheck3 (s : State) (r : XRec) (slot ofmt : Bool) : Option XBad :=
  firstBad [
    badIf (r.treg.val != 0 && decide ((hdr s s.cur).sregs ≤ r.treg.val)) (fieldBad 494),
    badIf (slot && decide ((hdr s s.cur).maps ≤ r.slot.val)) (fieldBad 371),
    badIf (ofmt && r.fl.cvt && fmtWidth (ofmtField r) == 0) (fieldBad 80)]

def movPops (r : XRec) : Push := ⟨false, r.popM, false, r.popV, false, false⟩
def movPushes (r : XRec) : Push := ⟨r.pushM, false, r.pushV, false, false, false⟩

/-- The fault of a check. -/
def raiseX (r : XRec) (b : XBad) (s : State) : State :=
  match b with
  | .at_ c i => movFault r.treg c i s
  | .next => let (x, s) := draw s; movFault r.treg 0x02 (BitVec.ofNat 64 (192 + x.toNat % 64)) s
  | .hold => s

/-- The record is accepted (R121, R123): its number, its token mark, and what it has fetched. -/
def movAccept (r : XRec) (f : Option XFetch) (s : State) : State :=
  let a := s.cur
  let m := (tile s a).mov
  let n := (m.accepted + 1).toNat
  let s := modCore s a (markTok r.treg)
  modMov (progress s a) a (fun m => { m with
    accepted := m.accepted + 1
    popped := false
    unit := movPc m
    resume := 0
    fetch := f
    pre := none
    busy := some
      { n := n
        bits := 0
        flags := 0
        treg := r.treg
        push := movPushes r
        crec := if r.fl.crec then some (r.crec.toNat, [0, 0, 0, 0]) else none
        wait := .nothing
        writes := 0
        last := false } })

/-- The record in progress goes on: after a fault, in a step, or after a collapse. -/
def goesOn (b : MovDone) : Bool :=
  match b.wait with
  | .resume => true
  | .collapse _ d => d
  | _ => false

/-- The engine waits for the answer of a peer that has no route and is not declared lost (R364, R390). -/
def awaitsPeer (s : State) (m : Mov) : Bool := match m.asked with | some d => !s.dev.lost.contains d | none => false

/-- A move record: checks 2 and 3, its pops, check 4, acceptance, and what it does from its resume coordinate on (R75, R231). -/
def xrec (feats : List Nat) (c3 : Option XBad) (r : XRec) (s : State)
    (c4 : State → Except XBad (Option XFetch) × State) (body : State → State) : Out :=
  let a := s.cur
  let m := (tile s a).mov
  if m.push.isSome ∨ m.parked.isSome ∨ m.paused ∨ awaitsPeer s m then .next s
  else match m.busy with
    | some b => if goesOn b then .next (body s) else .next s
    | none =>
      match feats.find? (fun n => !feature s n) with
      | some n => .next (movFault r.treg 0x12 (BitVec.ofNat 64 n) s)
      | none =>
        match c3 with
        | some b => .next (raiseX r b s)
        | none =>
          if m.popped ∨ tokensFor (tile s a).fifo (movPops r) then
            let s := if m.popped then s
              else modTile s a (fun t => { t with fifo := popFrom t.fifo (movPops r), progress := true, mov := { t.mov with popped := true } })
            match c4 s with
            | (.ok f, s) => .next (body (movAccept r f s))
            | (.error b, s) => .next (raiseX r b s)
          else .next s

def modBusy (s : State) (a : Nat) (f : MovDone → MovDone) : State := modMov s a (fun m => { m with busy := m.busy.map f })

/-- The record in progress is done at once. -/
def finishX (s : State) : State :=
  match (tile s s.cur).mov.busy with
  | some b => movComplete s s.cur b
  | none => s

end Sys2Proof.Machine
end

