-- ==== Sys2Proof/Machine/MoveData.lean ====
section
/-! DEFINITION. Elements a move record reads, converts, writes and sends, with the faults met part way (R235 to R246, R253 to R256). -/

namespace Sys2Proof.Machine

/-! ## Reading (R235, R253, R256, R309, R384) -/

/-- n bytes of either space; outside the scratchpad is a bounds fault. -/
def readSpace (s : State) (a : Nat) (pad : Bool) (addr : Int) (n : Nat) : Except XStop XRead × State :=
  if pad then
    let lim := (hdr s a).scratch
    if addr < 0 then (.error (.fault 0x04 (vaWord addr)), s)
    else if (lim : Int) < addr + n then (.error (.fault 0x04 (vaWord (max addr lim))), s)
    else (.ok ⟨padRead s a addr.toNat n, padPoisoned s a addr.toNat n, false⟩, s)
  else readGlobal s a addr n n

/-- What a record works with. -/
structure XCx where
  a : Nat
  r : XRec
  f : XFetch
  perm : List Nat
  /-- the output format -/
  ofmt : Nat
  /-- it reads scales (R36) -/
  scales : Bool
  /-- it lands in the tile's own maps: the K bit guards code (R309) -/
  own : Bool
  /-- a collapse the reeve core has declined (R377) -/
  declined : Option Nat

/-- What a record has done: the machine, its generator with the state the step under way draws from, flags, fingerprint, bits moved,
writes, and the places written since the run began: kind of poison list, first bit, bits. -/
structure XAcc where
  s : State
  seed : BitVec 32
  step : BitVec 32
  flags : Flags
  fp : List Word
  bits : Nat
  writes : Nat
  spans : List (Nat × Nat × Nat)

/-- Reads the element at source coordinates, with its block's scale where the record uses scales. Outside the extents it
reads as zero under ZFILL, its scale free (log entry 5). -/
def readElem (cx : XCx) (c : List Int) (x : XAcc) : Except XStop XElem × XAcc :=
  let sh := cx.f.sh
  if !inExt sh c then
    if sh.zfill then
      if cx.scales then
        let (v, s) := draw x.s
        (.ok ⟨0, v.toNat % 256, false, true, false, 0⟩, { x with s := s })
      else (.ok ⟨0, 127, false, true, false, 0⟩, x)
    else (.error (.fault 0x0C cx.r.shape), x)
  else
    let (off, bit, n) := elemOff sh c
    let addr : Int := ptrAddr sh.base + off
    match readSpace x.s cx.a (bitOf sh.base 63) addr n with
    | (.error st, s) => (.error st, { x with s := s })
    | (.ok r, s) =>
      let e : XElem := ⟨r.x / 2 ^ bit % 2 ^ fmtWidth sh.fmt, 127, r.bad || cx.f.bad, false, r.noK, vaWord addr⟩
      if cx.scales then
        match readSpace s cx.a (bitOf sh.scale 63) (ptrAddr sh.scale + shapeScale sh c) 1 with
        | (.error st, s) => (.error st, { x with s := s })
        | (.ok q, s) => (.ok { e with scale := q.x, bad := e.bad || q.bad }, { x with s := s })
      else (.ok e, { x with s := s })

/-! ## Conversion and fingerprint (R236, R255) -/

/-- Element e of a run of a record with SR begins a step of the generator: 64 elements or the run's remainder (R55). The elements of a
step draw from the state it began with, whatever SETSYS has written since (R54). -/
def enterStep (cx : XCx) (e : Nat) (x : XAcc) : XAcc :=
  if cx.r.fl.cvt && cx.r.fl.sr && e % 64 == 0 then { x with seed := seedStep x.seed, step := seedStep x.seed } else x

/-- The output element and its flags. -/
def convertElem (cx : XCx) (e : Nat) (el : XElem) (x : XAcc) : Nat × XAcc :=
  if cx.r.fl.cvt then
    let x := enterStep cx e x
    let u := if cx.r.fl.sr then fraction x.step (fmtWidth cx.ofmt) e else 0
    let (y, g) := convert cx.ofmt (if cx.r.fl.sr then .sr else .rne) u (value cx.f.sh.fmt el.x)
    (y, { x with flags := x.flags ||| g })
  else (el.x, x)

/-- One element enters the fingerprint; a poisoned one counts as a NaN (R255, R384). -/
def fpStep (fmt y : Nat) (el : XElem) (fp : List Word) : List Word :=
  let v := if el.bad then .nan else if isMX fmt then (if el.out then Val.zero else mxValue fmt y el.scale) else value fmt y
  match fp with
  | [nans, big, sum, sq] =>
    if v.isNan then [nans + 1, big, sum, sq]
    else
      let r := fun (z : Val) => BitVec.ofNat 64 (roundF fp64 .rne 0 z).1
      let m := (toFP32 v.abs).1
      [nans, if big.toNat < m then BitVec.ofNat 64 m else big,
        r (valAdd (valueF fp64 sum.toNat) v).1, r (valAdd (valueF fp64 sq.toNat) (valMul v v).1).1]
  | _ => fp

/-- An output element is counted. -/
def countElem (cx : XCx) (y : Nat) (el : XElem) (x : XAcc) : XAcc :=
  { x with
    bits := x.bits + fmtWidth cx.ofmt
    fp := if cx.r.fl.fpr then fpStep cx.ofmt y el x.fp else x.fp }

/-! ## Bursts (R237, R371) -/

/-- A burst still to be formed: the index of its first element, its elements, coordinates, weight, and its step's indices. -/
structure XBurst where
  idx : Nat
  els : List (XRun × Nat)
  coords : List Nat
  weight : Nat
  lev : List Nat

/-- An output element of a burst: bits, scale, poison. -/
structure XOut where
  y : Nat
  scale : Nat
  bad : Bool
  deriving DecidableEq, Repr

/-- Elements of a burst at most. -/
def burstMax (w : Nat) (bscl : Bool) : Nat := let b := 4 * (512 / w); if bscl then b / 32 * 32 else b

/-- Pieces of at most b elements: start and length. -/
def chunks (n b : Nat) : List (Nat × Nat) :=
  (List.range ((n + b - 1) / b)).map (fun i => (i * b, Nat.min b (n - i * b)))

/-- Coordinates as a header's unsigned fields of 32 bits hold them. Of a destination coordinate below 0 the spec says nothing: it is sent
modulo 2^32, and the receiver adds an element's place in the burst to c0 without wrapping there (R206; DESIGN CHOICE, log entry 26). -/
def coordsOf (c : List Int) : List Nat := c.map (fun x => wrap 32 x)

/-- Cuts runs into bursts from an element on; l is the index of the first run's first element. -/
def cutRuns (b skip : Nat) : List XRun → Nat → List XBurst
  | [], _ => []
  | r :: rs, l =>
    let k := Nat.min r.n (skip - l)
    (chunks (r.n - k) b).map (fun p =>
      ⟨l + k + p.1, (List.range p.2).map (fun i => (r, k + p.1 + i)), coordsOf (dstAt r (k + p.1)), 0, r.lev⟩)
      ++ cutRuns b skip rs (l + r.n)

/-- Every element of the runs, in order. -/
def allEls (rs : List XRun) : List (XRun × Nat) := rs.flatMap (fun r => (List.range r.n).map (fun e => (r, e)))

/-- Cuts a traversal by reduction blocks of `blk` elements; b0 and the round give the coordinates (R371). -/
def cutBlocks (b blk b0 round weight skip : Nat) (rs : List XRun) : List XBurst :=
  let els := allEls rs
  ((chunks els.length blk).zip (List.range els.length)).flatMap (fun q =>
    (chunks q.1.2 b).filterMap (fun p =>
      let i := q.1.1 + p.1
      if i < skip then none
      else some ⟨i, (els.drop i).take p.2, [((b0 + q.2) * blk + p.1) % 2 ^ 32, round],
        if p.1 + p.2 = q.1.2 then weight else 0, []⟩))

/-- Payload flits of output elements, with the poisoned ones. -/
def formFlits (w : Nat) (os : List XOut) : List Nat × List Nat :=
  let per := 512 / w
  let fs := (chunks os.length per).map (fun p => (os.drop p.1).take p.2)
  (fs.map (fun f => f.foldr (fun o n => o.y + n * 2 ^ w) 0),
    (List.range fs.length).filter (fun k => (fs.getD k []).any (fun o => o.bad)))

/-- Forms a burst (R205, R206, R237). With BSCL dimension 0 stays where it is, and windows are of whole blocks, so that c0 and the run length
are multiples of 32 (R207). -/
def formBurst (cx : XCx) (contrib : Nat) (xb : XBurst) (os : List XOut) : Burst :=
  let (flits, poison) := formFlits (fmtWidth cx.ofmt) os
  { tensor := cx.f.sh.tensor
    fmt := cx.ofmt
    ndim := xb.coords.length
    kind := 0
    runlen := os.length
    sync := cx.r.fl.sync
    ext := decide (12 < xb.coords.length)
    bscl := cx.r.fl.bscl
    contrib := contrib
    weight := xb.weight
    coords := xb.coords
    flits := flits
    scales := if cx.r.fl.bscl then ((List.range (os.length / 32)).map (fun b => (os.getD (32 * b) ⟨0, 0, false⟩).scale * 2 ^ (8 * b))).sum else 0
    poison := poison }

/-- A landing in a CODE map of the own tile, read from a page without K (R309). -/
def codeGuard (cx : XCx) (d : List Int) (el : XElem) (x : XAcc) : Bool :=
  cx.own && el.noK && (
    let r := (tile x.s cx.a).reed
    let b : Burst := ⟨cx.f.sh.tensor, cx.ofmt, d.length, 0, 1, false, false, false, 0, 0, [], [], 0, []⟩
    (fateOf (candidates r b) cx.ofmt (coordsOf d)).recv.any (fun q => q.2.mode == 4))

/-- Reads, converts and counts the elements of a burst, up to the first that faults. -/
def readEls (cx : XCx) : List (XRun × Nat) → XAcc → List XOut × XAcc × Option XStop
  | [], x => ([], x, none)
  | (r, e) :: es, x =>
    match readElem cx (srcAt r e) x with
    | (.error st, y) => ([], { x with s := y.s }, some st)
    | (.ok el, y) =>
      if codeGuard cx (dstAt r e) el y then ([], { x with s := y.s }, some (.fault 0x08 el.va))
      else
        let (v, y) := convertElem cx e el y
        let (os, z, st) := readEls cx es (countElem cx v el y)
        (⟨v, el.scale, el.bad⟩ :: os, z, st)

/-- Where bursts go: whether one may leave now, and its leaving. -/
structure XSink where
  room : State → XBurst → Burst → Bool
  give : State → XBurst → Burst → State

/-- Sends bursts in order. A record that lands in its own maps lands the elements before a faulting one, whole blocks with
BSCL; any other stops before the burst that was not sent (R256). -/
def sendAll (cx : XCx) (contrib : Nat) (k : XSink) : List XBurst → XAcc → Nat → XAcc × Nat × Option XStop
  | [], x, i => (x, i, none)
  | b :: bs, x, _ =>
    match readEls cx b.els x with
    | (os, y, none) =>
      let f := formBurst cx contrib b os
      if k.room y.s b f then sendAll cx contrib k bs { y with s := k.give y.s b f } (b.idx + b.els.length)
      else ({ x with s := y.s }, b.idx, some .wait)
    | (os, y, some st) =>
      let n := if cx.r.fl.bscl then os.length / 32 * 32 else os.length
      if cx.own ∧ n ≠ 0 then
        let (os, z, _) := readEls cx (b.els.take n) { x with s := y.s }
        ({ z with s := k.give z.s b (formBurst cx contrib b os) }, b.idx + n, some st)
      else ({ x with s := y.s }, b.idx, some st)

/-! ## Receivers (R229, R237, R243, R364) -/

/-- The cycle the engine's port is free. -/
def leaveAt (s : State) (a : Nat) : Nat := Nat.max s.now (tile s a).mov.portFree

/-- The flits of a burst leave, one a cycle, from a cycle on (R237). -/
def portTakes (s : State) (a t : Nat) (b : Burst) : State := modMov (progress s a) a (fun m => { m with portFree := t + burstFlits b })

def classOf (a : Nat) : Nat := if isSeq a then 1 else 0

/-- The tile's own Reedbed (R238). -/
def ownSink (a : Nat) : XSink where
  room _ _ _ := true
  give s _ b := portTakes (sendTile s a a (classOf a) b (leaveAt s a) none) a (leaveAt s a) b

/-- A burst may be copied for another device (R368): a path leads to die 4, and the buffer has room; one that is discarded needs none. -/
def deviceRoom (s : State) (a dev : Nat) (b : Burst) : Bool :=
  diePath s (dieOf a) 4 && (s.dev.lost.contains dev || !routed s dev || !stagingFull s dev b)

/-- A rectangle of tiles of a die of this device or of another (R229, R243, R364). -/
def rectSink (a : Nat) (here : Bool) (dev d t mw mh : Nat) : XSink where
  room s _ b := here || dev == s.dev.devid || deviceRoom s a dev b
  give s _ b :=
    let l := leaveAt s a
    if here || dev == s.dev.devid then portTakes (sendRect s a d t mw mh (classOf a) b l) a l b
    else portTakes (sendDevice s dev (classOf a) (ctxOf s a).id d t mw mh none b) a l b

/-- A switch group: the agent 1024 + g of this device's collective die (R246). -/
def groupSink (a : Nat) (here : Bool) (dev g : Nat) : XSink where
  room s _ b := here || dev == s.dev.devid || deviceRoom s a dev b
  give s _ b :=
    let l := leaveAt s a
    if here || dev == s.dev.devid then portTakes (sendTile s a (1024 + g) (classOf a) b l none) a l b
    else portTakes (sendDevice s dev (classOf a) (ctxOf s a).id 0 0 0 0 (some g) b) a l b

/-! ## SYNC bursts (R226, R275) -/

/-- The links of the dimension-order path, X first, with the cycle a flit that leaves at t uses each. -/
def meshLinks (d : Nat) (t : Nat) (x y : Nat) : Nat → List (Nat × Nat)
  | 0 => []
  | n + 1 =>
    if x = y then []
    else
      let z := if x % 8 < y % 8 then x + 1 else if y % 8 < x % 8 then x - 1 else if x / 8 < y / 8 then x + 8 else x - 8
      ((d * 64 + x) * 64 + z, t) :: meshLinks d (t + 2) z y n

/-- The path of a flit to one receiver. -/
def syncPath (f : SyncFlit) (b : Nat) : List (Nat × Nat) := meshLinks (dieOf f.src) f.leave (f.src % 64) (b % 64) 14

/-- The cycles on which flits of the burst beside a payload flit leave: the header and any extension before the first, a scale flit after
the last (R205). -/
def sideLeaves (f : SyncFlit) : List Nat :=
  (if f.flit = 0 then (List.range (1 + natOf f.b.ext)).map (fun i => f.leave - 1 - i) else [])
    ++ (if f.b.bscl && f.flit + 1 == f.b.flits.length then [f.leave + 1] else [])

/-- The links a flit's burst takes with it to one receiver: the flit's own, and those of the flits beside it. -/
def burstPath (f : SyncFlit) (b : Nat) : List (Nat × Nat) :=
  (f.leave :: sideLeaves f).flatMap (fun t => meshLinks (dieOf f.src) t (f.src % 64) (b % 64) 14)

/-- A payload flit needs a port or a link on a cycle on which another, or the header, extension or scale flit beside that one, needs it,
on their ways to two receivers (R275). -/
def syncClash (f : SyncFlit) (b : Nat) (g : SyncFlit) (c : Nat) : Bool :=
  (b == c && f.sched == g.sched) || (syncPath f b).any (fun l => (burstPath g c).contains l)

/-- A flit scheduled for a receiver: its place among the flits scheduled, the receiver, its nominal cycle and its sender's GANGIX. -/
structure SyncEntry where
  i : Nat
  b : Nat
  sched : Nat
  gix : Nat
  deriving DecidableEq, Repr

/-- The flit at place i keeps its nominal cycle at a receiver while it has not lost it and no flit that it clashes with comes before
it: one of a lower GANGIX, or of two flits of one sender at one port, of which R275 says nothing, the one issued first (DESIGN CHOICE,
log entry 42). -/
def syncLoses (fs : List SyncFlit) (f : SyncFlit) (i : Nat) (d : Nat × Nat) : Bool :=
  d.2 != f.sched || ((List.range fs.length).zip fs).any (fun e =>
    decide (e.2.gix < f.gix ∨ (e.2.gix = f.gix ∧ e.1 < i)) && e.2.dsts.any (fun c => syncClash f d.1 e.2 c.1))

/-- The first cycle after t that is taken at no receiver's port b, of those in a list of receiver and cycle. -/
def portCycle (taken : List (Nat × Nat)) (b t : Nat) : Nat → Nat
  | 0 => t + 1
  | n + 1 => if taken.contains (b, t + 1) then portCycle taken b (t + 1) n else t + 1

/-- The entries in the order in which late flits take their cycles: nominal cycle, then GANGIX, then issue. -/
def insertEntry (e : SyncEntry) : List SyncEntry → List SyncEntry
  | [] => [e]
  | x :: xs =>
    if x.sched < e.sched ∨ (x.sched = e.sched ∧ (x.gix < e.gix ∨ (x.gix = e.gix ∧ x.i ≤ e.i))) then x :: insertEntry e xs else e :: x :: xs

/-- Every flit that has lost its cycle takes the first later one its port is free (R275). -/
def assignLate (now : Nat) : List SyncEntry → List (Nat × Nat) → List (SyncEntry × Nat)
  | [], _ => []
  | e :: es, taken =>
    let c := portCycle taken e.b (Nat.max e.sched now) (taken.length + 1)
    (e, c) :: assignLate now es ((e.b, c) :: taken)

/-- The flits scheduled, each on its cycle at each receiver (R275). -/
def settleSync (now : Nat) (fs : List SyncFlit) : List SyncFlit :=
  let all := ((List.range fs.length).zip fs).flatMap (fun e => e.2.dsts.map (fun d => (⟨e.1, d.1, e.2.sched, e.2.gix⟩, syncLoses fs e.2 e.1 d)))
  let kept := (all.filter (fun e => !e.2)).map (fun e => (e.1.b, e.1.sched))
  let late := assignLate now ((all.filter (·.2)).foldl (fun l e => insertEntry e.1 l) []) kept
  ((List.range fs.length).zip fs).map (fun e => { e.2 with dsts := e.2.dsts.map (fun d =>
    (d.1, match late.find? (fun l => l.1.i == e.1 && l.1.b == d.1) with | some l => l.2 | none => e.2.sched)) })

/-- A SYNC burst leaves at cycle t: its payload flits, which follow the header and any extension flit, are scheduled in every receiver. -/
def sendSync (s : State) (a t : Nat) (dsts : List Nat) (b : Burst) : State :=
  let dmax := dsts.foldl (fun m d => Nat.max m (hops (a % 64) (d % 64))) 0
  (List.range b.flits.length).foldl (fun s k =>
    let sched := t + (k + 1) + 8 + 2 * dmax
    let f : SyncFlit :=
      { src := a
        gix := indexOf a (gang s a)
        ctx := (ctxOf s a).id
        inc := (die s (dieOf a)).incarn
        b := b
        flit := k
        leave := t + (k + 1) + natOf b.ext
        sched := sched
        dsts := dsts.map (fun d => (d, sched)) }
    { s with sync := settleSync s.now (s.sync ++ [f]) }) s

/-- The cycle of the open step a burst may leave at (R133, R243). -/
def stepCycle (s : State) (a : Nat) : Option Nat :=
  match (tile s a).stepOpen with
  | some st =>
    let t := Nat.max (leaveAt s a) st.start
    if t < st.start + st.n then some t else none
  | none => none

/-- Gang tiles, in a step. -/
def syncSink (a : Nat) (dsts : List Nat) : XSink where
  room s _ _ := (stepCycle s a).isSome
  give s _ b :=
    match stepCycle s a with
    | some t => portTakes (sendSync s a t dsts b) a t b
    | none => s

/-! ## Writing (R239 to R242, R253, R256, R384) -/

/-- A store of the move engine to a translated page: a PRIV store performs at its home; one to a PHASE page belongs to the record in
progress until it completes (R131, R289). -/
def xStore (s : State) (a ga n e x : Nat) (bad : Bool) : State :=
  if eClass e = 1 then
    modCore s a (fun c =>
      let c := coverOwn ga n { c with dirty := dropOwn c.dirty ga n, recUnpub := putOwn c.recUnpub ga n x }
      if bad then { c with ownPoison := addPoison c.ownPoison 32 ga n } else c)
  else
    let s := if bad then homePaste s a ga n (writeN [] 0 n x) [(0, n)] else homeWrite s a ga n x
    modCore s a (fun c => { overwrite ga n c with clean := delAt c.clean (ga / 128) })

/-- A store or atomic to a lost device or die raises 0x16 at the issuer, once for a record (R389, R390). -/
def lostStore (s : State) (a : Nat) (va : Word) : State :=
  let m := (tile s a).mov
  let src := trapSrc 3 (movPc m) (match m.busy with | some b => b.n | none => 0)
  if (core s a).async.any (fun q => q.cause == 0x16 && q.src == src) then s else raiseAsync s a 0x16 va src

/-- A piece of an element within one line: the offset of its first byte, its place, its bytes, its entry and its VA. -/
structure XPiece where
  off : Nat
  ga : Nat
  len : Nat
  e : Nat
  va : Word

/-- A core once the pieces are stored, as far as the limit of unpublished lines goes (R102). -/
def withLines (ps : List XPiece) (c : Core) : Core :=
  ps.foldl (fun c p => if eClass p.e = 1 then { c with recUnpub := insAt c.recUnpub p.ga 0 } else c) c

/-- Where n bytes of global memory lie, piece by piece at a line's end, every check of the write made and nothing written (R253,
R256); `ps` are pieces found before, of the same element. -/
def findPieces (cx : XCx) (va : Int) (off n : Nat) (s : State) (ps : List XPiece) : Nat → Except XStop (List XPiece) × State
  | 0 => (.ok ps, s)
  | k + 1 =>
    if n = 0 then (.ok ps, s)
    else if va < 0 then (.error (.fault 0x07 (vaWord va)), s)
    else
      let a := cx.a
      let w := va.toNat
      let h := hdr s a
      match translate s a true (ctxOf s a) w true with
      | (.fail, s) => (.error (.fault 0x07 (vaWord va)), s)
      | (.wprot, s) => (.error (.fault 0x08 (vaWord va)), s)
      | (.collapse _, s) => (.error (if cx.declined = some w then .fault 0x08 (vaWord va) else .collapse w), s)
      | (.ok ga e, s) =>
        let len := Nat.min n (128 - w % 128)
        if eClass e = 2 ∧ (h.killable ∨ !h.hcstores) then (.error (.fault 0x09 (vaWord va)), s)
        else if eClass e = 1 ∧ overLimit (withLines ps (core s a)) ga ∧ h.killable then (.error (.fault 0x13 (vaWord va)), s)
        else findPieces cx (va + len) (off + len) (n - len) s (ps ++ [⟨off, ga, len, e, vaWord va⟩]) k

/-- Stores one piece of an element whose bits `v` stand under `mask`: a lost device raises a trap, a peer without a route discards
it, and one beyond the limit of unpublished lines performs an implicit PHASE first (R253, R364, R390). -/
def writePiece (cx : XCx) (mask v : Nat) (bad : Bool) (x : XAcc) (p : XPiece) : XAcc :=
  let a := cx.a
  let s := x.s
  if lostAt s a p.ga then { x with s := lostStore s a p.va }
  else match unroutedAt s p.ga with
  | some dev => { x with s := discarded s dev }
  | none =>
    let m := mask / 2 ^ (8 * p.off) % 2 ^ (8 * p.len)
    let s := if eClass p.e = 1 ∧ overLimit (core s a) p.ga then dropClean (publish s a) a false else s
    let old := viewN s a p.ga p.len
    let s := xStore s a p.ga p.len p.e (old - (old &&& m) + v / 2 ^ (8 * p.off) % 2 ^ (8 * p.len)) bad
    let lo := (List.range (8 * p.len)).find? (fun i => m.testBit i)
    let n := ((List.range (8 * p.len)).filter (fun i => m.testBit i)).length
    { x with
      s := s
      writes := x.writes + 1
      spans := match lo, bad with
        | some b, false => x.spans ++ [(if eClass p.e = 1 then 2 else 1, 8 * p.ga + b, n)]
        | _, _ => x.spans }

/-- Where an element, or a scale byte, goes: a space, an address, a bit, bytes. -/
structure XPlace where
  pad : Bool
  addr : Int
  bit : Nat
  n : Nat

/-- The pieces of a place, none of them written; none for the scratchpad. -/
def placePieces (cx : XCx) (p : XPlace) (ps : List XPiece) (s : State) : Except XStop (List XPiece) × State :=
  if p.pad then (.ok [], s)
  else match findPieces cx p.addr 0 p.n s ps p.n with
    | (.ok l, s) => (.ok (l.drop ps.length), s)
    | r => r

/-- Puts w bits at a place whose pieces have been found. -/
def writeSpace (cx : XCx) (p : XPlace) (ps : List XPiece) (w v : Nat) (bad : Bool) (x : XAcc) : XAcc :=
  if p.pad then
    let a := p.addr.toNat
    let s := modTile x.s cx.a (fun t => { t with
      pad := putBits t.pad a p.bit w v
      padPoison := if bad then addPoison t.padPoison 8 a p.n else t.padPoison })
    { x with s := s, spans := if bad then x.spans else x.spans ++ [(0, 8 * a + p.bit, w)] }
  else
    let sh := 2 ^ p.bit
    ps.foldl (writePiece cx ((2 ^ w - 1) * sh) (v * sh) bad) x

/-- A run's writes have covered granules whole: their poison is cleared (R384). -/
def flushSpans (a : Nat) (x : XAcc) : XAcc :=
  let whole := fun (k size g : Nat) => (List.range (8 * size)).all (fun i =>
    x.spans.any (fun p => p.1 == k && decide (p.2.1 ≤ 8 * size * g + i) && decide (8 * size * g + i < p.2.1 + p.2.2)))
  let s := modTile x.s a (fun t => { t with
    padPoison := t.padPoison.filter (fun g => !whole 0 8 g)
    core := { t.core with ownPoison := t.core.ownPoison.filter (fun g => !whole 2 32 g) } })
  { x with s := { s with memPoison := s.memPoison.filter (fun g => !whole 1 32 g) }, spans := [] }

/-- What a writing record does with each element. -/
structure XTarget where
  /-- the element's place; none where it is not written -/
  place : XRun → Nat → Option XPlace
  /-- the place of its block's scale byte -/
  scale : XRun → Nat → Option (Bool × Int)
  /-- FILL's value -/
  fill : Option Nat

/-- Writes one element that has been read, with its block's scale where it carries one: nothing of it is written unless all of it can
be (R256). -/
def writeElem (cx : XCx) (t : XTarget) (r : XRun) (e : Nat) (p : XPlace) (el : XElem) (x : XAcc) : XAcc × Option XStop :=
  let q : XPlace := match t.scale r e with | some (pad, addr) => ⟨pad, addr, 0, 1⟩ | none => ⟨true, 0, 0, 0⟩
  match placePieces cx p [] x.s with
  | (.error st, s) => ({ x with s := s }, some st)
  | (.ok ps, s) =>
    match placePieces cx q ps s with
    | (.error st, s) => ({ x with s := s }, some st)
    | (.ok qs, s) =>
      let (v, y) := convertElem cx e el { x with s := s }
      let z := writeSpace cx p ps (fmtWidth cx.ofmt) v el.bad y
      let z := if (t.scale r e).isSome then writeSpace cx q qs 8 el.scale el.bad z else z
      (countElem cx v el z, none)

/-- Elements in traversal order, each read after every earlier one's write, but for those that `pre` holds as read before (R241). -/
def writeAll (cx : XCx) (t : XTarget) : List (Nat × XRun × Nat) → List XElem → XAcc → Nat → XAcc × Nat × Option XStop
  | [], _, x, i => (flushSpans cx.a x, i, none)
  | (i, r, e) :: es, pre, x, _ =>
    let x := if e = 0 then flushSpans cx.a x else x
    match t.place r e with
    | none => writeAll cx t es (pre.drop 1) (enterStep cx e x) (i + 1)
    | some p =>
      let got : Except XStop XElem × XAcc := match t.fill, pre with
        | some v, _ => (.ok ⟨v, 127, false, false, false, 0⟩, x)
        | none, el :: _ => (.ok el, x)
        | none, _ => readElem cx (srcAt r e) x
      match got with
      | (.error st, y) => (flushSpans cx.a { x with s := y.s }, i, some st)
      | (.ok el, y) =>
        match writeElem cx t r e p el y with
        | (z, some st) => (flushSpans cx.a z, i, some st)
        | (z, none) => writeAll cx t es (pre.drop 1) z (i + 1)

/-- Reads every source element that is to be written, before any write (R241). A read that faults or has to wait stops the record there
with nothing written: made again, it reads every one again, so that no element takes a value of the record's own (R256). -/
def readFirst (cx : XCx) (t : XTarget) : List (Nat × XRun × Nat) → XAcc → List XElem × XAcc × Option XStop
  | [], x => ([], x, none)
  | (_, r, e) :: es, x =>
    match (if (t.place r e).isSome then readElem cx (srcAt r e) x else (.ok ⟨0, 127, false, true, false, 0⟩, x) : Except XStop XElem × XAcc) with
    | (.error st, y) => ([], { x with s := y.s }, some st)
    | (.ok el, y) => let (l, z, st) := readFirst cx t es y; (el :: l, z, st)

/-! ## A record's part as a whole (R256) -/

/-- What a record in progress starts from. -/
def accOf (s : State) (a : Nat) : XAcc :=
  let m := (tile s a).mov
  match m.busy with
  | some b => ⟨s, m.seed, m.step, 0, (match b.crec with | some c => c.2 | none => []), 0, 0, []⟩
  | none => ⟨s, m.seed, m.step, 0, [], 0, 0, []⟩

/-- What a record writes counts with it, or in SPECWR at once when its run has been cancelled (R116). -/
def countWrites (s : State) (a n : Nat) : State :=
  if movStopped (tile s a).mov then countSpec s a n else modBusy s a (fun b => { b with writes := b.writes + n })

/-- The state the record leaves: done up to `i`, and why it stopped, or what it waits for to complete; a wait for a collapse holds the
quag count (R378). -/
def leaveRecord (a : Nat) (done : MovWait) (p : XAcc × Nat × Option XStop) : State :=
  let (x, i, st) := p
  let s := modMov x.s a (fun m => { m with seed := x.seed, step := x.step, resume := i })
  let wait := match st with
    | none => done
    | some (.collapse va) => .collapse va false
    | some _ => .resume
  let s := modBusy (countWrites s a x.writes) a (fun b => { b with
    bits := b.bits + x.bits
    flags := b.flags ||| x.flags
    crec := b.crec.map (fun c => (c.1, x.fp))
    wait := wait })
  match st with
  | some (.collapse _) => modTile s a holdCount
  | some (.fault c i) => movFault (match (tile s a).mov.busy with | some b => b.treg | none => 0) c i { s with cur := a }
  | _ => s

/-- The elements of a traversal with their indices, from the resume coordinate on. -/
def elsFrom (rs : List XRun) (skip : Nat) : List (Nat × XRun × Nat) :=
  let l := allEls rs
  (((List.range l.length).zip l).drop skip).map (fun e => (e.1, e.2.1, e.2.2))

end Sys2Proof.Machine
end

