-- ==== Sys2Proof/Machine/Move.lean ====
section
/-! DEFINITION. The move records: their own checks and what each does (R228 to R251, R367, R371). -/

namespace Sys2Proof.Machine

/-- The data records. -/
inductive XKind where
  | load | store | copy | fill | send | gather | scatter | coll | reds
  deriving DecidableEq, Repr

/-! ## Order 1 of R231: the record's bits and run parameters -/

/-- The peer of a step of COLL (R245). -/
def peerOfStep (r : XRec) (n : Nat) (lev : List Nat) : Nat :=
  let x := r.second.toNat
  let st := fun (l : Nat) => signed 12 (bits x (12 * l + 11) (12 * l))
  let i := fun (l : Nat) => ((lev.getD l 0 : Nat) : Int)
  (((bits x 63 48 : Nat) + i 0 * st 0 + i 1 * st 1 + i 2 * st 2 + i 3 * st 3 : Int) % (n : Int)).toNat

/-- Every step's indices. -/
def stepsOf (r : XRec) : List (List Nat) := tuples ((levels r).map (fun l => Nat.max l.2.1.toNat 1))

/-- Limits of COLL's dest (R229, R245, R367). -/
def collBad (s : State) (r : XRec) : Option XBad :=
  let d := destOf r.dest
  firstBad [
    badIf (r.dest.toNat % 64 != 0) (fieldBad 304),
    badIf (if d.space = 1 then d.modulus == 0 else d.modulus != 0) (fieldBad 310),
    badIf (decide (2 ≤ d.space) || (d.space == 0 && isSeq s.cur)) (fieldBad 330),
    badIf (d.mh != 0) (fieldBad 332),
    badIf (d.mw != 0) (fieldBad 335),
    badIf (d.space == 0 && d.tile != 0) (fieldBad 338),
    badIf (if d.space = 0 then d.die != 0 else decide (4 ≤ d.die)) (fieldBad 344),
    badIf (if d.space = 0 then d.dev != 0
      else (stepsOf r).any (fun l => bitOf ((d.dev + peerOfStep r d.modulus l) % 2 ^ 20) 19)) (fieldBad 347),
    badIf (d.here == (d.space == 1)) (fieldBad 367)]

/-- Limits of REDS' dest: a switch group, with bits 42 to 16 reserved (R229). -/
def groupBad (r : XRec) : Option XBad :=
  let x := r.dest.toNat
  firstBad [
    badIf (bits x 42 16 != 0) (fieldBad 320),
    badIf ((bitOf x 63 && bits x 62 43 != 0) || bitOf x 62) (fieldBad 347)]

/-- Contributor and weight (R243, R246). -/
def wqBad (r : XRec) : Option XBad :=
  firstBad [
    badIf (!r.fl.wq && r.second != 0) (fieldBad 112),
    badIf (bits r.second.toNat 63 32 != 0) (fieldBad 144)]

/-- Entry count, and the zero bits beside it (R230). -/
def listBad (r : XRec) : Option XBad :=
  firstBad [badIf (bits r.limit.toNat 11 8 != 0) (fieldBad 88), badIf (bits r.limit.toNat 31 16 == 0) (fieldBad 96)]

def bitsBad (k : XKind) (s : State) (r : XRec) : Option XBad :=
  let seq := isSeq s.cur
  firstBad ([flagsBad r, idleSteps r] ++ match k with
    | .load => [badIf seq (fieldBad 504), ofmtBad r]
    | .store => [badIf (r.second.toNat / 2 ^ 56 != 0) (fieldBad 168), badIf (r.dest.toNat / 2 ^ 56 != 0) (fieldBad 360)]
    | .copy => [badIf (ofmtField r != 0) (fieldBad 80)]
    | .fill => []
    | .send => [ofmtBad r, wqBad r, destBad r, syncBad s r]
    | .gather => [badIf seq (fieldBad 504), ofmtBad r, listBad r]
    | .scatter => [ofmtBad r, listBad r, destBad r, badIf (seq && r.fl.sync) (fieldBad 485)]
    | .coll => [ofmtBad r, badIf (permField r != 0) (fieldBad 88), collBad s r]
    | .reds => [ofmtBad r, badIf (permField r != 0) (fieldBad 88),
        badIf (r.fl.cvt && !([FP32, BF16, INT32].contains (ofmtField r))) (fieldBad 80),
        badIf (!r.fl.wq && r.second.toNat % 65536 != 0) (fieldBad 112), groupBad r])

/-! ## Orders 2 and 3: the records in the scratchpad -/

def pointerAddr (p : Word) : Nat := if isPad p then padPtr p else p.toNat

def listKind (k : XKind) : Bool := k == .gather || k == .scatter

/-- The least address of a list, as a fault. -/
def leastBad (cause : Nat) (as : List Nat) : Option XBad :=
  match as with
  | [] => none
  | a :: as => some (.at_ cause (BitVec.ofNat 64 (as.foldl Nat.min a)))

/-- Order 2: addresses that are not aligned. -/
def pointersAligned (k : XKind) (r : XRec) : Option XBad :=
  let as := [(pointerAddr r.shape, 64), (r.window.toNat, 64)] ++ (if r.fl.crec then [(r.crec.toNat, 64)] else [])
    ++ (if k = .copy then [(pointerAddr r.second, 64)] else if listKind k then [(pointerAddr r.second, 4)] else [])
  leastBad 0x05 ((as.filter (fun p => p.1 % p.2 != 0)).map (·.1))

/-- Bytes from an address that lie outside the scratchpad: the lowest. -/
def beyondPad (lim : Nat) (ps : List (Nat × Nat)) : Option XBad :=
  leastBad 0x04 (ps.filterMap (fun p => if lim < p.1 + p.2 ∧ p.2 ≠ 0 then some (Nat.max p.1 lim) else none))

/-- The entry count of a list (R230). -/
def entryCount (r : XRec) : Nat := bits r.limit.toNat 31 16

/-- Order 3. Of a list, whose length goes with the ndim that order 4 fetches, what any ndim needs: the rest is checked with the fetched
shape. -/
def pointersInside (k : XKind) (lim : Nat) (r : XRec) : Option XBad :=
  beyondPad lim ([(r.window.toNat, 128)] ++ (if isPad r.shape then [(padPtr r.shape, 256)] else [])
    ++ (if r.fl.crec then [(r.crec.toNat, 64)] else [])
    ++ (if k = .copy ∧ isPad r.second then [(padPtr r.second, 256)] else [])
    ++ (if listKind k ∧ isPad r.second then [(padPtr r.second, 4 * entryCount r)] else []))

/-! ## Order 4: the fetches (R234) -/

/-- Shape, window and destination shape as bytes, and whether one of them is poisoned. -/
structure XRaw where
  sh : Nat
  win : Nat
  dst : Option Nat
  bad : Bool

/-- A fetch that did not end: its fault, or its wait. -/
def fetchStop (st : XStop) : XBad := match st with | .fault c i => .at_ c i | _ => .hold

def fetchRecords (k : XKind) (r : XRec) (s : State) : Except XBad XRaw × State :=
  let a := s.cur
  match fetchAt s a r.shape 256 with
  | (.error st, s) => (.error (fetchStop st), s)
  | (.ok sh, s) =>
    let win := padRead s a r.window.toNat 128
    let bad := sh.bad || padPoisoned s a r.window.toNat 128
    if k = .copy then
      match fetchAt s a r.second 256 with
      | (.error st, s) => (.error (fetchStop st), s)
      | (.ok d, s) => (.ok ⟨sh.x, win, some d.x, bad || d.bad⟩, s)
    else (.ok ⟨sh.x, win, none, bad⟩, s)

def fetchedOf (w : XRaw) : XFetch :=
  let sh := shapeOf w.sh
  { sh := sh
    org := (List.range sh.ndim).map (fun d => recField w.win (4 * d) 4)
    ext := (List.range sh.ndim).map (fun d => recField w.win (64 + 4 * d) 4)
    dst := w.dst.map shapeOf
    bad := w.bad }

/-- The output format. -/
def outFmt (k : XKind) (r : XRec) (f : XFetch) : Nat :=
  if r.fl.cvt then (if k = .copy then (match f.dst with | some d => d.fmt | none => 0) else ofmtField r) else f.sh.fmt

/-- The permutation: identity but for LOAD, SEND and COPY. -/
def recPerm (k : XKind) (r : XRec) (n : Nat) : List Nat :=
  if k = .load ∨ k = .send ∨ k = .copy then permOf r n else List.range n

/-- The concatenation dimension L (R230). -/
def catDim (r : XRec) : Nat := bits r.limit.toNat 15 12

/-! ## Order 5: limits that depend on what was fetched -/

/-- Elements of one execution. -/
def execEls (r : XRec) (f : XFetch) : Nat := (f.ext.foldl (· * ·) 1) * (stepsOf r).length

/-- Order 5 (R231). A shape record with a reserved format code R25 faults with 0x0C, which order 6 gives: a record with CVT or BSCL, or a REDS,
does not fit such a format either, and takes 0x02 here first, by R231's order (DESIGN CHOICE, log entry 23). A LOAD or SEND with BSCL whose
TRN or permutation moves dimension 0 would send blocks that are none: R207 has no such burst sent and no rule names the fault, which is
taken to be one of this order's limits, as COPY's of an MX tensor is (DESIGN CHOICE, log entry 26). -/
def fetchedBad (k : XKind) (s : State) (r : XRec) (f : XFetch) : Option XBad :=
  let nd := f.sh.ndim
  let w := fmtWidth f.sh.fmt
  let x := match (tile s s.cur).mov.rep with | some q => firstBad [idleSteps q, stepDims q nd] | none => none
  firstBad ([
    if listKind k ∧ isPad r.second then beyondPad (hdr s s.cur).scratch [(padPtr r.second, 4 * nd * entryCount r)] else none,
    x, stepDims r nd,
    badIf (r.fl.trn && decide (nd < 2)) (fieldBad 489),
    badIf ((k == .load || k == .send || k == .copy) && permBad r nd) (fieldBad 88),
    badIf (r.fl.cvt && !cvtFmt f.sh.fmt) (fieldBad 416),
    badIf (r.fl.bscl && !isMX f.sh.fmt) (fieldBad 487),
    badIf ((k == .load || k == .send) && r.fl.bscl && (permOf r nd).headD 0 != 0) (fieldBad (if r.fl.trn then 489 else 88))] ++ match k with
    | .copy => (match f.dst with
      | some d => [
        badIf (d.ndim != nd) (fieldBad 112),
        badIf (if r.fl.cvt then !cvtFmt d.fmt else d.fmt != f.sh.fmt) (fieldBad 112),
        badIf (isMX f.sh.fmt && r.fl.trn) (fieldBad 489),
        badIf (isMX f.sh.fmt && permOf r nd != List.range nd) (fieldBad 88)]
      | none => [])
    | .gather => [badIf (decide (nd ≤ catDim r)) (fieldBad 92)]
    | .scatter => [badIf (decide (nd ≤ catDim r)) (fieldBad 92)]
    | .reds => [
        badIf (!r.fl.cvt && !([FP32, BF16, INT32, FIX64].contains f.sh.fmt)) (fieldBad 416),
        badIf (execEls r f * fmtWidth (outFmt k r f) % 32768 != 0) (fieldBad 396)]
    | .store => [
        badIf (!bitOf f.sh.base 63) (fieldBad 416),
        badIf (!isMX f.sh.fmt && r.second != 0) (fieldBad 112),
        badIf (decide (16 ≤ w) && r.dest.toNat % (w / 8) != 0) (.at_ 0x05 r.dest)]
    | .fill => [badIf (w != 0 && decide (2 ^ w ≤ r.second.toNat)) (fieldBad 112)]
    | _ => [])

/-! ## Orders 6 to 8 -/

/-- The runs of a SCATTER's source, or of a GATHER's destination, from the repetition's window origin: one block after another along
L (R244, R250). -/
def blockOrigin (r : XRec) (f : XFetch) (org : List Int) (i : Nat) : List Int :=
  let l := catDim r
  addAt org l (((i * f.ext.getD l 0 : Nat)) : Int)

/-- The runs whose source elements acceptance can judge: all but a GATHER's. -/
def knownRuns (k : XKind) (m : Mov) (r : XRec) (f : XFetch) : List XRun :=
  match k with
  | .gather => []
  | .scatter => (repetitions m).flatMap (fun o => (List.range (entryCount r)).flatMap (fun i =>
      let org := blockOrigin r f (repOrigin m.rep o.1 o.2 f) i
      boxRuns [] org org f.ext (List.range f.sh.ndim)))
  | _ => traverseAll m r f (recPerm k r f.sh.ndim)

/-- Every element of the runs lies within the extents. -/
def runsInside (sh : Shape) (dst : Bool) (rs : List XRun) : Bool :=
  rs.all (fun r => inExt sh (if dst then dstAt r 0 else srcAt r 0) && inExt sh (if dst then dstAt r (r.n - 1) else srcAt r (r.n - 1)))

/-- A window over an MX tensor begins and extends by whole blocks in dimension 0, at every step and repetition (R36, R233). -/
def mxWindow (m : Mov) (r : XRec) (f : XFetch) : Bool :=
  f.ext.getD 0 0 % 32 == 0 && (repetitions m).all (fun o =>
    (stepOrigins r (repOrigin m.rep o.1 o.2 f)).all (fun w => w.2.getD 0 0 % 32 == 0))

/-- A window field at or beyond ndim is not zero. -/
def windowReserved (w : XRaw) : Bool :=
  let nd := (shapeOf w.sh).ndim
  (List.range 16).any (fun d => decide (nd ≤ d) && (recField w.win (4 * d) 4 != 0 || recField w.win (64 + 4 * d) 4 != 0))

/-- Order 6 (R233). -/
def invalidBad (m : Mov) (r : XRec) (w : XRaw) (f : XFetch) (rs : List XRun) : Option XBad :=
  firstBad [
    badIf (!shapeOk w.sh || (!f.sh.zfill && !runsInside f.sh false rs)) (.at_ 0x0C r.shape),
    badIf (windowReserved w || (isMX f.sh.fmt && !mxWindow m r f)) (.at_ 0x0C (r.window.setWidth 64)),
    match w.dst, f.dst with
    | some x, some d => badIf (!shapeOk x || (!d.zfill && !runsInside d true rs)) (.at_ 0x0C r.second)
    | _, _ => none]

/-- Bytes of a side's elements, and of its scales where the record uses them, that lie in the scratchpad. -/
def padSpans (sh : Shape) (scales dst : Bool) (rs : List XRun) : List (Int × Nat) :=
  let cs := ((allEls rs).map (fun p => if dst then dstAt p.1 p.2 else srcAt p.1 p.2)).filter (inExt sh)
  (if bitOf sh.base 63 then cs.map (fun c => let (o, _, n) := elemOff sh c; (ptrAddr sh.base + o, n)) else [])
    ++ (if scales && bitOf sh.scale 63 then cs.map (fun c => (ptrAddr sh.scale + shapeScale sh c, 1)) else [])

/-- The record reads its source's scales: with an MX tensor's elements every record that reads them does, FILL alone reads none (R36,
R242). -/
def usesScales (k : XKind) (f : XFetch) : Bool := isMX f.sh.fmt && k != .fill

/-- Order 7. -/
def boundsBad (k : XKind) (lim : Nat) (f : XFetch) (rs : List XRun) : Option XBad :=
  let ps := padSpans f.sh (usesScales k f) false rs
    ++ (match f.dst with | some d => padSpans d (usesScales k f) true rs | none => [])
  let bad : List Int := ps.filterMap (fun (p : Int × Nat) => if p.1 < 0 then some p.1 else if (lim : Int) < p.1 + p.2 then some (max p.1 lim) else none)
  match bad with
  | [] => none
  | b :: bs => some (.at_ 0x04 (vaWord (bs.foldl min b)))

/-- Lowest and highest byte of a side's elements. -/
def sideSpan (sh : Shape) (dst : Bool) (rs : List XRun) : Option (Int × Int) :=
  let cs := ((allEls rs).map (fun p => if dst then dstAt p.1 p.2 else srcAt p.1 p.2)).filter (inExt sh)
  match cs.map (fun c => let (o, _, n) := elemOff sh c; (ptrAddr sh.base + o, n)) with
  | [] => none
  | p :: ps => some (ps.foldl (fun (q : Int × Int) e => (min q.1 e.1, max q.2 (e.1 + e.2 - 1))) (p.1, p.1 + p.2 - 1))

/-- The two sides of a COPY's execution share a byte (R241). -/
def overlaps (f : XFetch) (rs : List XRun) : Bool :=
  match f.dst with
  | none => false
  | some d =>
    bitOf f.sh.base 63 == bitOf d.base 63 &&
      (match sideSpan f.sh false rs, sideSpan d true rs with
       | some (a, b), some (c, e) => decide (a ≤ e) && decide (c ≤ b)
       | _, _ => false)

/-- The runs of the present repetition. -/
def runsNow (k : XKind) (m : Mov) (r : XRec) (f : XFetch) : List XRun :=
  traverse r m.rep m.o0 m.o1 f (recPerm k r f.sh.ndim)

/-- A permuted COPY over its own bytes reads everything first (R241). -/
def readsFirst (m : Mov) (r : XRec) (f : XFetch) : Bool :=
  permOf r f.sh.ndim != List.range f.sh.ndim && overlaps f (runsNow .copy m r f)

/-- Order 8 (R241). -/
def overlapBad (k : XKind) (m : Mov) (r : XRec) (f : XFetch) : Option XBad :=
  badIf (k == .copy && readsFirst m r f && decide (65536 * 8 < execEls r f * fmtWidth f.sh.fmt)) (.at_ 0x0B r.shape)

/-- Check 4 of a data record (R231); repetitions under XREP use what the first one fetched. -/
def dataChecks (k : XKind) (r : XRec) (s : State) : Except XBad (Option XFetch) × State :=
  let m := (tile s s.cur).mov
  let lim := (hdr s s.cur).scratch
  match firstBad [bitsBad k s r, pointersAligned k r, pointersInside k lim r] with
  | some b => (.error b, s)
  | none =>
    match m.rep, m.fetch with
    | some _, some f => (match overlapBad k m r f with | some b => .error b | none => .ok (some f), s)
    | _, _ =>
      match fetchRecords k r s with
      | (.error b, s) => (.error b, s)
      | (.ok w, s) =>
        let f := fetchedOf w
        match fetchedBad k s r f with
        | some b => (.error b, s)
        | none =>
          let rs := knownRuns k m r f
          match firstBad [invalidBad m r w f rs, boundsBad k lim f rs, overlapBad k m r f] with
          | some b => (.error b, s)
          | none => (.ok (some f), s)

/-! ## Bodies -/

def cxOf (k : XKind) (r : XRec) (f : XFetch) (s : State) : XCx where
  a := s.cur
  r := r
  f := f
  perm := recPerm k r f.sh.ndim
  ofmt := outFmt k r f
  scales := usesScales k f
  own := k == .load || k == .gather
  declined := match (tile s s.cur).mov.busy with
    | some b => (match b.wait with | .collapse va true => some va | _ => none)
    | none => none

/-- A data record: its checks, then its part with what it has fetched, from the resume coordinate on. -/
def dataRecord (k : XKind) (feats : List Nat) (ofmt : Bool) (r : XRec) (s : State)
    (body : XCx → Mov → State → State) : Out :=
  xrec (movFeats r feats) (movCheck3 s r false ofmt) r s (dataChecks k r) (fun s =>
    let m := (tile s s.cur).mov
    match m.fetch with
    | some f => body (cxOf k r f s) m s
    | none => s)

/-- Bursts of a window from the resume coordinate on. -/
def windowBursts (k : XKind) (cx : XCx) (m : Mov) : List XBurst :=
  cutRuns (burstMax (fmtWidth cx.ofmt) cx.r.fl.bscl) m.resume (runsNow k m cx.r cx.f) 0

/-- LOAD (R238). -/
def execLoad (r : XRec) (s : State) : Out :=
  dataRecord .load [] true r s fun cx m s =>
    leaveRecord cx.a .landing (sendAll cx 0 (ownSink cx.a) (windowBursts .load cx m) (accOf s cx.a) m.resume)

/-- The last burst carries the weight (R243). -/
def weighLast (w : Nat) : List XBurst → List XBurst
  | [] => []
  | [b] => [{ b with weight := w }]
  | b :: bs => b :: weighLast w bs

/-- The receivers of SEND and SCATTER. -/
def sendSink (a : Nat) (r : XRec) : XSink :=
  let d := destOf r.dest
  if r.fl.sync then syncSink a (rect d.die d.tile (d.mw + 1) (d.mh + 1)) else rectSink a d.here d.dev d.die d.tile d.mw d.mh

/-- SEND (R243). -/
def execSend (r : XRec) (s : State) : Out :=
  dataRecord .send [] true r s fun cx m s =>
    let x := r.second.toNat
    let bs := weighLast (if r.fl.wq then bits x 15 0 else 0) (windowBursts .send cx m)
    leaveRecord cx.a .port (sendAll cx (if r.fl.wq then bits x 31 16 else 0) (sendSink cx.a r) bs (accOf s cx.a) m.resume)

/-- An entry of the list, and whether it is poisoned: one indivisible read (R234, R244). -/
def readEntry (cx : XCx) (s : State) (i : Nat) : Except XStop (List Int × Bool) × State :=
  let nd := cx.f.sh.ndim
  match readSpace s cx.a (isPad cx.r.second) ((pointerAddr cx.r.second + 4 * nd * i : Nat) : Int) (4 * nd) with
  | (.error st, s) => (.error st, s)
  | (.ok q, s) => (.ok ((List.range nd).map (fun d => ((q.x / 2 ^ (32 * d) % 2 ^ 32 : Nat) : Int)), q.bad), s)

/-- An entry at which no MX block can begin: of a GATHER's source, and of what a SCATTER delivers with scales. R36 speaks of windows
and names no fault of a list entry: such an entry faults 0x0C when the record reaches it, with the blocks before it sent (DESIGN CHOICE,
log entry 26). -/
def entryOff (cx : XCx) (g : List Int) : Bool := isMX cx.f.sh.fmt && (cx.own || cx.r.fl.bscl) && g.getD 0 0 % 32 != 0

/-- Blocks in ascending order (R244); a poisoned entry poisons its block (R384). -/
def sendBlocks (cx : XCx) (k : XSink) (runs : Nat → List Int → List XRun) (blk : Nat) : List Nat → XAcc → Nat → XAcc × Nat × Option XStop
  | [], x, i => (x, i, none)
  | j :: js, x, i =>
    match readEntry cx x.s j with
    | (.error st, s) => ({ x with s := s }, i, some st)
    | (.ok (g, bad), s) =>
      if entryOff cx g then ({ x with s := s }, i, some (.fault 0x0C cx.r.shape))
      else
        let bs := cutRuns (burstMax (fmtWidth cx.ofmt) cx.r.fl.bscl) i (runs j g) (j * blk)
        match sendAll { cx with f := { cx.f with bad := cx.f.bad || bad } } 0 k bs { x with s := s } i with
        | (x, _, none) => sendBlocks cx k runs blk js x ((j + 1) * blk)
        | p => p

/-- Elements of one block. -/
def blockEls (f : XFetch) : Nat := f.ext.foldl (· * ·) 1

/-- The blocks from the resume coordinate on; none for an empty window. -/
def blocksFrom (r : XRec) (f : XFetch) (skip : Nat) : List Nat :=
  if blockEls f = 0 then [] else (List.range (entryCount r)).drop (skip / blockEls f)

/-- GATHER (R244). -/
def execGather (r : XRec) (s : State) : Out :=
  dataRecord .gather [] true r s fun cx m s =>
    let org := repOrigin m.rep m.o0 m.o1 cx.f
    let runs := fun (i : Nat) (g : List Int) => boxRuns [] g (blockOrigin r cx.f org i) cx.f.ext (List.range cx.f.sh.ndim)
    leaveRecord cx.a .landing (sendBlocks cx (ownSink cx.a) runs (blockEls cx.f) (blocksFrom r cx.f m.resume) (accOf s cx.a) m.resume)

/-- SCATTER (R244). -/
def execScatter (r : XRec) (s : State) : Out :=
  dataRecord .scatter [] true r s fun cx m s =>
    let org := repOrigin m.rep m.o0 m.o1 cx.f
    let runs := fun (i : Nat) (g : List Int) => boxRuns [] (blockOrigin r cx.f org i) g cx.f.ext (List.range cx.f.sh.ndim)
    leaveRecord cx.a .port (sendBlocks cx (sendSink cx.a r) runs (blockEls cx.f) (blocksFrom r cx.f m.resume) (accOf s cx.a) m.resume)

/-- The peer of each step (R245). -/
def collSink (a : Nat) (r : XRec) : XSink :=
  let d := destOf r.dest
  let gangPeer := fun (s : State) (xb : XBurst) => (gang s a).getD (peerOfStep r (gang s a).length xb.lev) a
  let devPeer := fun (xb : XBurst) => (d.dev + peerOfStep r d.modulus xb.lev) % 2 ^ 20
  let one := fun (s : State) (xb : XBurst) =>
    if d.space = 0 then
      let b := gangPeer s xb
      rectSink a true 0 (dieOf b) (b % 64) 0 0
    else rectSink a false (devPeer xb) d.die d.tile 0 0
  { room := fun s xb b => (one s xb).room s xb b
    give := fun s xb b => (one s xb).give s xb b }

/-- COLL (R245). -/
def execColl (r : XRec) (s : State) : Out :=
  dataRecord .coll [] true r s fun cx m s =>
    leaveRecord cx.a .port (sendAll cx 0 (collSink cx.a r) (windowBursts .coll cx m) (accOf s cx.a) m.resume)

/-- REDS (R246, R371). -/
def execReds (r : XRec) (s : State) : Out :=
  dataRecord .reds [9] true r s fun cx m s =>
    let x := r.second.toNat
    let w := fmtWidth cx.ofmt
    let bs := cutBlocks (burstMax w false) (32768 / w) (bits x 55 32) (bits x 63 56) (if r.fl.wq then bits x 15 0 else 0) m.resume
      (runsNow .reds m r cx.f)
    let k := groupSink cx.a (bitOf r.dest.toNat 63) (bits r.dest.toNat 62 43) (bits r.dest.toNat 15 0)
    leaveRecord cx.a .port (sendAll cx (bits x 31 16) k bs (accOf s cx.a) m.resume)

/-- Where an element of a shape lies. -/
def placeIn (sh : Shape) (base : Int) (pad : Bool) (c : List Int) : XPlace :=
  let (o, bit, n) := elemOff sh c
  ⟨pad, base + o, bit, n⟩

/-- The first element of an MX block. -/
def blockFirst (f : Nat) (c : List Int) : Bool := isMX f && c.getD 0 0 % 32 == 0

/-- STORE (R239). -/
def execStore (r : XRec) (s : State) : Out :=
  dataRecord .store [] false r s fun cx m s =>
    let sh := cx.f.sh
    let t : XTarget :=
      { place := fun q e => if inExt sh (srcAt q e) then some (placeIn sh r.dest.toNat false (srcAt q e)) else none
        scale := fun q e => if r.second != 0 && blockFirst sh.fmt (srcAt q e) then some (false, r.second.toNat + shapeScale sh (srcAt q e)) else none
        fill := none }
    leaveRecord cx.a .nothing (writeAll cx t (elsFrom (runsNow .store m r cx.f) m.resume) [] (accOf s cx.a) m.resume)

/-- A COPY writes with what it has read first, and keeps what is left of that where it stops part way (R241). -/
def writeRead (cx : XCx) (t : XTarget) (els : List (Nat × XRun × Nat)) (pre : List XElem) (x : XAcc) (skip : Nat) : State :=
  let (z, i, st) := writeAll cx t els pre x skip
  leaveRecord cx.a .nothing ({ z with s := modMov z.s cx.a (fun m => { m with pre := some (pre.drop (i - skip)) }) }, i, st)

/-- COPY (R240, R241). -/
def execCopy (r : XRec) (s : State) : Out :=
  dataRecord .copy [] false r s fun cx m s =>
    match cx.f.dst with
    | none => s
    | some d =>
      let t : XTarget :=
        { place := fun q e => if inExt d (dstAt q e) then some (placeIn d (ptrAddr d.base) (bitOf d.base 63) (dstAt q e)) else none
          scale := fun q e => if blockFirst d.fmt (dstAt q e) then some (bitOf d.scale 63, ptrAddr d.scale + shapeScale d (dstAt q e)) else none
          fill := none }
      let els := elsFrom (runsNow .copy m r cx.f) m.resume
      if readsFirst m r cx.f then
        match m.pre with
        | some pre => writeRead cx t els pre (accOf s cx.a) m.resume
        | none =>
          match readFirst cx t els (accOf s cx.a) with
          | (pre, x, none) => writeRead cx t els pre x m.resume
          | (_, x, st) => leaveRecord cx.a .nothing (x, m.resume, st)
      else leaveRecord cx.a .nothing (writeAll cx t els [] (accOf s cx.a) m.resume)

/-- FILL (R242). -/
def execFill (r : XRec) (s : State) : Out :=
  dataRecord .fill [] false r s fun cx m s =>
    let sh := cx.f.sh
    let t : XTarget :=
      { place := fun q e => if inExt sh (srcAt q e) then some (placeIn sh (ptrAddr sh.base) (bitOf sh.base 63) (srcAt q e)) else none
        scale := fun _ _ => none
        fill := some r.second.toNat }
    leaveRecord cx.a .nothing (writeAll cx t (elsFrom (runsNow .fill m r cx.f) m.resume) [] (accOf s cx.a) m.resume)

/-! ## The plain records (R250, R251) -/

def noChecks (s : State) : Except XBad (Option XFetch) × State := (.ok none, s)

/-- XNOP (R251). -/
def execXnop (r : XRec) (s : State) : Out := xrec [] (movCheck3 s r false false) r s noChecks finishX

/-- XEND (R251): every earlier record has completed when it is accepted. -/
def execXend (r : XRec) (s : State) : Out :=
  xrec [] (movCheck3 s r false false) r s noChecks (fun s => modBusy s s.cur (fun b => { b with last := true }))

/-- Records XREP cannot repeat (R250). -/
def unrepeatable (op : Nat) : Bool := [0x00, 0x01, 0x02, 0x15, 0x18, 0x19, 0x1A, 0x1B, 0x1C].contains op

def xrepChecks (r : XRec) (s : State) : Except XBad (Option XFetch) × State :=
  let pc := movPc (tile s s.cur).mov
  match idleSteps r with
  | some b => (.error b, s)
  | none =>
    if 256 ≤ pc + 1 ∨ unrepeatable (bits (fetchX s s.cur (pc + 1)) 511 504) then (.error .next, s) else (.ok none, s)

/-- XREP (R250): the next record repeats. -/
def execXrep (r : XRec) (s : State) : Out :=
  xrec [] (movCheck3 s r false false) r s (xrepChecks r) fun s =>
    let a := s.cur
    modMov (finishX s) a (fun m => { m with
      xl0 := r.trip.l0.toNat
      xl1 := r.trip.l1.toNat
      o0 := 0
      o1 := 0
      rep := if m.run.isSome then some r else none })

/-! ## SIGNAL (R247) -/

/-- What SEMINC's checks find at SIGNAL's semaphore (R127, R247). -/
inductive SignalAt where
  | ok (ga : Nat)
  /-- the page is to collapse first, or its collapse has been declined (R325) -/
  | collapse
  | bad (cause : Nat)
  deriving DecidableEq, Repr

def signalAt (r : XRec) (s : State) : SignalAt × State :=
  let a := s.cur
  if r.dest.toNat % 8 ≠ 0 then (.bad 0x05, s)
  else match translate s a true (ctxOf s a) r.dest.toNat true with
    | (.fail, s) => (.bad 0x07, s)
    | (.wprot, s) => (.bad 0x08, s)
    | (.collapse _, s) => (.collapse, s)
    | (.ok ga e, s) => (if eClass e ≠ 2 ∨ (hdr s a).killable then .bad 0x09 else .ok ga, s)

/-- Check 4 of SIGNAL (R75, R247, R260): a page that is to collapse is judged once it has. -/
def signalChecks (r : XRec) (s : State) : Except XBad (Option XFetch) × State :=
  if 4 < r.limit.toNat then (.error (fieldBad 80), s)
  else match signalAt r s with
    | (.bad c, s) => (.error (.at_ c r.dest), s)
    | (_, s) => (.ok none, s)

/-- A fault SIGNAL meets at its semaphore, or its wait for a collapse. -/
def signalStops (a : Nat) (st : XStop) (s : State) : State := leaveRecord a .nothing (accOf s a, 0, some st)

/-- The increment, after every check once more where the record is made again (R377). The tile's clean line of the semaphore goes, so that
a later load reads no value from before (R287, R288). -/
def signalBody (r : XRec) (s : State) : State :=
  let a := s.cur
  let va := r.dest.toNat
  let declined : Bool := match (tile s a).mov.busy with | some b => b.wait == .collapse va true | none => false
  match signalAt r s with
    | (.bad c, s) => signalStops a (.fault c r.dest) s
    | (.collapse, s) => signalStops a (if declined then .fault 0x08 r.dest else .collapse va) s
    | (.ok ga, s) =>
        let s := if lostAt s a ga then lostStore s a r.dest
          else match unroutedAt s ga with
            | some dev => discarded s dev
            | none => (homeAtomic (modCore s a (fun c => { c with clean := delAt c.clean (ga / 128) })) a ga true .add r.second.toNat 0).2
        modBusy (countWrites s a 1) a (fun b => { b with wait := .nothing })

/-- SIGNAL (R247). -/
def execSignal (r : XRec) (s : State) : Out :=
  xrec [] (movCheck3 s r false false) r s (signalChecks r) (signalBody r)

/-! ## Map records (R248) -/

/-- The map records fault on a sequencer (R367); a record pointer must name the scratchpad. -/
def mapPointer (s : State) (r : XRec) : Option XBad :=
  firstBad [
    badIf (isSeq s.cur) (fieldBad 504),
    badIf (!isPad r.shape || bits r.shape.toNat 62 20 != 0) (fieldBad 416)]

/-- Check 4 of MAPSET and MAPSWAP (R210, R231). -/
def mapChecks (r : XRec) (s : State) : Except XBad (Option XFetch) × State :=
  let a := s.cur
  let p := padPtr r.shape
  let lim := (hdr s a).scratch
  let m := (tile s a).pad
  match firstBad [
      mapPointer s r,
      badIf (p % 64 != 0) (.at_ 0x05 (BitVec.ofNat 64 p)),
      beyondPad lim [(p, 64)],
      beyondPad lim [(p, 64 + 16 * (mapAt m p).dims.length)],
      badIf (!mapOk lim (feature s 7) m p) (.at_ 0x0C r.shape)] with
  | some b => (.error b, s)
  | none => (.ok none, s)

/-- The change waits for a flit boundary (R225). -/
def mapBody (c : State → Reed → Reed) (s : State) : State :=
  let a := s.cur
  modBusy (modReed s a (c s)) a (fun b => { b with wait := .boundary })

def recordMap (r : XRec) (s : State) : MapRec := mapAt (tile s s.cur).pad (padPtr r.shape)

/-- MAPSET (R248). -/
def execMapset (r : XRec) (s : State) : Out :=
  xrec [] (movCheck3 s r true false) r s (mapChecks r)
    (mapBody (fun s q => { q with change := some (.set r.slot (recordMap r s)) }))

/-- MAPSWAP (R248): the shadow is written at once. -/
def execMapswap (r : XRec) (s : State) : Out :=
  xrec [] (movCheck3 s r true false) r s (mapChecks r)
    (mapBody (fun s q =>
      let sl := (lookup q.slots r.slot.val).getD (Slot.clear none)
      { q with
        slots := insAt q.slots r.slot.val { sl with shadow := some (recordMap r s) }
        change := some (.swap r.slot) }))

def seqChecks (s : State) : Except XBad (Option XFetch) × State :=
  if isSeq s.cur then (.error (fieldBad 504), s) else (.ok none, s)

/-- MAPCLR (R248). -/
def execMapclr (r : XRec) (s : State) : Out :=
  xrec [] (movCheck3 s r true false) r s seqChecks
    (mapBody (fun _ q => { q with change := some (.clear r.slot) }))

/-- MAPREADY (R248). -/
def execMapready (r : XRec) (s : State) : Out :=
  xrec [] (movCheck3 s r true false) r s seqChecks (fun s => modBusy s s.cur (fun b => { b with wait := .mapready r.slot }))

/-! ## WELLRD (R249) -/

/-- Records copied: those held, up to the limit. -/
def wellCount (r : XRec) (s : State) : Nat :=
  let n := (tile s s.cur).reed.well.length
  if r.limit = 0 then n else Nat.min r.limit.toNat n

def wellChecks (r : XRec) (s : State) : Except XBad (Option XFetch) × State :=
  match firstBad [
      badIf (decide (32 < r.limit.toNat)) (fieldBad 80),
      mapPointer s r,
      beyondPad (hdr s s.cur).scratch [(padPtr r.shape, 256 * wellCount r s)]] with
  | some b => (.error b, s)
  | none => (.ok none, s)

/-- Records are copied out oldest first, a poisoned payload as poisoned bytes (R249, R384). -/
def wellBody (r : XRec) (s : State) : State :=
  let a := s.cur
  let n := wellCount r s
  let rs := (tile s a).reed.well.take n
  let s := (rs.zip (List.range n)).foldl (fun s e =>
    let p := padPtr r.shape + 256 * e.2
    let s := padWrite s a p 256 (e.1 % 2 ^ 2048)
    if e.1 < 2 ^ 2048 then s else modTile s a (fun t => { t with padPoison := addPoison t.padPoison 8 (p + 128) 64 })) s
  modBusy (modReed s a (fun q => { q with well := q.well.drop n })) a (fun b => { b with bits := 8 * 256 * n })

/-- WELLRD (R249). -/
def execWellrd (r : XRec) (s : State) : Out :=
  xrec [] (movCheck3 s r false false) r s (wellChecks r) (wellBody r)

end Sys2Proof.Machine
end

