-- ==== Sys2Proof/Machine/Repairs.lean ====
section
/-! DEFINITION. The quag unit, integrity, spares, links, die resets, power and bring-up (R378 to R399). -/

namespace Sys2Proof.Machine

/-! ## The quag unit (R378 to R380) -/

/-- What an engine's unit is at: its index, and the pops it waits on as FIFO numbers from xm = 0 to vm = 5, with a flag for each pop bit. -/
structure EngineAt where
  busy : Bool
  unit : Nat
  first : Bool
  second : Bool
  push : Bool
  deriving DecidableEq, Repr

def EngineAt.waits (e : EngineAt) : Bool := e.first || e.second

def matAt (s : State) (a : Nat) : EngineAt :=
  let t := tile s a
  let m := t.mat
  let pc := match m.run with | some r => r.pc | none => 0
  let accepts := m.run.isSome && m.busy.isEmpty && m.push.isNone && !m.parked && !m.paused && !m.popped
  let w := fetchM s a pc
  ⟨matBusy m, if m.busy.isEmpty && m.push.isNone then pc else m.unit,
    accepts && bitOf w 503 && t.fifo.xm == 0, accepts && bitOf w 502 && t.fifo.vm == 0, m.push.isSome⟩

def movAt (s : State) (a : Nat) : EngineAt :=
  let t := tile s a
  let m := t.mov
  let pc := match m.run with | some r => r.pc | none => 0
  let accepts := m.run.isSome && m.busy.isNone && m.push.isNone && m.parked.isNone && !m.paused && !m.popped
  let w := fetchX s a pc
  ⟨movBusy m, if m.busy.isNone && m.push.isNone then pc else m.unit,
    accepts && bitOf w 503 && t.fifo.mx == 0, accepts && bitOf w 502 && t.fifo.vx == 0, m.push.isSome⟩

def vecAt (s : State) (a : Nat) : EngineAt :=
  let t := tile s a
  let v := t.vec
  let issues := v.run.isSome && v.push.isNone && !v.trapped && !v.draining
  let w := fetchV s a (vecPc v)
  ⟨vecBusy v, if v.push.isNone then vecPc v else v.unit,
    issues && bitOf w 123 && t.fifo.mv == 0, issues && bitOf w 122 && t.fifo.xv == 0, v.push.isSome⟩

/-- An engine's group of a type 0x21 record. -/
def engineGroup (e : EngineAt) : Nat :=
  if e.busy then 2 ^ 63 + natOf e.first * 2 ^ 62 + natOf e.second * 2 ^ 61 + natOf e.push * 2 ^ 60 + e.unit % 2 ^ 13 * 2 ^ 43 else 0

/-- A queue head's group. -/
def headGroup (q : List RunEntry) : Nat :=
  match q with
  | [] => 0
  | r :: _ => 2 ^ 63 + (match r.bank with | .none => 0 | .a => 1 | .b => 2) * 2 ^ 61 + r.tag % 16 * 2 ^ 57 + r.entry % 2 ^ 11 * 2 ^ 46

/-- The control core's wait code: a register that waits for a load or an atomic is no token register (R379). -/
def waitCode (c : Core) : Nat :=
  match c.wait with
  | .none => 0
  | .rdv _ => 1
  | .exit _ => 1
  | .hold => 1
  | .qask _ _ _ true => 1
  | .phase .exit => 1
  | .fork => 2
  | .mapwait _ => 3
  | .waittl _ _ _ => 4
  | .semwait _ _ _ _ => 5
  | .gbar _ => 6
  | .reg r => if tokPending c r then 7 else 8
  | _ => 8

/-- orphan and blocked (R380): per FIFO from xm, whether a unit waits to pop it, its producer, and that producer's queue. -/
def quagMarks (t : Tile) (x m v : EngineAt) : Nat :=
  let fifos : List (Bool × EngineAt × List RunEntry) :=
    [(m.first, x, t.mov.queue), (x.first, m, t.mat.queue), (v.second, x, t.mov.queue), (x.second, v, t.vec.queue),
     (v.first, m, t.mat.queue), (m.second, v, t.vec.queue)]
  (List.range 6).foldl (fun n i =>
    match fifos[i]? with
    | some (w, p, q) => n + natOf (w && !p.busy && q.isEmpty) * 2 ^ (63 - i) + natOf (w && p.waits) * 2 ^ (57 - i)
    | none => n) 0

/-- QUAG_EXPIRY (R379): the two records, and cause 0x11. -/
def execQuagExpiry (a : Nat) (s : State) : Out :=
  let t := tile s a
  let d := die s (dieOf a)
  match taskOf s a with
  | none => .next s
  | some k =>
    if d.quaglim = 0 ∨ t.reported ∨ t.stalled < 2 ^ d.quaglim then .next s
    else
      let x := movAt s a
      let m := matAt s a
      let v := vecAt s a
      let g0 := fun (type : Nat) => evHead type 0x11 (dieOf a) (tileIdOf a) k.ctx.id
      let s := writeRecord s [g0 0x20, t.core.pc, (fifoctReg t.fifo).toNat, (runqReg t).toNat, originGroup k, cycle s (dieOf a),
        quagMarks t x m v + waitCode t.core * 2 ^ 48, 2 ^ d.quaglim]
      let s := writeRecord s [g0 0x21, headGroup t.mov.queue, headGroup t.mat.queue, headGroup t.vec.queue,
        engineGroup x, engineGroup m, engineGroup v, 0]
      .next (raiseAsync (modTile s a (fun t => { t with reported := true })) a 0x11 0 (trapSrc 0 t.core.pc 0))

/-! ## Integrity (R383 to R385) -/

/-- SCRUB (R385): a line is read, and what is corrected is written back. -/
def execScrub (line : Nat) (corrects : Bool) (s : State) : Out :=
  if corrects then .next (bump s (homeDie (128 * line)) 0x05) else .next s

/-- Flit k of a burst is poisoned: a payload flit, or the scale flit after them. -/
def poisonBurst (k : Nat) (b : Burst) : Burst := { b with poison := if b.poison.contains k then b.poison else k :: b.poison }

/-- The place whose check failed is poisoned (R383 to R385): a whole line of memory; a granule of dirty L1 data. R384 has no reader of a
poisoned s or k register, whose value then stands free, nor of an instruction bank, a Reedbed or scheduler memory, which the error
leaves as they are (DESIGN CHOICE, log entry 14). -/
def poisonPlace (p : Place) (s : State) : State :=
  match p with
  | .mem pa => { s with memPoison := addPoison s.memPoison 32 (pa / 128 * 128) 128 }
  | .pad a addr => modTile s a (fun t => { t with padPoison := addPoison t.padPoison 8 addr 1 })
  | .l1 a ga => modCore s a (fun c => { c with ownPoison := addPoison c.ownPoison 32 ga 1 })
  | .vreg a g => modVec s a (fun v => { v with poison := if v.poison.contains g then v.poison else g :: v.poison })
  | .acc a k => modMat s a (fun m => { m with accPoison := if m.accPoison.contains k then m.accPoison else k :: m.accPoison })
  | .sreg a r => let (x, s) := draw s; modCore s a (fun c => if r = 0 ∨ 64 ≤ r then c else { c with s := setAt 0 c.s r x })
  | .kreg a r => let (x, s) := draw s; modVec s a (fun v => if r = 0 ∨ 16 ≤ r then v else { v with k := setAt 0 v.k r (BitVec.ofNat 32 x.toNat) })
  | .bank _ _ => s
  | .reed _ => s
  | .sched => s
  | .flit i k => { s with transit := s.transit.modify i (fun t => { t with b := poisonBurst k t.b }) }
  | .wait dev cls seq k => modDev s (fun v => { v with flows := v.flows.map (fun f =>
      if f.dev = dev ∧ f.cls = cls then { f with wait := f.wait.map (fun d => if d.seq = seq then { d with b := poisonBurst k d.b } else d) } else f) })
  | .port a behind k =>
    let hit := fun (p : Port) => { p with t := { p.t with b := poisonBurst k p.t.b } }
    modReed s a (fun r => if behind then { r with portNext := r.portNext.map hit } else { r with port := r.port.map hit })
  | .resp a k => modCore s a (fun c => { c with resp := c.resp.modify k (fun q => { q with bad := true }) })
  | .co a k => modCore s a (fun c => { c with co := c.co.modify k (fun q => { q with ans := q.ans.map (fun _ => none) }) })
  | .red g k => putGroup s g (let x := switchGroup s g; { x with accPoison := if x.accPoison.contains k then x.accPoison else k :: x.accPoison })
  | .redHeld g k => putGroup s g (let x := switchGroup s g
      { x with held := x.held.map (fun e => if e.1 = k ∧ e.2 < heldBad then (e.1, e.2 + heldBad) else e) })
  | .kept dev cls seq k => modDev s (fun v => { v with flows := v.flows.map (fun f =>
      if f.dev = dev ∧ f.cls = cls then { f with kept := f.kept.map (fun e => if e.1 = seq then (e.1, { e.2 with b := poisonBurst k e.2.b }) else e) } else f) })
  | .sync i => { s with sync := s.sync.modify i (fun f => { f with b := poisonBurst f.flit f.b }) }

/-- A clean line of an L1 is refetched: its error is no uncorrectable one (R385). -/
def refetches (p : Place) (s : State) : Bool :=
  match p with
  | .l1 a ga => !(List.range 32).any (fun i => (ownByte (core s a) (ga / 32 * 32 + i)).isSome)
  | _ => false

/-- The tile a place belongs to. -/
def placeAgent (p : Place) : Option Nat :=
  match p with
  | .pad a _ | .l1 a _ | .vreg a _ | .acc a _ | .sreg a _ | .kreg a _ | .bank a _ | .reed a | .port a _ _ | .resp a _ | .co a _ => some a
  | _ => none

/-- Group 2 of type 0x22: a PA, or a scratchpad address with bit 63 set (R381); for a place that has neither the group's value is not
given, and stands free (DESIGN CHOICE, log entry 14). -/
def placeAddr (p : Place) (s : State) : Nat × State :=
  match p with
  | .mem pa => (pa, s)
  | .l1 _ ga => (ga, s)
  | .pad _ addr => (2 ^ 63 + addr, s)
  | _ => let (x, s) := draw s; (x.toNat, s)

/-- UNCORRECTABLE_ERROR (R383): the new check is written poisoned, ECCUNC counts and type 0x22 is written; a clean L1 line is dropped
instead, to be fetched again (R385). A hand-over has a number of 1 to 6. -/
def execUncorrectableError (d handover : Nat) (p : Place) (s : State) : Out :=
  if handover = 0 ∨ 6 < handover then .next s
  else if refetches p s then
    match p with
    | .l1 a ga => .next (dropLine s a ga)
    | _ => .next s
  else
    let (addr, s) := placeAddr p (bump (poisonPlace p s) d 0x06)
    match placeAgent p with
    | some a => .next (event s 0x22 0 d (tileIdOf a) (ctxOf s a).id 0 addr 0 0 handover 0)
    | none => .next (event s 0x22 0 d 0 0 0 addr 0 0 handover 0)

/-- A hand-over's old check corrects an error: the corrected data replaces both, and ECCCOR counts one (R383, R385). -/
def correctError (d : Nat) (s : State) : State := if d < 5 then bump s d 0x05 else s

/-- CRC_RETRY (R385): the flit is resent from the retry copy. -/
def execCrcRetry (d : Nat) (s : State) : Out := .next (bump s d 0x07)

/-- TILE_OUT_OF_SERVICE (R386): its task ends abnormally, and a spare takes its place or the position is absent. -/
def execTileOutOfService (a : Nat) (s : State) : Out :=
  if 256 ≤ a then .next s
  else
    let d := dieOf a
    let s := match (tile s a).task with | some u => endTask s u 0x16 | none => s
    let n := (die s d).spares
    let s := event s 0x23 0 d (tileIdOf a) (ctxOf s a).id 0 (if n = 0 then 2 ^ 64 - 1 else 68 - n) 0 0 0 0
    .next (modDie s d (fun y => if n = 0 then { y with absent := y.absent ++ [a] } else { y with spares := n - 1, spared := y.spared ++ [a] }))

/-! ## Links (R388 to R390) -/

/-- LANE_FAILURE_RETRAIN (R388), while the link retrains too: a direction of an Oluic link takes one of its two spare lanes, a UALink port
goes to x2; the lanes of an Oluic link are not given, so the number now in use is a free value. -/
def execLaneFailureRetrain (o : LaneOf) (s : State) : Out :=
  let link := o.link
  let dir := o.dir
  let v := s.dev
  let again := fun (l : List Nat) => if l.contains link then l else l ++ [link]
  if v.failedLinks.contains link ∨ 2 ≤ dir then .next s
  else if link < 8 then
    let left := getAt 2 v.spareLanes (2 * link + dir)
    if left = 0 then .next (modDev s (fun v => { v with retraining := again v.retraining }))
    else
      let (x, s) := draw s
      .next (event (modDev s (fun v => { v with spareLanes := insAt v.spareLanes (2 * link + dir) (left - 1), retraining := again v.retraining }))
        0x25 0 4 0 0 0 link 0 0 (x.toNat % 2 ^ 16) 0)
  else if link < 24 then
    .next (event (modDev s (fun v => { v with halfWidth := again v.halfWidth, retraining := again v.retraining })) 0x25 0 4 0 0 0 link 0 0 2 0)
  else .next s

/-- AMOS.COs on their way whose sender's die and owner's die meet a test are answered without an old value (R110, R389, R392). -/
def abandonCo (p : Nat → Nat → Bool) (s : State) : State :=
  let lost := fun (t : Transit) => t.b.kind == 1 && decide (t.dst < 256) && p (endDie t.src) (endDie t.dst)
  (s.transit.filter lost).foldl (fun s t => answerCo s t.src t.inc t.co none) { s with transit := s.transit.filter (fun t => !lost t) }

/-- OLUIC_LINK_FAILURE (R389): traffic takes the other way round; accesses to a die that no path reaches fail as at a forced reset:
outstanding atomics are answered here, and loads as their responses fall due. -/
def execOluicLinkFailure (link : Nat) (s : State) : Out :=
  if 8 ≤ link ∨ s.dev.failedLinks.contains link then .next s
  else
    let s := modDev s (fun v => { v with failedLinks := v.failedLinks ++ [link], retraining := v.retraining.filter (· != link) })
    .next (event (abandonCo (fun d e => !diePath s d e) s) 0x26 0 4 0 0 0 link 0 0 0 0)

/-- DEVICE_PORT_FAILURE (R390): its flows move to other ports, or through another member; a device that nothing leads to any more has
no route. The request or acknowledgement that a collapse waits for from such a device goes unacknowledged from here, so that it can be
declared lost (R376). -/
def execDevicePortFailure (port : Nat) (s : State) : Out :=
  if port < 8 ∨ 32 ≤ port ∨ s.dev.failedLinks.contains port then .next s
  else
    let s := modDev s (fun v => { v with failedLinks := v.failedLinks ++ [port] })
    let gone := (s.collapses.flatMap (·.others)).filter (fun dev => routed s dev && !keepsRoute s dev && !s.dev.lost.contains dev)
    let s := gone.foldl (fun s dev => unacked s dev 1) s
    .next (event (modDev s (fun v => { v with routes := v.routes.filter (keepsRoute s) })) 0x26 0 4 0 0 0 port 0 0 0 0)

/-- DEVICE_DECLARED_LOST (R390): 2^32 cycles without an acknowledgement; what is retained for it is discarded and counted. -/
def execDeviceDeclaredLost (dev : Nat) (s : State) : Out :=
  let mine := s.dev.flows.filter (fun f => f.dev == dev)
  if s.dev.lost.contains dev ∨ !mine.any (fun f => match f.since with | some c => decide (c + 2 ^ 32 ≤ s.now) | none => false) then .next s
  else
    let gone := mine.flatMap (·.kept)
    let s := modDev s (fun v => { v with
      lost := v.lost ++ [dev]
      flows := v.flows.map (fun f => if f.dev = dev then { f with kept := [], since := none } else f)
      staging := v.staging - (gone.map (fun e => stagingOf s dev e.2.b)).sum })
    let s := event s 0x29 0 4 0 0 0 dev 0 0 0 0
    .next (gone.foldl (fun s _ => bump s 4 0x04) s)

/-- DEVICE_RESET (R390): both ends are reset, and the flow is established anew. -/
def execDeviceReset (dev : Nat) (s : State) : Out :=
  .next (modDev s (fun v => { v with
    lost := v.lost.filter (· != dev)
    staging := v.staging - ((v.flows.filter (fun f => f.dev == dev)).flatMap (·.kept) |>.map (fun e => stagingOf s dev e.2.b)).sum
    flows := v.flows.filter (fun f => f.dev != dev) }))

/-! ## Die resets (R392) -/

/-- A task of the die under reset ends abnormally, with no PHASE (R356, R392). -/
def resetTask (s : State) (u : Nat) : State :=
  match lookup s.tasks u with
  | none => s
  | some t =>
    let s := incDone (modTask s u (fun t => { t with state := .ended, saved := [], slots := [] })) t
    abnormal s t 0x16 0

/-- The response to an AMOS.CO as one that is late: its answer is on its way, or another device's is still to come (R110, R393). -/
def coLate (c : Core) : List Resp :=
  (c.co.filter (fun q => q.ans.isSome || q.dev.isSome)).map (fun _ => ⟨0, 0, 0, 5, 0, 0, false⟩)

/-- A tile after a reset of its die: its scratchpad and the context before it stay as they are (log entry 20). The landing port goes on
with the bursts it holds; responses to the tile's requests are late from here, and AMOS.CO's numbers go on (R392, R393). -/
def resetTile (t : Tile) : Tile :=
  { Tile.reset with
    core := { coreLeft t.core with late := t.core.late ++ t.core.resp ++ coLate t.core }
    reed := portOnly t.reed
    pad := t.pad
    padPoison := t.padPoison
    lastCtx := match t.task with | some _ => 0 | none => t.lastCtx }

/-- A graph of the die is discarded: its run is stranded and its triggers are dropped; with its last part the run ends (R356, R392). -/
def dropGraph (d : Nat) (s : State) (gid : Nat) : State :=
  let p := part s d gid
  let s := strand s 4 gid
  let s := (runOf s gid).pending.foldl (fun s _ => event s 0x06 0 d 0 (graphCtxId s d gid) 0 0 0 (gid * 2 ^ 48) 0 0) s
  let s := modRun s gid (fun r => { r with pending := [] })
  let s := { s with parts := delAt s.parts (partKey d gid) }
  if (partsOf s gid).isEmpty then
    let r := runOf s gid
    if r.phase = .stranded then
      let id := match p.bind (fun p => ctxAt s p.ctx) with | some c => c.id | none => 0
      modRun (event s 0x04 0x14 d 0 id 0 0 0 (gid * 2 ^ 48 + r.run % 2 ^ 48) 0 0) gid (fun r => { r with phase := .idle })
    else s
  else s

/-- Responses to the requests of a die's suspended tasks are late as well (R393). -/
def savedLate (d : Nat) (s : State) : State :=
  (s.tasks.filter (fun e => e.2.die == d)).foldl (fun s e => e.2.saved.foldl (fun s t =>
    modCore s t.1 (fun c => { c with late := c.late ++ t.2.core.resp ++ coLate t.2.core })) s) s

/-- A spare takes the place of a slice at a die's reset, of a spare's place too, while one of the die's two is left (R12, R387). -/
def substituteSlice (d : Nat) (s : State) (slice : Nat) : State :=
  if 64 ≤ slice ∨ 2 ≤ (die s d).sliceSub.length then s
  else event (modDie s d (fun y => { y with sliceSub := y.sliceSub ++ [slice] })) 0x24 0 d 0 0 0 slice 0 0 0 0

/-- The tiles of a die leave what they run: collapses go on without their accesses, and dirty PRIV lines go home, where unpublished
stores are lost (R285, R286, R376, R392). -/
def leaveTiles (d : Nat) (s : State) : State :=
  (s.tiles.filter (fun e => decide (e.1 < 256) && dieOf e.1 == d)).foldl (fun s e => writeBack (leaveCollapses s e.1 (ctxOf s e.1)) e.1) s

/-- A compute die's reset: tasks, graphs, queues, replicas, tiles, registers and failed slices; the incarnation (R387, R392, R393). It does
not wait for a done increment to a READDUP page whose set cannot be reached: that one is not made, and reported (R405; DESIGN CHOICE,
log entry 19). -/
def resetDie (d : Nat) (forced : Bool) (slices : List Nat) (s : State) : State :=
  let waits := s.awaited
  let s := leaveTiles d (savedLate d (event s 0x27 0 d 0 0 0 (natOf forced) 0 0 0 0))
  let us := (s.tasks.filter (fun e => e.2.die == d && e.2.state != .ended)).map (·.1)
  let gids := (s.parts.filter (fun e => e.1 / 65536 == d)).map (fun e => e.1 % 65536)
  let s := us.foldl resetTask s
  let s := gids.foldl (dropGraph d) s
  let inc := ((die s d).incarn + 1) % 2 ^ 16
  let s := { s with
    tiles := s.tiles.map (fun e => if e.1 < 256 ∧ dieOf e.1 = d then (e.1, resetTile e.2) else e)
    replicas := s.replicas.filterMap (fun e =>
      if homeDie (128 * e.1) = d then none
      else
        let m := e.2 - natOf (bitOf e.2 d) * 2 ^ d
        if m = 0 then none else some (e.1, m))
    placed := s.placed.filter (fun e => homeDie (128 * e.1) != d)
    access := s.access.filter (fun e => homeDie (128 * e.1) != d)
    regions := s.regions.filter (fun e => homeDie (2 ^ 21 * e.1) != d)
    waits := s.waits.filter (fun w => dieOf w.agent != d)
    awaited := waits }
  let s := modDie s d (fun y => { Die.reset d with
    up := y.up
    incarn := inc
    base := s.now
    epochAt := s.now
    counters := y.counters
    free64 := y.free64
    free2m := y.free2m
    sliceSub := y.sliceSub
    spared := y.spared
    absent := y.absent
    spares := y.spares
    untrained := y.untrained })
  event (slices.foldl (substituteSlice d) s) 0x28 0 d 0 0 0 inc 0 0 0 0

/-- DIE_RESET (R392): quiesced, with the failed slices a spare takes the place of. -/
def execDieReset (o : DieReset) (s : State) : Out := if o.d < 4 then .next (resetDie o.d false o.slices s) else .next s

/-- Loads and atomics of other dies' tiles that a die has not answered are abandoned (R392). -/
def abandonLoads (d : Nat) (a : Nat) (c : Core) : Core :=
  { c with resp := c.resp.map (fun q => if q.home = d ∧ dieOf a ≠ d then { q with home := 6 } else q) }

/-- An AMOS.CO that a tile's landing port holds is answered unperformed. -/
def abandonPort (s : State) (a : Nat) : State :=
  let r := (tile s a).reed
  let atomic : Option Port → Bool := fun p => match p with | some p => p.t.b.kind == 1 | none => false
  let tell := fun (s : State) (p : Option Port) => match p with | some p => (if p.t.b.kind = 1 then answerCo s p.t.src p.t.inc p.t.co none else s) | none => s
  if atomic r.port || atomic r.portNext then
    let s := tell (tell s r.port) r.portNext
    modReed s a (fun r => if atomic r.port then { r with port := if atomic r.portNext then none else r.portNext, portNext := none } else { r with portNext := none })
  else s

/-- The SEMWAITs of other dies' agents that homes on a die hold are abandoned: each raises trap 0x16 asynchronously, as one that issues to a
lost home does, and is asked again by the word, which goes on waiting (R392; DESIGN CHOICE, log entry 40). -/
def abandonWaits (d : Nat) (s : State) : State :=
  let gone := fun (w : HeldWait) => isLocal w.ga && homeDie w.ga == d && dieOf w.agent != d
  let lost := s.waits.filter gone
  let va := fun (s : State) (w : HeldWait) => match (core s w.agent).wait with | .semwait va _ _ _ => va | _ => 0
  lost.foldl (fun s w => raiseLost s w.agent (va s w)) { s with waits := s.waits.filter (fun w => !gone w) }

/-- A forced reset (R392): what other dies' agents have asked of the die and it has not performed is abandoned: AMOS.COs are answered
without an old value, loads and atomics return poisoned data, in suspended tasks' saved cores too, and held SEMWAITs are forgotten. Dirty
lines that cannot be read are poisoned. A store performs as it issues, so none is outstanding. -/
def forceReset (d : Nat) (slices lines : List Nat) (s : State) : State :=
  let s := abandonWaits d (abandonCo (fun _ e => e == d) s)
  let s := ((s.tiles.map (·.1)).filter (fun a => a < 256 && dieOf a == d)).foldl abandonPort s
  let s := { s with
    tiles := s.tiles.map (fun e => (e.1, { e.2 with core := abandonLoads d e.1 e.2.core }))
    tasks := s.tasks.map (fun e => (e.1, { e.2 with saved := e.2.saved.map (fun t => (t.1, { t.2 with core := abandonLoads d t.1 t.2.core })) }))
    memPoison := (lines.filter (fun l => isLocal (128 * l) && homeDie (128 * l) == d)).foldl (fun ps l => addPoison ps 32 (128 * l) 128) s.memPoison }
  resetDie d true slices s

/-- DIE_RESET_FORCED (R392), with the failed slices, and the dirty lines that cannot be read. -/
def execDieResetForced (o : ForcedReset) (s : State) : Out :=
  if o.d < 4 then .next (forceReset o.d o.slices o.lines s) else .next s

/-- No other die has a path to this one (R389). -/
def unreachable (s : State) (d : Nat) : Bool := !(List.range 5).any (fun e => e != d && diePath s e d)

/-- LINK_RETRAINING_COMPLETE (R388, R389): the waiting flits go on in their order. A failed Oluic link works again, and a compute die
that a path reaches again is given a forced reset. -/
def execLinkRetrainingComplete (link : Nat) (s : State) : Out :=
  let s1 := modDev s (fun v => { v with
    retraining := v.retraining.filter (· != link)
    failedLinks := if link < 8 then v.failedLinks.filter (· != link) else v.failedLinks })
  .next (((List.range 4).filter (fun d => unreachable s d && !unreachable s1 d)).foldl (fun s d => forceReset d [] [] s) s1)

/-! ## Clock, power and bring-up (R396, R398, R399) -/

/-- The four clocks, a step apart (R399). -/
def clockBelow (mhz : Nat) : Option Nat := match mhz with | 3600 => some 3000 | 3000 => some 2400 | 2400 => some 1800 | _ => none
def clockAbove (mhz : Nat) : Option Nat := match mhz with | 1800 => some 2400 | 2400 => some 3000 | 3000 => some 3600 | _ => none

/-- The sensors: dies past their thermal limit, and whether the module is past its power cap (R399). -/
def setSensors (hot : List Nat) (cap : Bool) (s : State) : State :=
  let clear := fun (v : Dev) => v.hot.isEmpty && !v.cap
  modDev s (fun v => { v with hot := hot, cap := cap, clearAt := if hot.isEmpty && !cap && !clear v then s.now else v.clearAt })

/-- CLOCK_CHANGE (R399): a step down while the limit its reason names is passed; a step up once both have been clear for 2^30 cycles. -/
def execClockChange (mhz : Nat) (power : Bool) (s : State) : Out :=
  let v := s.dev
  let down := clockBelow v.mhz == some mhz && (if power then v.cap else !v.hot.isEmpty)
  let up := clockAbove v.mhz == some mhz && v.hot.isEmpty && !v.cap && decide (v.clearAt + 2 ^ 30 ≤ s.now)
  if down ∨ up then
    .next (event (modDev s (fun v => { v with mhz := mhz })) 0x2A 0 4 0 0 0 mhz 0 0 (natOf power) 0)
  else .next s

/-- D3HOT_ENTRY (R399): only with no run, task or collective kernel in progress; L2 is written back. -/
def execD3hotEntry (s : State) : Out :=
  if s.dev.stage = .up ∧ s.tasks.all (fun e => e.2.state == .ended) ∧ s.runs.all (fun r => r.2.phase == .idle) then
    .next (modDev { s with replicas := [], placed := [] } (fun v => { v with d3hot := true }))
  else .next s

/-- D0_RETURN (R399): from step 4 of R398, the links and the host port trained again, as PCIe only without feature 13 (R394). -/
def execD0Return (s : State) : Out :=
  if s.dev.d3hot then .next (modDev s (fun v => { v with d3hot := false, retraining := [], cxl := v.cxl && feature s 13 })) else .next s

/-- An image passes the checks of R396: its digest, the signature over that digest under the fused key, the fused minimum version. -/
def imageOk (v : Dev) (i : Nat) (f : FlashImage) : Bool :=
  f.digest == Config.sha3_512 f.bytes && Config.sha3_512 f.key == v.fusedKey && Config.mldsaVerify f.key f.digest f.signature
    && decide (v.fusedMin.getD i 0 ≤ f.version)

/-- All four images pass (R396). -/
def imagesOk (v : Dev) (fs : List FlashImage) : Bool :=
  fs.length == 4 && (List.range 4).all (fun i => match fs[i]? with | some f => imageOk v i f | none => false)

/-- A die at bring-up: one with an untrained channel is not started (R398). -/
def bringDie (b : BringUp) (s : State) (d : Nat) : State :=
  let bad := (b.untrained.filter (fun u => u.1 == d)).map (·.2)
  modDie s d (fun y => { y with
    up := bad.isEmpty
    incarn := 0
    base := s.now
    epochAt := s.now
    counters := []
    untrained := bad
    sliceSub := ((b.slices.filter (fun q => q.1 == d && decide (q.2 < 64))).map (·.2)).take 2
    absent := b.absent.filter (fun a => dieOf a == d)
    spared := b.spared.filter (fun a => dieOf a == d)
    spares := 4 - (b.spared.filter (fun a => dieOf a == d)).length
    replctl := BitVec.ofNat 64 (replctlOf b.replctl.toNat) })

/-- Lanes that the fused maps replaced leave fewer spares in their direction (R388, R398). -/
def spareLanesOf (lanes : List Nat) : SMap Nat := lanes.foldl (fun m k => insAt m k (getAt 2 m k - 1)) []

/-- POWER_ON_BRING_UP (R396, R398): an image that fails leaves the device in bring-up until the next power-on. A DEVID with bit 19 set is
reserved (R364), and nothing is said of an image that holds one: its low 19 bits are taken (DESIGN CHOICE, log entry 32). -/
def execPowerOnBringUp (b : BringUp) (s : State) : Out :=
  if s.dev.stage ≠ .off then .next s
  else if !imagesOk s.dev b.images then .next (modDev s (fun v => { v with stage := .failed }))
  else
    let s := (List.range 5).foldl (bringDie b) s
    let s := (List.range 5).foldl (fun s d => match b.sluice[d]? with | some w => sluiceWrite s d w | none => s) s
    .next (modDev s (fun v => { v with
      stage := .up
      devid := b.devid % 2 ^ 19
      cxl := b.cxl && feature s 13
      firmware := b.images.map (·.bytes)
      routes := b.routes
      ports := b.ports
      alternates := b.alternates
      spareLanes := spareLanesOf b.lanes
      evheld := b.untrained.map (fun u => [BitVec.ofNat 64 (evHead 0x2B 0 u.1 0 0), 0, BitVec.ofNat 64 u.2, 0, 0, 0, 0, 0]) }))

end Sys2Proof.Machine
end

