-- ==== Sys2Proof/Machine/VectorLanes.lean ====
section
/-! DEFINITION. Vector slot: scratchpad access, lane movement, masks, integers (R161 to R164, R168 to R170, R176). -/

namespace Sys2Proof.Machine

/-- VNOP. -/
def execVnop (o : VNone) (s : State) : Out := vslot [] [] o.c s fun s => ⟨s, none⟩

/-! ## Scratchpad access (R161 to R164, R384) -/

/-- k[vc] + X(imm36), an exact integer; k is read unsigned. -/
def vecBase (v : Vec) (k : Nat) (off : BitVec 36) : Int := ((rdK v k).toNat : Int) + off.toInt

/-- An access of one lane: first byte address and number of bytes. -/
structure LaneAccess where
  addr : Int
  n : Nat

/-- The checks of R164 over the active lanes, then poison where the access reads (R384): the trap and the failing address.
Each check goes over all the active lanes before the next one does (DESIGN CHOICE, log entry 23). -/
def memCheck (s : State) (mask : Word) (word reads : Bool) (f : Nat → LaneAccess) : Option (Nat × Word) :=
  let ls := lanesOf mask
  let info := fun (i : Nat) => BitVec.ofInt 64 (f i).addr
  match ls.find? (fun i => word && (f i).addr % 4 != 0) with
  | some i => some (0x05, info i)
  | none =>
    match ls.find? (fun i => decide ((f i).addr < 0) || decide (((hdr s s.cur).scratch : Int) < (f i).addr + (f i).n)) with
    | some i => some (0x04, info i)
    | none =>
      match ls.find? (fun i => reads && padPoisoned s s.cur (f i).addr.toNat (f i).n) with
      | some i => some (0x16, info i)
      | none => none

/-- Lane i of VLD and VST. -/
def unitLane (v : Vec) (o : VMem) (i : Nat) : LaneAccess := ⟨vecBase v o.k o.off + 4 * i, 4⟩

/-- Lane i of VLDX and VSTX. -/
def indexLane (v : Vec) (o : VIndexed) (i : Nat) : LaneAccess := ⟨vecBase v o.k o.off + (rdV v o.idx i).toNat, 4⟩

/-- Bits of an element of the narrow forms. -/
def nbits (w : NWidth) : Nat := match w with | .n8 => 8 | .n4 => 4 | .n6 => 6

/-- The bytes element i of a dense run touches. -/
def narrowLane (v : Vec) (o : VNarrow) (i : Nat) : LaneAccess :=
  let w := nbits o.w
  ⟨vecBase v o.k o.off + (i * w / 8 : Nat), (i * w + w - 1) / 8 - i * w / 8 + 1⟩

/-- The word a lane reads. -/
def laneWord (s : State) (f : Nat → LaneAccess) (i : Nat) : Lane :=
  BitVec.ofNat 32 (padRead s s.cur (f i).addr.toNat 4)

/-- A vector load of words: latency, destination, mask. -/
def loadWords (lat d : Nat) (mask : Fin 8) (f : Vec → Nat → LaneAccess) (s : State) : Issued :=
  let v := (tile s s.cur).vec
  ⟨s, some (lanesFlight v lat d (rdM v mask) (fun i => (laneWord s (f v) i, 0)))⟩

/-- A vector store of words, ascending lanes: a higher lane's word stays (R162). -/
def storeWords (r : Nat) (mask : Fin 8) (f : Vec → Nat → LaneAccess) (s : State) : Issued :=
  let v := (tile s s.cur).vec
  ⟨(lanesOf (rdM v mask)).foldl (fun s i => padWrite s s.cur (f v i).addr.toNat 4 (rdV v r i).toNat) s, none⟩

/-- Granules of the scratchpad that words at these addresses cover whole lose their poison (R384). -/
def clearWords (as : List Nat) (t : Tile) : Tile :=
  let covers := fun (b : Nat) => as.any (fun a => decide (a ≤ b) && decide (b < a + 4))
  { t with padPoison := t.padPoison.filter (fun g => !(List.range 8).all (fun j => covers (8 * g + j))) }

/-- VST: no write of a row is split, so the lanes' words cover granules together (R154, R384). -/
def storeRow (r : Nat) (mask : Fin 8) (f : Vec → Nat → LaneAccess) (s : State) : Issued :=
  let v := (tile s s.cur).vec
  let x := storeWords r mask f s
  { x with s := modTile x.s s.cur (clearWords ((lanesOf (rdM v mask)).map (fun i => (f v i).addr.toNat))) }

/-- The mask register a vector slot names, as it stands. -/
def maskNow (s : State) (m : Fin 8) : Word := rdM (tile s s.cur).vec m

def execVld (o : VMem) (s : State) : Out :=
  vslotX [] [o.r] none o.c s
    (fun s => memCheck s (maskNow s o.mask) true true (unitLane (tile s s.cur).vec o))
    (loadWords 6 o.r o.mask (fun v => unitLane v o))

def execVst (o : VMem) (s : State) : Out :=
  vslotX [] [o.r] none o.c s
    (fun s => memCheck s (maskNow s o.mask) true false (unitLane (tile s s.cur).vec o))
    (storeRow o.r o.mask (fun v => unitLane v o))

def execVldx (o : VIndexed) (s : State) : Out :=
  vslotX [] [o.r, o.idx] none o.c s
    (fun s => memCheck s (maskNow s o.mask) true true (indexLane (tile s s.cur).vec o))
    (loadWords 8 o.r o.mask (fun v => indexLane v o))

def execVstx (o : VIndexed) (s : State) : Out :=
  vslotX [] [o.r, o.idx] none o.c s
    (fun s => memCheck s (maskNow s o.mask) true false (indexLane (tile s s.cur).vec o))
    (storeWords o.r o.mask (fun v => indexLane v o))

/-- Element i of the dense run at a base (R26). -/
def narrowCode (s : State) (o : VNarrow) (i : Nat) : Nat :=
  let l := narrowLane (tile s s.cur).vec o i
  padRead s s.cur l.addr.toNat l.n / 2 ^ (i * nbits o.w % 8) % 2 ^ nbits o.w

/-- VLDB (R163). -/
def execVldb (o : VNarrow) (s : State) : Out :=
  vslotX [] [o.r] none o.c s
    (fun s => memCheck s (maskNow s o.mask) false true (narrowLane (tile s s.cur).vec o))
    fun s =>
      let v := (tile s s.cur).vec
      ⟨s, some (lanesFlight v 6 o.r (rdM v o.mask) (fun i => (BitVec.ofNat 32 (narrowCode s o i), 0)))⟩

/-- Element i of the run takes a lane's low bits; the bits around it keep their values (R163). -/
def narrowPut (o : VNarrow) (s : State) (i : Nat) : State :=
  let v := (tile s s.cur).vec
  let l := narrowLane v o i
  let w := nbits o.w
  let sh := i * w % 8
  let old := padRead s s.cur l.addr.toNat l.n
  let new := old - old / 2 ^ sh % 2 ^ w * 2 ^ sh + (rdV v o.r i).toNat % 2 ^ w * 2 ^ sh
  modTile s s.cur (fun t => { t with pad := writeN t.pad l.addr.toNat l.n new })

/-- The poison a narrow store clears: granules whose every byte its elements cover whole (R384). -/
def narrowClear (o : VNarrow) (s : State) : State :=
  let v := (tile s s.cur).vec
  let ls := lanesOf (rdM v o.mask)
  let w := nbits o.w
  let base := vecBase v o.k o.off
  let covers := fun (b : Nat) => (List.range 8).all (fun j =>
    ls.any (fun i => decide (base * 8 + (i * w : Nat) ≤ (b * 8 + j : Nat)) && decide (((b * 8 + j : Nat) : Int) < base * 8 + (i * w + w : Nat))))
  modTile s s.cur (fun t => { t with padPoison := t.padPoison.filter (fun g => !(List.range 8).all (fun j => covers (8 * g + j))) })

/-- Narrow VST (R163). -/
def execVstN (o : VNarrow) (s : State) : Out :=
  vslotX [] [o.r] none o.c s
    (fun s => memCheck s (maskNow s o.mask) false false (narrowLane (tile s s.cur).vec o))
    fun s => ⟨(lanesOf (maskNow s o.mask)).foldl (narrowPut o) (narrowClear o s), none⟩

/-! ## Lane movement (R176) -/

def execVperm (o : VRRR) (s : State) : Out :=
  laneSlot [] [o.a, o.b] o.c 3 o.d o.mask s fun v i => (rdV v o.a ((rdV v o.b i).toNat % 64), 0)

def execVrot (o : VLaneImm) (s : State) : Out :=
  laneSlot [] [o.a] o.c 3 o.d o.mask s fun v i => (rdV v o.a ((i + o.n.val) % 64), 0)

def execVbcast (o : VLaneImm) (s : State) : Out :=
  laneSlot [] [o.a] o.c 3 o.d o.mask s fun v _ => (rdV v o.a o.n, 0)

def execVbcastK (o : VBcastK) (s : State) : Out :=
  laneSlot [] [] o.c 3 o.d o.mask s fun v _ => (rdK v o.k, 0)

/-! ## Masks (R170) -/

/-- A mask operation: every bit of the destination. -/
def maskOp (c : VCtl) (d : Nat) (s : State) (f : Vec → Word) : Out :=
  vslot [] [] c s fun s =>
    let v := (tile s s.cur).vec
    ⟨s, some (maskFlight v 2 d (BitVec.allOnes 64) (f v))⟩

def execMand (o : MaskRRR) (s : State) : Out := maskOp o.c o.d s fun v => rdM v o.a &&& rdM v o.b

def execMor (o : MaskRRR) (s : State) : Out := maskOp o.c o.d s fun v => rdM v o.a ||| rdM v o.b

def execMxor (o : MaskRRR) (s : State) : Out := maskOp o.c o.d s fun v => rdM v o.a ^^^ rdM v o.b

def execMnot (o : MaskRR) (s : State) : Out := maskOp o.c o.d s fun v => ~~~(rdM v o.a)

/-! ## Integers (R169, R170) -/

/-- A two-operand integer instruction. -/
def intOp (lat : Nat) (o : VInt2) (s : State) (f : Lane → Lane → Lane) : Out :=
  laneSlot [] (o.a.val :: srcRegs o.b) o.c lat o.d o.mask s fun v i => (f (rdV v o.a i) (srcLane v true o.b i), 0)

def execViadd (o : VInt2) (s : State) : Out := intOp 2 o s fun x y => x + y

def execVisub (o : VInt2) (s : State) : Out := intOp 2 o s fun x y => x - y

def execVimul (o : VInt2) (s : State) : Out := intOp 4 o s fun x y => x * y

def execVand (o : VInt2) (s : State) : Out := intOp 2 o s fun x y => x &&& y

def execVor (o : VInt2) (s : State) : Out := intOp 2 o s fun x y => x ||| y

def execVxor (o : VInt2) (s : State) : Out := intOp 2 o s fun x y => x ^^^ y

def execVshl (o : VInt2) (s : State) : Out := intOp 2 o s fun x y => x <<< (y.toNat % 32)

def execVshr (o : VInt2) (s : State) : Out := intOp 2 o s fun x y => x >>> (y.toNat % 32)

def execVsra (o : VInt2) (s : State) : Out := intOp 2 o s fun x y => x.sshiftRight (y.toNat % 32)

def execVimin (o : VInt2) (s : State) : Out := intOp 2 o s fun x y => if x.sle y then x else y

def execVimax (o : VInt2) (s : State) : Out := intOp 2 o s fun x y => if x.sle y then y else x

def execViminu (o : VInt2) (s : State) : Out := intOp 2 o s fun x y => if x.ule y then x else y

def execVimaxu (o : VInt2) (s : State) : Out := intOp 2 o s fun x y => if x.ule y then y else x

/-- VICMP.cc (R170). -/
def execVicmp (o : VICmpOp) (s : State) : Out :=
  vslot [] [o.a, o.b] o.c s fun s =>
    let v := (tile s s.cur).vec
    ⟨s, some (maskFlight v 2 o.d (rdM v o.mask) (wordOf (fun i => condInt o.cond (rdV v o.a i) (rdV v o.b i))))⟩

/-- VSEL (R168): every lane is written; the mask selects. -/
def execVsel (o : VRRR) (s : State) : Out :=
  vslot [] [o.d, o.a, o.b] o.c s fun s =>
    let v := (tile s s.cur).vec
    ⟨s, some (lanesFlight v 2 o.d (BitVec.allOnes 64)
      (fun i => (if (rdM v o.mask).getLsbD i then rdV v o.a i else rdV v o.b i, 0)))⟩

end Sys2Proof.Machine
end

