-- ==== Sys2Proof/Machine/VectorFloat.lean ====
section
/-! DEFINITION. Vector slot: floating arithmetic, conversion, RNS and reductions (R165 to R168, R171 to R175). -/

namespace Sys2Proof.Machine

/-! ## Arithmetic (R165, R167) -/

/-- Round an exact value to a floating type by RNE, with the flags of forming it. -/
def roundTo (t : VType) (r : Val × Flags) : Nat × Flags :=
  let (y, g) := convert (typeFmt t) .rne 0 r.1
  (y, g ||| r.2)

def vval (t : VType) (x : Nat) : Val := value (typeFmt t) x

/-- A two-operand floating instruction. -/
def floatOp2 (lat : Nat) (o : VFloat2) (s : State) (f : Nat → Nat → Nat × Flags) : Out :=
  laneSlot [] (o.a.val :: srcRegs o.b) o.c lat o.d o.mask s fun v i =>
    perElem2 o.t f (rdV v o.a i) (srcLane v (isWide o.t) o.b i)

def execVadd (o : VFloat2) (s : State) : Out :=
  floatOp2 4 o s fun x y => roundTo o.t (valAdd (vval o.t x) (vval o.t y))

def execVsub (o : VFloat2) (s : State) : Out :=
  floatOp2 4 o s fun x y => roundTo o.t (valAdd (vval o.t x) (vval o.t y).neg)

def execVmul (o : VFloat2) (s : State) : Out :=
  floatOp2 4 o s fun x y => roundTo o.t (valMul (vval o.t x) (vval o.t y))

/-- a × b + c with one rounding (R165). -/
def fmaVal (x y z : Val) : Val × Flags :=
  let (p, f) := valMul x y
  let (r, g) := valAdd p z
  (r, f ||| g)

def execVfma (o : VFloat3) (s : State) : Out :=
  laneSlot [] (o.a.val :: srcRegs o.b ++ [o.cc.val]) o.c 4 o.d o.mask s fun v i =>
    perElem3 o.t (fun x y z => roundTo o.t (fmaVal (vval o.t x) (vval o.t y) (vval o.t z)))
      (rdV v o.a i) (srcLane v (isWide o.t) o.b i) (rdV v o.cc i)

/-- The canonical NaN of a type (R31). -/
def nanOf (t : VType) : Nat := (convert (typeFmt t) .rne 0 .nan).1

def execVmin (o : VFloat2) (s : State) : Out :=
  floatOp2 2 o s fun x y =>
    if (vval o.t x).isNan || (vval o.t y).isNan then (nanOf o.t, 0)
    else (if before (vval o.t x) (vval o.t y) then x else y, 0)

def execVmax (o : VFloat2) (s : State) : Out :=
  floatOp2 2 o s fun x y =>
    if (vval o.t x).isNan || (vval o.t y).isNan then (nanOf o.t, 0)
    else (if before (vval o.t x) (vval o.t y) then y else x, 0)

/-- A one-operand floating instruction. -/
def floatOp1 (lat : Nat) (o : VFloat1) (s : State) (f : Nat → Nat × Flags) : Out :=
  laneSlot [] [o.a] o.c lat o.d o.mask s fun v i => perElem1 o.t f (rdV v o.a i)

/-- The sign bit of a type's element. -/
def signBit (t : VType) : Nat := if isWide t then 2 ^ 31 else 2 ^ 15

def execVabs (o : VFloat1) (s : State) : Out := floatOp1 2 o s fun x => (x % signBit o.t, 0)

def execVneg (o : VFloat1) (s : State) : Out := floatOp1 2 o s fun x => (x ^^^ signBit o.t, 0)

/-! ## 1/a, 1/√a, 2^a and log2 a, correctly rounded (R166, log entry 12) -/

def rcpVal (x : Val) : Val × Flags :=
  match x with
  | .nan => (.nan, 0)
  | .inf s => (.num s 0 1 0, 0)
  | .num s n d e => if n = 0 then (.inf s, DZ) else (.num s d n (-e), 0)

/-- ⌊√x⌋, for x below 2^(2k). -/
def isqrt (x : Nat) : Nat → Nat → Nat
  | 0, r => r
  | k + 1, r => let t := r + 2 ^ k; isqrt x k (if t * t ≤ x then t else r)

/-- ⌊2^P / √n⌋ with a last bit set where that is not exact, and the even exponent taken out. -/
def rsqVal (x : Val) : Val × Flags :=
  match x with
  | .nan => (.nan, 0)
  | .inf s => if s then (.nan, NV) else (Val.zero, 0)
  | .num s n _ e =>
    if n = 0 then (.inf s, DZ)
    else if s then (.nan, NV)
    else
      let n := if e % 2 = 0 then n else 2 * n
      let e := if e % 2 = 0 then e else e - 1
      let q := isqrt (2 ^ 240 / n) 121 0
      (.num false (2 * q + natOf (q * q * n != 2 ^ 240)) 1 (-e / 2 - 121), 0)

/-- Bits of the fixed-point fractions below. -/
def fxP : Nat := 320

/-- ⌊ln 2 × 2^320⌋. -/
def ln2Fx : Nat := 0xb17217f7d1cf79abc9e3b39803f2f6af40f343267298b62d8a0d175b8baafa2be7b876206debac98

/-- e^y for a fixed-point y in [0, 1): the exponential series from term k on. -/
def expSeries (y : Nat) : Nat → Nat → Nat → Nat
  | 0, _, _ => 0
  | fuel + 1, k, term => term + expSeries y fuel (k + 1) (term * y / 2 ^ fxP / (k + 1))

/-- 2^a where a is no integer: between two fixed-point numbers that no rounding boundary separates. -/
def exp2Fx (neg : Bool) (n : Nat) (e : Int) : Val :=
  let m : Int := (n * pow2 (e + fxP) / pow2 (-(e + fxP)) : Nat)
  let a := if neg then -m else m
  let k := a / (2 ^ fxP : Nat)
  let f := (a % (2 ^ fxP : Nat)).toNat
  .num false (2 * expSeries (f * ln2Fx / 2 ^ fxP) 90 0 (2 ^ fxP) + 1) 1 (k - fxP - 1)

def exp2Val (x : Val) : Val × Flags :=
  match x with
  | .nan => (.nan, 0)
  | .inf s => (if s then Val.zero else .inf false, 0)
  | .num s n _ e =>
    if n = 0 then (.num false 1 1 0, 0)
    else
      let whole := n % pow2 (-e) == 0
      let k := n * pow2 e / pow2 (-e)
      if 1000 ≤ k then (.num false (if whole then 1 else 3) 1 (if s then -1000 else 1000), 0)
      else if whole then (.num false 1 1 (if s then -(k : Int) else k), 0)
      else (exp2Fx s n e, 0)

/-- z + z^3/3 + z^5/5 + …, fixed point. -/
def atanhSeries (z2 : Nat) : Nat → Nat → Nat → Nat
  | 0, _, _ => 0
  | fuel + 1, k, p => p / (2 * k + 1) + atanhSeries z2 fuel (k + 1) (p * z2 / 2 ^ fxP)

def log2Val (x : Val) : Val × Flags :=
  match x with
  | .nan => (.nan, 0)
  | .inf s => if s then (.nan, NV) else (.inf false, 0)
  | .num s n _ e =>
    if n = 0 then (.inf true, DZ)
    else if s then (.nan, NV)
    else
      let l := Nat.log2 n
      if n = 2 ^ l then (Val.ofInt ((l : Int) + e), 0)
      else
        -- n = m × 2^l with m in (1, 2); ln m = 2 atanh ((m - 1) / (m + 1))
        let z := (n - 2 ^ l) * 2 ^ fxP / (n + 2 ^ l)
        let lnm := 2 * atanhSeries (z * z / 2 ^ fxP) 110 0 z
        let a : Int := ((l : Int) + e) * (2 ^ fxP : Nat) + (lnm * 2 ^ fxP / ln2Fx : Nat)
        let b := 2 * a + 1
        (.num (decide (b < 0)) b.natAbs 1 (-(fxP : Int) - 1), 0)

def execVrcp (o : VFloat1) (s : State) : Out := floatOp1 10 o s fun x => roundTo o.t (rcpVal (vval o.t x))

def execVrsq (o : VFloat1) (s : State) : Out := floatOp1 10 o s fun x => roundTo o.t (rsqVal (vval o.t x))

def execVexp2 (o : VFloat1) (s : State) : Out := floatOp1 10 o s fun x => roundTo o.t (exp2Val (vval o.t x))

def execVlog2 (o : VFloat1) (s : State) : Out := floatOp1 10 o s fun x => roundTo o.t (log2Val (vval o.t x))

/-! ## Comparison (R168) -/

/-- The element VCMP looks at in a lane. -/
def cmpElem (t : VType) (hi : Bool) (x : Lane) : Nat :=
  if isWide t then x.toNat else if hi then x.toNat / 65536 else x.toNat % 65536

def execVcmp (o : VCmpOp) (s : State) : Out :=
  vslot [] [o.a, o.b] o.c s fun s =>
    let v := (tile s s.cur).vec
    let e := fun (r i : Nat) => vval o.t (cmpElem o.t o.hi (rdV v r i))
    ⟨s, some (maskFlight v 2 o.d (rdM v o.mask) (wordOf (fun i => condFloat o.cond (e o.a i) (e o.b i))))⟩

/-! ## Conversion (R171 to R173) -/

/-- The codes VCVT takes as a source. -/
def cvtSrc (f : Nat) : Bool :=
  [FP32, INT32, BF16, FP16, INT16, E4M3, E5M2, E8M0, INT8, UINT8, E3M2, E2M3, E2M1, INT4].contains f

/-- The codes VCVT takes as a destination. -/
def cvtDst (f : Nat) : Bool :=
  [FP32, INT32, BF16, FP16, INT16, E4M3, E5M2, E3M2, E2M3, E2M1, INT8, UINT8, INT4].contains f

/-- Features a rounding mode belongs to (R394). -/
def srFeat (r : RMode) : List Nat := if r = .sr then [5] else []

/-- The generator steps once for a converting instruction with SR, and gives its new state (R55). -/
def srStep (r : RMode) (s : State) : BitVec 32 × State :=
  if r = .sr then
    let x := seedStep (tile s s.cur).vec.seed
    (x, modVec s s.cur (fun v => { v with seed := x }))
  else (0, s)

/-- The TRAPINFO of the first format code a VCVT may not name, source field first (R401). -/
def cvtBad (o : VCvtOp) : Option Word :=
  if !cvtSrc o.src.toNat then some (info02 6 o.src.toNat)
  else if !cvtDst o.dst.toNat then some (info02 6 o.dst.toNat)
  else none

/-- VCVT (R171): lane i draws the fraction of lane i. -/
def execVcvt (o : VCvtOp) (s : State) : Out :=
  vslotX (srFeat o.r) [o.d, o.a] (cvtBad o) o.c s (fun _ => none) fun s =>
    let v := (tile s s.cur).vec
    let (x, s) := srStep o.r s
    ⟨s, some (lanesFlight v 4 o.d (rdM v o.mask) (fun i =>
      let src := value o.src.toNat ((rdV v o.a i).toNat % 2 ^ fmtWidth o.src.toNat)
      let (y, g) := convert o.dst.toNat o.r (fraction x 32 i) src
      (BitVec.ofNat 32 y, g)))⟩

/-- VPACK (R172): element e comes from va, then vb. -/
def execVpack (o : VPackOp) (s : State) : Out :=
  vslotX (srFeat o.r) [o.d, o.a, o.b] none o.c s (fun _ => none) fun s =>
    let v := (tile s s.cur).vec
    let (x, s) := srStep o.r s
    let elem := fun (e : Nat) =>
      let w := if e < 64 then rdV v o.a e else rdV v o.b (e - 64)
      convert (typeFmt o.t) o.r (fraction x 16 e) (value FP32 w.toNat)
    ⟨s, some (lanesFlight v 4 o.d (rdM v o.mask) (fun i =>
      let (y, g) := elem (2 * i)
      let (z, h) := elem (2 * i + 1)
      (BitVec.ofNat 32 (y + z * 65536), g ||| h)))⟩

/-- Element e of a 16-bit register (R26). -/
def halfElem (v : Vec) (r e : Nat) : Nat :=
  let x := (rdV v r (e / 2)).toNat
  if e % 2 = 0 then x % 65536 else x / 65536

/-- VUNPK (R172): exact, no flag. -/
def execVunpk (o : VUnpkOp) (s : State) : Out :=
  laneSlot [] [o.a] o.c 4 o.d o.mask s fun v i =>
    (BitVec.ofNat 32 (toFP32 (vval o.t (halfElem v o.a (if o.hi then 64 + i else i)))).1, 0)

/-- VRNS (R173). -/
def execVrns (o : VRR) (s : State) : Out :=
  laneSlot [3] [o.a] o.c 4 o.d o.mask s fun v i => (BitVec.ofNat 32 (toRNS (rdV v o.a i).toInt), 0)

/-- Leaving RNS30 with a scale: the exact product (R51). -/
def rnsTimes (w c : Nat) : Val × Flags := valMul (Val.ofInt (fromRNS w)) (value FP32 c)

/-- VCRT (R173). -/
def execVcrt (o : VCrtOp) (s : State) : Out :=
  vslotX (3 :: srFeat o.r) [o.d, o.a] none o.c s (fun _ => none) fun s =>
    let v := (tile s s.cur).vec
    let (x, s) := srStep o.r s
    ⟨s, some (lanesFlight v 4 o.d (rdM v o.mask) (fun i =>
      let (p, g) := rnsTimes (rdV v o.a i).toNat o.scale.toNat
      let (y, h) := convert (if o.i32 then INT32 else FP32) o.r (fraction x 32 i) p
      (BitVec.ofNat 32 y, g ||| h)))⟩

/-! ## Reductions (R174, R175) -/

/-- One rounded sum of two FP32 codes. -/
def addFP32 (x y : Nat) : Nat × Flags :=
  let (p, g) := valAdd (value FP32 x) (value FP32 y)
  let (z, h) := toFP32 p
  (z, g ||| h)

/-- One level of the tree: neighbours summed. -/
def sumPairs : List Nat → List Nat × Flags
  | x :: y :: r => let (z, g) := addFP32 x y; let (zs, h) := sumPairs r; (z :: zs, g ||| h)
  | r => (r, 0)

/-- The fixed tree (R174): as many levels as `n`. -/
def sumTree : Nat → List Nat → Flags → Nat × Flags
  | 0, t, g => (t.headD 0, g)
  | n + 1, t, g => let (t', h) := sumPairs t; sumTree n t' (g ||| h)

/-- −0 in FP32. -/
def minusZero : Nat := 2 ^ 31

/-- VRED.t (R174): NaNs of 16-bit elements become the canonical FP32 NaN. -/
def execVred (o : VFloat1) (s : State) : Out :=
  vslot [] [o.d, o.a] o.c s fun s =>
    let v := (tile s s.cur).vec
    let mask := rdM v o.mask
    let vals := if isWide o.t then
        (List.range 64).map (fun i => if mask.getLsbD i then (rdV v o.a i).toNat else minusZero)
      else
        (List.range 128).map (fun e => if mask.getLsbD (e / 2) then (toFP32 (vval o.t (halfElem v o.a e))).1 else minusZero)
    let (x, g) := sumTree (if isWide o.t then 6 else 7) vals 0
    let f := lanesFlight v 6 o.d mask (fun _ => (BitVec.ofNat 32 x, 0))
    ⟨s, some { f with flags := g }⟩

/-- VRED.I32 (R174). -/
def execVredI32 (o : VRR) (s : State) : Out :=
  vslot [] [o.d, o.a] o.c s fun s =>
    let v := (tile s s.cur).vec
    let mask := rdM v o.mask
    let x := (lanesOf mask).foldl (fun n i => n + rdV v o.a i) 0
    ⟨s, some (lanesFlight v 6 o.d mask (fun _ => (x, 0)))⟩

/-- One step of the scan at distance d: every lane at once (R175). -/
def scanStep (d : Nat) (x : List Nat) : List Nat × Flags :=
  let rs := (List.range 64).map (fun i => if i < d then (x.getD i 0, 0) else addFP32 (x.getD (i - d) 0) (x.getD i 0))
  (rs.map (·.1), rs.foldl (fun g r => g ||| r.2) 0)

/-- VSCAN.F32 (R175). Lane 0 is never summed: its bits are copied, a NaN's sign and payload too (DESIGN CHOICE, log entry 24). -/
def execVscan (o : VRR) (s : State) : Out :=
  vslot [] [o.d, o.a] o.c s fun s =>
    let v := (tile s s.cur).vec
    let mask := rdM v o.mask
    let x0 := (List.range 64).map (fun i => if mask.getLsbD i then (rdV v o.a i).toNat else minusZero)
    let (x, g) := [1, 2, 4, 8, 16, 32].foldl (fun (p : List Nat × Flags) d => let (y, h) := scanStep d p.1; (y, p.2 ||| h)) (x0, 0)
    let f := lanesFlight v 6 o.d mask (fun i => (BitVec.ofNat 32 (x.getD i 0), 0))
    ⟨s, some { f with flags := g }⟩

/-- VSCAN.I32 (R175): wrapping prefix sums. -/
def execVscanI32 (o : VRR) (s : State) : Out :=
  vslot [] [o.d, o.a] o.c s fun s =>
    let v := (tile s s.cur).vec
    let mask := rdM v o.mask
    let sum := fun (i : Nat) => (List.range (i + 1)).foldl (fun n j => if mask.getLsbD j then n + rdV v o.a j else n) (0 : Lane)
    ⟨s, some (lanesFlight v 6 o.d mask (fun i => (sum i, 0)))⟩

end Sys2Proof.Machine
end

