-- ==== Sys2Proof/Machine/Dispatch.lean ====
section
/-! DEFINITION. One arm per row of the opcode table: a direct call of its meaning, or the row rejected by name. -/

namespace Sys2Proof.Machine

def exec (i : Instr) (s : State) : Host.Outcome State Fault Refusal :=
  match i with
  | .add o => Sys2Proof.Machine.execAdd o s
  | .sub o => Sys2Proof.Machine.execSub o s
  | .mul o => Sys2Proof.Machine.execMul o s
  | .mulh o => Sys2Proof.Machine.execMulh o s
  | .mulhu o => Sys2Proof.Machine.execMulhu o s
  | .div o => Sys2Proof.Machine.execDiv o s
  | .divu o => Sys2Proof.Machine.execDivu o s
  | .rem o => Sys2Proof.Machine.execRem o s
  | .remu o => Sys2Proof.Machine.execRemu o s
  | .madd o => Sys2Proof.Machine.execMadd o s
  | .sel o => Sys2Proof.Machine.execSel o s
  | .min o => Sys2Proof.Machine.execMin o s
  | .minu o => Sys2Proof.Machine.execMinu o s
  | .max o => Sys2Proof.Machine.execMax o s
  | .maxu o => Sys2Proof.Machine.execMaxu o s
  | .and o => Sys2Proof.Machine.execAnd o s
  | .or o => Sys2Proof.Machine.execOr o s
  | .xor o => Sys2Proof.Machine.execXor o s
  | .andn o => Sys2Proof.Machine.execAndn o s
  | .shl o => Sys2Proof.Machine.execShl o s
  | .shr o => Sys2Proof.Machine.execShr o s
  | .sra o => Sys2Proof.Machine.execSra o s
  | .rol o => Sys2Proof.Machine.execRol o s
  | .clz o => Sys2Proof.Machine.execClz o s
  | .ctz o => Sys2Proof.Machine.execCtz o s
  | .popc o => Sys2Proof.Machine.execPopc o s
  | .bext o => Sys2Proof.Machine.execBext o s
  | .bins o => Sys2Proof.Machine.execBins o s
  | .sext o => Sys2Proof.Machine.execSext o s
  | .zext o => Sys2Proof.Machine.execZext o s
  | .addi o => Sys2Proof.Machine.execAddi o s
  | .andi o => Sys2Proof.Machine.execAndi o s
  | .ori o => Sys2Proof.Machine.execOri o s
  | .xori o => Sys2Proof.Machine.execXori o s
  | .shli o => Sys2Proof.Machine.execShli o s
  | .shri o => Sys2Proof.Machine.execShri o s
  | .srai o => Sys2Proof.Machine.execSrai o s
  | .li o => Sys2Proof.Machine.execLi o s
  | .lih o => Sys2Proof.Machine.execLih o s
  | .cmpEq o => Sys2Proof.Machine.execCmpEq o s
  | .cmpNe o => Sys2Proof.Machine.execCmpNe o s
  | .cmpLt o => Sys2Proof.Machine.execCmpLt o s
  | .cmpLtu o => Sys2Proof.Machine.execCmpLtu o s
  | .cmpLe o => Sys2Proof.Machine.execCmpLe o s
  | .cmpLeu o => Sys2Proof.Machine.execCmpLeu o s
  | .cmpiEq o => Sys2Proof.Machine.execCmpiEq o s
  | .cmpiNe o => Sys2Proof.Machine.execCmpiNe o s
  | .cmpiLt o => Sys2Proof.Machine.execCmpiLt o s
  | .cmpiLtu o => Sys2Proof.Machine.execCmpiLtu o s
  | .cmpiLe o => Sys2Proof.Machine.execCmpiLe o s
  | .cmpiLeu o => Sys2Proof.Machine.execCmpiLeu o s
  | .pand o => Sys2Proof.Machine.execPand o s
  | .por o => Sys2Proof.Machine.execPor o s
  | .pxor o => Sys2Proof.Machine.execPxor o s
  | .pnot o => Sys2Proof.Machine.execPnot o s
  | .ld o => Sys2Proof.Machine.execLd o s
  | .st o => Sys2Proof.Machine.execSt o s
  | .lds o => Sys2Proof.Machine.execLds o s
  | .sts o => Sys2Proof.Machine.execSts o s
  | .pref o => Sys2Proof.Machine.execPref o s
  | .amo o => Sys2Proof.Machine.execAmo o s
  | .amos o => Sys2Proof.Machine.execAmos o s
  | .amosCo o => Sys2Proof.Machine.execAmosCo o s
  | .br o => Sys2Proof.Machine.execBr o s
  | .call o => Sys2Proof.Machine.execCall o s
  | .jmp o => Sys2Proof.Machine.execJmp o s
  | .callr o => Sys2Proof.Machine.execCallr o s
  | .ret o => Sys2Proof.Machine.execRet o s
  | .fence o => Sys2Proof.Machine.execFence o s
  | .phase o => Sys2Proof.Machine.execPhase o s
  | .gbar o => Sys2Proof.Machine.execGbar o s
  | .sstep o => Sys2Proof.Machine.execSstep o s
  | .safept o => Sys2Proof.Machine.execSafept o s
  | .killpt o => Sys2Proof.Machine.execKillpt o s
  | .qarrive o => Sys2Proof.Machine.execQarrive o s
  | .fork o => Sys2Proof.Machine.execFork o s
  | .forks o => Sys2Proof.Machine.execForks o s
  | .resolve o => Sys2Proof.Machine.execResolve o s
  | .cancel o => Sys2Proof.Machine.execCancel o s
  | .rdv o => Sys2Proof.Machine.execRdv o s
  | .exit o => Sys2Proof.Machine.execExit o s
  | .exitAbandon o => Sys2Proof.Machine.execExitAbandon o s
  | .mapwait o => Sys2Proof.Machine.execMapwait o s
  | .waittl o => Sys2Proof.Machine.execWaittl o s
  | .launchq o => Sys2Proof.Machine.execLaunchq o s
  | .seminc o => Sys2Proof.Machine.execSeminc o s
  | .semwait o => Sys2Proof.Machine.execSemwait o s
  | .trap o => Sys2Proof.Machine.execTrap o s
  | .brk o => Sys2Proof.Machine.execBrk o s
  | .eret o => Sys2Proof.Machine.execEret o s
  | .getsys o => Sys2Proof.Machine.execGetsys o s
  | .setsys o => Sys2Proof.Machine.execSetsys o s
  | .setsysSeedv o => Sys2Proof.Machine.execSetsysSeedv o s
  | .setsysSeedx o => Sys2Proof.Machine.execSetsysSeedx o s
  | .setsysSeedm o => Sys2Proof.Machine.execSetsysSeedm o s
  | .setsysReplctl o => Sys2Proof.Machine.execSetsysReplctl o s
  | .setsysQuaglim o => Sys2Proof.Machine.execSetsysQuaglim o s
  | .setsysPgrace o => Sys2Proof.Machine.execSetsysPgrace o s
  | .getsysReplst o => Sys2Proof.Machine.execGetsysReplst o s
  | .tlbinv o => Sys2Proof.Machine.execTlbinv o s
  | .nop o => Sys2Proof.Machine.execNop o s
  | .wfe o => Sys2Proof.Machine.execWfe o s
  | .halt o => Sys2Proof.Machine.execHalt o s
  | .memoryResponse a k => Sys2Proof.Machine.execMemoryResponse a k s
  | .amosCoResponse a k => Sys2Proof.Machine.execAmosCoResponse a k s
  | .mapwaitReady a slot => Sys2Proof.Machine.execMapwaitReady a slot s
  | .rdvComplete a => Sys2Proof.Machine.execRdvComplete a s
  | .waittlComplete a => Sys2Proof.Machine.execWaittlComplete a s
  | .semwaitWake a => Sys2Proof.Machine.execSemwaitWake a s
  | .gbarRelease a n => Sys2Proof.Machine.execGbarRelease a n s
  | .phasePerformed a => Sys2Proof.Machine.execPhasePerformed a s
  | .qarriveAnswer a => Sys2Proof.Machine.execQarriveAnswer a s
  | .forkQueueEntryFree a => Sys2Proof.Machine.execForkQueueEntryFree a s
  | .asyncTrapTaken a => Sys2Proof.Machine.execAsyncTrapTaken a s
  | .trapToReeveCore a => Sys2Proof.Machine.execTrapToReeveCore a s
  | .runStart a e => Sys2Proof.Machine.execRunStart a e s
  | .knop o => Sys2Proof.Machine.execKnop o s
  | .kadd o => Sys2Proof.Machine.execKadd o s
  | .ksub o => Sys2Proof.Machine.execKsub o s
  | .kaddi o => Sys2Proof.Machine.execKaddi o s
  | .kli o => Sys2Proof.Machine.execKli o s
  | .kand o => Sys2Proof.Machine.execKand o s
  | .kor o => Sys2Proof.Machine.execKor o s
  | .kxor o => Sys2Proof.Machine.execKxor o s
  | .kshl o => Sys2Proof.Machine.execKshl o s
  | .kshr o => Sys2Proof.Machine.execKshr o s
  | .kcmp o => Sys2Proof.Machine.execKcmp o s
  | .kloop o => Sys2Proof.Machine.execKloop o s
  | .kloopSet o => Sys2Proof.Machine.execKloopSet o s
  | .kbr o => Sys2Proof.Machine.execKbr o s
  | .kend o => Sys2Proof.Machine.execKend o s
  | .kfrom o => Sys2Proof.Machine.execKfrom o s
  | .kseed o => Sys2Proof.Machine.execKseed o s
  | .vnop o => Sys2Proof.Machine.execVnop o s
  | .vld o => Sys2Proof.Machine.execVld o s
  | .vst o => Sys2Proof.Machine.execVst o s
  | .vstN o => Sys2Proof.Machine.execVstN o s
  | .vldx o => Sys2Proof.Machine.execVldx o s
  | .vstx o => Sys2Proof.Machine.execVstx o s
  | .vldb o => Sys2Proof.Machine.execVldb o s
  | .vperm o => Sys2Proof.Machine.execVperm o s
  | .vrot o => Sys2Proof.Machine.execVrot o s
  | .vbcast o => Sys2Proof.Machine.execVbcast o s
  | .vbcastK o => Sys2Proof.Machine.execVbcastK o s
  | .mand o => Sys2Proof.Machine.execMand o s
  | .mor o => Sys2Proof.Machine.execMor o s
  | .mxor o => Sys2Proof.Machine.execMxor o s
  | .mnot o => Sys2Proof.Machine.execMnot o s
  | .vadd o => Sys2Proof.Machine.execVadd o s
  | .vsub o => Sys2Proof.Machine.execVsub o s
  | .vmul o => Sys2Proof.Machine.execVmul o s
  | .vfma o => Sys2Proof.Machine.execVfma o s
  | .vmin o => Sys2Proof.Machine.execVmin o s
  | .vmax o => Sys2Proof.Machine.execVmax o s
  | .vabs o => Sys2Proof.Machine.execVabs o s
  | .vneg o => Sys2Proof.Machine.execVneg o s
  | .vrcp o => Sys2Proof.Machine.execVrcp o s
  | .vrsq o => Sys2Proof.Machine.execVrsq o s
  | .vexp2 o => Sys2Proof.Machine.execVexp2 o s
  | .vlog2 o => Sys2Proof.Machine.execVlog2 o s
  | .vcmp o => Sys2Proof.Machine.execVcmp o s
  | .vsel o => Sys2Proof.Machine.execVsel o s
  | .viadd o => Sys2Proof.Machine.execViadd o s
  | .visub o => Sys2Proof.Machine.execVisub o s
  | .vimul o => Sys2Proof.Machine.execVimul o s
  | .vand o => Sys2Proof.Machine.execVand o s
  | .vor o => Sys2Proof.Machine.execVor o s
  | .vxor o => Sys2Proof.Machine.execVxor o s
  | .vshl o => Sys2Proof.Machine.execVshl o s
  | .vshr o => Sys2Proof.Machine.execVshr o s
  | .vsra o => Sys2Proof.Machine.execVsra o s
  | .vimin o => Sys2Proof.Machine.execVimin o s
  | .vimax o => Sys2Proof.Machine.execVimax o s
  | .viminu o => Sys2Proof.Machine.execViminu o s
  | .vimaxu o => Sys2Proof.Machine.execVimaxu o s
  | .vicmp o => Sys2Proof.Machine.execVicmp o s
  | .vcvt o => Sys2Proof.Machine.execVcvt o s
  | .vpack o => Sys2Proof.Machine.execVpack o s
  | .vunpk o => Sys2Proof.Machine.execVunpk o s
  | .vrns o => Sys2Proof.Machine.execVrns o s
  | .vcrt o => Sys2Proof.Machine.execVcrt o s
  | .vred o => Sys2Proof.Machine.execVred o s
  | .vredI32 o => Sys2Proof.Machine.execVredI32 o s
  | .vscan o => Sys2Proof.Machine.execVscan o s
  | .vscanI32 o => Sys2Proof.Machine.execVscanI32 o s
  | .vectorWriteback a => Sys2Proof.Machine.execVectorWriteback a s
  | .mnop r => Sys2Proof.Machine.execMnop r s
  | .mend r => Sys2Proof.Machine.execMend r s
  | .mrep r => Sys2Proof.Machine.execMrep r s
  | .ldstat r => Sys2Proof.Machine.execLdstat r s
  | .mswap r => Sys2Proof.Machine.execMswap r s
  | .mma r => Sys2Proof.Machine.execMma r s
  | .mmabs r => Sys2Proof.Machine.execMmabs r s
  | .mdist r => Sys2Proof.Machine.execMdist r s
  | .mtopk r => Sys2Proof.Machine.execMtopk r s
  | .mbotk r => Sys2Proof.Machine.execMbotk r s
  | .accz r => Sys2Proof.Machine.execAccz r s
  | .accld r => Sys2Proof.Machine.execAccld r s
  | .accadd r => Sys2Proof.Machine.execAccadd r s
  | .accrd r => Sys2Proof.Machine.execAccrd r s
  | .matrixRecordComplete a k => Sys2Proof.Machine.execMatrixRecordComplete a k s
  | .xnop r => Sys2Proof.Machine.execXnop r s
  | .xend r => Sys2Proof.Machine.execXend r s
  | .xrep r => Sys2Proof.Machine.execXrep r s
  | .load r => Sys2Proof.Machine.execLoad r s
  | .store r => Sys2Proof.Machine.execStore r s
  | .copy r => Sys2Proof.Machine.execCopy r s
  | .fill r => Sys2Proof.Machine.execFill r s
  | .send r => Sys2Proof.Machine.execSend r s
  | .gather r => Sys2Proof.Machine.execGather r s
  | .scatter r => Sys2Proof.Machine.execScatter r s
  | .coll r => Sys2Proof.Machine.execColl r s
  | .reds r => Sys2Proof.Machine.execReds r s
  | .signal r => Sys2Proof.Machine.execSignal r s
  | .mapset r => Sys2Proof.Machine.execMapset r s
  | .mapswap r => Sys2Proof.Machine.execMapswap r s
  | .mapclr r => Sys2Proof.Machine.execMapclr r s
  | .mapready r => Sys2Proof.Machine.execMapready r s
  | .wellrd r => Sys2Proof.Machine.execWellrd r s
  | .mapChangeAtBoundary a => Sys2Proof.Machine.execMapChangeAtBoundary a s
  | .moveRecordComplete a => Sys2Proof.Machine.execMoveRecordComplete a s
  | .fifoPush a e => Sys2Proof.Machine.execFifoPush a e s
  | .headerFlitArrives a k => Sys2Proof.Machine.execHeaderFlitArrives a k s
  | .payloadFlitLands a => Sys2Proof.Machine.execPayloadFlitLands a s
  | .readyPush a slot => Sys2Proof.Machine.execReadyPush a slot s
  | .codeLandingRelease a => Sys2Proof.Machine.execCodeLandingRelease a s
  | .syncLanding k => Sys2Proof.Machine.execSyncLanding k s
  | .lineMigration line tile => Sys2Proof.Machine.execLineMigration line tile s
  | .replicationEpochEnd d => Sys2Proof.Machine.execReplicationEpochEnd d s
  | .readdupCollapse a => Sys2Proof.Machine.execReaddupCollapse a s
  | .collapseRequest q => Sys2Proof.Machine.execCollapseRequest q s
  | .collapseRetry a => Sys2Proof.Machine.execCollapseRetry a s
  | .scrub line corrects => Sys2Proof.Machine.execScrub line corrects s
  | .uncorrectableError d handover p => Sys2Proof.Machine.execUncorrectableError d handover p s
  | .tileOutOfService a => Sys2Proof.Machine.execTileOutOfService a s
  | .quagExpiry a => Sys2Proof.Machine.execQuagExpiry a s
  | .laneFailureRetrain o => Sys2Proof.Machine.execLaneFailureRetrain o s
  | .oluicLinkFailure link => Sys2Proof.Machine.execOluicLinkFailure link s
  | .devicePortFailure port => Sys2Proof.Machine.execDevicePortFailure port s
  | .deviceDeclaredLost dev => Sys2Proof.Machine.execDeviceDeclaredLost dev s
  | .dieReset o => Sys2Proof.Machine.execDieReset o s
  | .dieResetForced o => Sys2Proof.Machine.execDieResetForced o s
  | .clockChange mhz power => Sys2Proof.Machine.execClockChange mhz power s
  | .d3hotEntry => Sys2Proof.Machine.execD3hotEntry s
  | .d0Return => Sys2Proof.Machine.execD0Return s
  | .powerOnBringUp b => Sys2Proof.Machine.execPowerOnBringUp b s
  | .triggerWrite d data => Sys2Proof.Machine.execTriggerWrite d data s
  | .cmdResume w => Sys2Proof.Machine.execCmdResume w s
  | .cmdEnd w => Sys2Proof.Machine.execCmdEnd w s
  | .cmdPreempt w => Sys2Proof.Machine.execCmdPreempt w s
  | .cstart q va => Sys2Proof.Machine.execCstart q va s
  | .evsizeWrite w => Sys2Proof.Machine.execEvsizeWrite w s
  | .evbaseWrite w => Sys2Proof.Machine.execEvbaseWrite w s
  | .ffpush d w => Sys2Proof.Machine.execFfpush d w s
  | .ctxreg w => Sys2Proof.Machine.execCtxreg w s
  | .sluicewWrite d w => Sys2Proof.Machine.execSluicewWrite d w s
  | .featenWrite n w => Sys2Proof.Machine.execFeatenWrite n w s
  | .semWindowRead off => Sys2Proof.Machine.execSemWindowRead off s
  | .semWindowWrite off w => Sys2Proof.Machine.execSemWindowWrite off w s
  | .semWindowFetchadd off w => Sys2Proof.Machine.execSemWindowFetchadd off w s
  | .semWindowCas off expect new => Sys2Proof.Machine.execSemWindowCas off expect new s
  | .attestationRequest w => Sys2Proof.Machine.execAttestationRequest w s
  | .attestationReport => Sys2Proof.Machine.execAttestationReport s
  | .bar2Write off data => Sys2Proof.Machine.execBar2Write off data s
  | .bar2Read off n => Sys2Proof.Machine.execBar2Read off n s
  | .bar0RegisterWrite off data => Sys2Proof.Machine.execBar0RegisterWrite off data s
  | .switchGroupArm g data => Sys2Proof.Machine.execSwitchGroupArm g data s
  | .switchGroupDisarm g data => Sys2Proof.Machine.execSwitchGroupDisarm g data s
  | .switchBurstArrival k => Sys2Proof.Machine.execSwitchBurstArrival k s
  | .switchRoundClose g => Sys2Proof.Machine.execSwitchRoundClose g s
  | .switchRoundAdvance g => Sys2Proof.Machine.execSwitchRoundAdvance g s
  | .burstAck dev cls seq => Sys2Proof.Machine.execBurstAck dev cls seq s
  | .burstRetransmit dev cls seq => Sys2Proof.Machine.execBurstRetransmit dev cls seq s
  | .deviceBurstReceive b => Sys2Proof.Machine.execDeviceBurstReceive b s
  | .graphUpload d data => Sys2Proof.Machine.execGraphUpload d data s
  | .runStartTrigger d gid => Sys2Proof.Machine.execRunStartTrigger d gid s
  | .launchNodeFires d gid node => Sys2Proof.Machine.execLaunchNodeFires d gid node s
  | .joinNodeFires d gid node => Sys2Proof.Machine.execJoinNodeFires d gid node s
  | .signalNodeFires d gid node => Sys2Proof.Machine.execSignalNodeFires d gid node s
  | .waitNodeFires d gid node => Sys2Proof.Machine.execWaitNodeFires d gid node s
  | .endNodeFires d gid node => Sys2Proof.Machine.execEndNodeFires d gid node s
  | .quorumClose d gid node => Sys2Proof.Machine.execQuorumClose d gid node s
  | .quorumFill d gid node => Sys2Proof.Machine.execQuorumFill d gid node s
  | .forcedKill u => Sys2Proof.Machine.execForcedKill u s
  | .taskReadyQueue d q => Sys2Proof.Machine.execTaskReadyQueue d q s
  | .taskClassPromotion u => Sys2Proof.Machine.execTaskClassPromotion u s
  | .taskPlacement u => Sys2Proof.Machine.execTaskPlacement u s
  | .taskStart u => Sys2Proof.Machine.execTaskStart u s
  | .taskEnd u => Sys2Proof.Machine.execTaskEnd u s
  | .preload u => Sys2Proof.Machine.execPreload u s
  | .budgetOverrun u => Sys2Proof.Machine.execBudgetOverrun u s
  | .preemptRequest u => Sys2Proof.Machine.execPreemptRequest u s
  | .heavySave u => Sys2Proof.Machine.execHeavySave u s
  | .contextResume u => Sys2Proof.Machine.execContextResume u s
  | .runStranded d gid => Sys2Proof.Machine.execRunStranded d gid s
  | .collapseDecline a dev => Sys2Proof.Machine.execCollapseDecline a dev s
  | .communicationStepEnd a => Sys2Proof.Machine.execCommunicationStepEnd a s
  | .crcRetry d => Sys2Proof.Machine.execCrcRetry d s
  | .linkRetrainingComplete link => Sys2Proof.Machine.execLinkRetrainingComplete link s
  | .deviceReset dev => Sys2Proof.Machine.execDeviceReset dev s

end Sys2Proof.Machine
end

