-- ==== Sys2Proof/Machine/Turns.lean ====
section
/-! DEFINITION. What one turn of the agenda does: a control core's word, a vector pair, a matrix or move record, an event, the passing of cycles (log entry 1). -/

namespace Sys2Proof.Machine

/-- Goes on from a next state. -/
def andThen (o : Out) (k : State → Out) : Out :=
  match o with
  | .next s => k s
  | .fault r => .fault r
  | .refused r => .refused r

/-- TRAPINFO of cause 0x01 for a unit that does not decode: the opcode, and bit 8 for a reserved field (R138). -/
def decodeInfo (e : DecodeError) : Word :=
  match e with
  | .unassigned op => BitVec.ofNat 64 op
  | .reserved op => BitVec.ofNat 64 (op + 256)

/-- Acts for an agent. -/
def actFor (a : Nat) (s : State) : State := { s with cur := a }

/-! ## The control core -/

/-- The word at the core's pc is decoded and executed; running off the bank's end traps (R75, R76). -/
def issueC (a : Nat) (s : State) : Out :=
  let c := core s a
  if 8192 ≤ c.pc then
    let (x, s) := draw s
    trapAt 0x01 c.pc x s
  else match decodeAt s a c.pc with
    | .ok i => exec i s
    | .error e => trapWord 0x01 (decodeInfo e) s

/-- The core's wait is ended by an event, not by issuing the word again (R400). -/
def eventWait (w : Wait) : Bool :=
  match w with
  | .phase _ => true
  | .qask _ _ _ _ => true
  | .hold => true
  | .collapse _ d => !d
  | _ => false

/-- The agent's task has been killed or ended from outside. -/
def isKilled (s : State) (a : Nat) : Bool := match taskOf s a with | some t => t.killed.isSome | none => false

/-- A tile of the task has issued a word: the count of its cycles runs (R341). -/
def beginTask (s : State) (a : Nat) : State :=
  match (tile s a).task with
  | some u => if (match lookup s.tasks u with | some t => t.begun | none => true) then s else modTask s u (fun t => { t with begun := true })
  | none => s

/-- A control core's turn: a kill that is due, an asynchronous trap at a word boundary, or the word at its pc. A kill waits for a word
that does not stand at a boundary to complete, and for a trap at the reeve core to be handled (R355, R377). -/
def coreTurn (a : Nat) (s : State) : Out :=
  let s := actFor a s
  let c := core s a
  if isKilled s a ∧ killReady c then .next (overTile s a)
  else if c.run ≠ .running then .next s
  else if !c.async.isEmpty ∧ atBoundary c.wait then exec (.asyncTrapTaken a) s
  else if eventWait c.wait then .next s
  else issueC a (beginTask s a)

/-! ## The vector engine (R147 to R179) -/

/-- Both slots of a pair, in the state before it; a trap of either discards the pair, and the check that comes first in R75
decides between two (R151, R177). -/
def trapRank (before after : Vec) (s : State) (a : Nat) : Option Nat :=
  if after.trapped && !before.trapped then
    let cause := match after.held with
      | some q => q.cause
      | none => match (core s a).async.getLast? with | some q => q.cause | none => 0
    let info := match after.held with
      | some q => q.info.toNat
      | none => match (core s a).async.getLast? with | some q => q.info.toNat | none => 0
    some (if cause = 0x12 then 2 else if cause = 0x02 ∧ info % 256 ≠ 193 then 3 else 4)
  else none

/-- A vector trap an outcome has taken, by the order of its check. -/
def rankOf (a : Nat) (s : State) (o : Out) : Option Nat :=
  match o with
  | .next s' => trapRank (tile s a).vec (tile s' a).vec s' a
  | _ => none

/-- A pair issues (R65, R151): the vector slot reads what stood before the scalar slot, and the scalar slot goes on from it. Where both
slots fail the same check of R75, the scalar slot's trap is taken (DESIGN CHOICE, log entry 23: the spec names no slot). -/
def issuePair (a : Nat) (p : Pair) (s : State) : Out :=
  let ov := exec p.v s
  let ok_ := exec p.k s
  match rankOf a s ok_, rankOf a s ov with
  | some x, some y => if y < x then ov else ok_
  | some _, none => ok_
  | none, some _ => ov
  | none, none =>
    if tokensFor (tile s a).fifo (popsOf p.tok) then andThen ov (exec p.k) else .next s

/-- A slot of time in which no pair issues (R149, R160). -/
def idleSlot (a : Nat) (s : State) : State :=
  modVec s a (fun v => if v.flight.isEmpty then v else { v with slot := v.slot + 1 })

/-- The pops a V pair's bits ask for, whether or not it decodes (R65). -/
def rawPops (w : Nat) : Push := popsOf ⟨bitOf w 123, bitOf w 122, false, false⟩

/-- A vector engine's turn: a pair is checked once its pops have their tokens (R149, R177). -/
def vectorTurn (a : Nat) (s : State) : Out :=
  let s := actFor a s
  if (tile s a).vec.push.isSome then exec (.fifoPush a .v) s
  else
    let s := landDue s a (tile s a).vec.flight
    let v := (tile s a).vec
    if v.push.isSome ∨ v.trapped then .next s
    else if v.run.isNone then exec (.runStart a .v) s
    else if v.draining then .next (if v.flight.isEmpty then retire s a .v else idleSlot a s)
    else if atSafept (core s a).wait then .next (idleSlot a s)
    else if 2048 ≤ vecPc v then
      let (x, s) := draw s
      vecTrap 0x01 x s
    else if !tokensFor (tile s a).fifo (rawPops (fetchV s a (vecPc v))) then .next s
    else match decodeV (fetchV s a (vecPc v)) with
      | .ok p => issuePair a p s
      | .error e => vecTrap 0x01 (decodeInfo e) s

/-! ## The matrix engine (R180 to R204) -/

/-- The matrix record at the engine's place is decoded and offered for acceptance. -/
def offerM (a : Nat) (s : State) : Out :=
  let pc := match (tile s a).mat.run with | some r => r.pc | none => 0
  if 256 ≤ pc then
    let (x, s) := draw s
    .next (matFault 0x01 x s)
  else match decodeM (fetchM s a pc) with
    | .ok i => exec i s
    | .error e => .next (matFault 0x01 (decodeInfo e) s)

/-- The record next to be accepted is an LDSTAT, which may overlap the one in progress, and its tokens are there (R187). -/
def nextIsLoad (a : Nat) (s : State) : Bool :=
  let m := (tile s a).mat
  let pc := match m.run with | some r => r.pc | none => 0
  decide (pc < 256) && mayAccept m true && (match okOf (decodeM (fetchM s a pc)) with
    | some (.ldstat r) => m.popped || tokensFor (tile s a).fifo (matPops r)
    | _ => false)

/-- The record in progress makes its next pass, or completes once it has made all (R187, R204). -/
def workM (a : Nat) (s : State) : Out :=
  let m := (tile s a).mat
  match m.going with
  | some g => .next (modTile s a (passTurn g))
  | none => if m.busy.isEmpty then .next s else exec (.matrixRecordComplete a 0) s

/-- A matrix engine's turn. A parked record lets the one it follows go on; an overrun holds every record (R341). Neither a stop nor a safe
point comes between the repetitions of one record (R203). -/
def matrixTurn (a : Nat) (s : State) : Out :=
  let s := actFor a s
  let m := (tile s a).mat
  if m.push.isSome then exec (.fifoPush a .m) s
  else if m.paused then .next s
  else if m.parked then workM a s
  else match m.run with
    | none => if m.busy.isEmpty then exec (.runStart a .m) s else workM a s
    | some r =>
      let may := (!atSafept (core s a).wait && !r.stop) || repeating m
      if may && (m.busy.isEmpty || nextIsLoad a s) then offerM a s
      else if !m.busy.isEmpty then workM a s
      else .next (retire s a .m)

/-! ## The move engine (R227 to R257) -/

/-- SCATTER with SYNC on a collective sequencer is a record fault 0x02 (R367), where a tile's is no encoding (R228): the record without
the flag, which is put back (DEDUCED, log entry 43). -/
def seqScatter (a w : Nat) : Option XRec :=
  if isSeq a && bitOf w 485 then
    match okOf (decodeX (w - 2 ^ 485)) with
    | some (.scatter r) => some { r with fl := { r.fl with sync := true } }
    | _ => none
  else none

/-- The move record at the engine's place is decoded and offered, or goes on. -/
def offerX (a : Nat) (s : State) : Out :=
  let pc := movPc (tile s a).mov
  let treg := (if pc < 256 then bits (fetchX s a pc) 499 494 else 0)
  if 256 ≤ pc then
    let (x, s) := draw s
    .next (movFault treg 0x01 x s)
  else match decodeX (fetchX s a pc) with
    | .ok i => exec i s
    | .error e => match seqScatter a (fetchX s a pc) with
      | some r => exec (.scatter r) s
      | none => .next (movFault treg 0x01 (decodeInfo e) s)

/-- A move engine's turn. -/
def moveTurn (a : Nat) (s : State) : Out :=
  let s := actFor a s
  let m := (tile s a).mov
  if m.push.isSome then exec (.fifoPush a .x) s
  else if m.parked.isSome ∨ m.paused then .next s
  else match m.busy with
    | some b => if goesOn b then offerX a s else exec (.moveRecordComplete a) s
    | none => match m.run with
      | none => exec (.runStart a .x) s
      | some r =>
        if r.stop then .next (retire s a .x)
        else if atSafept (core s a).wait then .next s
        else offerX a s

/-! ## Time (R341, R378) -/

/-- The first cycle after now on which a scheduled flit falls due at a port that may write it. -/
def nextDue (s : State) : Option Nat :=
  (s.sync.flatMap (fun f => f.dsts.map (fun d => Nat.max d.2 (tile s d.1).reed.taken))).foldl (fun m d => if d ≤ s.now then m else match m with | some x => some (Nat.min x d) | none => some d) none

/-- The quag count of a tile is held: it is stopped at the reeve core, or an access waits for its collapse (R377, R378). -/
def countHeld (t : Tile) : Bool :=
  (match t.core.run with | .reeve _ => true | .halted => true | _ => false)
    || (match t.core.wait with | .collapse _ d => !d | _ => false)
    || (match t.mov.busy with | some b => (match b.wait with | .collapse _ d => !d | _ => false) | none => false)

/-- A tile as n cycles pass (R378): after progress the count starts again; held, it neither rises nor resets. -/
def passTile (n : Nat) (t : Tile) : Tile :=
  if countHeld t then resumeCount t
  else if t.progress then { t with progress := false, stalled := if t.task.isSome then n - 1 else 0, reported := false }
  else if t.task.isSome then { t with stalled := t.stalled + n }
  else t

/-- A new cycle at a tile: ready flags that the last one's writes have reached rise (R220), and what it has set is old (R223). -/
def newCycle (t : Tile) : Tile := let t := raiseReadies t; { t with reed := { t.reed with fresh := .none } }

/-- n cycles pass, but not beyond a scheduled landing. -/
def passCycles (n : Nat) (s : State) : State :=
  let n := match nextDue s with | some d => Nat.min n (d - s.now) | none => n
  { s with
    now := s.now + n
    tiles := s.tiles.map (fun e => (e.1, if n = 0 then e.2 else passTile n (newCycle e.2)))
    tasks := s.tasks.map (fun e => (e.1, if e.2.state = .running ∧ e.2.begun then { e.2 with counted := e.2.counted + n } else e.2)) }

/-! ## Turns -/

/-- A scheduled flit that lands now (R226). -/
def syncNow (s : State) : Option Nat :=
  (List.range s.sync.length).find? (fun k => match s.sync[k]? with
    | some f => f.dsts.any (syncLands s k f)
    | none => false)

/-- The requests of a collapse to devices that no route reaches, each discarded and counted once (R364, R376). -/
def askAway (s : State) (dev : Nat) : State :=
  if routed s dev || (findFlow s.dev.flows dev 1).since.isSome then s else noRoute (unacked s dev 1)

/-- An event with a scheduler's or reeve core's write that has to wait for a device of a duplicate set does not come yet: it is made, whole,
once every such device can be reached or is declared lost (R376; log entry 19). Its requests go out. -/
def afterAwaited (s : State) (o : Out) : Out :=
  match o with
  | .next t => if t.awaited = s.awaited then o else .next (t.awaited.foldl askAway s)
  | o => o

/-- An event of the opcode table; a row with an encoding is no event, and a turn that names one as an event does nothing. -/
def eventTurn (i : Instr) (s : State) : Out := match encode i with | .event => afterAwaited s (exec i s) | _ => .next s

def turn (t : Turn) (s : State) : Out :=
  match t with
  | .core a => coreTurn a s
  | .vector a => vectorTurn a s
  | .matrix a => matrixTurn a s
  | .move a => moveTurn a s
  | .event i => eventTurn i s
  | .pass n => .next (passCycles n s)
  | .corrects d => .next (correctError d s)
  | .sensors hot cap => .next (setSensors hot cap s)
  | .readReg off n => readRegister off n s
  | .peer dev q => peerAccess dev q s

/-- The next turn: a scheduled flit that lands now comes first; then the agenda's; with none left, a cycle and the turn in focus, which
waits on the agenda while a flit that falls due on the new cycle lands (R226, R296). -/
def takeTurn (s : State) : Out :=
  match syncNow s with
  | some k => exec (.syncLanding k) s
  | none =>
    match s.agenda with
    | t :: ts => turn t { s with agenda := ts }
    | [] =>
      let s := passCycles 1 s
      match syncNow s with
      | some k => exec (.syncLanding k) { s with agenda := [s.focus] }
      | none => turn s.focus s

/-! ## Placing one instruction (the host's question) -/

/-- A task with every declaration at its limit, for a word placed from outside (log entry 4). -/
def placedTask : Task :=
  ⟨.running, .queue 0 0 0, ⟨0, 0, 0, 0, 0, 0, 1, 1, false, false, 0, 0, 0⟩, .full, .none, 0, 0, 0, 0, 1, 1, 0, 0, false, [], none, false, [], [], false, [], [], []⟩

/-- The tile with a unit of w placed at the pc of the sequencer that reads units of its size. -/
def placeUnit (nbits w : Nat) (x : Tile) : Tile :=
  let run : RunState := ⟨⟨0, 0, 0, 0, .none⟩, 0, false⟩
  let b := x.banks
  let vpc := match x.vec.run with | some r => r.pc | none => 0
  let mpc := match x.mat.run with | some r => r.pc | none => 0
  let xpc := match x.mov.run with | some r => r.pc | none => 0
  if nbits ≤ 64 ∨ (128 < nbits ∧ nbits ≤ 256) then
    let put := fun (m : Mem) => writeN m (8 * x.core.pc) 32 w
    { x with
      banks := if b.actC then { b with cB := put b.cB } else { b with cA := put b.cA }
      core := { x.core with run := .running, wait := .none } }
  else if nbits ≤ 128 then
    let put := fun (m : Mem) => writeN m (16 * vpc) 16 w
    { x with
      banks := if b.actV then { b with vB := put b.vB } else { b with vA := put b.vA }
      vec := { x.vec with run := some { run with pc := vpc }, push := none, trapped := false, draining := false } }
  else if (okOf (decodeM w)).isSome then
    let put := fun (m : Mem) => writeN m (64 * mpc) 64 w
    { x with
      banks := if b.actM then { b with mB := put b.mB } else { b with mA := put b.mA }
      mat := { x.mat with run := some { run with pc := mpc }, push := none, parked := false, paused := false, busy := [], going := none } }
  else
    let put := fun (m : Mem) => writeN m (64 * xpc) 64 w
    { x with
      banks := if b.actX then { b with xB := put b.xB } else { b with xA := put b.xA }
      mov := { x.mov with run := some { run with pc := xpc }, push := none, parked := none, paused := false, busy := none, asked := none } }

/-- The turn that runs a unit of its size on tile 0. -/
def unitTurn (nbits w : Nat) : Turn :=
  if nbits ≤ 64 ∨ (128 < nbits ∧ nbits ≤ 256) then .core 0
  else if nbits ≤ 128 then .vector 0
  else if (okOf (decodeM w)).isSome then .matrix 0
  else .move 0

/-- The part with a unit placed on tile 0, under a running task, and its turn next. -/
def placeWord (s : State) (nbits w : Nat) : State :=
  let u := match (tile s 0).task with | some u => u | none => s.nextTask
  let s := match (tile s 0).task with | some _ => s | none => { putTask s u placedTask with nextTask := s.nextTask + 1 }
  let s := modTile s 0 (fun x => { placeUnit nbits w x with task := some u })
  { s with agenda := [], focus := unitTurn nbits w }

end Sys2Proof.Machine
end

