-- ==== Sys2Proof/Machine/Step.lean ====
section
/-! DEFINITION. One step: the next turn of the agenda. And the state with one instruction placed where the next step fetches it. -/

namespace Sys2Proof.Machine

/-- One step of the part: one turn. -/
def step : State → Host.Outcome State Fault Refusal := takeTurn

/-- The state with one unit placed where the next step fetches its instruction: the memory of tile 0's sequencer that reads units
of that size, at its pc, under a running task (log entry 4). -/
def State.withFetchWord (s : State) (nbits w : Nat) : State := placeWord s nbits w

end Sys2Proof.Machine
end

