-- ==== Sys2Proof/Safety.lean ====
section
/-! DEFINITION. What counts as a safe run, and the conditions in which a unit completes with the effect of its own, in the terms the statements use. -/

namespace Sys2Proof.Machine

/-! ## Safe runs -/

/-- The memory of the device, of the host and of the peers is in its one canonical form. -/
def Canonical (s : State) : Prop := Memory.wf s.mem = true

/-- The step answers a next state: the part has not stopped. -/
def GoesOn (s : State) : Prop := ∃ t, step s = .next t

/-! ## When a C word issues (R60, R75, R90, R91) -/

/-- Features enabled, registers declared, guard true, sources arrived, for the agent that acts. -/
structure Ready (s : State) (feats regs srcs : List Nat) (g : Guard) : Prop where
  enabled : ∀ n ∈ feats, feature s n = true
  declared : ∀ r ∈ regs, r = 0 ∨ r < (hdr s s.cur).sregs
  guard : guardHolds (core s s.cur) g = true
  arrived : ∀ r ∈ srcs, waiting (core s s.cur) r = false

/-- The state after a word that writes a scalar register (R89, R90): the register, the next word, nothing waited for. -/
def wrote (s : State) (d : Nat) (v : Word) : State := advance (modCore s s.cur (wrS d v))

/-- The state after a word that writes a predicate. -/
def wroteP (s : State) (d : Fin 8) (b : Bool) : State := advance (modCore s s.cur (wrP d b))

/-- Issuing from a state, the word writes a value into its destination and goes on; the destination is no pending token register. -/
def Yields (i : Instr) (s : State) (srcs : List Nat) (d : Nat) (g : Guard) (v : Word) : Prop :=
  Ready s [] (d :: srcs) srcs g → tokPending (core s s.cur) d = false → exec i s = .next (wrote s d v)

/-- Issuing from a state, the word writes a predicate and goes on. -/
def Decides (i : Instr) (s : State) (srcs : List Nat) (d : Fin 8) (g : Guard) (b : Bool) : Prop :=
  Ready s [] srcs srcs g → exec i s = .next (wroteP s d b)

/-- The value of a scalar register of the agent that acts. -/
def sreg (s : State) (r : Fin 64) : Word := rdS (core s s.cur) r.val

/-- The effective address of a load or store of the acting agent: (sa + X(off))[63:0] (R99). -/
def effective {n : Nat} (s : State) (a : Fin 64) (off : BitVec n) : Nat :=
  ((sreg s a).toNat + (off.signExtend 64).toNat) % 2 ^ 64

/-- R106: the value an atomic leaves at its location, operands of w bits. -/
def aopResult (op : AOp) (w old v c : Nat) : Nat :=
  match op with
  | .add => (old + v) % 2 ^ w
  | .and => Nat.land old v
  | .or => Nat.lor old v
  | .xor => Nat.xor old v
  | .min => if signed w v < signed w old then v else old
  | .max => if signed w old < signed w v then v else old
  | .minu => if v < old then v else old
  | .maxu => if old < v then v else old
  | .swap => v
  | .cas => if old = v then c else old

/-- R62, R106: the number of an atomic operation. -/
def aopNumber : AOp → Nat
  | .add => 0 | .and => 1 | .or => 2 | .xor => 3 | .min => 4 | .max => 5 | .minu => 6 | .maxu => 7 | .swap => 8 | .cas => 9

/-- The words that read scalar registers and write one, and touch nothing else (R93 to R96): guard, destination and sources. -/
def registerWord : Instr → Option (Guard × Nat × List Nat)
  | .add o | .sub o | .mul o | .mulh o | .mulhu o | .div o | .divu o | .rem o | .remu o | .min o | .minu o | .max o | .maxu o
  | .and o | .or o | .xor o | .andn o | .shl o | .shr o | .sra o | .rol o | .bext o | .sext o | .zext o => some (o.g, o.d, [o.a, o.b])
  | .bins o => some (o.g, o.d, [o.d, o.a, o.b])
  | .madd o => some (o.g, o.d, [o.a, o.b, o.c])
  | .sel o => some (o.g, o.d, [o.a, o.b])
  | .clz o | .ctz o | .popc o => some (o.g, o.d, [o.a])
  | .addi o | .andi o | .ori o | .xori o => some (o.g, o.d, [o.a])
  | .shli o | .shri o | .srai o => some (o.g, o.d, [o.a])
  | .li o => some (o.g, o.d, [])
  | .lih o => some (o.g, o.d, [o.a])
  | _ => none

/-- The words that read registers and write a predicate (R97, R98): guard, destination and the scalar registers read. -/
def predicateWord : Instr → Option (Guard × Fin 8 × List Nat)
  | .cmpEq o | .cmpNe o | .cmpLt o | .cmpLtu o | .cmpLe o | .cmpLeu o => some (o.g, o.d, [o.a, o.b])
  | .cmpiEq o | .cmpiNe o | .cmpiLt o | .cmpiLtu o | .cmpiLe o | .cmpiLeu o => some (o.g, o.d, [o.a])
  | .pand o | .por o | .pxor o => some (o.g, o.d, [])
  | .pnot o => some (o.g, o.d, [])
  | _ => none

/-- Everything of the part but the acting agent's tile is as before. -/
structure OnlyTile (a : Nat) (s t : State) : Prop where
  others : ∀ b, b ≠ a → tile t b = tile s b
  mem : t.mem = s.mem
  dies : t.dies = s.dies
  tasks : t.tasks = s.tasks
  dev : t.dev = s.dev
  transit : t.transit = s.transit
  now : t.now = s.now
  agenda : t.agenda = s.agenda

/-- Of the acting agent's tile, everything but its control core is as before, the progress mark of R378 apart. -/
structure OnlyCore (a : Nat) (s t : State) : Prop extends OnlyTile a s t where
  vec : (tile t a).vec = (tile s a).vec
  mat : (tile t a).mat = (tile s a).mat
  mov : (tile t a).mov = (tile s a).mov
  reed : (tile t a).reed = (tile s a).reed
  fifo : (tile t a).fifo = (tile s a).fifo
  pad : (tile t a).pad = (tile s a).pad
  banks : (tile t a).banks = (tile s a).banks

/-- Of the control core, the registers a trap saves into and the token marks are as before. -/
structure TrapRegsKept (c d : Core) : Prop where
  cause : d.trapCause = c.trapCause
  pc : d.trapPc = c.trapPc
  info : d.trapInfo = c.trapInfo
  src : d.trapSrc = c.trapSrc
  vec : d.trapVec = c.trapVec
  isIn : d.trapIn = c.trapIn
  tok : d.tok = c.tok
  amiss : d.amiss = c.amiss

/-- The outcome is a precise trap of the word at the acting core's place, no load of it outstanding: the trap registers and IN are written, no
other register and, but for what its checks have left in `s1`, nothing else of the part (R92, R137). -/
def TrapsBy (o : Out) (s s1 : State) (cause : Nat) (info : Word) : Prop :=
  (core s s.cur).resp = [] → ∃ t, o = .next t ∧ (core t s.cur).trapCause = BitVec.ofNat 8 cause ∧ (core t s.cur).trapInfo = info ∧
    (core t s.cur).trapPc = BitVec.ofNat 64 (core s s.cur).pc ∧ (core t s.cur).trapIn = true ∧
    (∀ r, rdS (core t s.cur) r = rdS (core s s.cur) r) ∧ (∀ p, rdP (core t s.cur) p = rdP (core s s.cur) p) ∧ OnlyCore s.cur s1 t

/-- The word takes a precise trap (R92, R137). -/
def Traps (i : Instr) (s s1 : State) (cause : Nat) (info : Word) : Prop := TrapsBy (exec i s) s s1 cause info

/-- From s to t an agent's unpublished stores have been published (R131): none is left but those of a move record in progress; with each
byte listed once, none of them on a lost device, a die out of reach or a peer without a route, memory holds each of them and every other
byte as before. -/
structure Published (a : Nat) (s t : State) : Prop where
  left : (core t a).unpub = []
  kept : (core t a).recUnpub = (core s a).recUnpub
  bytes : ((core s a).unpub.map (·.1)).Nodup → (∀ e ∈ (core s a).unpub, arrives s a e.1 = true) →
    (∀ e ∈ (core s a).unpub, getB t.mem e.1 = e.2) ∧ ∀ x, (∀ e ∈ (core s a).unpub, e.1 ≠ x) → getB t.mem x = getB s.mem x

/-- The named engines' queues have one entry more, the others none; each entry starts at its own point with the same parameters. -/
def Queued (s t : Tile) (e : EMask) (x m v : Nat) (p0 p1 : Word) (tag : Nat) (bank : Bank) : Prop :=
  t.mov.queue = (if e.x then s.mov.queue ++ [⟨x, p0, p1, tag, bank⟩] else s.mov.queue) ∧
  t.mat.queue = (if e.m then s.mat.queue ++ [⟨m, p0, p1, tag, bank⟩] else s.mat.queue) ∧
  t.vec.queue = (if e.v then s.vec.queue ++ [⟨v, p0, p1, tag, bank⟩] else s.vec.queue)

/-! ## When a slot of a V pair issues (R65, R69, R75, R153) -/

/-- Features enabled, v registers declared, guard true and tokens to pop present, for the vector engine of the agent that acts. -/
structure SlotReady (s : State) (feats regs : List Nat) (g : VGuard) (tok : VTok) : Prop where
  enabled : ∀ n ∈ feats, feature s n = true
  declared : ∀ r ∈ regs, r < (hdr s s.cur).vregs
  guard : pairGuard (tile s s.cur).vec g = true
  tokens : tokensFor (tile s s.cur).fifo (popsOf tok) = true

/-- A slot with no tokens to pop. -/
def noTok : VTok := ⟨false, false, false, false⟩

/-- The vector engine of the agent that acts. -/
def vec (s : State) : Vec := (tile s s.cur).vec

/-- The scalar slot is done: a change of the scalar registers, the next pair, one slot gone by. -/
def scalarDone (s : State) (f : Vec → Vec) : State :=
  modVec (progress s s.cur) s.cur (fun v => vecGo (vecPc v + 1) (f v))

/-- Nothing of the registers a pair reads has changed. -/
structure RegistersKept (v w : Vec) : Prop where
  lanes : w.v = v.v
  masks : w.m = v.m
  scalars : w.k = v.k
  conditions : w.g = v.g
  counters : w.lc = v.lc
  raised : w.flags = v.flags
  time : w.slot = v.slot
  place : w.run = v.run

/-- A vector slot leaves lanes of d in flight, due after `lat` slots: in each lane the mask selects its value, with the flags given; the
pops are made, no register is written yet, and nothing but the tile's vector engine, FIFOs and progress mark changes. -/
def Sends (i : Instr) (s : State) (c : VCtl) (lat d : Nat) (mask : Word) (f : Nat → Lane) (flags : Flags) : Prop :=
  ∃ t fl, exec i s = .next t ∧ (vec t).flight = (vec s).flight ++ [fl] ∧ fl.due = (vec s).slot + lat ∧ fl.m = none ∧
    (∀ k x, (k, x) ∈ fl.v ↔ ∃ l < 64, mask.getLsbD l = true ∧ k = 64 * d + l ∧ x = f l) ∧ fl.flags = flags ∧
    fl.push = pushesOf c.tok ∧ (tile t s.cur).fifo = popFrom (tile s s.cur).fifo (popsOf c.tok) ∧
    RegistersKept (vec s) (vec t) ∧ (tile t s.cur).pad = (tile s s.cur).pad ∧ (tile t s.cur).core = (tile s s.cur).core ∧
    OnlyTile s.cur s t

/-- The same for a result of mask bits: bit l of the destination becomes f l where the mask selects it. -/
def SendsMask (i : Instr) (s : State) (c : VCtl) (d : Nat) (mask : Word) (f : Nat → Bool) : Prop :=
  ∃ t fl x, exec i s = .next t ∧ (vec t).flight = (vec s).flight ++ [fl] ∧ fl.due = (vec s).slot + 2 ∧ fl.v = [] ∧
    fl.m = some (d, mask, x) ∧ (∀ l < 64, x.getLsbD l = f l) ∧ fl.flags = 0 ∧
    fl.push = pushesOf c.tok ∧ (tile t s.cur).fifo = popFrom (tile s s.cur).fifo (popsOf c.tok) ∧
    RegistersKept (vec s) (vec t) ∧ (tile t s.cur).pad = (tile s s.cur).pad ∧ (tile t s.cur).core = (tile s s.cur).core ∧
    OnlyTile s.cur s t

/-- A vector slot that stores: no result in flight, its pushes made, and the scratchpad as given. -/
def Stores (i : Instr) (s : State) (pad : Mem → Prop) : Prop :=
  ∃ t, exec i s = .next t ∧ (vec t).flight = (vec s).flight ∧ pad (tile t s.cur).pad ∧ RegistersKept (vec s) (vec t) ∧
    (tile t s.cur).core = (tile s s.cur).core ∧ OnlyTile s.cur s t

/-- The flags of the lanes a mask selects. -/
def laneFlags (mask : Word) (h : Nat → Flags) : Flags := (lanesOf mask).foldl (fun g l => g ||| h l) 0

/-- Operand b of a lane of 32 bits: a register, or the immediate in every lane (R156). -/
def operandB (v : Vec) (b : VSrc) (l : Nat) : Lane := match b with | .reg r => rdV v r l | .imm x => x

/-- Operand b of a lane of two 16-bit elements: the low half of the immediate in both. -/
def operandB16 (v : Vec) (b : VSrc) (l : Nat) : Lane :=
  match b with | .reg r => rdV v r l | .imm x => BitVec.ofNat 32 (x.toNat % 2 ^ 16 + x.toNat % 2 ^ 16 * 2 ^ 16)

/-- The registers operand b names. -/
def namesB (b : VSrc) : List Nat := match b with | .reg r => [r.val] | .imm _ => []

/-- The outcome is a trap of the vector engine, which stops before the pair (R137, R138, R177): what is in flight stands in the flight
buffer, no token is popped, no register and no byte is written; the trap, which names the pair, falls due at the control core, or is held
while the run is speculative (R269). -/
def VecTrapsBy (o : Out) (s : State) (cause : Nat) (info : Word) : Prop :=
  let trap : Pending := ⟨cause, info, BitVec.ofNat 64 (2 ^ 61 + vecPc (vec s) % 2 ^ 13 * 2 ^ 48)⟩
  ∀ r, (vec s).run = some r → ∃ t, o = .next t ∧ (vec t).trapped = true ∧ (vec t).flight = [] ∧
    (vec t).buffer = (vec s).buffer ++ (vec s).flight.map (fun f => { f with due := f.due - (vec s).slot }) ∧
    RegistersKept (vec s) (vec t) ∧ (tile t s.cur).fifo = (tile s s.cur).fifo ∧ (tile t s.cur).pad = (tile s s.cur).pad ∧
    (∀ n, rdS (core t s.cur) n = rdS (core s s.cur) n) ∧ OnlyTile s.cur s t ∧
    (r.e.bank = .none → (core t s.cur).async = (core s s.cur).async ++ [trap] ∧ (core t s.cur).latch = true) ∧
    (r.e.bank ≠ .none → (vec t).held = some trap ∧ (core t s.cur).async = (core s s.cur).async)

/-- The slot traps: the vector engine stops before its pair (R137, R177). -/
def VecTraps (i : Instr) (s : State) (cause : Nat) (info : Word) : Prop := VecTrapsBy (exec i s) s cause info

/-- The feature stochastic rounding belongs to (R394). -/
def roundFeat (r : RMode) : List Nat := if r = .sr then [5] else []

/-- What checks 2 and 3 of R75 look at in a vector slot: the features it belongs to, the v registers it names, its tokens. -/
def vectorWord : Instr → Option (List Nat × List Nat × VTok)
  | .vld o | .vst o => some ([], [o.r.val], o.c.tok)
  | .vldb o | .vstN o => some ([], [o.r.val], o.c.tok)
  | .vldx o | .vstx o => some ([], [o.r.val, o.idx.val], o.c.tok)
  | .vperm o | .vsel o => some ([], [o.d.val, o.a.val, o.b.val], o.c.tok)
  | .vrot o | .vbcast o => some ([], [o.d.val, o.a.val], o.c.tok)
  | .vbcastK o => some ([], [o.d.val], o.c.tok)
  | .vadd o | .vsub o | .vmul o | .vmin o | .vmax o => some ([], o.d.val :: o.a.val :: namesB o.b, o.c.tok)
  | .vfma o => some ([], o.d.val :: o.a.val :: namesB o.b ++ [o.cc.val], o.c.tok)
  | .vabs o | .vneg o | .vrcp o | .vrsq o | .vexp2 o | .vlog2 o | .vred o => some ([], [o.d.val, o.a.val], o.c.tok)
  | .viadd o | .visub o | .vimul o | .vand o | .vor o | .vxor o | .vshl o | .vshr o | .vsra o | .vimin o | .vimax o | .viminu o
  | .vimaxu o => some ([], o.d.val :: o.a.val :: namesB o.b, o.c.tok)
  | .vicmp o => some ([], [o.a.val, o.b.val], o.c.tok)
  | .vcmp o => some ([], [o.a.val, o.b.val], o.c.tok)
  | .vcvt o => some (roundFeat o.r, [o.d.val, o.a.val], o.c.tok)
  | .vpack o => some (roundFeat o.r, [o.d.val, o.a.val, o.b.val], o.c.tok)
  | .vunpk o => some ([], [o.d.val, o.a.val], o.c.tok)
  | .vrns o => some ([3], [o.d.val, o.a.val], o.c.tok)
  | .vcrt o => some (3 :: roundFeat o.r, [o.d.val, o.a.val], o.c.tok)
  | .vredI32 o | .vscan o | .vscanI32 o => some ([], [o.d.val, o.a.val], o.c.tok)
  | .kseed _ => some ([5], [], noTok)
  | .kfrom o => some ([], [o.v.val], noTok)
  | _ => none

/-- Of the lanes a mask selects, the first of those `bad` names: every lower one is not (R164). -/
def FirstLane (mask : Word) (bad : Nat → Bool) (l : Nat) : Prop :=
  l < 64 ∧ mask.getLsbD l = true ∧ bad l = true ∧ ∀ j < l, mask.getLsbD j = true → bad j = false

/-- Of the lanes a mask selects, `bad` names none. -/
def NoLane (mask : Word) (bad : Nat → Bool) : Prop := ∀ l < 64, mask.getLsbD l = true → bad l = false

/-- The checks of R164 on a slot whose lane l touches n bytes from an address: `aligned` for the forms of four bytes. -/
def LaneTraps (i : Instr) (s : State) (mask : Word) (aligned : Bool) (addr : Nat → Int) (n : Nat → Nat) : Prop :=
  let skew := fun (l : Nat) => aligned && decide (addr l % 4 ≠ 0)
  let out := fun (l : Nat) => decide (addr l < 0) || decide (((hdr s s.cur).scratch : Int) < addr l + n l)
  (∀ l, FirstLane mask skew l → VecTraps i s 0x05 (BitVec.ofInt 64 (addr l))) ∧
  (∀ l, NoLane mask skew → FirstLane mask out l → VecTraps i s 0x04 (BitVec.ofInt 64 (addr l)))

/-! ## Exact values and rounding (R28 to R30, R42 to R44) -/

/-- A finite value stands for a magnitude, with a sign, which a zero has too. -/
def Stands (v : Val) (neg : Bool) (a : ℚ) : Prop := ∃ n d e, v = .num neg n d e ∧ d ≠ 0 ∧ (n : ℚ) / d * 2 ^ e = a

/-- A finite value means a number. -/
def Means (v : Val) (q : ℚ) : Prop := ∃ neg a, Stands v neg a ∧ q = if neg then -a else a

/-- A floating format of R29: its exponent and fraction bits, its bias, whether it has infinities, its canonical NaN, its largest
finite code and number. -/
structure Floating where
  code : Nat
  e : Nat
  m : Nat
  bias : Nat
  inf : Bool
  nan : Option Nat
  maxCode : Nat
  maxFinite : ℚ

/-- The table of R29, R31 and R32. -/
def floats : List Floating :=
  [⟨0x08, 8, 23, 127, true, some 0x7FC00000, 0x7F7FFFFF, (2 ^ 24 - 1) * 2 ^ 104⟩, ⟨0x09, 8, 7, 127, true, some 0x7FC0, 0x7F7F, (2 ^ 8 - 1) * 2 ^ 120⟩,
   ⟨0x0A, 5, 10, 15, true, some 0x7E00, 0x7BFF, 65504⟩, ⟨0x0B, 4, 3, 7, false, some 0x7F, 0x7E, 448⟩,
   ⟨0x0C, 5, 2, 15, true, some 0x7E, 0x7B, 57344⟩, ⟨0x0D, 2, 1, 1, false, none, 0x7, 6⟩, ⟨0x0E, 3, 2, 3, false, none, 0x1F, 28⟩,
   ⟨0x0F, 2, 3, 1, false, none, 0x1F, 15 / 2⟩]

/-- The integer formats of R28: code, width, range. -/
def integers : List (Nat × Nat × Int × Int) :=
  [(0x00, 8, -128, 127), (0x01, 8, 0, 255), (0x02, 16, -32768, 32767), (0x03, 32, -2147483648, 2147483647), (0x04, 4, -8, 7)]

/-- The multiple of a spacing that R42 takes for a magnitude. -/
def rounded (mode : RMode) (u : Nat) (a q : ℚ) : Nat :=
  let n := ⌊a / q⌋₊
  let f := a / q - n
  if (mode = .rne ∧ (1 / 2 < f ∨ (f = 1 / 2 ∧ n % 2 = 1))) ∨ (mode = .sr ∧ (u : ℤ) < ⌊f * 2 ^ 32⌋) then n + 1 else n

/-- A magnitude is no multiple of a spacing: rounding it sets NX (R42). -/
def Inexact (a q : ℚ) : Prop := (⌊a / q⌋₊ : ℚ) * q ≠ a

/-! ## When a record is accepted (R69, R75, R187) -/

/-- The matrix engine of the agent that acts. -/
def mat (s : State) : Mat := (tile s s.cur).mat

/-- The matrix engine may accept the record: free, features enabled, check 3 passed, tokens to pop present and not popped yet. -/
structure MatReady (s : State) (feats : List Nat) (c3 : Option Word) (ld : Bool) (r : MRec) : Prop where
  free : mayAccept (mat s) ld = true
  enabled : ∀ n ∈ feats, feature s n = true
  declared : c3 = none
  fresh : (mat s).popped = false
  tokens : tokensFor (tile s s.cur).fifo (matPops r) = true

/-- A matrix record is accepted: its number, its pops, the engine at the next record (no repetition goes on), and it is in progress with
the flags given; it has made its writes to the accumulators, the planes and the scratchpad as `effect` says, and nothing else of the part
changes. A record that an LDSTAT overlaps is marked: no other overlaps it (R187). -/
def InProgress (i : Instr) (s : State) (r : MRec) (shadow last : Bool) (effect : Tile → Flags → Prop) : Prop :=
  ∃ t d, exec i s = .next t ∧ (mat t).accepted = (mat s).accepted + 1 ∧ (mat t).busy = (mat s).busy.map (fun e => { e with shadow := true }) ++ [d] ∧
    d.n = ((mat s).accepted + 1).toNat ∧ d.push = matPushes r ∧ d.shadow = shadow ∧ d.last = last ∧
    (tile t s.cur).fifo = popFrom (tile s s.cur).fifo (matPops r) ∧ (mat t).tl = (mat s).tl ∧ (mat t).flags = (mat s).flags ∧
    (tile t s.cur).core = (tile s s.cur).core ∧ (vec t) = (vec s) ∧ effect (tile t s.cur) d.flags ∧ OnlyTile s.cur s t

/-- The outcome is the fault of a matrix record at acceptance (R75, R137, R186): the engine parks at it, with no number taken and no
effect but the pops, where its checks come after them; the trap, which names the record, falls due at the control core, or is held while
the run is speculative. -/
def MatFaultsBy (o : Out) (s : State) (pops : Option MRec) (cause : Nat) (info : Word) : Prop :=
  ∀ q, (mat s).run = some q → q.stop = false →
    let trap : Pending := ⟨cause, info, BitVec.ofNat 64 (2 ^ 62 + q.pc % 2 ^ 13 * 2 ^ 48)⟩
    ∃ t, o = .next t ∧ (mat t).parked = true ∧ (mat t).accepted = (mat s).accepted ∧ (mat t).tl = (mat s).tl ∧
      (mat t).busy = (mat s).busy ∧ (mat t).acc = (mat s).acc ∧ (mat t).active = (mat s).active ∧ (mat t).shadow = (mat s).shadow ∧
      (mat t).flags = (mat s).flags ∧ (mat t).run = some q ∧ (tile t s.cur).pad = (tile s s.cur).pad ∧
      (tile t s.cur).fifo = (match pops with | some r => popFrom (tile s s.cur).fifo (matPops r) | none => (tile s s.cur).fifo) ∧
      OnlyTile s.cur s t ∧
      (q.e.bank = .none → (core t s.cur).async = (core s s.cur).async ++ [trap] ∧ (core t s.cur).latch = true) ∧
      (q.e.bank ≠ .none → (mat t).held = some trap ∧ (core t s.cur).async = (core s s.cur).async)

/-- The matrix record faults at acceptance (R75, R186). -/
def MatFaults (i : Instr) (s : State) (pops : Option MRec) (cause : Nat) (info : Word) : Prop := MatFaultsBy (exec i s) s pops cause info

/-- The least address of a kind. -/
def Least (p : Int → Prop) (a : Int) : Prop := p a ∧ ∀ b, p b → a ≤ b

/-- Orders 2 and 3 of R186 on a record whose fields pass: the addresses at which an element or base is misaligned, whether a stride is,
and the bytes it touches. Where a stride alone is misaligned the spec states no address. -/
def SpanFaults (i : Instr) (s : State) (r : MRec) (skew : Int → Prop) (stride : Prop) (touch : Int → Prop) : Prop :=
  (∀ a, Least skew a → MatFaults i s (some r) 0x05 (BitVec.ofInt 64 a)) ∧
  ((∀ a, ¬skew a) → stride → ∃ x, MatFaults i s (some r) 0x05 x) ∧
  ((∀ a, ¬skew a) → ¬stride → ∀ a, Least (fun x => touch x ∧ (x < 0 ∨ ((hdr s s.cur).scratch : Int) ≤ x)) a →
    MatFaults i s (some r) 0x04 (BitVec.ofInt 64 a))

/-- What checks 2 and 3 of R75 look at in a matrix record: which of its accumulator and format fields it uses, whether a format must be an
operand (R25), the further features it belongs to, whether its flags count, whether it may overlap a record in progress. -/
structure MatUse where
  r : MRec
  acc : Bool
  a : Bool
  b : Bool
  operand : Bool
  extra : List Nat
  flags : Bool
  ld : Bool

def matrixWord : Instr → Option MatUse
  | .ldstat r => some ⟨r, false, false, true, true, [], true, true⟩
  | .mma r => some ⟨r, true, true, true, true, [], true, false⟩
  | .mmabs r => some ⟨r, true, true, true, true, [2], true, false⟩
  | .mdist r => some ⟨r, true, true, true, true, [4], true, false⟩
  | .mtopk r | .mbotk r => some ⟨r, true, true, false, false, [4], true, false⟩
  | .accz r => some ⟨r, true, false, false, false, [], false, false⟩
  | .accld r | .accadd r | .accrd r => some ⟨r, true, true, true, false, [], true, false⟩
  | _ => none

/-- R394: the record belongs to a feature. -/
def MatUse.Needs (u : MatUse) (n : Nat) : Prop :=
  let uses := fun (fs : List Nat) => (u.a = true ∧ u.r.fmta.toNat ∈ fs) ∨ (u.b = true ∧ u.r.fmtb.toNat ∈ fs)
  (n = 0 ∧ uses [0x0B, 0x0C]) ∨ (n = 1 ∧ uses [0x0D, 0x0E, 0x0F, 0x04]) ∨ (n = 3 ∧ uses [0x00, 0x18]) ∨ n ∈ u.extra ∨
    (u.flags = true ∧ ((n = 2 ∧ u.r.fl.bs = true) ∨ (n = 5 ∧ u.r.fl.sr = true)))

/-- The planes are as before. -/
def PlanesKept (s : State) (t : Tile) : Prop := t.mat.active = (mat s).active ∧ t.mat.shadow = (mat s).shadow

/-- The word of an accumulator at a row and column. -/
def accWord (m : Mat) (acc row col : Nat) : Nat := (getAt 0 m.acc (acc * 8192 + row * 64 + col)).toNat

/-- Every accumulator word but those of rows c to c + rows - 1 and columns below cols of one accumulator is as before. -/
def OtherWordsKept (m n : Mat) (acc c rows cols : Nat) : Prop :=
  ∀ k, (∀ q < rows, ∀ j < cols, k ≠ acc * 8192 + (c + q) * 64 + j) → getAt 0 n.acc k = getAt 0 m.acc k

/-! ## When a move record is accepted (R69, R75, R231) -/

/-- The move engine of the agent that acts. -/
def mov (s : State) : Mov := (tile s s.cur).mov

/-- The move engine may take a record: none in progress, no push waiting, not stopped, no peer's answer awaited. -/
structure MovFree (s : State) : Prop where
  free : (mov s).busy = none
  pushed : (mov s).push = none
  unparked : (mov s).parked = none
  unpaused : (mov s).paused = false
  answered : awaitsPeer s (mov s) = false
  going : movStopped (mov s) = false

/-- The move engine may accept the record: free, features enabled, check 3 passed, tokens to pop present and not popped yet. -/
structure MovReady (s : State) (feats : List Nat) (c3 : Option XBad) (r : XRec) : Prop extends MovFree s where
  fresh : (mov s).popped = false
  enabled : ∀ n ∈ feats, feature s n = true
  declared : c3 = none
  tokens : tokensFor (tile s s.cur).fifo (movPops r) = true

/-- The state in which check 4 is made: the record's pops are made. -/
def popsMade (s : State) (r : XRec) : State :=
  modTile s s.cur (fun t => { t with fifo := popFrom t.fifo (movPops r), progress := true, mov := { t.mov with popped := true } })

/-- The registers of the control core are as before, but that the record's token register waits for its token. -/
structure TokenMarked (r : XRec) (c d : Core) : Prop where
  registers : ∀ n, rdS d n = rdS c n
  predicates : d.p = c.p
  place : d.pc = c.pc
  marked : r.treg ≠ 0 → tokPending d r.treg = true
  others : ∀ n, n < 64 → n ≠ r.treg.val → tokPending d n = tokPending c n

/-- What checks 2 and 3 of R75 look at in a move record: whether its flags count, the features it belongs to beside them, whether it names
a map slot, whether it has an output format. -/
structure MovUse where
  r : XRec
  flags : Bool
  extra : List Nat
  slot : Bool
  format : Bool

def moveWord : Instr → Option MovUse
  | .xnop r | .xend r | .xrep r | .signal r | .wellrd r => some ⟨r, false, [], false, false⟩
  | .mapset r | .mapswap r | .mapclr r | .mapready r => some ⟨r, false, [], true, false⟩
  | .store r | .copy r | .fill r => some ⟨r, true, [], false, false⟩
  | .load r | .send r | .gather r | .scatter r | .coll r => some ⟨r, true, [], false, true⟩
  | .reds r => some ⟨r, true, [9], false, true⟩
  | _ => none

/-- R394: the record belongs to a feature. -/
def MovUse.Needs (u : MovUse) (n : Nat) : Prop :=
  n ∈ u.extra ∨ (u.flags = true ∧ ((n = 2 ∧ u.r.fl.bscl = true) ∨ (n = 5 ∧ u.r.fl.sr = true) ∨ (n = 7 ∧ u.r.fl.sync = true) ∨
    (n = 8 ∧ u.r.fl.wq = true)))

/-- The data records: which they are, the features they belong to beside their flags, whether they have an output format. -/
def dataWord : Instr → Option (XKind × XRec × List Nat × Bool)
  | .load r => some (.load, r, [], true)
  | .store r => some (.store, r, [], false)
  | .copy r => some (.copy, r, [], false)
  | .fill r => some (.fill, r, [], false)
  | .send r => some (.send, r, [], true)
  | .gather r => some (.gather, r, [], true)
  | .scatter r => some (.scatter, r, [], true)
  | .coll r => some (.coll, r, [], true)
  | .reds r => some (.reds, r, [9], true)
  | _ => none

/-- The trap of a move record at its place in its run, number n where it has one: due at the control core, or held while the run is
speculative; `c` is the core before. -/
def MovTrap (s t : State) (c : Core) (q : RunState) (n cause : Nat) (info : Word) : Prop :=
  let trap : Pending := ⟨cause, info, BitVec.ofNat 64 (3 * 2 ^ 61 + q.pc % 2 ^ 13 * 2 ^ 48 + n % 2 ^ 48)⟩
  (q.e.bank = .none → (core t s.cur).async = c.async ++ [trap] ∧ (core t s.cur).latch = true) ∧
  (q.e.bank ≠ .none → (mov t).held = some trap ∧ (core t s.cur).async = c.async)

/-- The outcome is the fault of a move record at acceptance (R75, R137, R231): the engine parks at it, with no number taken, no token
register marked and no effect but the pops, where its checks come after them, and what the checks' fetches have left in `s1`. -/
def MovFaultsBy (o : Out) (s s1 : State) (treg : Nat) (pops : Option XRec) (cause : Nat) (info : Word) : Prop :=
  ∀ q, (mov s).run = some q → ∃ t, o = .next t ∧ (mov t).parked = some (cause, treg) ∧ (mov t).busy = none ∧
    (mov t).accepted = (mov s).accepted ∧ (mov t).tl = (mov s).tl ∧ (mov t).flags = (mov s).flags ∧ (mov t).run = some q ∧
    (tile t s.cur).fifo = (match pops with | some r => popFrom (tile s s.cur).fifo (movPops r) | none => (tile s s.cur).fifo) ∧
    (tile t s.cur).pad = (tile s s.cur).pad ∧ (core t s.cur).tok = (core s s.cur).tok ∧
    (∀ n, rdS (core t s.cur) n = rdS (core s s.cur) n) ∧ MovTrap s t (core s1 s.cur) q 0 cause info ∧ OnlyTile s.cur s1 t

/-- The move record faults at acceptance (R75, R231). -/
def MovFaults (i : Instr) (s s1 : State) (r : XRec) (pops : Bool) (cause : Nat) (info : Word) : Prop :=
  MovFaultsBy (exec i s) s s1 r.treg (if pops then some r else none) cause info

/-- A move record is accepted: its number, its pops, its token register marked, and it is in progress, as `effect` says. -/
def Taken (i : Instr) (s : State) (r : XRec) (effect : State → MovDone → Prop) : Prop :=
  ∃ t d, exec i s = .next t ∧ t.cur = s.cur ∧ (mov t).accepted = (mov s).accepted + 1 ∧ (mov t).busy = some d ∧
    d.n = ((mov s).accepted + 1).toNat ∧ d.treg = r.treg ∧ d.push = movPushes r ∧ (mov t).tl = (mov s).tl ∧
    (tile t s.cur).fifo = popFrom (tile s s.cur).fifo (movPops r) ∧ (mov t).run = (mov s).run ∧
    TokenMarked r (core s s.cur) (core t s.cur) ∧ effect t d

/-- An accepted move record meets a fault in the data (R256): it has its number, its pops and its token mark, its effects up to the
coordinate to resume from stand as `effect` says, and the engine parks at it. -/
def Parks (i : Instr) (s : State) (r : XRec) (resume cause : Nat) (info : Word) (effect : State → MovDone → Prop) : Prop :=
  ∀ q, (mov s).run = some q → Taken i s r (fun t d => (mov t).parked = some (cause, r.treg.val) ∧ (mov t).resume = resume ∧ d.wait = .resume ∧
    (∃ c : Core, MovTrap s t c q d.n cause info) ∧ effect t d)

/-- Where an element of a shape lies in the scratchpad: its byte, the bit within it and the bytes it touches. -/
def padPlace (sh : Shape) (c : List Int) : Nat × Nat × Nat :=
  let (o, bit, n) := elemOff sh c
  ((ptrAddr sh.base + o).toNat, bit, n)

/-- The bits of an element of a shape in the scratchpad; zero outside the extents (R233). -/
def padElem (m : Mem) (sh : Shape) (c : List Int) : Nat :=
  if inExt sh c then let (a, bit, n) := padPlace sh c; readN m a n / 2 ^ bit % 2 ^ fmtWidth sh.fmt else 0

/-- Element e of a burst whose elements have w bits. -/
def burstElem (b : Burst) (w e : Nat) : Nat := b.flits.getD (e / (512 / w)) 0 / 2 ^ (e % (512 / w) * w) % 2 ^ w

/-- Steps of the generator up to and with position l of a traversal: each run of a step takes one for its every 64 elements (R55). -/
def stepsAt (els : List (XRun × Nat)) (l : Nat) : Nat := ((els.take (l + 1)).filter (fun p => p.2 % 64 == 0)).length

/-- R55: a step of a stream's generator, and what element e of a step takes from its state, elements of w bits. -/
def xorshift (x : BitVec 32) : BitVec 32 :=
  let x := x ^^^ (x <<< 13)
  let x := x ^^^ (x >>> 17)
  x ^^^ (x <<< 5)
def drawnBits (w : Nat) (x : BitVec 32) (e : Nat) : Nat :=
  (x.rotateLeft ((if w = 16 then 7 * (e / 2 % 64) + 16 * (e % 2) else 7 * (e % 64)) % 32)).toNat

/-- R236: an element of a traversal as it goes out, with its flags: x its bits, l its position, e its place in its run. -/
def outElem (s : State) (r : XRec) (fmt ofmt : Nat) (els : List (XRun × Nat)) (l e x : Nat) : Nat × Flags :=
  if r.fl.cvt then
    convert ofmt (if r.fl.sr then .sr else .rne) (if r.fl.sr then drawnBits (fmtWidth ofmt) (xorshift^[stepsAt els l] (mov s).seed) e else 0)
      (value fmt x)
  else (x, 0)

/-- A piece of a run of a traversal: the position of its first element, its run, its first element there and its length. -/
structure Piece where
  pos : Nat
  run : XRun
  start : Nat
  len : Nat

/-- The pieces of at most b elements into which R237 cuts the runs of a traversal. -/
def cutPieces (b : Nat) : List XRun → Nat → List Piece
  | [], _ => []
  | q :: qs, l => (List.range ((q.n + b - 1) / b)).map (fun i => ⟨l + i * b, q, i * b, Nat.min b (q.n - i * b)⟩) ++ cutPieces b qs (l + q.n)

/-- R205, R207: the elements a burst holds at most, four payload flits of them, whole blocks of 32 with scales. -/
def mostElems (w : Nat) (bscl : Bool) : Nat := if bscl then 4 * (512 / w) / 32 * 32 else 4 * (512 / w)

/-- The scale byte of an element's block in the scratchpad (R35). -/
def padScale (m : Mem) (sh : Shape) (c : List Int) : Nat := readN m ((ptrAddr sh.scale : Int) + shapeScale sh c).toNat 1

/-- A data burst carries n elements of a shape, whose bits are `out`, with the scales `scale` gives for its blocks (R205 to R207, R237). -/
structure Carries (r : XRec) (sh : Shape) (g n : Nat) (out : Nat → Nat) (scale : Nat → Option Nat) (cs : List Nat) (b : Burst) : Prop where
  tensor : b.tensor = sh.tensor
  fmt : b.fmt = g
  kind : b.kind = 0
  runlen : b.runlen = n
  coords : b.coords = cs
  ndim : b.ndim = cs.length
  sync : b.sync = r.fl.sync
  bscl : b.bscl = r.fl.bscl
  flits : b.flits.length = (n + 512 / fmtWidth g - 1) / (512 / fmtWidth g)
  elems : ∀ e < n, burstElem b (fmtWidth g) e = out e
  scales : r.fl.bscl = true → ∀ k < n / 32, ∀ x, scale k = some x → b.scales / 2 ^ (8 * k) % 256 = x

/-- A record whose checks pass and whose elements, and scales where it has them, lie in the scratchpad, executed outside a repetition. -/
structure PadRecord (s : State) (k : XKind) (r : XRec) (f : XFetch) : Prop where
  checked : (dataChecks k r (popsMade s r)).1 = .ok (some f)
  once : (mov s).rep = none
  record : isPad r.shape = true
  source : bitOf f.sh.base 63 = true
  scaled : isMX f.sh.fmt = true → bitOf f.sh.scale 63 = true

/-- One that neither converts nor has scales nor takes a fingerprint. -/
structure PlainRecord (s : State) (k : XKind) (r : XRec) (f : XFetch) : Prop extends PadRecord s k r f where
  unconverted : r.fl.cvt = false
  unscaled : r.fl.bscl = false
  unmeasured : r.fl.fpr = false
  unblocked : isMX f.sh.fmt = false

/-! ## Event records (R362, R363) -/

/-- From s to t one event record of a type, cause and die is written at the head of the ring, or counted as lost where the ring is not
enabled or full. -/
def Recorded (s t : State) (type cause d : Nat) : Prop :=
  let v := s.dev
  if v.evbase.toNat % 2 = 1 ∧ v.evhead - v.evtail < 2 ^ v.evsize then
    let g0 := readN t.mem (hostBase + bits v.evbase.toNat 51 12 * 4096 + 64 * (v.evhead % 2 ^ v.evsize)) 8
    t.dev.evhead = (v.evhead + 1) % 2 ^ 48 ∧ bits g0 63 56 = type ∧ bits g0 55 48 = cause ∧ bits g0 47 45 = d
  else t.dev.evlost = Nat.min (v.evlost + 1) (2 ^ 16 - 1) ∧ t.mem = s.mem

/-- A counter of a die (R382). -/
def counter (s : State) (d code : Nat) : Nat := getAt 0 (die s d).counters code

/-- A word whose address s1 translates lies on a lost device or a die that no path reaches: it goes on, trap 0x16 falls due
asynchronously with the VA, and no byte of memory changes (R389, R390). -/
def RaisesLost (i : Instr) (s s1 : State) (va : Nat) : Prop :=
  ∃ t src, exec i s = .next t ∧ (core t s.cur).pc = (core s s.cur).pc + 1 ∧
    (core t s.cur).async = (core s1 s.cur).async ++ [⟨0x16, BitVec.ofNat 64 va, src⟩] ∧ t.mem = s1.mem

/-- A word whose address lies on a peer without a route goes on; its request is discarded and counted in NOROUTE of die 4 (R364). -/
def Discards (i : Instr) (s s1 : State) : Prop :=
  ∃ t, exec i s = .next t ∧ (core t s.cur).pc = (core s s.cur).pc + 1 ∧
    counter t 4 0x04 = Nat.min (counter s1 4 0x04 + 1) (2 ^ 48 - 1) ∧
    (core t s.cur).unpub = (core s1 s.cur).unpub ∧ (core t s.cur).dirty = (core s1 s.cur).dirty

/-- The home of a semaphore answers: no lost device or die, no peer without a route, no poisoned word. -/
def SemReadable (s : State) (a ga : Nat) : Prop :=
  lostAt s a ga = false ∧ unroutedAt s ga = none ∧ poisonedAt s.memPoison 32 ga 8 = false

end Sys2Proof.Machine
end

