-- ==== Sys2Proof/Certificates/Slice0/Obligations.lean ====
section
/-! DEFINITION. The statements for the provers: what instructions and events of the part do, by the numbered rules of the spec. -/

open Sys2Proof hiding core
open Sys2Proof.Machine

/-! ## Scalar registers and the integer words -/

/-- R89: s0 reads as zero and p0 as true, and a write to either is discarded; a register written reads as the value, every other
register as before. -/
def Obligations.ScalarRegisterFile : Prop :=
  ∀ (c : Core) (r q : Nat) (x : Word) (p : Fin 8) (b : Bool),
    rdS c 0 = 0 ∧ rdP c 0 = true ∧ wrS 0 x c = c ∧ wrP 0 b c = c ∧
    (r ≠ 0 → rdS (wrS r x c) r = x) ∧ (q ≠ r → rdS (wrS r x c) q = rdS c q) ∧
    (p ≠ 0 → rdP (wrP p b c) p = b) ∧ (∀ p', p' ≠ p → rdP (wrP p b c) p' = rdP c p') ∧
    (∀ q', rdS (wrP p b c) q' = rdS c q') ∧ (∀ p', rdP (wrS r x c) p' = rdP c p')

/-- R93: what each integer and logic word writes into sd, the sources read before, with the word after it reached.
R93: MADD and SEL, with their third source, and the counts of leading zeros, trailing zeros and ones. -/
def Obligations.IntegerWords : Prop :=
  (
    ∀ (s : State) (o : RRR),
      let x := sreg s o.a
      let y := sreg s o.b
      let n := y.toNat % 64
      let r := fun (i : Instr) (v : Word) => Yields i s [o.a, o.b] o.d o.g v
      r (.add o) (BitVec.ofNat 64 (x.toNat + y.toNat)) ∧
      r (.sub o) (BitVec.ofInt 64 (x.toInt - y.toInt)) ∧
      r (.mul o) (BitVec.ofNat 64 (x.toNat * y.toNat)) ∧
      r (.mulh o) (BitVec.ofInt 64 (x.toInt * y.toInt / 2 ^ 64)) ∧
      r (.mulhu o) (BitVec.ofNat 64 (x.toNat * y.toNat / 2 ^ 64)) ∧
      r (.min o) (if x.toInt ≤ y.toInt then x else y) ∧
      r (.max o) (if x.toInt ≤ y.toInt then y else x) ∧
      r (.minu o) (if x.toNat ≤ y.toNat then x else y) ∧
      r (.maxu o) (if x.toNat ≤ y.toNat then y else x) ∧
      r (.and o) (x &&& y) ∧
      r (.or o) (x ||| y) ∧
      r (.xor o) (x ^^^ y) ∧
      r (.andn o) (x &&& ~~~y) ∧
      r (.shl o) (BitVec.ofNat 64 (x.toNat * 2 ^ n)) ∧
      r (.shr o) (BitVec.ofNat 64 (x.toNat / 2 ^ n)) ∧
      r (.sra o) (BitVec.ofInt 64 (x.toInt / 2 ^ n)) ∧
      r (.rol o) ((x <<< n) ||| (x >>> (64 - n)))) ∧
  (
    (∀ (s : State) (o : RRRR),
      Yields (.madd o) s [o.a, o.b, o.c] o.d o.g
        (BitVec.ofNat 64 ((sreg s o.a).toNat * (sreg s o.b).toNat + (sreg s o.c).toNat))) ∧
    (∀ (s : State) (o : SelOp),
      Yields (.sel o) s [o.a, o.b] o.d o.g (if rdP (core s s.cur) o.p then sreg s o.a else sreg s o.b)) ∧
    (∀ (s : State) (o : RR),
      let x := sreg s o.a
      (∃ n ≤ 64, x.toNat < 2 ^ (64 - n) ∧ (n < 64 → 2 ^ (63 - n) ≤ x.toNat) ∧
        Yields (.clz o) s [o.a] o.d o.g (BitVec.ofNat 64 n)) ∧
      (∃ n ≤ 64, 2 ^ n ∣ x.toNat ∧ (n < 64 → ¬ 2 ^ (n + 1) ∣ x.toNat) ∧ (x = 0 → n = 64) ∧
        Yields (.ctz o) s [o.a] o.d o.g (BitVec.ofNat 64 n)) ∧
      Yields (.popc o) s [o.a] o.d o.g (BitVec.ofNat 64 ((List.range 64).filter (fun i => x.getLsbD i)).length)))

/-- R94: division rounds toward zero, the remainder takes the dividend's sign, and division by zero and signed overflow give
fixed results with no trap. -/
def Obligations.DivisionWords : Prop :=
  ∀ (s : State) (o : RRR),
    let x := sreg s o.a
    let y := sreg s o.b
    let r := fun (i : Instr) (v : Word) => Yields i s [o.a, o.b] o.d o.g v
    (y = 0 → r (.div o) (BitVec.ofInt 64 (-1)) ∧ r (.rem o) x ∧ r (.divu o) (BitVec.ofNat 64 (2 ^ 64 - 1)) ∧ r (.remu o) x) ∧
    (y ≠ 0 → x.toInt = -(2 ^ 63) → y.toInt = -1 → r (.div o) (BitVec.ofInt 64 (-(2 ^ 63))) ∧ r (.rem o) 0) ∧
    (y ≠ 0 → ¬(x.toInt = -(2 ^ 63) ∧ y.toInt = -1) → ∃ q m : Int,
      x.toInt = q * y.toInt + m ∧ m.natAbs < y.toInt.natAbs ∧ (0 ≤ x.toInt → 0 ≤ m) ∧ (x.toInt ≤ 0 → m ≤ 0) ∧
      r (.div o) (BitVec.ofInt 64 q) ∧ r (.rem o) (BitVec.ofInt 64 m)) ∧
    (y ≠ 0 → ∃ q m : Nat, x.toNat = q * y.toNat + m ∧ m < y.toNat ∧
      r (.divu o) (BitVec.ofNat 64 q) ∧ r (.remu o) (BitVec.ofNat 64 m))

/-- R95: the bit-field words, bit by bit, with the field's position sb[5:0] and its width min(sb[14:8], 64). -/
def Obligations.BitFieldWords : Prop :=
  ∀ (s : State) (o : RRR),
    let x := sreg s o.a
    let l := (sreg s o.b).toNat % 64
    let w := Nat.min ((sreg s o.b).toNat / 2 ^ 8 % 2 ^ 7) 64
    let r := fun (i : Instr) (v : Word) => Yields i s [o.a, o.b] o.d o.g v
    (∃ v : Word, (∀ i, v.getLsbD i = (decide (i < w) && x.getLsbD (l + i))) ∧ r (.bext o) v) ∧
    (∃ v : Word, (∀ i < 64, v.getLsbD i = if l ≤ i ∧ i < l + w then x.getLsbD (i - l) else (sreg s o.d).getLsbD i) ∧
      Yields (.bins o) s [o.d, o.a, o.b] o.d o.g v) ∧
    (∃ v : Word, (∀ i < 64, v.getLsbD i = x.getLsbD (Nat.min i l)) ∧ r (.sext o) v) ∧
    (∃ v : Word, (∀ i, v.getLsbD i = (decide (i ≤ l) && x.getLsbD i)) ∧ r (.zext o) v)

/-- R96: the immediate words, X(imm34) being the immediate sign-extended to 64 bits.
R97, R98: what each compare and predicate word writes into pd. -/
def Obligations.ImmediateAndPredicateWords : Prop :=
  (
    (∀ (s : State) (o : RRI),
      let x := sreg s o.a
      let y := BitVec.ofInt 64 o.imm.toInt
      let r := fun (i : Instr) (v : Word) => Yields i s [o.a] o.d o.g v
      r (.addi o) (x + y) ∧ r (.andi o) (x &&& y) ∧ r (.ori o) (x ||| y) ∧ r (.xori o) (x ^^^ y)) ∧
    (∀ (s : State) (o : ShiftI),
      let x := sreg s o.a
      let r := fun (i : Instr) (v : Word) => Yields i s [o.a] o.d o.g v
      r (.shli o) (BitVec.ofNat 64 (x.toNat * 2 ^ o.amt.val)) ∧ r (.shri o) (BitVec.ofNat 64 (x.toNat / 2 ^ o.amt.val)) ∧
        r (.srai o) (BitVec.ofInt 64 (x.toInt / 2 ^ o.amt.val))) ∧
    (∀ (s : State) (o : LoadImm), Yields (.li o) s [] o.d o.g (BitVec.ofInt 64 o.imm.toInt)) ∧
    (∀ (s : State) (o : LoadHigh),
      Yields (.lih o) s [o.a] o.d o.g (BitVec.ofNat 64 (o.imm.toNat * 2 ^ 32 + (sreg s o.a).toNat % 2 ^ 32)))) ∧
  (
    (∀ (s : State) (o : CmpRR),
      let x := sreg s o.a
      let y := sreg s o.b
      let r := fun (i : Instr) (v : Bool) => Decides i s [o.a, o.b] o.d o.g v
      r (.cmpEq o) (decide (x = y)) ∧ r (.cmpNe o) (decide (x ≠ y)) ∧ r (.cmpLt o) (decide (x.toInt < y.toInt)) ∧
        r (.cmpLtu o) (decide (x.toNat < y.toNat)) ∧ r (.cmpLe o) (decide (x.toInt ≤ y.toInt)) ∧
        r (.cmpLeu o) (decide (x.toNat ≤ y.toNat))) ∧
    (∀ (s : State) (o : CmpRI),
      let x := sreg s o.a
      let y := BitVec.ofInt 64 o.imm.toInt
      let r := fun (i : Instr) (v : Bool) => Decides i s [o.a] o.d o.g v
      r (.cmpiEq o) (decide (x = y)) ∧ r (.cmpiNe o) (decide (x ≠ y)) ∧ r (.cmpiLt o) (decide (x.toInt < y.toInt)) ∧
        r (.cmpiLtu o) (decide (x.toNat < y.toNat)) ∧ r (.cmpiLe o) (decide (x.toInt ≤ y.toInt)) ∧
        r (.cmpiLeu o) (decide (x.toNat ≤ y.toNat))) ∧
    (∀ (s : State) (o : PPP),
      let x := rdP (core s s.cur) o.a
      let y := rdP (core s s.cur) o.b
      let r := fun (i : Instr) (v : Bool) => Decides i s [] o.d o.g v
      r (.pand o) (x && y) ∧ r (.por o) (x || y) ∧ r (.pxor o) (x ^^ y)) ∧
    (∀ (s : State) (o : PP), Decides (.pnot o) s [] o.d o.g (!rdP (core s s.cur) o.a)))

/-- The frame of the words that write one scalar register, and of those that write one predicate: every other register, every
predicate (or every register and every other predicate), the trap registers, the rest of the tile, every byte of memory and the
rest of the part stay; the next word is reached.
R60: a register or predicate word whose guard is false, its registers declared, has no effect but that the next word is
reached: the state is the one before with the core at the next word. -/
def Obligations.RegisterWordFramesAndGuards : Prop :=
  (
    (∀ (i : Instr) (g : Guard) (d : Nat) (srcs : List Nat) (s t : State),
      registerWord i = some (g, d, srcs) → Ready s [] (d :: srcs) srcs g → tokPending (core s s.cur) d = false →
      exec i s = .next t →
        (∀ r, r ≠ d → rdS (core t s.cur) r = rdS (core s s.cur) r) ∧ (∀ p, rdP (core t s.cur) p = rdP (core s s.cur) p) ∧
        (core t s.cur).pc = (core s s.cur).pc + 1 ∧ TrapRegsKept (core s s.cur) (core t s.cur) ∧ OnlyCore s.cur s t ∧
        (∀ a, getB t.mem a = getB s.mem a)) ∧
    (∀ (i : Instr) (g : Guard) (d : Fin 8) (srcs : List Nat) (s t : State),
      predicateWord i = some (g, d, srcs) → Ready s [] srcs srcs g → exec i s = .next t →
        (∀ r, rdS (core t s.cur) r = rdS (core s s.cur) r) ∧ (∀ p, p ≠ d → rdP (core t s.cur) p = rdP (core s s.cur) p) ∧
        (core t s.cur).pc = (core s s.cur).pc + 1 ∧ TrapRegsKept (core s s.cur) (core t s.cur) ∧ OnlyCore s.cur s t ∧
        (∀ a, getB t.mem a = getB s.mem a))) ∧
  (
    (∀ (i : Instr) (g : Guard) (d : Nat) (srcs : List Nat) (s : State),
      registerWord i = some (g, d, srcs) → (∀ r ∈ d :: srcs, r = 0 ∨ r < (hdr s s.cur).sregs) →
      guardHolds (core s s.cur) g = false → exec i s = .next (advance s)) ∧
    (∀ (i : Instr) (g : Guard) (d : Fin 8) (srcs : List Nat) (s : State),
      predicateWord i = some (g, d, srcs) → (∀ r ∈ srcs, r = 0 ∨ r < (hdr s s.cur).sregs) →
      guardHolds (core s s.cur) g = false → exec i s = .next (advance s)) ∧
    (∀ (c : Core) (g : Guard), guardHolds c g = (if g.p = 0 then !g.neg else (c.p.getLsbD g.p ^^ g.neg))))

/-- R91, R92, R137: a register word whose guard holds and whose destination is a pending token register, a source of it or not, takes
trap 0x03 with no load outstanding: the trap registers are written and no register is.
R75, R92, R137: a register word that names a register at or beyond the header's declaration takes trap 0x02, whatever its guard,
with the register in TRAPINFO; with no load outstanding the entry is taken at once and nothing else is written.
The model's choice: of several such registers the first in d, a, b, c order is named (log entry 23); that it is one of them is stated.
R90: a register word with a source that has not arrived, its destination no pending token register, stalls: it stands at its place, and
only the wait is marked (R377: a word that is made again after a collapse, or has published, stays what it is, at no boundary).
R75, R394: a word of a disabled feature takes trap 0x12 with the feature's number in TRAPINFO, whatever its guard: FORKS and RESOLVE,
SSTEP, QARRIVE, AMOS.CO. -/
def Obligations.RegisterWordsThatDoNotIssue : Prop :=
  (
    ∀ (i : Instr) (g : Guard) (d : Nat) (srcs : List Nat) (s : State),
      registerWord i = some (g, d, srcs) → Ready s [] (d :: srcs) [] g → tokPending (core s s.cur) d = true →
      (core s s.cur).resp = [] → ∃ t, exec i s = .next t ∧
        (core t s.cur).trapCause = 0x03 ∧ (core t s.cur).trapPc = BitVec.ofNat 64 (core s s.cur).pc ∧
        (core t s.cur).trapInfo = BitVec.ofNat 64 d ∧ (core t s.cur).trapIn = true ∧
        (∀ r, rdS (core t s.cur) r = rdS (core s s.cur) r) ∧ (∀ p, rdP (core t s.cur) p = rdP (core s s.cur) p) ∧
        OnlyCore s.cur s t) ∧
  (
    ∀ (i : Instr) (g : Guard) (d : Nat) (srcs : List Nat) (s : State),
      registerWord i = some (g, d, srcs) → (∃ r ∈ d :: srcs, r ≠ 0 ∧ (hdr s s.cur).sregs ≤ r) → (core s s.cur).resp = [] →
      ∃ t r, exec i s = .next t ∧ r ∈ d :: srcs ∧ r ≠ 0 ∧ (hdr s s.cur).sregs ≤ r ∧
        (core t s.cur).trapCause = 0x02 ∧ (core t s.cur).trapPc = BitVec.ofNat 64 (core s s.cur).pc ∧
        (core t s.cur).trapInfo = BitVec.ofNat 64 r ∧ (core t s.cur).trapIn = true ∧
        (∀ r, rdS (core t s.cur) r = rdS (core s s.cur) r) ∧ OnlyCore s.cur s t) ∧
  (
    ∀ (i : Instr) (g : Guard) (d : Nat) (srcs : List Nat) (s : State),
      registerWord i = some (g, d, srcs) → (∀ r ∈ d :: srcs, r = 0 ∨ r < (hdr s s.cur).sregs) →
      guardHolds (core s s.cur) g = true → tokPending (core s s.cur) d = false → (∃ r ∈ srcs, waiting (core s s.cur) r = true) →
      ∃ t r, exec i s = .next t ∧ r ∈ srcs ∧ waiting (core s s.cur) r = true ∧
        core t s.cur = { core s s.cur with wait := wordWait (.reg r) (core s s.cur).wait } ∧ OnlyCore s.cur s t) ∧
  (
    let off := fun (i : Instr) (n : Nat) => ∀ s : State, feature s n = false → Traps i s s 0x12 (BitVec.ofNat 64 n)
    (∀ o : ForkSOp, off (.forks o) 6) ∧ (∀ o : ResolveOp, off (.resolve o) 6) ∧ (∀ o : SStepOp, off (.sstep o) 7) ∧
      (∀ o : QArrOp, off (.qarrive o) 8) ∧ (∀ o : AtomS, off (.amosCo o) 12))

/-! ## Loads, stores, atomics, branches -/

/-- R99, R100: an aligned LD whose address translates and whose bytes are not poisoned completes, and the next word is reached. Where
every byte is the tile's own, sd is written at once; where the L1 holds no line of it under the page's class, or the load acquires beyond
its tile, a response is on its way, with what serves it, and no older word's response still writes sd (R90). Either way the value is what
the tile sees there, sign-extended unless .U. Where the L1 holds such a line, the line's value with the tile's own bytes over it is
written at once, or, where the home holds another value, the home's may come by a response. No byte of memory changes but by a binding of
the translation, where a dirty line of the tile's own makes room, and where a peer without a route is reported. R364: a load of a peer
without a route waits for an answer that does not come.
R90, R393: a response of the present incarnation writes its register and nothing else of the register file; s0 discards it. One
of an earlier incarnation is discarded and counted. R389, R390, R392: one that brings poisoned data raises trap 0x16 asynchronously,
with the VA and the word's place. R388: no response comes while a link of its path retrains, within the package or at the port to a peer.
R110: the owner's response of an AMOS.CO writes its old value, or 0 with AMISS counting; R389: no old value comes where no path is left.
The model's choices: when the L1 answers at once and when a response comes, and which line makes room (log entry 7), the home's value or
the line's among them; the asynchronous trap of a response (log entry 40). -/
def Obligations.LoadsReadWhatTheTileSees : Prop :=
  (
    ∀ (s s1 : State) (o : LoadOp) (ga e : Nat),
      let n := sizeBytes o.size
      let va := effective s o.a o.off
      let ext := fun (x : Nat) => (if o.u then BitVec.ofNat 64 x else BitVec.ofInt 64 (signed (8 * n) x) : Word)
      let v := ext (viewN s1 s.cur ga n)
      let acq := (o.ord = .acq ∨ o.ord = .ar) ∧ o.scope ≠ .tile
      let awaits := fun (t : State) (x : Word) (home : Nat) =>
        (core t s.cur).resp.getLast? = some ⟨o.d, x, (die s1 (dieOf s.cur)).incarn, home, va, (core s s.cur).pc, false⟩ ∧
          (core t s.cur).resp.length = (core s1 s.cur).resp.length + 1 ∧
          ∀ r ∈ (core t s.cur).resp.dropLast, r.dst = o.d.val → o.d = 0
      Ready s [] [o.d, o.a] [o.a] o.g → tokPending (core s s.cur) o.d = false → va % n = 0 →
      translate s s.cur false (ctxOf s s.cur) va false = (.ok ga e, s1) → poisonG s1 s.cur ga n = false →
      ∃ t, exec (.ld o) s = .next t ∧ (core t s.cur).pc = (core s s.cur).pc + 1 ∧
        (∀ r, r ≠ o.d.val → rdS (core t s.cur) r = rdS (core s s.cur) r) ∧
        (unroutedAt s1 ga = none → (∀ b ∈ (core s1 s.cur).dirty, unroutedAt s1 b.1 = none) →
          ∀ x, getB t.mem x = getB s1.mem x ∨ (x, getB t.mem x) ∈ (core s1 s.cur).dirty) ∧
        (allOwn (core s1 s.cur) ga n = true → rdS (core t s.cur) o.d = if o.d = 0 then 0 else v) ∧
        let comes := (unroutedAt s1 ga = none → awaits t v (servedBy ga)) ∧
          (∀ dev, unroutedAt s1 ga = some dev → ∃ x, awaits t x (8 + dev))
        (allOwn (core s1 s.cur) ga n = false → cleanLine (core s1 s.cur) ga e = none ∨ acq → comes) ∧
        (allOwn (core s1 s.cur) ga n = false → ∀ l, cleanLine (core s1 s.cur) ga e = some l → ¬acq →
          let old := lineN (core s1 s.cur) l ga n
          rdS (core t s.cur) o.d = (if o.d = 0 then 0 else ext old) ∨ (old ≠ viewN s1 s.cur ga n ∧ comes))) ∧
  (
    (∀ (s : State) (a k : Nat) (r : Resp), (core s a).resp[k]? = some r →
      let gone := fun (t : State) => (core t a).resp = (core s a).resp.eraseIdx k ∧
        ∀ q, q ≠ r.dst → rdS (core t a) q = rdS (core s a) q
      (r.inc ≠ (die s (dieOf a)).incarn → ∃ t, exec (.memoryResponse a k) s = .next t ∧ gone t ∧
        rdS (core t a) r.dst = rdS (core s a) r.dst ∧
        counter t (dieOf a) 0x08 = Nat.min (counter s (dieOf a) 0x08 + 1) (2 ^ 48 - 1)) ∧
      (r.inc = (die s (dieOf a)).incarn → unanswered s r = false →
        (respWaits s a r = true → exec (.memoryResponse a k) s = .next s) ∧
        (brokenResp s a r = false → respWaits s a r = false → ∃ t, exec (.memoryResponse a k) s = .next t ∧ gone t ∧
          rdS (core t a) r.dst = (if r.dst = 0 then 0 else r.value) ∧ (core t a).async = (core s a).async ∧ t.mem = s.mem) ∧
        (brokenResp s a r = true → respWaits s a r = false → ∃ t, exec (.memoryResponse a k) s = .next t ∧ gone t ∧
          (core t a).async = (core s a).async ++ [⟨0x16, BitVec.ofNat 64 r.va, BitVec.ofNat 64 (r.pc % 2 ^ 13 * 2 ^ 48)⟩] ∧
          t.mem = s.mem))) ∧
    (∀ (s : State) (a k : Nat) (r : CoResp) (v : Option Word), (core s a).co[k]? = some r → r.ans = some v →
      let there := diePath s r.die (dieOf a)
      let v := if there then v else none
      (there = true → pathOpen s r.die (dieOf a) = false → exec (.amosCoResponse a k) s = .next s) ∧
      ((there = true → pathOpen s r.die (dieOf a) = true) → ∃ t, exec (.amosCoResponse a k) s = .next t ∧
        (core t a).co = (core s a).co.eraseIdx k ∧ t.mem = s.mem ∧
        (∀ q, q ≠ r.dst → rdS (core t a) q = rdS (core s a) q) ∧
        rdS (core t a) r.dst = (if r.dst = 0 then 0 else match v with
          | some x => (if r.dw then x else BitVec.ofInt 64 (signed 32 x.toNat))
          | none => 0) ∧
        (core t a).amiss = (core s a).amiss + (if v.isNone then 1 else 0))))

/-- R99 to R102: an aligned ST that passes its checks stores the low bytes of sb at its address as the tile sees it:
R103: it reads them there from then on, whatever class it wrote the bytes under before. On an HC page
(class 2) the home holds them at once, on a PRIV or PHASE page memory does not change, but where a dirty line of the tile's own makes
room or its peer without a route is reported. Every byte outside the stored bytes stays: in memory, and among the tile's own, of which
those of a dirty line that makes room go home (R286). A store that would pass the limit of unpublished lines publishes first, so that
memory holds what was unpublished (R131), or traps with 0x13 in a killable task; after that publication it is made. R101: a .REL store
comes after the core's earlier accesses: it waits while an
AMOS.CO of the core is not answered, at a word boundary unless a collapse or a publication of its own has completed for it (R377, R102).
R364, R390: to a lost device it raises trap 0x16 asynchronously, to one without a route it is discarded and
counted, and nothing is stored.
The model's choices: which line makes room in the L1 (log entry 7); a store to an HC page performs at its home in the step that issues it
(log entry 11); the trap of a store that has gone on (log entry 40). -/
def Obligations.StoreByPageClass : Prop :=
  ∀ (s s1 : State) (o : StoreOp) (ga e : Nat),
    let n := sizeBytes o.size
    let va := effective s o.a o.off
    Ready s [] [o.a, o.b] [o.a, o.b] o.g → va % n = 0 →
    translate s s.cur false (ctxOf s s.cur) va true = (.ok ga e, s1) → eClass e ≤ 2 →
    (eClass e = 2 → (hdr s1 s.cur).hcstores = true) →
    let published := (core s s.cur).wait = .published
    let unperformed := (o.ord = .rel ∨ o.ord = .ar) ∧ ∃ q ∈ (core s s.cur).co, q.ans = none
    (eClass e = 1 → overLimit (core s1 s.cur) ga = true → ¬published →
      ((hdr s1 s.cur).killable = false → ∃ t, exec (.st o) s = .next t ∧ (core t s.cur).wait = .phase .store ∧
        (core t s.cur).pc = (core s s.cur).pc ∧ Published s.cur s1 t) ∧
      ((hdr s1 s.cur).killable = true → (core s s.cur).resp = [] → ∃ t, exec (.st o) s = .next t ∧ (core t s.cur).trapCause = 0x13 ∧
        (core t s.cur).trapInfo = BitVec.ofNat 64 va ∧ t.mem = s1.mem)) ∧
    ((eClass e = 1 → overLimit (core s1 s.cur) ga = false ∨ published) → unperformed →
      exec (.st o) s = .next (modCore s1 s.cur (fun c => { c with wait := wordWait .ownAtomic c.wait }))) ∧
    ((eClass e = 1 → overLimit (core s1 s.cur) ga = false ∨ published) → ¬unperformed →
      (lostAt s1 s.cur ga = true → RaisesLost (.st o) s s1 va) ∧
      (lostAt s1 s.cur ga = false → unroutedAt s1 ga ≠ none → Discards (.st o) s s1) ∧
      (lostAt s1 s.cur ga = false → unroutedAt s1 ga = none →
        ∃ t, exec (.st o) s = .next t ∧ (core t s.cur).pc = (core s s.cur).pc + 1 ∧
          (∀ r, rdS (core t s.cur) r = rdS (core s s.cur) r) ∧ viewN t s.cur ga n = (sreg s o.b).toNat % 256 ^ n ∧
          (eClass e = 2 → readN t.mem ga n = (sreg s o.b).toNat % 256 ^ n ∧
            ∀ x, x < ga ∨ ga + n ≤ x → getB t.mem x = getB s1.mem x) ∧
          (eClass e = 1 → t.mem = s1.mem ∧
            (∀ i < n, ownByte (core t s.cur) (ga + i) = some (BitVec.ofNat 8 ((sreg s o.b).toNat / 256 ^ i))) ∧
            ∀ x, x < ga ∨ ga + n ≤ x → ownByte (core t s.cur) x = ownByte (core s1 s.cur) x) ∧
          (eClass e = 0 →
            ((∀ b ∈ (core s1 s.cur).dirty, unroutedAt s1 b.1 = none) →
              ∀ x, getB t.mem x = getB s1.mem x ∨ (x, getB t.mem x) ∈ (core s1 s.cur).dirty) ∧
            (∀ i < n, lookup (core t s.cur).dirty (ga + i) = some (BitVec.ofNat 8 ((sreg s o.b).toNat / 256 ^ i))) ∧
            (∀ x, x < ga ∨ ga + n ≤ x → lookup (core t s.cur).unpub x = lookup (core s1 s.cur).unpub x ∧
              lookup (core t s.cur).recUnpub x = lookup (core s1 s.cur).recUnpub x) ∧
            (((core s1 s.cur).dirty.map (·.1)).Nodup → ∃ l, l ≠ ga / 128 ∧ ∀ x, x < ga ∨ ga + n ≤ x →
              lookup (core t s.cur).dirty x = lookup (core s1 s.cur).dirty x ∨
              (x / 128 = l ∧ lookup (core t s.cur).dirty x = none ∧
                ∀ b, lookup (core s1 s.cur).dirty x = some b → arrives s1 s.cur x = true → getB t.mem x = b)))))

/-- R104: an aligned LDS or STS within `.scratch` reads, or writes with byte enables, the tile's own scratchpad; every other byte of
it stays, and memory. R103: while an AMOS.CO of the core's own is on its way to its own scratchpad, LDS, STS and AMOS wait for it, and
so does an AMOS.CO, whose descriptor lies there.
The model's choice: they wait whatever element it names (log entry 39). -/
def Obligations.ScratchpadWords : Prop :=
  let waits := fun (s : State) (i : Instr) => ownCo s s.cur = true →
    exec i s = .next (modCore s s.cur (fun c => { c with wait := wordWait .ownAtomic c.wait }))
  (∀ (s : State) (o : LoadS),
    let n := sizeBytes o.size
    let addr := effective s o.a o.off
    Ready s [] [o.d, o.a] [o.a] o.g → tokPending (core s s.cur) o.d = false → addr % n = 0 → addr + n ≤ (hdr s s.cur).scratch →
    waits s (.lds o) ∧
    (ownCo s s.cur = false → padPoisoned s s.cur addr n = false →
      let x := readN (tile s s.cur).pad addr n
      exec (.lds o) s = .next (wrote s o.d (if o.u then BitVec.ofNat 64 x else BitVec.ofInt 64 (signed (8 * n) x))))) ∧
  (∀ (s : State) (o : StoreS),
    let n := sizeBytes o.size
    let addr := effective s o.a o.off
    Ready s [] [o.a, o.b] [o.a, o.b] o.g → addr % n = 0 → addr + n ≤ (hdr s s.cur).scratch →
    waits s (.sts o) ∧
    (ownCo s s.cur = false → ∃ t, exec (.sts o) s = .next t ∧ (core t s.cur).pc = (core s s.cur).pc + 1 ∧ t.mem = s.mem ∧
      readN (tile t s.cur).pad addr n = (sreg s o.b).toNat % 256 ^ n ∧
      (∀ x, x < addr ∨ addr + n ≤ x → getB (tile t s.cur).pad x = getB (tile s s.cur).pad x) ∧
      (∀ r, rdS (core t s.cur) r = rdS (core s s.cur) r) ∧ OnlyTile s.cur s t)) ∧
  (∀ (s : State) (o : AtomS),
    let n := if o.dw then 8 else 4
    let addr := effective s o.a o.off
    let srcs : List Nat := if o.op = .cas then [o.a, o.b, o.c] else [o.a, o.b]
    Ready s [] (o.d.val :: srcs) srcs o.g → tokPending (core s s.cur) o.d = false → addr % n = 0 → addr + n ≤ (hdr s s.cur).scratch →
    waits s (.amos o)) ∧
  (∀ (s : State) (o : AtomS),
    let addr := effective s o.a o.off
    let srcs : List Nat := if o.op = .cas then [o.a, o.b, o.c] else [o.a, o.b]
    Ready s [12] (o.d.val :: srcs) srcs o.g → tokPending (core s s.cur) o.d = false → addr % 64 = 0 → addr + 64 ≤ (hdr s s.cur).scratch →
    waits s (.amosCo o))

/-- R106 to R108: AMOS and AMO. The location takes the new value of its operation, and the old one, sign-extended for .W, goes to
sd: at once from the tile's own scratchpad (AMOS); by a response, from the home, after the tile's own earlier stores to the line have
performed there (AMO). Bytes outside the location stay as they were after those.
R109, R110: an AMOS.CO whose descriptor passes its checks, to a tile of this device that a path reaches, leaves as one ATOMIC burst
of one payload flit of the compute class to the tile the descriptor names, with its coordinates; the flit holds v, sc, aop and asz
(R206); sd then waits for the response. To a tile of another device the same burst leaves in the compute-class flow to it, where its
copy is kept (R369); it waits, before any effect, while that copy has no room (R368); to a lost device it is answered at once without an
old value (R110). R389: where no path reaches the tile's die, or die 4 for another device, nothing leaves, and the response without an
old value is on its way.
R364, R389, R390, R392: an AMO on a lost device, or at a die that no path reaches, finds poisoned data: trap 0x16 is raised asynchronously;
on a peer without a route it is discarded and counted. R101: a releasing AMO comes after the core's earlier accesses: after every answer
to an AMOS.CO of the core.
The model's choices: an AMO performs at its home in the step that issues it (log entry 11); one that finds a lost device or no path has
gone on, so that its trap is raised asynchronously (log entry 40). -/
def Obligations.Atomics : Prop :=
  (
    (∀ (s : State) (o : AtomS),
      let n := if o.dw then 8 else 4
      let w := 8 * n
      let addr := effective s o.a o.off
      let srcs : List Nat := if o.op = .cas then [o.a, o.b, o.c] else [o.a, o.b]
      Ready s [] (o.d.val :: srcs) srcs o.g → tokPending (core s s.cur) o.d = false → addr % n = 0 →
      addr + n ≤ (hdr s s.cur).scratch → ownCo s s.cur = false → padPoisoned s s.cur addr n = false →
      let old := readN (tile s s.cur).pad addr n
      ∃ t, exec (.amos o) s = .next t ∧ t.mem = s.mem ∧ (core t s.cur).pc = (core s s.cur).pc + 1 ∧
        readN (tile t s.cur).pad addr n = aopResult o.op w old ((sreg s o.b).toNat % 2 ^ w) ((sreg s o.c).toNat % 2 ^ w) % 2 ^ w ∧
        (∀ x, x < addr ∨ addr + n ≤ x → getB (tile t s.cur).pad x = getB (tile s s.cur).pad x) ∧
        rdS (core t s.cur) o.d = (if o.d = 0 then 0 else if o.dw then BitVec.ofNat 64 old else BitVec.ofInt 64 (signed 32 old)) ∧
        (∀ r, r ≠ o.d.val → rdS (core t s.cur) r = rdS (core s s.cur) r)) ∧
    (∀ (s s1 : State) (o : AtomOp) (ga e : Nat),
      let n := if o.dw then 8 else 4
      let w := 8 * n
      let va := effective s o.a o.off
      let srcs : List Nat := if o.op = .cas then [o.a, o.b, o.c] else [o.a, o.b]
      Ready s [] (o.d.val :: srcs) srcs o.g → tokPending (core s s.cur) o.d = false → va % n = 0 →
      translate s s.cur false (ctxOf s s.cur) va true = (.ok ga e, s1) →
      (eClass e = 2 → (hdr s1 s.cur).hcstores = true) → (hdr s1 s.cur).killable = false →
      (o.ord = .rel ∨ o.ord = .ar → ∀ q ∈ (core s s.cur).co, q.ans ≠ none) →
      (lostAt s1 s.cur ga = true → RaisesLost (.amo o) s s1 va) ∧
      (lostAt s1 s.cur ga = false → unroutedAt s1 ga ≠ none → Discards (.amo o) s s1) ∧
      (lostAt s1 s.cur ga = false → unroutedAt s1 ga = none → poisonG s1 s.cur ga n = false →
      let m := (flushLine s1 s.cur (ga / 128)).mem
      let old := readN m ga n
      ∃ t, exec (.amo o) s = .next t ∧ (core t s.cur).pc = (core s s.cur).pc + 1 ∧
        readN t.mem ga n = aopResult o.op w old ((sreg s o.b).toNat % 2 ^ w) ((sreg s o.c).toNat % 2 ^ w) % 2 ^ w ∧
        (∀ x, x < ga ∨ ga + n ≤ x → getB t.mem x = getB m x) ∧
        (core t s.cur).resp.length = (core s1 s.cur).resp.length + 1 ∧
        (core t s.cur).resp.getLast? = some ⟨o.d, if o.dw then BitVec.ofNat 64 old else BitVec.ofInt 64 (signed 32 old),
          (die s1 (dieOf s.cur)).incarn, servedBy ga, va, (core s s.cur).pc, false⟩))) ∧
  (
    ∀ (s : State) (o : AtomS),
      let addr := effective s o.a o.off
      let g0 := readN (tile s s.cur).pad addr 8
      let g1 := readN (tile s s.cur).pad (addr + 8) 8
      let cs := (List.range 12).map (fun d => readN (tile s s.cur).pad (addr + 16 + 4 * d) 4)
      let nd := g0 / 2 ^ 40 % 16
      let f := g0 / 2 ^ 32 % 256
      let srcs : List Nat := if o.op = .cas then [o.a, o.b, o.c] else [o.a, o.b]
      Ready s [12] (o.d.val :: srcs) srcs o.g → tokPending (core s s.cur) o.d = false → addr % 64 = 0 →
      addr + 64 ≤ (hdr s s.cur).scratch → 1 ≤ nd → nd ≤ 12 → (if o.dw then f = 0x19 else f = 0x03 ∨ f = 0x08) →
      g0 / 2 ^ 53 = 0 → g0 / 2 ^ 50 % 8 < 4 → g1 / 2 ^ 21 = 0 → (∀ c ∈ cs.drop nd, c = 0) →
      ownCo s s.cur = false →
      let dev := g1 % 2 ^ 20
      let payload := (sreg s o.b).toNat + (sreg s o.c).toNat * 2 ^ 64 + aopNumber o.op * 2 ^ 128 + o.dw.toNat * 2 ^ 132
      let carries := fun (b : Burst) => b.kind = 1 ∧ b.flits = [payload] ∧ b.runlen = 1 ∧ b.ndim = nd ∧ b.coords = cs.take nd ∧
        b.tensor = g0 % 2 ^ 32 ∧ b.fmt = f
      let goes := fun (t : State) => t.mem = s.mem ∧ (core t s.cur).pc = (core s s.cur).pc + 1 ∧
        ∀ r, rdS (core t s.cur) r = rdS (core s s.cur) r
      let expects := fun (t : State) (dev : Option Nat) (d : Nat) (ans : Option (Option Word)) =>
        (core t s.cur).co.getLast? = some ⟨(core s s.cur).coNext, o.d, o.dw, dev, d, ans⟩ ∧
          (core t s.cur).co.length = (core s s.cur).co.length + 1
      (g1 / 2 ^ 20 % 2 = 0 → dev ≠ s.dev.devid →
        (diePath s (dieOf s.cur) 4 = false → ∃ t, exec (.amosCo o) s = .next t ∧ t.dev = s.dev ∧ t.transit = s.transit ∧ goes t ∧
          expects t (some dev) 4 (some none)) ∧
        (diePath s (dieOf s.cur) 4 = true → ∀ b, carries b → noRoom s dev b = true →
          exec (.amosCo o) s = .next (modCore s s.cur (fun c => { c with wait := wordWait .sends c.wait }))) ∧
        (diePath s (dieOf s.cur) 4 = true → (∀ b, noRoom s dev b = false) →
          (dev ∈ s.dev.lost → ∃ t, exec (.amosCo o) s = .next t ∧ t.transit = s.transit ∧ t.dev.flows = s.dev.flows ∧
            expects t (some dev) 4 (some none) ∧ (core t s.cur).pc = (core s s.cur).pc + 1) ∧
          (dev ∉ s.dev.lost → routed s dev = true → ∃ t b, exec (.amosCo o) s = .next t ∧ carries b ∧ goes t ∧ t.transit = s.transit ∧
            expects t (some dev) 4 none ∧
            let f := findFlow s.dev.flows dev 0
            (findFlow t.dev.flows dev 0).send = (f.send + 1) % 2 ^ 48 ∧
            (findFlow t.dev.flows dev 0).kept = f.kept ++ [(f.send,
              ⟨s.dev.devid, 0, f.send, (ctxOf s s.cur).id, g0 / 2 ^ 50 % 8, g0 / 2 ^ 44 % 64, 0, 0, none, b⟩)]) ∧
          (dev ∉ s.dev.lost → routed s dev = false → ∃ t, exec (.amosCo o) s = .next t ∧ t.transit = s.transit ∧
            expects t (some dev) 4 none ∧ counter t 4 0x04 = Nat.min (counter s 4 0x04 + 1) (2 ^ 48 - 1) ∧
            (core t s.cur).pc = (core s s.cur).pc + 1))) ∧
      (g1 / 2 ^ 20 % 2 = 1 ∨ dev = s.dev.devid →
      (diePath s (dieOf s.cur) (g0 / 2 ^ 50 % 8) = false → ∃ t, exec (.amosCo o) s = .next t ∧ t.transit = s.transit ∧ t.mem = s.mem ∧
        (core t s.cur).pc = (core s s.cur).pc + 1 ∧ expects t none (g0 / 2 ^ 50 % 8) (some none)) ∧
      (diePath s (dieOf s.cur) (g0 / 2 ^ 50 % 8) = true → ∃ (t : State) (x : Transit), exec (.amosCo o) s = .next t ∧ t.transit = s.transit ++ [x] ∧ x.src = s.cur ∧ x.cls = 0 ∧
        x.dst = 64 * (g0 / 2 ^ 50 % 8) + g0 / 2 ^ 44 % 64 ∧ carries x.b ∧ x.co = some (core s s.cur).coNext ∧ goes t ∧
        expects t none (g0 / 2 ^ 50 % 8) none)))

/-- R105: PREF passes its checks and has no architectural effect: the next word is reached, no register, predicate, trap register or
byte of the scratchpad changes, no other tile, and no byte of memory but one of the tile's own whose line makes room, or where its
peer without a route is reported, whatever its address.
R99, R104, R107, R108, R109, R127, R128: a load, store, atomic or semaphore word whose address is no multiple of its size takes trap 0x05
with that address in TRAPINFO, and a scratchpad access at or beyond `.scratch` trap 0x04; with no load outstanding the entry is taken at
once, and nothing is written to a register, to memory or to the scratchpad. Where its address does not translate, as any at or beyond
2^56, LD and SEMWAIT take 0x06 and ST, AMO and SEMINC 0x07; on a page without write permission ST, AMO and SEMINC, and SEMWAIT of a task
that is not killable, take 0x08; on an HC page a ST or AMO of a task without hcstores, an AMO of a killable task on any page, a SEMINC
on another page than HC or of a killable task, and a SEMWAIT of another task on another page than HC, take 0x09; each with the VA. A
ST, AMO or SEMINC to a writable READDUP page waits for its collapse, and takes 0x08 where the reeve core has declined it (R377).
The model's choice: which line makes room in the L1 (log entry 7). -/
def Obligations.PrefetchAndAddressChecks : Prop :=
  (
    ∀ (s : State) (o : PrefOp), Ready s [] [o.a] [o.a] o.g →
      ∃ t, exec (.pref o) s = .next t ∧ (core t s.cur).pc = (core s s.cur).pc + 1 ∧
        (∀ r, rdS (core t s.cur) r = rdS (core s s.cur) r) ∧ (∀ p, rdP (core t s.cur) p = rdP (core s s.cur) p) ∧
        TrapRegsKept (core s s.cur) (core t s.cur) ∧
        ((∀ b ∈ (core s s.cur).dirty, unroutedAt s b.1 = none) →
          ∀ x, getB t.mem x = getB s.mem x ∨ (x, getB t.mem x) ∈ (core s s.cur).dirty) ∧
        (tile t s.cur).pad = (tile s s.cur).pad ∧ (∀ b, b ≠ s.cur → tile t b = tile s b)) ∧
  (
    let takes := fun (s : State) (i : Instr) (cause addr : Nat) => Traps i s s cause (BitVec.ofNat 64 addr)
    let within := fun (s : State) (i : Instr) (addr n : Nat) =>
      (addr % n ≠ 0 → takes s i 0x05 addr) ∧ (addr % n = 0 → (hdr s s.cur).scratch < addr + n → takes s i 0x04 addr)
    let reads := fun (op : AOp) (a b c : Fin 64) => (if op = .cas then [a.val, b.val, c.val] else [a.val, b.val] : List Nat)
    (∀ (s : State) (o : LoadOp), Ready s [] [o.d, o.a] [o.a] o.g → tokPending (core s s.cur) o.d = false → (core s s.cur).resp = [] →
      effective s o.a o.off % sizeBytes o.size ≠ 0 → takes s (.ld o) 0x05 (effective s o.a o.off)) ∧
    (∀ (s : State) (o : StoreOp), Ready s [] [o.a, o.b] [o.a, o.b] o.g → (core s s.cur).resp = [] →
      effective s o.a o.off % sizeBytes o.size ≠ 0 → takes s (.st o) 0x05 (effective s o.a o.off)) ∧
    (∀ (s : State) (o : AtomOp), Ready s [] (o.d.val :: reads o.op o.a o.b o.c) (reads o.op o.a o.b o.c) o.g →
      tokPending (core s s.cur) o.d = false → (core s s.cur).resp = [] →
      effective s o.a o.off % (if o.dw then 8 else 4) ≠ 0 → takes s (.amo o) 0x05 (effective s o.a o.off)) ∧
    (∀ (s : State) (o : LoadS), Ready s [] [o.d, o.a] [o.a] o.g → tokPending (core s s.cur) o.d = false → (core s s.cur).resp = [] →
      within s (.lds o) (effective s o.a o.off) (sizeBytes o.size)) ∧
    (∀ (s : State) (o : StoreS), Ready s [] [o.a, o.b] [o.a, o.b] o.g → (core s s.cur).resp = [] →
      within s (.sts o) (effective s o.a o.off) (sizeBytes o.size)) ∧
    (∀ (s : State) (o : AtomS), Ready s [] (o.d.val :: reads o.op o.a o.b o.c) (reads o.op o.a o.b o.c) o.g →
      tokPending (core s s.cur) o.d = false → (core s s.cur).resp = [] →
      within s (.amos o) (effective s o.a o.off) (if o.dw then 8 else 4)) ∧
    (∀ (s : State) (o : AtomS), Ready s [12] (o.d.val :: reads o.op o.a o.b o.c) (reads o.op o.a o.b o.c) o.g →
      tokPending (core s s.cur) o.d = false → (core s s.cur).resp = [] →
      within s (.amosCo o) (effective s o.a o.off) 64) ∧
    (∀ (s : State) (o : SemOp), Ready s [] [o.a, o.b] [o.a, o.b] o.g → effective s o.a o.off % 8 ≠ 0 →
      takes s (.seminc o) 0x05 (effective s o.a o.off) ∧ takes s (.semwait o) 0x05 (effective s o.a o.off))) ∧
  (
    let asks := fun (s : State) (va : Nat) (wr : Bool) => translate s s.cur false (ctxOf s s.cur) va wr
    let holds := fun (i : Instr) (s s1 : State) (va : Nat) =>
      if (core s1 s.cur).wait = .collapse va true then Traps i s s1 0x08 (BitVec.ofNat 64 va)
      else ∃ t, exec i s = .next t ∧ (core t s.cur).wait = .collapse va false ∧ (core t s.cur).pc = (core s s.cur).pc ∧ t.mem = s1.mem
    let writes := fun (i : Instr) (s : State) (va : Nat) => ∀ s1 : State,
      (asks s va true = (.fail, s1) → Traps i s s1 0x07 (BitVec.ofNat 64 va)) ∧
      (asks s va true = (.wprot, s1) → Traps i s s1 0x08 (BitVec.ofNat 64 va)) ∧
      (∀ e, asks s va true = (.collapse e, s1) → holds i s s1 va)
    (∀ (s : State) (a : Nat) (x : Bool) (ctx : Ctx) (va : Nat) (wr : Bool), 2 ^ 56 ≤ va → translate s a x ctx va wr = (.fail, s)) ∧
    (∀ (s s1 : State) (o : LoadOp), let va := effective s o.a o.off
      Ready s [] [o.d, o.a] [o.a] o.g → tokPending (core s s.cur) o.d = false → va % sizeBytes o.size = 0 →
      asks s va false = (.fail, s1) → Traps (.ld o) s s1 0x06 (BitVec.ofNat 64 va)) ∧
    (∀ (s : State) (o : StoreOp), let va := effective s o.a o.off
      Ready s [] [o.a, o.b] [o.a, o.b] o.g → va % sizeBytes o.size = 0 → writes (.st o) s va ∧
      ∀ s1 ga e, asks s va true = (.ok ga e, s1) → eClass e = 2 → (hdr s1 s.cur).hcstores = false →
        Traps (.st o) s s1 0x09 (BitVec.ofNat 64 va)) ∧
    (∀ (s : State) (o : AtomOp), let va := effective s o.a o.off
      let srcs : List Nat := if o.op = .cas then [o.a, o.b, o.c] else [o.a, o.b]
      Ready s [] (o.d.val :: srcs) srcs o.g → tokPending (core s s.cur) o.d = false → va % (if o.dw then 8 else 4) = 0 →
      writes (.amo o) s va ∧
      ∀ s1 ga e, asks s va true = (.ok ga e, s1) → (eClass e = 2 ∧ (hdr s1 s.cur).hcstores = false) ∨ (hdr s1 s.cur).killable = true →
        Traps (.amo o) s s1 0x09 (BitVec.ofNat 64 va)) ∧
    (∀ (s : State) (o : SemOp), let va := effective s o.a o.off
      Ready s [] [o.a, o.b] [o.a, o.b] o.g → va % 8 = 0 →
      (writes (.seminc o) s va ∧ ∀ s1 ga e, asks s va true = (.ok ga e, s1) → eClass e ≠ 2 ∨ (hdr s s.cur).killable = true →
        Traps (.seminc o) s s1 0x09 (BitVec.ofNat 64 va)) ∧
      ∀ s1, (asks s va false = (.fail, s1) → Traps (.semwait o) s s1 0x06 (BitVec.ofNat 64 va)) ∧
        ∀ ga e, asks s va false = (.ok ga e, s1) → (hdr s s.cur).killable = false →
          (eW e = false → Traps (.semwait o) s s1 0x08 (BitVec.ofNat 64 va)) ∧
          (eW e = true → eClass e ≠ 2 → Traps (.semwait o) s s1 0x09 (BitVec.ofNat 64 va))))

/-- R111, R112: with a target below 8,192 the core goes on there, and a call writes its link with the index of the next word (to s0:
nothing), reading sa first; BR's and CALL's target is the word's own index plus the offset. At or beyond 8,192 the word takes trap
0x02 and writes no link.
The model's choice: a target below word 0 traps alike (log entry 36). -/
def Obligations.BranchesAndCalls : Prop :=
  let goes := fun (s : State) (i : Instr) (link : Nat) (target : Int) =>
    (0 ≤ target → target < 8192 → ∃ t, exec i s = .next t ∧ (core t s.cur).pc = target.toNat ∧ (core t s.cur).run = (core s s.cur).run ∧
      rdS (core t s.cur) link = (if link = 0 then 0 else BitVec.ofNat 64 ((core s s.cur).pc + 1)) ∧
      (∀ r, r ≠ link → rdS (core t s.cur) r = rdS (core s s.cur) r) ∧ OnlyCore s.cur s t) ∧
    (target < 0 ∨ 8192 ≤ target → (core s s.cur).resp = [] → ∃ t, exec i s = .next t ∧ (core t s.cur).trapCause = 0x02 ∧
      (core t s.cur).trapPc = BitVec.ofNat 64 (core s s.cur).pc ∧ (∀ r, rdS (core t s.cur) r = rdS (core s s.cur) r) ∧ OnlyCore s.cur s t)
  (∀ (s : State) (o : BrOp), Ready s [] [] [] o.g → goes s (.br o) 0 ((core s s.cur).pc + o.woff.toInt)) ∧
  (∀ (s : State) (o : CallOp), Ready s [] [o.link.val] [] o.g → tokPending (core s s.cur) o.link = false →
    goes s (.call o) o.link ((core s s.cur).pc + o.woff.toInt)) ∧
  (∀ (s : State) (o : JmpOp), Ready s [] [o.a.val] [o.a.val] o.g →
    goes s (.jmp o) 0 (sreg s o.a).toNat ∧ goes s (.ret o) 0 (sreg s o.a).toNat) ∧
  (∀ (s : State) (o : RR), Ready s [] [o.d.val, o.a.val] [o.a.val] o.g → tokPending (core s s.cur) o.d = false →
    goes s (.callr o) o.d (sreg s o.a).toNat)

/-! ## Engines, tokens, waits, synchronisation -/

/-- R114, R115: FORK and FORKS, with entry points below the header's counts and a free entry on every named queue (at most seven held),
queue one run on each named engine, with sd and sa as its parameters, and go on. A FORK or FORKS that stalled for room does the same when
it is found. R287: the core's accesses come before the run's: either waits while an AMOS.CO of the core is not answered. RUN_START starts
the run at the head of an idle engine's queue, the vector engine's with the parameters in k12 to k15.
R116, R117: RESOLVE makes the named bank's entries of a tag ordinary and removes the other bank's from the named engines' queues;
CANCEL removes unstarted entries of a tag whatever their bank. Neither waits, and entries of another tag, and of an engine not named,
stay. A started run of the bank kept becomes ordinary, and a fault it holds is raised (R269). One of the other bank stops: the vector
engine issues no further pair and its results in flight drain, a trapped run ends; the matrix and the move engine go on to the end of
the record in progress, repetitions with it, and end at once where there is none or a fault has parked it (one that a budget overrun holds
goes on); a push that waits is dropped (R268); and SPECWR counts what the move run has written. The model's choice: what one write of
SPECWR is (log entry 41). -/
def Obligations.RunsAreQueuedAndResolved : Prop :=
  (
    let room := fun (t : Tile) (e : EMask) => (e.x = true → t.mov.queue.length < 8) ∧ (e.m = true → t.mat.queue.length < 8) ∧
      (e.v = true → t.vec.queue.length < 8)
    let inside := fun (h : Header) (e : EMask) (x m v : Nat) => (e.x = true → x < h.xrecs) ∧ (e.m = true → m < h.mrecs) ∧
      (e.v = true → v < h.vpairs)
    let forked := fun (i : Instr) (s : State) (a d b : Nat) (e : EMask) (x m v tag : Nat) (bank : Bank) =>
      ∃ t, exec i s = .next t ∧ Queued (tile s a) (tile t a) e x m v (rdS (core s a) d) (rdS (core s a) b) tag bank ∧
        (core t a).pc = (core s a).pc + 1 ∧ (∀ r, rdS (core t a) r = rdS (core s a) r) ∧ OnlyTile a s t
    let waits := fun (i : Instr) (s : State) => exec i s = .next (modCore s s.cur (fun c => { c with wait := wordWait .ownAtomic c.wait }))
    (∀ (s : State) (o : ForkOp), Ready s [] [o.d.val, o.a.val] [o.d.val, o.a.val] o.g → isSeq s.cur = false →
      inside (hdr s s.cur) o.e o.xentry o.mentry o.ventry → coPending s s.cur = true → waits (.fork o) s) ∧
    (∀ (s : State) (o : ForkSOp), Ready s [6] [o.d.val, o.a.val] [o.d.val, o.a.val] o.g → isSeq s.cur = false →
      inside (hdr s s.cur) o.e o.xentry o.mentry o.ventry → coPending s s.cur = true → waits (.forks o) s) ∧
    (∀ (s : State) (o : ForkOp), Ready s [] [o.d.val, o.a.val] [o.d.val, o.a.val] o.g → isSeq s.cur = false → room (tile s s.cur) o.e →
      inside (hdr s s.cur) o.e o.xentry o.mentry o.ventry → coPending s s.cur = false →
      forked (.fork o) s s.cur o.d o.a o.e o.xentry o.mentry o.ventry o.tag .none) ∧
    (∀ (s : State) (o : ForkSOp), Ready s [6] [o.d.val, o.a.val] [o.d.val, o.a.val] o.g → isSeq s.cur = false →
      room (tile s s.cur) o.e → inside (hdr s s.cur) o.e o.xentry o.mentry o.ventry → coPending s s.cur = false →
      forked (.forks o) s s.cur o.d o.a o.e o.xentry o.mentry o.ventry o.tag (if o.bank then .b else .a)) ∧
    (∀ (s : State) (a : Nat) (o : ForkOp), (core s a).wait = .fork → decodeAt s a (core s a).pc = .ok (.fork o) →
      Ready { s with cur := a } [] [o.d.val, o.a.val] [o.d.val, o.a.val] o.g → isSeq a = false → room (tile s a) o.e →
      inside (hdr s a) o.e o.xentry o.mentry o.ventry → coPending s a = false →
      ∃ t, exec (.forkQueueEntryFree a) s = .next t ∧
        Queued (tile s a) (tile t a) o.e o.xentry o.mentry o.ventry (rdS (core s a) o.d) (rdS (core s a) o.a) o.tag .none ∧
        (core t a).pc = (core s a).pc + 1 ∧ (core t a).wait = .none ∧ t.mem = s.mem) ∧
    (∀ (s : State) (a : Nat) (o : ForkSOp), (core s a).wait = .fork → decodeAt s a (core s a).pc = .ok (.forks o) →
      Ready { s with cur := a } [6] [o.d.val, o.a.val] [o.d.val, o.a.val] o.g → isSeq a = false → room (tile s a) o.e →
      inside (hdr s a) o.e o.xentry o.mentry o.ventry → coPending s a = false →
      ∃ t, exec (.forkQueueEntryFree a) s = .next t ∧
        Queued (tile s a) (tile t a) o.e o.xentry o.mentry o.ventry (rdS (core s a) o.d) (rdS (core s a) o.a) o.tag
          (if o.bank then .b else .a) ∧
        (core t a).pc = (core s a).pc + 1 ∧ (core t a).wait = .none ∧ t.mem = s.mem) ∧
    (∀ (s : State) (a : Nat) (r : RunEntry) (rs : List RunEntry), (tile s a).vec.queue = r :: rs → vecBusy (tile s a).vec = false →
      ∃ t, exec (.runStart a .v) s = .next t ∧ (tile t a).vec.queue = rs ∧ (tile t a).vec.run = some ⟨r, r.entry, false⟩ ∧
        rdK (tile t a).vec 12 = r.p0.truncate 32 ∧ rdK (tile t a).vec 13 = (r.p0 >>> 32).truncate 32 ∧
        rdK (tile t a).vec 14 = r.p1.truncate 32 ∧ rdK (tile t a).vec 15 = (r.p1 >>> 32).truncate 32 ∧
        (∀ k, k < 12 → rdK (tile t a).vec k = rdK (tile s a).vec k) ∧ OnlyTile a s t) ∧
    (∀ (s : State) (a : Nat) (r : RunEntry) (rs : List RunEntry), (tile s a).mat.queue = r :: rs → matBusy (tile s a).mat = false →
      ∃ t, exec (.runStart a .m) s = .next t ∧ (tile t a).mat.queue = rs ∧ (tile t a).mat.run = some ⟨r, r.entry, false⟩ ∧ OnlyTile a s t) ∧
    (∀ (s : State) (a : Nat) (r : RunEntry) (rs : List RunEntry), (tile s a).mov.queue = r :: rs → movBusy (tile s a).mov = false →
      ∃ t, exec (.runStart a .x) s = .next t ∧ (tile t a).mov.queue = rs ∧ (tile t a).mov.run = some ⟨r, r.entry, false⟩ ∧ OnlyTile a s t)) ∧
  (
    (∀ (s : State) (o : ResolveOp), Ready s [6] [] [] o.g → isSeq s.cur = false →
      let keep : Bank := if o.bank then .b else .a
      let drop : Bank := if o.bank then .a else .b
      let after := fun (q : List RunEntry) => (q.filter (fun r => !(r.tag == o.tag.val && r.bank == drop))).map
        (fun r => if r.tag == o.tag.val && r.bank == keep then { r with bank := Bank.none } else r)
      ∃ t, exec (.resolve o) s = .next t ∧ (core t s.cur).pc = (core s s.cur).pc + 1 ∧
        (tile t s.cur).vec.queue = (if o.e.v then after (tile s s.cur).vec.queue else (tile s s.cur).vec.queue) ∧
        (tile t s.cur).mat.queue = (if o.e.m then after (tile s s.cur).mat.queue else (tile s s.cur).mat.queue) ∧
        (tile t s.cur).mov.queue = (if o.e.x then after (tile s s.cur).mov.queue else (tile s s.cur).mov.queue) ∧
        t.mem = s.mem ∧ (∀ b, b ≠ s.cur → tile t b = tile s b)) ∧
    (∀ (s : State) (o : ResolveOp), Ready s [6] [] [] o.g → isSeq s.cur = false →
      let keep : Bank := if o.bank then .b else .a
      let drop : Bank := if o.bank then .a else .b
      let x := tile s s.cur
      let raised := fun (t : State) (h : Option Pending) => ∀ q, h = some q → q ∈ (core t s.cur).async
      let runs := fun (named : Bool) (h : Option RunState) (bank : Bank) (p : RunState → Prop) =>
        named = true → ∀ r, h = some r → r.e.tag = o.tag.val → r.e.bank = bank → p r
      let ordinary := fun (r : RunState) => some { r with e := { r.e with bank := Bank.none } }
      ∃ t, exec (.resolve o) s = .next t ∧
        (let y := tile t s.cur
        runs o.e.v x.vec.run keep (fun r => y.vec.run = ordinary r ∧ y.vec.held = none ∧ raised t x.vec.held) ∧
        runs o.e.m x.mat.run keep (fun r => y.mat.run = ordinary r ∧ y.mat.held = none ∧ raised t x.mat.held) ∧
        runs o.e.x x.mov.run keep (fun r => y.mov.run = ordinary r ∧ y.mov.held = none ∧ raised t x.mov.held) ∧
        runs o.e.v x.vec.run drop (fun r =>
          if x.vec.trapped = true then y.vec.run = none ∧ y.vec.buffer = []
          else y.vec.run = some { r with stop := true } ∧ y.vec.draining = true ∧ y.vec.push = none ∧ y.vec.flight = x.vec.flight) ∧
        runs o.e.m x.mat.run drop (fun r => y.mat.push = none ∧ y.mat.parked = false ∧ y.mat.paused = false ∧
          if x.mat.busy = [] ∧ (repeating x.mat = false ∨ x.mat.parked = true) then y.mat.run = none
          else y.mat.run = some { r with stop := true } ∧ y.mat.busy = x.mat.busy) ∧
        runs o.e.x x.mov.run drop (fun r => y.mov.push = none ∧ y.mov.parked = none ∧ y.mov.paused = false ∧
          (core t s.cur).specwr = (core s s.cur).specwr +
            BitVec.ofNat 64 (x.mov.runWrites + (match x.mov.busy with | some b => b.writes | none => 0)) ∧
          if x.mov.busy = none ∨ x.mov.parked ≠ none then y.mov.run = none
          else y.mov.run = some { r with stop := true } ∧ y.mov.busy = x.mov.busy.map (fun b => { b with writes := 0 })))) ∧
    (∀ (s : State) (o : CancelOp), Ready s [] [] [] o.g →
      let after := fun (q : List RunEntry) => q.filter (fun r => !(r.tag == o.tag.val))
      ∃ t, exec (.cancel o) s = .next t ∧ (core t s.cur).pc = (core s s.cur).pc + 1 ∧
        (tile t s.cur).vec.queue = (if o.e.v then after (tile s s.cur).vec.queue else (tile s s.cur).vec.queue) ∧
        (tile t s.cur).mat.queue = (if o.e.m then after (tile s s.cur).mat.queue else (tile s s.cur).mat.queue) ∧
        (tile t s.cur).mov.queue = (if o.e.x then after (tile s s.cur).mov.queue else (tile s s.cur).mov.queue) ∧
        (∀ r, rdS (core t s.cur) r = rdS (core s s.cur) r) ∧ OnlyTile s.cur s t))

/-- R118, R124, R125, R127, R128: the waits that are over. RDV with its engines idle, WAITTL with its timeline reached, SEMWAIT with the
semaphore at least sb, and MAPWAIT with the slot ready go on at once, MAPWAIT with its token (done, status 0, the slot's count) in sd;
and a core that stands at such a wait goes on by the event of its end. No memory changes. A SEMWAIT of a semaphore below sb is held at the
home, which answers it once an update has crossed sb, whatever comes after; it asks and is answered only while no link of the way
retrains (R388). MAPWAIT of a slot that is not ready goes on with
sd marked as a pending token register, which the slot's ready event writes; into s0 it stalls.
R127: SEMINC on a writable HC page adds sb to the 64-bit semaphore at its home, wrapping; every byte outside it stays; a wait held there
that it reaches is answered. R129: LAUNCHQ
of an aligned descriptor by a task that is not killable pushes it onto the named queue of the named die with its class, and sd
receives bit 63 and the sequence number; a full queue takes nothing, and sd receives 0; it waits while a link of the way retrains (R388).
R389: towards a die that no path reaches nothing is queued, and trap 0x16 is raised asynchronously. R364, R390: a SEMINC on a lost device raises
trap 0x16 asynchronously, one on a peer without a route is discarded. R101: it
releases: it comes after every answer to an AMOS.CO of the core, and so does a LAUNCHQ.
The model's choice: SEMINC performs at the home in the step that issues it, and waits end by their events (log entries 1 and 11); a LAUNCHQ
out of reach fails as an access does (log entry 40). -/
def Obligations.WaitsAndSemaphores : Prop :=
  (
    (∀ (s : State) (o : RdvOp), Ready s [] [] [] o.g → enginesIdle (tile s s.cur) o.e = true →
      exec (.rdv o) s = .next (advance s)) ∧
    (∀ (s : State) (a : Nat) (e : EMask), (core s a).wait = .rdv e → enginesIdle (tile s a) e = true →
      exec (.rdvComplete a) s = .next (advanceAt a s)) ∧
    (∀ (s : State) (o : WaitTlOp), Ready s [] [o.a.val] [o.a.val] o.g → (o.tl = .c → isSeq s.cur = true) →
      (sreg s o.a).toNat ≤ (timelineAt s s.cur o.tl).toNat →
      ∃ t, exec (.waittl o) s = .next t ∧ (core t s.cur).pc = (core s s.cur).pc + 1 ∧ t.mem = s.mem ∧
        (∀ r, rdS (core t s.cur) r = rdS (core s s.cur) r)) ∧
    (∀ (s : State) (a n : Nat) (l : Timeline) (c : Scope), (core s a).wait = .waittl l n c → n ≤ (timelineAt s a l).toNat →
      ∃ t, exec (.waittlComplete a) s = .next t ∧ (core t a).pc = (core s a).pc + 1 ∧ (core t a).wait = .none ∧ t.mem = s.mem) ∧
    (∀ (s : State) (o : MapWaitOp), Ready s [] [o.d.val] [] o.g → o.slot.val < (hdr s s.cur).maps → isSeq s.cur = false →
      tokPending (core s s.cur) o.d = false → (slotOf s s.cur o.slot).ready = true →
      ∃ t, exec (.mapwait o) s = .next t ∧ (core t s.cur).pc = (core s s.cur).pc + 1 ∧
        rdS (core t s.cur) o.d = (if o.d = 0 then 0 else BitVec.ofNat 64 (2 ^ 63 + (slotOf s s.cur o.slot).readyCount % 2 ^ 48)) ∧
        (∀ r, r ≠ o.d.val → rdS (core t s.cur) r = rdS (core s s.cur) r) ∧ OnlyCore s.cur s t) ∧
    (∀ (s : State) (o : MapWaitOp), Ready s [] [o.d.val] [] o.g → o.slot.val < (hdr s s.cur).maps → isSeq s.cur = false →
      tokPending (core s s.cur) o.d = false → (slotOf s s.cur o.slot).ready = false →
      (o.d ≠ 0 → ∃ t, exec (.mapwait o) s = .next t ∧ (core t s.cur).pc = (core s s.cur).pc + 1 ∧ tokPending (core t s.cur) o.d = true ∧
        (core t s.cur).mapTok = (core s s.cur).mapTok ++ [(o.d.val, o.slot.val)] ∧
        (∀ r, rdS (core t s.cur) r = rdS (core s s.cur) r) ∧ OnlyCore s.cur s t) ∧
      (o.d = 0 → exec (.mapwait o) s = .next (modCore s s.cur (fun c => { c with wait := .mapwait o.slot })))) ∧
    (∀ (s : State) (a k r : Nat), (core s a).mapTok = [(r, k)] → (slotOf s a k).ready = true → r ≠ 0 → (core s a).wait ≠ .mapwait k →
      ∃ t, exec (.mapwaitReady a k) s = .next t ∧ (core t a).mapTok = [] ∧ tokPending (core t a) r = false ∧
        rdS (core t a) r = BitVec.ofNat 64 (2 ^ 63 + (slotOf s a k).readyCount % 2 ^ 48) ∧
        (∀ q, q ≠ r → rdS (core t a) q = rdS (core s a) q) ∧ (core t a).pc = (core s a).pc ∧ OnlyCore a s t) ∧
    (∀ (s : State) (a k : Nat), (core s a).wait = .mapwait k → (slotOf s a k).ready = true → (core s a).mapTok = [] →
      ∃ t, exec (.mapwaitReady a k) s = .next t ∧ (core t a).pc = (core s a).pc + 1 ∧ (core t a).wait = .none ∧ OnlyCore a s t) ∧
    (∀ (s s1 : State) (o : SemOp) (ga e : Nat), Ready s [] [o.a.val, o.b.val] [o.a.val, o.b.val] o.g → effective s o.a o.off % 8 = 0 →
      translate s s.cur false (ctxOf s s.cur) (effective s o.a o.off) false = (.ok ga e, s1) →
      ((hdr s s.cur).killable = false → eW e = true ∧ eClass e = 2) → SemReadable s1 s.cur ga →
      let n := (sreg s o.b).toNat
      let open_ := wayOpen s1 s.cur (servedBy ga) = true
      let goesOn := ∃ t, exec (.semwait o) s = .next t ∧ (core t s.cur).pc = (core s s.cur).pc + 1 ∧ t.mem = s1.mem ∧
        (∀ r, rdS (core t s.cur) r = rdS (core s s.cur) r) ∧ ∀ w ∈ t.waits, w.agent ≠ s.cur
      let stands := fun (p : List HeldWait → Prop) => ∃ t, exec (.semwait o) s = .next t ∧ (core t s.cur).pc = (core s s.cur).pc ∧
        t.mem = s1.mem ∧ (core t s.cur).wait = .semwait (effective s o.a o.off) ga n o.scope ∧ p t.waits
      (semHeld s1 s.cur ga n = false →
        (open_ → n ≤ readN s1.mem ga 8 → goesOn) ∧
        (open_ → readN s1.mem ga 8 < n → stands (fun ws => ⟨s.cur, ga, n, false⟩ ∈ ws)) ∧
        (¬open_ → stands (fun ws => ws = s1.waits))) ∧
      (semHeld s1 s.cur ga n = true →
        ((⟨s.cur, ga, n, true⟩ : HeldWait) ∈ s1.waits ∧ open_ → goesOn) ∧
        (¬((⟨s.cur, ga, n, true⟩ : HeldWait) ∈ s1.waits ∧ open_) → stands (fun ws => ws = s1.waits)))) ∧
    (∀ (s : State) (a va ga n : Nat) (c : Scope), (core s a).wait = .semwait va ga n c →
      ((⟨a, ga, n, true⟩ : HeldWait) ∈ s.waits → lostAt s a ga = false → unroutedAt s ga = none → wayOpen s a (servedBy ga) = true →
        ∃ t, exec (.semwaitWake a) s = .next t ∧ (core t a).pc = (core s a).pc + 1 ∧ (core t a).wait = .none ∧ t.mem = s.mem ∧
          ∀ w ∈ t.waits, w.agent ≠ a) ∧
      ((⟨a, ga, n, true⟩ : HeldWait) ∉ s.waits → exec (.semwaitWake a) s = .next s))) ∧
  (
    (∀ (s s1 : State) (o : SemOp) (ga e : Nat), Ready s [] [o.a.val, o.b.val] [o.a.val, o.b.val] o.g → effective s o.a o.off % 8 = 0 →
      translate s s.cur false (ctxOf s s.cur) (effective s o.a o.off) true = (.ok ga e, s1) → eClass e = 2 →
      (hdr s s.cur).killable = false → (∀ q ∈ (core s s.cur).co, q.ans ≠ none) →
      (lostAt s1 s.cur ga = true → RaisesLost (.seminc o) s s1 (effective s o.a o.off)) ∧
      (lostAt s1 s.cur ga = false → unroutedAt s1 ga ≠ none → Discards (.seminc o) s s1) ∧
      (lostAt s1 s.cur ga = false → unroutedAt s1 ga = none →
        ∃ t, exec (.seminc o) s = .next t ∧ (core t s.cur).pc = (core s s.cur).pc + 1 ∧
          readN t.mem ga 8 = (readN s1.mem ga 8 + (sreg s o.b).toNat) % 2 ^ 64 ∧
          (∀ x, x < ga ∨ ga + 8 ≤ x → getB t.mem x = getB s1.mem x) ∧ (∀ r, rdS (core t s.cur) r = rdS (core s s.cur) r) ∧
          (∀ w ∈ s1.waits, w.met = true → w ∈ t.waits) ∧
          (poisonedAt t.memPoison 32 ga 8 = false → ∀ w ∈ s1.waits, w.ga = ga → w.n ≤ readN t.mem ga 8 →
            { w with met := true } ∈ t.waits))) ∧
    (∀ (s : State) (o : RRR), Ready s [] [o.d.val, o.a.val, o.b.val] [o.a.val, o.b.val] o.g → tokPending (core s s.cur) o.d = false →
      (sreg s o.b).toNat < 256 → (sreg s o.a).toNat % 64 = 0 → (hdr s s.cur).killable = false →
      (coPending s s.cur = true → exec (.launchq o) s = .next (modCore s s.cur (fun c => { c with wait := wordWait .ownAtomic c.wait }))) ∧
      (coPending s s.cur = false →
      let d := (sreg s o.b).toNat % 4
      let k := (sreg s o.b).toNat / 4 % 16
      let q := queueOf s d k
      (diePath s (dieOf s.cur) d = true → pathOpen s (dieOf s.cur) d = false →
        exec (.launchq o) s = .next (modCore s s.cur (fun c => { c with wait := .sends }))) ∧
      ((diePath s (dieOf s.cur) d = true → pathOpen s (dieOf s.cur) d = true) →
      ∃ t, exec (.launchq o) s = .next t ∧ (core t s.cur).pc = (core s s.cur).pc + 1 ∧ t.mem = s.mem ∧
        (∀ r, r ≠ o.d.val → rdS (core t s.cur) r = rdS (core s s.cur) r) ∧
        (diePath s (dieOf s.cur) d = false → queueOf t d k = q ∧
          (core t s.cur).async = (core s s.cur).async ++ [⟨0x16, sreg s o.a, trapSrc 0 (core s s.cur).pc 0⟩]) ∧
        (diePath s (dieOf s.cur) d = true → q.entries.length < 256 → (queueOf t d k).entries = q.entries ++
            [⟨(sreg s o.a).toNat, (ctxOf s s.cur).pa, (sreg s o.b).toNat / 64, q.next⟩] ∧
          rdS (core t s.cur) o.d = if o.d = 0 then 0 else BitVec.ofNat 64 (2 ^ 63 + q.next)) ∧
        (diePath s (dieOf s.cur) d = true → 256 ≤ q.entries.length → queueOf t d k = q ∧ rdS (core t s.cur) o.d = 0)))))

/-- R130, R145: NOP has no effect, FENCE, once the core's AMOS.COs are answered, publishes nothing and orders only (a view boundary for an
acquire at GANG scope or wider), and
WFE with the event latch set clears it and completes: registers, memory and the rest of the part stay.
R131: PHASE publishes the tile's unpublished stores, each byte at its home, and stalls; when the publication has performed, the core
goes on past it, and the boundary is set: no clean PHASE line stays in its L1 (R290). It has not performed while a link on the way to one
of the homes that got a line retrains (R388). With unpublished bytes listed once each, none of them on a lost device, a die out of reach
or a peer without a route, memory holds each of them and every other byte as before; none is left
unpublished but those of a move record in progress, which are the next phase's.
The model's choice: PHASE publishes in the step that issues it, and the stall ends by its event (log entry 11). -/
def Obligations.PublishingWords : Prop :=
  (
    (∀ (s : State) (o : NoOp), Ready s [] [] [] o.g → exec (.nop o) s = .next (advance s)) ∧
    (∀ (s : State) (o : FenceOp), Ready s [] [] [] o.g → (∀ q ∈ (core s s.cur).co, q.ans ≠ none) →
      ∃ t, exec (.fence o) s = .next t ∧ (core t s.cur).pc = (core s s.cur).pc + 1 ∧ (core t s.cur).unpub = (core s s.cur).unpub ∧
        (∀ r, rdS (core t s.cur) r = rdS (core s s.cur) r) ∧ TrapRegsKept (core s s.cur) (core t s.cur) ∧ OnlyCore s.cur s t) ∧
    (∀ (s : State) (o : NoOp), Ready s [] [] [] o.g → (core s s.cur).latch = true →
      ∃ t, exec (.wfe o) s = .next t ∧ (core t s.cur).pc = (core s s.cur).pc + 1 ∧ (core t s.cur).latch = false ∧
        (∀ r, rdS (core t s.cur) r = rdS (core s s.cur) r) ∧ TrapRegsKept (core s s.cur) (core t s.cur) ∧ OnlyCore s.cur s t) ∧
    (∀ (s : State) (o : NoOp), Ready s [] [] [] o.g → (core s s.cur).latch = false →
      exec (.wfe o) s = .next (modCore s s.cur (fun c => { c with wait := .wfe })))) ∧
  (
    (∀ (s : State) (o : NoOp), Ready s [] [] [] o.g →
      ∃ t, exec (.phase o) s = .next t ∧ (core t s.cur).wait = .phase .phase ∧ (core t s.cur).pc = (core s s.cur).pc ∧
        Published s.cur s t ∧ (∀ n, n ∈ (core t s.cur).pubAt ↔ ∃ e ∈ (core s s.cur).unpub, servedBy e.1 = n) ∧
        (∀ r, rdS (core t s.cur) r = rdS (core s s.cur) r)) ∧
    (∀ (s : State) (a : Nat), (core s a).wait = .phase .phase →
      ((∀ n ∈ (core s a).pubAt, wayOpen s a n = true) →
        ∃ t, exec (.phasePerformed a) s = .next t ∧ (core t a).wait = .none ∧ (core t a).pc = (core s a).pc + 1 ∧ t.mem = s.mem ∧
          (core t a).pubAt = [] ∧ (∀ c l, (c, l) ∈ (core t a).clean → l.1 ≠ 1) ∧ (∀ r, rdS (core t a) r = rdS (core s a) r)) ∧
      ((∃ n ∈ (core s a).pubAt, wayOpen s a n = false) → exec (.phasePerformed a) s = .next s)))

/-- R132, R133, R296: with no AMOS.CO of the core unanswered, the GBAR that completes its barrier's generation, of a gang of one or as the
last arrival, lets every tile of the gang that waits there go on in the same step; where a landing of a step is still to come, all go on
at the release. R273: an exited tile holds no other, whatever step it opened. SSTEP right after a
GBAR, with no step's issue cycles under way and no flit of the tile's scheduled, opens a step of n cycles on the next cycle (n = 0:
none) and goes on; otherwise it waits. The step's end closes it.
R134, R135: with no request and no kill pending, SAFEPT whose masks lie within the declarations goes on behind its four words and
KILLPT to the next word, with no other effect. -/
def Obligations.BarriersStepsSafePoints : Prop :=
  (
    (∀ (s : State) (o : GBarOp), Ready s [] [] [] o.g → o.n.val < (hdr s s.cur).barriers → isSeq s.cur = false → gang s s.cur = [s.cur] →
      (∀ q ∈ (core s s.cur).co, q.ans ≠ none) → s.sync = [] → stepGoing s s.cur = false →
      ∃ t, exec (.gbar o) s = .next t ∧ (core t s.cur).pc = (core s s.cur).pc + 1 ∧ (core t s.cur).afterGbar = true ∧ t.mem = s.mem ∧
        (∀ r, rdS (core t s.cur) r = rdS (core s s.cur) r)) ∧
    (∀ (s : State) (o : GBarOp), Ready s [] [] [] o.g → o.n.val < (hdr s s.cur).barriers → isSeq s.cur = false → s.sync = [] →
      (∀ q ∈ (core s s.cur).co, q.ans ≠ none) → (gang s s.cur).Nodup → s.cur ∈ gang s s.cur → (tile s s.cur).arrived.contains (core s s.cur).pc = false →
      (∀ b ∈ gang s s.cur, stepGoing s b = false ∧ (b ≠ s.cur → gang s b = gang s s.cur ∧ (core s b).wait = .gbar o.n ∧
        arrivals s b o.n = arrivals s s.cur o.n + 1)) →
      ∃ t, exec (.gbar o) s = .next t ∧ t.mem = s.mem ∧ ∀ b ∈ gang s s.cur,
        (core t b).pc = (core s b).pc + 1 ∧ (core t b).wait = .none ∧ (core t b).afterGbar = true) ∧
    (∀ (s : State) (a n : Nat), (gang s a).Nodup → s.sync = [] → (∀ b ∈ gang s a, gang s b = gang s a ∧ (hasExited s b = true ∨ stepGoing s b = false)) →
      ∃ t, exec (.gbarRelease a n) s = .next t ∧ t.mem = s.mem ∧ ∀ b ∈ gang s a, (core s b).wait = .gbar n →
        (∀ c ∈ gang s a, hasExited s c = true ∨ arrivals s b n ≤ arrivals s c n) →
        (core t b).pc = (core s b).pc + 1 ∧ (core t b).wait = .none ∧ (core t b).afterGbar = true) ∧
    (∀ (s : State) (o : SStepOp), Ready s [7] [] [] o.g → isSeq s.cur = false → (core s s.cur).afterGbar = true → s.sync = [] →
      (stepGoing s s.cur = false → ∃ t, exec (.sstep o) s = .next t ∧ (core t s.cur).pc = (core s s.cur).pc + 1 ∧
        (tile t s.cur).stepOpen = (if o.n = 0 then (tile s s.cur).stepOpen else some ⟨s.now + 1, o.n.toNat, 0⟩) ∧ OnlyTile s.cur s t) ∧
      (stepGoing s s.cur = true → exec (.sstep o) s = .next (modCore s s.cur (fun c => { c with wait := .sstep })))) ∧
    (∀ (s : State) (a : Nat) (st : StepOpen), (tile s a).stepOpen = some st → st.start + st.n ≤ s.now →
      ∃ t, exec (.communicationStepEnd a) s = .next t ∧ (tile t a).stepOpen = none ∧ core t a = core s a ∧ OnlyTile a s t)) ∧
  (
    (∀ (s : State) (o : SafeMasks), maskBeyond (hdr s s.cur) o = none → killDue s s.cur = false → (tile s s.cur).preemptAt = none →
      exec (.safept o) s = .next (goTo ((core s s.cur).pc + 4) s)) ∧
    (∀ (s : State) (o : NoOp), Ready s [] [] [] o.g → isSeq s.cur = false → killDue s s.cur = false →
      exec (.killpt o) s = .next (advance s)) ∧
    (∀ (s : State) (a pc : Nat),
      (∀ r, rdS (core (goAt a pc s) a) r = rdS (core s a) r) ∧ (core (goAt a pc s) a).pc = pc ∧
        TrapRegsKept (core s a) (core (goAt a pc s) a) ∧ OnlyCore a s (goAt a pc s)))

/-- R136, R344, R345: QARRIVE whose join is one of its task's quorum joins asks the join's scheduler, with the header's weight where sb
is s0; accepted, its weight is added to QARR and its publication begins; refused (the join has closed, or its GRACE is over), its task
is killed with cause 0x10. A second QARRIVE to the same join, of whatever tile, has no effect.
R119, R120: on a tile whose queues are empty, whose engines are idle and that waits for no response, EXIT and EXIT.ABANDON of a task
that feeds no quorum join perform PHASE: a pending MAPWAIT is withdrawn (R125), and the core stands at the end of
its task; when the publication has performed it has exited. The publication of QARRIVE, EXIT and EXIT.ABANDON is a PHASE's: memory holds
each byte that was unpublished, every other byte stays (R131). QARRIVE's answer waits while a link of the way to the join's die retrains, and
the publication's end while one on the way to a home does (R388).
The model's choices: a wait is ended by its event (log entry 1), publication performs in the step that begins it, at QARRIVE and EXIT as at PHASE
(log entries 11 and 28), a kill is written as a state of the task (log entry 31), and no answer comes while no path reaches the join's die (log
entry 40). -/
def Obligations.ArrivalAndExit : Prop :=
  let closed := fun (s : State) (gid jd jn : Nat) (n : Node) => match n.kind with
    | .join _ _ grace _ _ _ => decide (n.graceAt + grace ≤ s.now) || n.qset == 2 ^ (preds s gid jd jn).length - 1
    | _ => false
  (
    (∀ (s : State) (o : QArrOp), Ready s [8] [o.a.val, o.b.val] [o.a.val, o.b.val] o.g → isSeq s.cur = false →
      (sreg s o.a).toNat < 2 ^ 18 → (sreg s o.b).toNat < 2 ^ 16 →
      joinNamed s s.cur ((sreg s o.a).toNat / 2 ^ 16, (sreg s o.a).toNat % 2 ^ 16) = true → killDue s s.cur = false →
      ∀ u, taskOf s s.cur = some u →
      (u.arrivedAt.contains (sreg s o.a).toNat = true → exec (.qarrive o) s = .next (advance s)) ∧
      (u.arrivedAt.contains (sreg s o.a).toNat = false → ∃ t, exec (.qarrive o) s = .next t ∧
        (core t s.cur).wait = .qask ((sreg s o.a).toNat / 2 ^ 16) ((sreg s o.a).toNat % 2 ^ 16)
          (if o.b = 0 then (hdr s s.cur).weight else (sreg s o.b).toNat) false ∧ OnlyCore s.cur s t)) ∧
    (∀ (s : State) (a jd jn w u d gid node run : Nat) (tk : Task) (n : Node),
      (core s a).wait = .qask jd jn w false → (tile s a).task = some u → lookup s.tasks u = some tk → tk.origin = .node d gid node run →
      nodeAt s jd gid jn = some n → tk.arrivedAt.contains (jd * 65536 + jn) = false → pathOpen s (dieOf a) jd = true →
      (n.qst = 0 ∨ (n.qst = 1 ∧ closed s gid jd jn n = false)) →
      ∃ t m, exec (.qarriveAnswer a) s = .next t ∧ nodeAt t jd gid jn = some m ∧ m.qarr = (n.qarr + w) % 2 ^ 32 ∧
        (core t a).wait = .phase .qarrive ∧ Published a s t) ∧
    (∀ (s : State) (a jd jn w u d gid node run : Nat) (tk : Task) (n : Node),
      (core s a).wait = .qask jd jn w false → (tile s a).task = some u → lookup s.tasks u = some tk → tk.origin = .node d gid node run →
      nodeAt s jd gid jn = some n → tk.arrivedAt.contains (jd * 65536 + jn) = false → pathOpen s (dieOf a) jd = true →
      (2 ≤ n.qst ∨ (n.qst = 1 ∧ closed s gid jd jn n = true)) →
      ∃ t tk', exec (.qarriveAnswer a) s = .next t ∧ lookup t.tasks u = some tk' ∧ tk'.killed = some (0x10, .close)) ∧
    (∀ (s : State) (a jd jn w u d gid node run : Nat) (tk : Task),
      (core s a).wait = .qask jd jn w false → (tile s a).task = some u → lookup s.tasks u = some tk → tk.origin = .node d gid node run →
      (tk.arrivedAt.contains (jd * 65536 + jn) = true → exec (.qarriveAnswer a) s = .next (advanceAt a s)) ∧
      (tk.arrivedAt.contains (jd * 65536 + jn) = false → pathOpen s (dieOf a) jd = false → exec (.qarriveAnswer a) s = .next s))) ∧
  (
    (∀ (s : State) (o : NoOp), Ready s [] [] [] o.g → killDue s s.cur = false → enginesIdle (tile s s.cur) allEngines = true →
      (core s s.cur).resp = [] → (core s s.cur).co = [] → (∀ u, taskOf s s.cur = some u → nextJoin s u = none) →
      let left := fun (i : Instr) => ∃ t, exec i s = .next t ∧ (core t s.cur).wait = .phase .exit ∧ Published s.cur s t ∧
        (core t s.cur).mapTok = []
      left (.exit o) ∧ left (.exitAbandon o)) ∧
    (∀ (s : State) (a : Nat), (core s a).wait = .phase .exit →
      ((∀ n ∈ (core s a).pubAt, wayOpen s a n = true) →
        ∃ t, exec (.phasePerformed a) s = .next t ∧ (core t a).run = .exited ∧ t.mem = s.mem) ∧
      ((∃ n ∈ (core s a).pubAt, wayOpen s a n = false) → exec (.phasePerformed a) s = .next s)))

/-! ## Traps and system registers -/

/-- R137, R138, R141: TRAP and BRK, their guard holding and no load outstanding, take traps 0x0E and 0x0D with the code in TRAPINFO:
TRAPPC is the word after for TRAP and the BRK word itself, TRAPSRC names the word, IN is set. With a handler installed and IN clear the
core goes on at its entry; otherwise the tile stops issuing and the trap goes to the reeve core.
R140: ERET with IN set clears it, restarts the parked records, replays the vector engine's flight buffer (R179: its entries are in
flight again, each due as many slots after the present one as the buffer holds for it), and goes on at TRAPPC, with
the registers, the trap registers otherwise, and memory as they were. With IN clear it takes trap 0x01. R146: HALT stops the core
after itself: TRAPPC names the next word, and no other trap register, register or engine changes. -/
def Obligations.TrapsAndReturns : Prop :=
  (
    let enters := fun (s t : State) (cause pc : Nat) (info : Word) =>
      (core t s.cur).trapCause = BitVec.ofNat 8 cause ∧ (core t s.cur).trapPc = BitVec.ofNat 64 pc ∧ (core t s.cur).trapInfo = info ∧
      (core t s.cur).trapSrc = BitVec.ofNat 64 ((core s s.cur).pc % 2 ^ 13 * 2 ^ 48) ∧ (core t s.cur).trapIn = true ∧
      ((core s s.cur).trapVecEn = true → (core s s.cur).trapIn = false →
        (core t s.cur).pc = (core s s.cur).trapVec.toNat ∧ (core t s.cur).run = .running) ∧
      ((core s s.cur).trapVecEn = false ∨ (core s s.cur).trapIn = true → (core t s.cur).run = .reeve false) ∧
      (∀ r, rdS (core t s.cur) r = rdS (core s s.cur) r) ∧ (∀ p, rdP (core t s.cur) p = rdP (core s s.cur) p) ∧ OnlyCore s.cur s t
    ∀ (s : State) (o : CodeOp), Ready s [] [] [] o.g → (core s s.cur).resp = [] →
      (∃ t, exec (.trap o) s = .next t ∧ enters s t 0x0E ((core s s.cur).pc + 1) (o.code.zeroExtend 64)) ∧
      (∃ t, exec (.brk o) s = .next t ∧ enters s t 0x0D (core s s.cur).pc (o.code.zeroExtend 64))) ∧
  (
    (∀ (s : State) (o : NoOp), Ready s [] [] [] o.g → (core s s.cur).trapIn = true →
      ∃ t, exec (.eret o) s = .next t ∧ (core t s.cur).trapIn = false ∧ (core t s.cur).pc = (core s s.cur).trapPc.toNat ∧
        (core t s.cur).run = .running ∧ (tile t s.cur).mat.parked = false ∧ (tile t s.cur).mov.parked = none ∧
        (tile t s.cur).mat.paused = false ∧ (tile t s.cur).mov.paused = false ∧
        (tile t s.cur).vec.trapped = false ∧ (tile t s.cur).vec.buffer = [] ∧
        (tile t s.cur).vec.flight = (tile s s.cur).vec.flight ++
          (tile s s.cur).vec.buffer.map (fun f => { f with due := f.due + (tile s s.cur).vec.slot }) ∧
        (core t s.cur).trapCause = (core s s.cur).trapCause ∧ (core t s.cur).trapPc = (core s s.cur).trapPc ∧
        (core t s.cur).trapInfo = (core s s.cur).trapInfo ∧ (core t s.cur).trapSrc = (core s s.cur).trapSrc ∧
        (∀ r, rdS (core t s.cur) r = rdS (core s s.cur) r) ∧ OnlyTile s.cur s t) ∧
    (∀ (s : State) (o : NoOp), Ready s [] [] [] o.g → (core s s.cur).trapIn = false → (core s s.cur).resp = [] →
      ∃ t, exec (.eret o) s = .next t ∧ (core t s.cur).trapCause = 0x01 ∧ (core t s.cur).trapInfo = 0x71 ∧ (core t s.cur).trapIn = true) ∧
    (∀ (s : State) (o : NoOp), Ready s [] [] [] o.g →
      ∃ t, exec (.halt o) s = .next t ∧ (core t s.cur).run = .halted ∧
        (core t s.cur).trapPc = BitVec.ofNat 64 ((core s s.cur).pc + 1) ∧ (core t s.cur).trapCause = (core s s.cur).trapCause ∧
        (core t s.cur).trapInfo = (core s s.cur).trapInfo ∧ (core t s.cur).trapSrc = (core s s.cur).trapSrc ∧
        (core t s.cur).trapIn = (core s s.cur).trapIn ∧ (tile t s.cur).vec = (tile s s.cur).vec ∧ (tile t s.cur).mat = (tile s s.cur).mat ∧
        (tile t s.cur).mov = (tile s s.cur).mov ∧ (∀ r, rdS (core t s.cur) r = rdS (core s s.cur) r)))

/-- R137, R138, R354: an asynchronous trap that is due at a word boundary of a running core is taken there, TRAPPC naming the first word not
yet executed; TRAPSRC holds its source, for 0x11 the place of TRAPPC, and for 0x0F too (the model's choice, log entry 44). A trap that has
come to the reeve core under policy FORWARD, or of a cause whose row of R354 only reports, leaves the tile stopped; otherwise its task ends.
The model's choices: the turn that takes the trap (log entry 1), and how an ending is written (log entry 31). -/
def Obligations.AsynchronousTraps : Prop :=
  (∀ (s : State) (a : Nat) (q : Pending) (qs : List Pending), (core s a).async = q :: qs → (core s a).run = .running →
    (core s a).wait = .none →
    ∃ t, exec (.asyncTrapTaken a) s = .next t ∧ (core t a).async = qs ∧ (core t a).trapCause = BitVec.ofNat 8 q.cause ∧
      (core t a).trapInfo = q.info ∧
      (core t a).trapSrc = (if q.cause = 0x11 ∨ q.cause = 0x0F then BitVec.ofNat 64 ((core s a).pc % 2 ^ 13 * 2 ^ 48) else q.src) ∧ (core t a).trapPc = BitVec.ofNat 64 (core s a).pc ∧
      (core t a).trapIn = true ∧ (∀ r, rdS (core t a) r = rdS (core s a) r) ∧ OnlyCore a s t) ∧
  (∀ (s : State) (a u : Nat) (k : Task), (core s a).run = .reeve false → (tile s a).task = some u → lookup s.tasks u = some k →
    (let c := (core s a).trapCause.toNat
     c = 0x10 ∨ c = 0x14 ∨ (c = 0x0F ∧ k.hdr.killable = true) ∨ k.ctx.tpol = 1) → killDue s a = false → k.killed = none →
    ∃ t, exec (.trapToReeveCore a) s = .next t ∧ (core t a).run = .reeve true ∧ (core t a).pc = (core s a).pc) ∧
  (∀ (s : State) (a u : Nat) (k : Task), (core s a).run = .reeve false → (tile s a).task = some u → lookup s.tasks u = some k →
    k.killed = none → (let c := (core s a).trapCause.toNat
     c ≠ 0x10 ∧ c ≠ 0x14 ∧ (c = 0x0F → k.hdr.killable = false) ∧ k.ctx.tpol ≠ 1) →
    ∃ t, exec (.trapToReeveCore a) s = .next t ∧ lookup t.tasks u = some { k with killed := some ((core s a).trapCause.toNat, .ended) })

/-- R142: GETSYS of a listed register writes what it reads into sd; SETSYS of a register a kernel may write replaces what GETSYS reads of
it at once, with its reserved bits zero. The numbers not listed, and those a kernel may not write, take trap 0x02 with nothing
written. A compute tile's read-only registers hold its id, die, device and gang, the cycle and incarnation of its die, its engines'
timelines and counts, and the features.
R54, R319, R342, R378, R320: the registers with rows of their own. SEEDV, SEEDM and SEEDX set their generators (SEEDX the matrix
read-out's too, rotated left by 16), a seed of zero replaced by 0x6C078965; REPLCTL, QUAGLIM and PGRACE are written in system mode with
legal values and take trap 0x02 from a kernel with nothing changed; REPLST writes sd with the fields of the region of REPLVA's page, or
zero where it translates to no LOCAL or READDUP page. R223: a flag or count of REEDST and MAPOVF that the present cycle has set is ORed or
added into what is written.
R144, R310: TLBINV of kind 0 drops from the agent's TLBs every entry that covers sa, kind 1 every one of its
context, and in system mode kind 2 all of its die's; from a kernel kind 2 takes trap 0x02.
The model's choices: the seeds take the low half of the value written (log entry 44); REPLST of a region whose home no path reaches reads a
free value (log entry 40); TLBINV drops the entries of its die's last level too (log entry 8). -/
def Obligations.SystemRegistersAndTlbs : Prop :=
  let ownRows : List Nat := [0x030, 0x031, 0x037, 0x050, 0x051, 0x054, 0x058]
  let kernelWrites : List Nat := [0x020, 0x021, 0x022, 0x023, 0x025, 0x032, 0x033, 0x034, 0x035, 0x036, 0x053, 0x060, 0x062, 0x063]
  let systemWrites : List Nat := [0x044, 0x045, 0x046, 0x047, 0x052, 0x056]
  let readable : List Nat := [0x000, 0x001, 0x002, 0x003, 0x004, 0x005, 0x006, 0x007, 0x010, 0x011, 0x012, 0x013, 0x014, 0x015, 0x016,
    0x020, 0x021, 0x022, 0x023, 0x024, 0x025, 0x030, 0x031, 0x032, 0x033, 0x034, 0x035, 0x036, 0x037, 0x040, 0x041, 0x042, 0x043, 0x044,
    0x045, 0x046, 0x047, 0x050, 0x051, 0x052, 0x053, 0x056, 0x057, 0x058, 0x060, 0x061, 0x062, 0x063]
  (
    (∀ (s : State) (o : GetSysOp) (x : Word), Ready s [] [o.d.val] [] o.g → tokPending (core s s.cur) o.d = false →
      sysRead s s.cur o.sysno.toNat = some x → exec (.getsys o) s = .next (wrote s o.d x)) ∧
    (∀ (s : State) (o : GetSysOp), Ready s [] [o.d.val] [] o.g → tokPending (core s s.cur) o.d = false → (core s s.cur).resp = [] →
      sysRead s s.cur o.sysno.toNat = none →
      ∃ t, exec (.getsys o) s = .next t ∧ (core t s.cur).trapCause = 0x02 ∧ (∀ r, rdS (core t s.cur) r = rdS (core s s.cur) r)) ∧
    (∀ (s : State) (a n : Nat), sysRead s a n = none ↔ n ∉ readable) ∧
    (∀ (s : State) (a u : Nat) (k : Task), a < 256 → (tile s a).task = some u → lookup s.tasks u = some k →
      let t := tile s a
      let d := die s (a / 64)
      let reads := fun (n x : Nat) => sysRead s a n = some (BitVec.ofNat 64 x)
      reads 0x000 (a % 64) ∧ reads 0x001 (a / 64) ∧ reads 0x002 s.dev.devid ∧ reads 0x003 (k.corner % 64) ∧ reads 0x004 k.gw ∧
        reads 0x005 k.gh ∧ reads 0x007 d.incarn ∧ reads 0x010 (s.now - d.base) ∧
        (∀ i, (gangOf k)[i]? = some a → (gangOf k).Nodup → reads 0x006 i) ∧
        sysRead s a 0x011 = some t.mov.tl ∧ sysRead s a 0x012 = some t.mat.tl ∧ sysRead s a 0x013 = some t.mov.accepted ∧
        sysRead s a 0x014 = some t.mat.accepted ∧
        reads 0x015 (t.mov.queue.length * 2 ^ 28 + t.mat.queue.length * 2 ^ 24 + t.vec.queue.length * 2 ^ 20 +
          (movBusy t.mov).toNat * 2 ^ 19 + (matBusy t.mat).toNat * 2 ^ 18 + (vecBusy t.vec).toNat * 2 ^ 17) ∧
        reads 0x016 (t.fifo.xm * 2 ^ 25 + t.fifo.mx * 2 ^ 20 + t.fifo.xv * 2 ^ 15 + t.fifo.vx * 2 ^ 10 + t.fifo.mv * 2 ^ 5 + t.fifo.vm) ∧
        reads 0x024 t.core.trapIn.toNat ∧ reads 0x040 0xFFFF ∧ reads 0x041 0 ∧ reads 0x042 0 ∧ reads 0x043 0 ∧
        (∀ i < 4, sysRead s a (0x044 + i) = some (getAt 0 s.dev.featen i)) ∧ reads 0x056 0 ∧
        reads 0x057 (d.free2m.length * 2 ^ 32 + d.free64.length) ∧
        (∀ x, sysRead s a 0x061 = some x → (t.reed.slots.map (·.1)).Pairwise (· < ·) → ∀ i < 32, x.getLsbD i = (slotOf s a i).ready)) ∧
    (∀ (s : State) (o : SetSysOp), Ready s [] [o.a.val] [o.a.val] o.g →
      let x := sreg s o.a
      let sets := fun (n : Nat) (v : Word) => o.sysno = BitVec.ofNat 12 n → ∃ t, exec (.setsys o) s = .next t ∧
        sysRead t s.cur n = some v ∧ (core t s.cur).pc = (core s s.cur).pc + 1 ∧ t.mem = s.mem ∧
        (∀ r, rdS (core t s.cur) r = rdS (core s s.cur) r) ∧ (∀ b, b ≠ s.cur → tile t b = tile s b)
      sets 0x020 (x &&& 0xFF) ∧ sets 0x021 x ∧ sets 0x022 x ∧ sets 0x023 (x &&& 0x8000000000001FFF) ∧ sets 0x025 x ∧
        sets 0x032 (x &&& 0x3F) ∧ sets 0x033 (x &&& 0x3F) ∧ sets 0x034 (x &&& 0x3F) ∧ sets 0x035 x ∧ sets 0x036 x ∧ sets 0x053 x ∧
        sets 0x063 (x &&& 0xFFFFFFFF)) ∧
    (∀ (s : State) (o : SetSysOp), Ready s [] [o.a.val] [o.a.val] o.g →
      let x := sreg s o.a
      (o.sysno = 0x060 → ∃ t, exec (.setsys o) s = .next t ∧ (tile t s.cur).reed.wellOvf = (x.getLsbD 63 || (tile s s.cur).reed.fresh.well) ∧
        (tile t s.cur).reed.lost = Nat.min (x.toNat % 2 ^ 48 + (tile s s.cur).reed.fresh.lost) (2 ^ 48 - 1) ∧ (tile t s.cur).reed.well = (tile s s.cur).reed.well ∧
        (core t s.cur).pc = (core s s.cur).pc + 1 ∧ OnlyTile s.cur s t) ∧
      (o.sysno = 0x062 → ∃ t, exec (.setsys o) s = .next t ∧ (∀ i < 32, (slotOf t s.cur i).ovf = (x.getLsbD i || decide (i ∈ (tile s s.cur).reed.fresh.ovf)) ∧
        (slotOf t s.cur i).map = (slotOf s s.cur i).map ∧ (slotOf t s.cur i).count = (slotOf s s.cur i).count) ∧
        (core t s.cur).pc = (core s s.cur).pc + 1 ∧ OnlyTile s.cur s t)) ∧
    (∀ (s : State) (o : SetSysOp), Ready s [] [o.a.val] [o.a.val] o.g → (core s s.cur).resp = [] →
      o.sysno.toNat ∉ kernelWrites → o.sysno.toNat ∉ ownRows → (isReeve s.cur = true → o.sysno.toNat ∉ systemWrites) →
      ∃ t, exec (.setsys o) s = .next t ∧ (core t s.cur).trapCause = 0x02 ∧ (∀ r, rdS (core t s.cur) r = rdS (core s s.cur) r) ∧
        OnlyCore s.cur s t)) ∧
  (
    let seed := fun (x : Word) => if x.truncate 32 = 0#32 then 0x6C078965#32 else x.truncate 32
    (∀ (s : State) (o : SetOwnOp), Ready s [] [o.a.val] [o.a.val] o.g →
      let x := sreg s o.a
      (∃ t, exec (.setsysSeedv o) s = .next t ∧ (tile t s.cur).vec.seed = seed x ∧ (tile t s.cur).mat.seed = (tile s s.cur).mat.seed ∧
        (core t s.cur).pc = (core s s.cur).pc + 1 ∧ OnlyTile s.cur s t) ∧
      (∃ t, exec (.setsysSeedx o) s = .next t ∧ (tile t s.cur).mov.seed = seed x ∧
        (tile t s.cur).mat.seed = (seed x).rotateLeft 16 ∧ (core t s.cur).pc = (core s s.cur).pc + 1 ∧ OnlyTile s.cur s t) ∧
      (∃ t, exec (.setsysSeedm o) s = .next t ∧ (tile t s.cur).mat.seed = seed x ∧ (tile t s.cur).mov.seed = (tile s s.cur).mov.seed ∧
        (core t s.cur).pc = (core s s.cur).pc + 1 ∧ OnlyTile s.cur s t)) ∧
    (∀ (s : State) (o : SetOwnOp), Ready s [] [o.a.val] [o.a.val] o.g → isReeve s.cur = true →
      let x := (sreg s o.a).toNat
      let d := dieOf s.cur
      (∃ t, exec (.setsysReplctl o) s = .next t ∧ (core t s.cur).pc = (core s s.cur).pc + 1 ∧
        (x / 2 ^ 62 = 3 ∨ x / 2 ^ 48 % 32 < 12 ∨ 24 < x / 2 ^ 48 % 32 → die t d = die s d) ∧
        (x / 2 ^ 62 < 3 → 12 ≤ x / 2 ^ 48 % 32 → x / 2 ^ 48 % 32 ≤ 24 →
          (die t d).epochAt = s.now ∧ ∃ w : Word, (die t d).replNext = some w ∧ w.toNat / 2 ^ 62 = x / 2 ^ 62 ∧
            w.toNat / 2 ^ 32 % 2 ^ 21 = x / 2 ^ 32 % 2 ^ 21)) ∧
      (∃ t, exec (.setsysQuaglim o) s = .next t ∧ (core t s.cur).pc = (core s s.cur).pc + 1 ∧
        (die t d).quaglim = (if x % 64 = 0 ∨ (16 ≤ x % 64 ∧ x % 64 ≤ 40) then x % 64 else (die s d).quaglim)) ∧
      (∃ t, exec (.setsysPgrace o) s = .next t ∧ (core t s.cur).pc = (core s s.cur).pc + 1 ∧
        (die t d).pgrace = (if 16 ≤ x % 64 ∧ x % 64 ≤ 30 then x % 64 else (die s d).pgrace))) ∧
    (∀ (s : State) (o : SetOwnOp) (i : Instr), i = .setsysReplctl o ∨ i = .setsysQuaglim o ∨ i = .setsysPgrace o →
      Ready s [] [o.a.val] [o.a.val] o.g → isReeve s.cur = false → (core s s.cur).resp = [] →
      ∃ t, exec i s = .next t ∧ (core t s.cur).trapCause = 0x02 ∧ t.dies = s.dies) ∧
    (∀ (s : State) (o : GetOwnOp), Ready s [] [o.d.val] [] o.g → tokPending (core s s.cur) o.d = false →
      let va := (core s s.cur).replva.toNat
      (2 ^ 56 ≤ va → exec (.getsysReplst o) s = .next (wrote s o.d 0)) ∧
      (va < 2 ^ 56 → ∀ s1, walk s s.cur (ctxOf s s.cur) va true = (none, s1) → exec (.getsysReplst o) s = .next (wrote s1 o.d 0)) ∧
      (va < 2 ^ 56 → ∀ s1 e, walk s s.cur (ctxOf s s.cur) va true = (some e, s1) →
        (eState e ≠ 2 → eState e ≠ 3 → exec (.getsysReplst o) s = .next (wrote s1 o.d 0)) ∧
        (eState e = 2 ∨ eState e = 3 →
          let pa := eFrame e * 2 ^ 16 + va % pageBytes (eSize e)
          let r := region s (pa / 2 ^ 21)
          (lostAt s1 s.cur pa = true → ∃ x, exec (.getsysReplst o) s = .next (wrote (draw s1).2 o.d x)) ∧
          (lostAt s1 s.cur pa = false → r.deg < 4 → ∃ x : Word, exec (.getsysReplst o) s = .next (wrote s1 o.d x) ∧
            bits x.toNat 63 60 = 8 ∧ bits x.toNat 59 56 = r.dies % 16 ∧ bits x.toNat 55 54 = r.deg ∧ bits x.toNat 53 52 = homeDie pa ∧
            bits x.toNat 51 48 = 0 ∧ bits x.toNat 47 32 = Nat.min (r.reads.map (·.2)).sum 65535 ∧
            bits x.toNat 31 16 = Nat.min r.writes 65535 ∧ bits x.toNat 15 0 = Nat.min r.colls 65535))))) ∧
  (
    (∀ (s : State) (o : TlbinvOp), Ready s [] [o.a.val] [o.a.val] o.g → o.kind = 0 →
      ∃ t, exec (.tlbinv o) s = .next t ∧ (core t s.cur).pc = (core s s.cur).pc + 1 ∧ t.mem = s.mem ∧
        (∀ e, e ∈ (core t s.cur).ctlb ↔ e ∈ (core s s.cur).ctlb ∧ ¬(e.va ≤ (sreg s o.a).toNat ∧ (sreg s o.a).toNat < e.va + e.size)) ∧
        (∀ e, e ∈ (tile t s.cur).mov.xtlb ↔ e ∈ (tile s s.cur).mov.xtlb ∧ ¬(e.va ≤ (sreg s o.a).toNat ∧ (sreg s o.a).toNat < e.va + e.size)) ∧
        (∀ e, e ∈ (die t (dieOf s.cur)).lltlb ↔ e ∈ (die s (dieOf s.cur)).lltlb ∧
          ¬(e.va ≤ (sreg s o.a).toNat ∧ (sreg s o.a).toNat < e.va + e.size))) ∧
    (∀ (s : State) (o : TlbinvOp), Ready s [] [o.a.val] [o.a.val] o.g → o.kind = 1 →
      ∃ t, exec (.tlbinv o) s = .next t ∧ (core t s.cur).pc = (core s s.cur).pc + 1 ∧ t.mem = s.mem ∧
        (∀ e ∈ (core t s.cur).ctlb, e.ctx ≠ (ctxOf s s.cur).id) ∧ (∀ e ∈ (tile t s.cur).mov.xtlb, e.ctx ≠ (ctxOf s s.cur).id) ∧
        (∀ e ∈ (die t (dieOf s.cur)).lltlb, e.ctx ≠ (ctxOf s s.cur).id)) ∧
    (∀ (s : State) (o : TlbinvOp), Ready s [] [o.a.val] [o.a.val] o.g → o.kind = 2 → isReeve s.cur = true →
      ∃ t, exec (.tlbinv o) s = .next t ∧ (core t s.cur).pc = (core s s.cur).pc + 1 ∧ (die t (dieOf s.cur)).lltlb = [] ∧
        t.mem = s.mem ∧ ∀ b, dieOf b = dieOf s.cur → (core t b).ctlb = [] ∧ (tile t b).mov.xtlb = []) ∧
    (∀ (s : State) (o : TlbinvOp), Ready s [] [o.a.val] [o.a.val] o.g → o.kind = 2 → isReeve s.cur = false → (core s s.cur).resp = [] →
      ∃ t, exec (.tlbinv o) s = .next t ∧ (core t s.cur).trapCause = 0x02 ∧ OnlyCore s.cur s t))

/-! ## Vector pairs -/

/-- R157: what each scalar-slot word writes into its k register, flag or loop counter (k0 and g0 discard it), with the engine at the next
pair.
R147: k0 reads zero, g0 true and m0 all ones, and writes to k0 and g0 are discarded; the scalar slot's end leaves v and mask registers,
the flags of R57, results in flight, memory and the rest of the part. -/
def Obligations.ScalarSlots : Prop :=
  (
    (∀ (s : State) (o : KRRR), SlotReady s [] [] o.g noTok →
      let x := rdK (vec s) o.a
      let y := rdK (vec s) o.b
      let r := fun (i : Instr) (z : Lane) => exec i s = .next (scalarDone s (wrK o.d z))
      r (.kadd o) (BitVec.ofNat 32 (x.toNat + y.toNat)) ∧ r (.ksub o) (BitVec.ofInt 32 (x.toInt - y.toInt)) ∧ r (.kand o) (x &&& y) ∧
        r (.kor o) (x ||| y) ∧ r (.kxor o) (x ^^^ y) ∧ r (.kshl o) (BitVec.ofNat 32 (x.toNat * 2 ^ (y.toNat % 32))) ∧
        r (.kshr o) (BitVec.ofNat 32 (x.toNat / 2 ^ (y.toNat % 32)))) ∧
    (∀ (s : State) (o : KRRI), SlotReady s [] [] o.g noTok →
      exec (.kaddi o) s = .next (scalarDone s (wrK o.d (BitVec.ofInt 32 ((rdK (vec s) o.a).toInt + o.imm.toInt))))) ∧
    (∀ (s : State) (o : KImm), SlotReady s [] [] o.g noTok →
      exec (.kli o) s = .next (scalarDone s (wrK o.d (BitVec.ofInt 32 o.imm.toInt)))) ∧
    (∀ (s : State) (o : KNone), SlotReady s [] [] o.g noTok → exec (.knop o) s = .next (scalarDone s id)) ∧
    (∀ (s : State) (o : KCmpOp), SlotReady s [] [] o.g noTok →
      let x := rdK (vec s) o.a
      let y := rdK (vec s) o.b
      exec (.kcmp o) s = .next (scalarDone s (wrG o.d (match o.cc with
        | .eq => decide (x = y) | .ne => decide (x ≠ y) | .lt => decide (x.toInt < y.toInt) | .ltu => decide (x.toNat < y.toNat)
        | .le => decide (x.toInt ≤ y.toInt) | .leu => decide (x.toNat ≤ y.toNat))))) ∧
    (∀ (s : State) (o : KFromOp), SlotReady s [] [o.v.val] o.g noTok → (vec s).poison = [] →
      exec (.kfrom o) s = .next (scalarDone s (wrK o.d (rdV (vec s) o.v o.lane)))) ∧
    (∀ (s : State) (o : KLoopSetOp), SlotReady s [] [] o.g noTok →
      ∃ t, exec (.kloopSet o) s = .next t ∧ getAt 0 (vec t).lc o.n = rdK (vec s) o.a + BitVec.ofNat 32 o.imm.toNat ∧
        (∀ n, n ≠ o.n.val → getAt 0 (vec t).lc n = getAt 0 (vec s).lc n) ∧ vecPc (vec t) = vecPc (scalarDone s id |> vec) ∧ OnlyTile s.cur s t) ∧
    (∀ (s : State) (o : KSeedOp), SlotReady s [5] [] o.g noTok →
      ∃ t, exec (.kseed o) s = .next t ∧
        (vec t).seed = (if rdK (vec s) o.a = 0 then 0x6C078965 else rdK (vec s) o.a) ∧ OnlyTile s.cur s t)) ∧
  (
    (∀ (v : Vec) (n k : Nat) (x : Lane) (b : Bool),
      rdK v 0 = 0 ∧ rdG v 0 = true ∧ rdM v 0 = BitVec.allOnes 64 ∧ wrK 0 x v = v ∧ wrG 0 b v = v ∧
      (n ≠ 0 → rdK (wrK n x v) n = x) ∧ (k ≠ n → rdK (wrK n x v) k = rdK v k) ∧
      (n ≠ 0 → n < 8 → rdG (wrG n b v) n = b) ∧ (k ≠ n → rdG (wrG n b v) k = rdG v k)) ∧
    (∀ (s : State) (r : RunState) (n : Nat) (x : Lane), (vec s).run = some r →
      let t := scalarDone s (wrK n x)
      (vec t).run = some { r with pc := r.pc + 1 } ∧ (vec t).slot = (vec s).slot + 1 ∧ (vec t).v = (vec s).v ∧ (vec t).m = (vec s).m ∧
        (vec t).flags = (vec s).flags ∧ (vec t).flight = (vec s).flight ∧ (tile t s.cur).pad = (tile s s.cur).pad ∧
        (tile t s.cur).core = (tile s s.cur).core ∧ (∀ a, getB t.mem a = getB s.mem a) ∧ OnlyTile s.cur s t))

/-- R158 to R160: KLOOP counts its counter down and branches while it is not zero, KBR branches; a target at or beyond 2,048 (or below 0)
traps at the branch, its counter as it was, and stops the engine before the pair: trap 0x02 falls due at the control core with the target
in TRAPINFO and the pair in TRAPSRC (R401, R138), or is held while the run is speculative (R269). KEND ends the run: with nothing in
flight and no push waiting the engine is idle at once, else it drains.
R75, R177, R394: a pair whose slot belongs to a disabled feature takes trap 0x12 with the feature's number, one that names a v register
at or beyond the header's declaration trap 0x02 with its number as R138 gives it, and a VCVT trap 0x02 with a format code it does not
take; whatever its guard, and before its pops: no token goes.
The model's choices: a KLOOP whose branch is not taken does not check its target (log entry 29), a target below 0 stands in TRAPINFO by its
low 56 bits (log entry 44), and of several such features or registers the first is named (log entry 23); that it is one of them is stated. -/
def Obligations.VectorControlFlow : Prop :=
  let lands := fun (s t : State) (pc : Int) => ∀ r, (vec s).run = some r → (vec t).run = some { r with pc := pc.toNat }
  let traps := fun (s : State) (i : Instr) (target : Int) => VecTraps i s 0x02 (BitVec.ofNat 64 (193 + (target % 2 ^ 56).toNat * 256))
  (∀ (s : State) (o : KLoopOp), SlotReady s [] [] o.g noTok → (vec s).run.isSome = true →
    let x := getAt 0 (vec s).lc o.n
    let target := (vecPc (vec s) : Int) + o.off.toInt
    (x.toNat ≤ 1 → ∃ t, exec (.kloop o) s = .next t ∧ getAt 0 (vec t).lc o.n = 0 ∧ lands s t (vecPc (vec s) + 1) ∧ OnlyTile s.cur s t) ∧
    (1 < x.toNat → 0 ≤ target → target < 2048 → ∃ t, exec (.kloop o) s = .next t ∧ getAt 0 (vec t).lc o.n = x - 1 ∧
      lands s t target ∧ OnlyTile s.cur s t) ∧
    (1 < x.toNat → target < 0 ∨ 2048 ≤ target → traps s (.kloop o) target)) ∧
  (∀ (s : State) (o : KBrOp), SlotReady s [] [] o.g noTok →
    let target := (vecPc (vec s) : Int) + o.off.toInt
    ((vec s).run.isSome = true → 0 ≤ target → target < 2048 → ∃ t, exec (.kbr o) s = .next t ∧ lands s t target ∧ (vec t).lc = (vec s).lc ∧ OnlyTile s.cur s t) ∧
    ((vec s).run.isSome = true → target < 0 ∨ 2048 ≤ target → traps s (.kbr o) target)) ∧
  (∀ (s : State) (o : KNone) (r : RunState), SlotReady s [] [] o.g noTok → (vec s).run = some r →
    ((vec s).flight = [] → (vec s).push = none → ∃ t, exec (.kend o) s = .next t ∧ (vec t).run = none ∧ (core t s.cur).latch = true) ∧
    ((vec s).flight ≠ [] → ∃ t, exec (.kend o) s = .next t ∧ (vec t).draining = true ∧ (vec t).run.isSome = true ∧
      (vec t).flight = (vec s).flight)) ∧
  (∀ (s : State) (i : Instr) (feats regs : List Nat) (tok : VTok), vectorWord i = some (feats, regs, tok) →
    tokensFor (tile s s.cur).fifo (popsOf tok) = true →
    ((∃ n ∈ feats, feature s n = false) → ∃ n ∈ feats, feature s n = false ∧ VecTraps i s 0x12 (BitVec.ofNat 64 n)) ∧
    ((∀ n ∈ feats, feature s n = true) → (∃ r ∈ regs, (hdr s s.cur).vregs ≤ r) →
      ∃ r ∈ regs, (hdr s s.cur).vregs ≤ r ∧ VecTraps i s 0x02 (BitVec.ofNat 64 (64 + r)))) ∧
  (∀ (s : State) (o : VCvtOp), (∀ n ∈ roundFeat o.r, feature s n = true) → o.d.val < (hdr s s.cur).vregs → o.a.val < (hdr s s.cur).vregs →
    tokensFor (tile s s.cur).fifo (popsOf o.c.tok) = true →
    let taken : List Nat := [0x00, 0x01, 0x02, 0x03, 0x04, 0x08, 0x09, 0x0A, 0x0B, 0x0C, 0x0D, 0x0E, 0x0F]
    (o.src.toNat ∉ taken → o.src.toNat ≠ 0x10 → VecTraps (.vcvt o) s 0x02 (BitVec.ofNat 64 (198 + o.src.toNat * 256))) ∧
    (o.src.toNat ∈ taken ∨ o.src.toNat = 0x10 → o.dst.toNat ∉ taken → VecTraps (.vcvt o) s 0x02 (BitVec.ofNat 64 (198 + o.dst.toNat * 256))))

/-- R161 to R163: VLD, VLDX and VLDB bring, for each lane the mask selects, the word at k[vc] + X(imm36) + 4i, the word at its own offset,
and element i of the dense run there, zero-extended. VNOP only pops and pushes. R164: where an active lane of VLD or VLDX stands at no
multiple of 4, the pair takes trap 0x05 with the address of the lowest such lane; where one touches a byte below 0 or at or beyond
`.scratch`, trap 0x04. -/
def Obligations.VectorLoads : Prop :=
  (∀ (s : State) (o : VNone), SlotReady s [] [] o.c.g o.c.tok → roomFor (popFrom (tile s s.cur).fifo (popsOf o.c.tok)) (pushesOf o.c.tok) = true →
    ∃ t, exec (.vnop o) s = .next t ∧
      (tile t s.cur).fifo = pushInto (popFrom (tile s s.cur).fifo (popsOf o.c.tok)) (pushesOf o.c.tok) ∧
      (vec t).flight = (vec s).flight ∧ RegistersKept (vec s) (vec t) ∧ OnlyTile s.cur s t) ∧
  (∀ (s : State) (o : VMem), SlotReady s [] [o.r.val] o.c.g o.c.tok →
    let base := ((rdK (vec s) o.k).toNat : Int) + o.off.toInt
    let mask := rdM (vec s) o.mask
    (∀ l < 64, mask.getLsbD l = true → base % 4 = 0 ∧ 0 ≤ base + 4 * l ∧ base + 4 * l + 4 ≤ (hdr s s.cur).scratch) →
    (tile s s.cur).padPoison = [] →
    Sends (.vld o) s o.c 6 o.r mask (fun l => BitVec.ofNat 32 (readN (tile s s.cur).pad (base + 4 * l).toNat 4)) 0) ∧
  (∀ (s : State) (o : VIndexed), SlotReady s [] [o.r.val, o.idx.val] o.c.g o.c.tok →
    let at_ := fun (l : Nat) => ((rdK (vec s) o.k).toNat : Int) + o.off.toInt + (rdV (vec s) o.idx l).toNat
    let mask := rdM (vec s) o.mask
    (∀ l < 64, mask.getLsbD l = true → at_ l % 4 = 0 ∧ 0 ≤ at_ l ∧ at_ l + 4 ≤ (hdr s s.cur).scratch) →
    (tile s s.cur).padPoison = [] →
    Sends (.vldx o) s o.c 8 o.r mask (fun l => BitVec.ofNat 32 (readN (tile s s.cur).pad (at_ l).toNat 4)) 0) ∧
  (∀ (s : State) (o : VNarrow), SlotReady s [] [o.r.val] o.c.g o.c.tok →
    let base := ((rdK (vec s) o.k).toNat : Int) + o.off.toInt
    let w := match o.w with | .n8 => 8 | .n4 => 4 | .n6 => 6
    let mask := rdM (vec s) o.mask
    (∀ l < 64, mask.getLsbD l = true → 0 ≤ base + (l * w / 8 : Nat) ∧ base + ((l * w + w + 7) / 8 : Nat) ≤ (hdr s s.cur).scratch) →
    (tile s s.cur).padPoison = [] →
    Sends (.vldb o) s o.c 6 o.r mask
      (fun l => BitVec.ofNat 32 (readN (tile s s.cur).pad (base + (l * w / 8 : Nat)).toNat 2 / 2 ^ (l * w % 8) % 2 ^ w)) 0) ∧
  (∀ (s : State) (o : VMem), SlotReady s [] [o.r.val] o.c.g o.c.tok →
    LaneTraps (.vld o) s (rdM (vec s) o.mask) true (fun l => ((rdK (vec s) o.k).toNat : Int) + o.off.toInt + 4 * l) (fun _ => 4)) ∧
  (∀ (s : State) (o : VIndexed), SlotReady s [] [o.r.val, o.idx.val] o.c.g o.c.tok →
    LaneTraps (.vldx o) s (rdM (vec s) o.mask) true
      (fun l => ((rdK (vec s) o.k).toNat : Int) + o.off.toInt + (rdV (vec s) o.idx l).toNat) (fun _ => 4)) ∧
  (∀ (s : State) (o : VNarrow), SlotReady s [] [o.r.val] o.c.g o.c.tok →
    let w := match o.w with | .n8 => 8 | .n4 => 4 | .n6 => 6
    LaneTraps (.vldb o) s (rdM (vec s) o.mask) false
      (fun l => ((rdK (vec s) o.k).toNat : Int) + o.off.toInt + (l * w / 8 : Nat)) (fun l => (l * w + w + 7) / 8 - l * w / 8))

/-- R161 to R163: VST, VSTX and narrow VST store the active lanes' words, or low bits of each into its element of the dense run; every
byte (every element, and every byte outside the run) that no active lane names stays. Where two lanes of VSTX name the same word, the
higher lane's stays. R164: they trap as the loads do, and no byte is written. -/
def Obligations.VectorStores : Prop :=
  (∀ (s : State) (o : VMem), SlotReady s [] [o.r.val] o.c.g o.c.tok →
    let base := ((rdK (vec s) o.k).toNat : Int) + o.off.toInt
    let mask := rdM (vec s) o.mask
    (∀ l < 64, mask.getLsbD l = true → base % 4 = 0 ∧ 0 ≤ base + 4 * l ∧ base + 4 * l + 4 ≤ (hdr s s.cur).scratch) →
    Stores (.vst o) s fun pad =>
      (∀ l < 64, mask.getLsbD l = true → readN pad (base + 4 * l).toNat 4 = (rdV (vec s) o.r l).toNat) ∧
      (∀ x : Nat, (∀ l < 64, mask.getLsbD l = true → (x : Int) < base + 4 * l ∨ base + 4 * l + 4 ≤ x) →
        getB pad x = getB (tile s s.cur).pad x)) ∧
  (∀ (s : State) (o : VIndexed), SlotReady s [] [o.r.val, o.idx.val] o.c.g o.c.tok →
    let at_ := fun (l : Nat) => ((rdK (vec s) o.k).toNat : Int) + o.off.toInt + (rdV (vec s) o.idx l).toNat
    let mask := rdM (vec s) o.mask
    (∀ l < 64, mask.getLsbD l = true → at_ l % 4 = 0 ∧ 0 ≤ at_ l ∧ at_ l + 4 ≤ (hdr s s.cur).scratch) →
    Stores (.vstx o) s fun pad =>
      (∀ l < 64, mask.getLsbD l = true → (∀ j < 64, l < j → mask.getLsbD j = true → at_ j ≠ at_ l) →
        readN pad (at_ l).toNat 4 = (rdV (vec s) o.r l).toNat) ∧
      (∀ x : Nat, (∀ l < 64, mask.getLsbD l = true → (x : Int) < at_ l ∨ at_ l + 4 ≤ x) → getB pad x = getB (tile s s.cur).pad x)) ∧
  (∀ (s : State) (o : VNarrow), SlotReady s [] [o.r.val] o.c.g o.c.tok →
    let base := ((rdK (vec s) o.k).toNat : Int) + o.off.toInt
    let mask := rdM (vec s) o.mask
    let w := match o.w with | .n8 => 8 | .n4 => 4 | .n6 => 6
    let elem := fun (pad : Mem) (l : Nat) => readN pad (base + (l * w / 8 : Nat)).toNat 2 / 2 ^ (l * w % 8) % 2 ^ w
    (∀ l < 64, mask.getLsbD l = true → 0 ≤ base + (l * w / 8 : Nat) ∧ base + ((l * w + w + 7) / 8 : Nat) ≤ (hdr s s.cur).scratch) →
    Stores (.vstN o) s fun pad =>
      (∀ l < 64, 0 ≤ base + (l * w / 8 : Nat) →
        elem pad l = if mask.getLsbD l then (rdV (vec s) o.r l).toNat % 2 ^ w else elem (tile s s.cur).pad l) ∧
      (∀ x : Nat, (∀ l < 64, mask.getLsbD l = true → (x : Int) < base + (l * w / 8 : Nat) ∨ base + ((l * w + w + 7) / 8 : Nat) ≤ x) →
        getB pad x = getB (tile s s.cur).pad x)) ∧
  (∀ (s : State) (o : VMem), SlotReady s [] [o.r.val] o.c.g o.c.tok →
    LaneTraps (.vst o) s (rdM (vec s) o.mask) true (fun l => ((rdK (vec s) o.k).toNat : Int) + o.off.toInt + 4 * l) (fun _ => 4)) ∧
  (∀ (s : State) (o : VIndexed), SlotReady s [] [o.r.val, o.idx.val] o.c.g o.c.tok →
    LaneTraps (.vstx o) s (rdM (vec s) o.mask) true
      (fun l => ((rdK (vec s) o.k).toNat : Int) + o.off.toInt + (rdV (vec s) o.idx l).toNat) (fun _ => 4)) ∧
  (∀ (s : State) (o : VNarrow), SlotReady s [] [o.r.val] o.c.g o.c.tok →
    let w := match o.w with | .n8 => 8 | .n4 => 4 | .n6 => 6
    LaneTraps (.vstN o) s (rdM (vec s) o.mask) false
      (fun l => ((rdK (vec s) o.k).toNat : Int) + o.off.toInt + (l * w / 8 : Nat)) (fun l => (l * w + w + 7) / 8 - l * w / 8))

/-- R176, R168: lane movement and selection, from the registers as they stood at issue.
R168, R170: mask operations, and the integer and floating compares; a compare writes the mask bits of the lanes its mask selects. -/
def Obligations.LaneMovementAndMasks : Prop :=
  (
    (∀ (s : State) (o : VRRR), SlotReady s [] [o.d.val, o.a.val, o.b.val] o.c.g o.c.tok →
      Sends (.vperm o) s o.c 3 o.d (rdM (vec s) o.mask) (fun l => rdV (vec s) o.a ((rdV (vec s) o.b l).toNat % 64)) 0 ∧
      Sends (.vsel o) s o.c 2 o.d (BitVec.allOnes 64)
        (fun l => if (rdM (vec s) o.mask).getLsbD l then rdV (vec s) o.a l else rdV (vec s) o.b l) 0) ∧
    (∀ (s : State) (o : VLaneImm), SlotReady s [] [o.d.val, o.a.val] o.c.g o.c.tok →
      Sends (.vrot o) s o.c 3 o.d (rdM (vec s) o.mask) (fun l => rdV (vec s) o.a ((l + o.n.val) % 64)) 0 ∧
      Sends (.vbcast o) s o.c 3 o.d (rdM (vec s) o.mask) (fun _ => rdV (vec s) o.a o.n) 0) ∧
    (∀ (s : State) (o : VBcastK), SlotReady s [] [o.d.val] o.c.g o.c.tok →
      Sends (.vbcastK o) s o.c 3 o.d (rdM (vec s) o.mask) (fun _ => rdK (vec s) o.k) 0)) ∧
  (
    (∀ (s : State) (o : MaskRRR), SlotReady s [] [] o.c.g o.c.tok →
      let x := rdM (vec s) o.a
      let y := rdM (vec s) o.b
      let r := fun (i : Instr) (f : Nat → Bool) => SendsMask i s o.c o.d (BitVec.allOnes 64) f
      r (.mand o) (fun l => x.getLsbD l && y.getLsbD l) ∧ r (.mor o) (fun l => x.getLsbD l || y.getLsbD l) ∧
        r (.mxor o) (fun l => x.getLsbD l ^^ y.getLsbD l)) ∧
    (∀ (s : State) (o : MaskRR), SlotReady s [] [] o.c.g o.c.tok →
      SendsMask (.mnot o) s o.c o.d (BitVec.allOnes 64) (fun l => !(rdM (vec s) o.a).getLsbD l)) ∧
    (∀ (s : State) (o : VICmpOp), SlotReady s [] [o.a.val, o.b.val] o.c.g o.c.tok →
      SendsMask (.vicmp o) s o.c o.d (rdM (vec s) o.mask) (fun l =>
        let x := rdV (vec s) o.a l
        let y := rdV (vec s) o.b l
        match o.cond with
        | .eq => decide (x = y) | .ne => decide (x ≠ y) | .lt => decide (x.toInt < y.toInt) | .ltu => decide (x.toNat < y.toNat)
        | .le => decide (x.toInt ≤ y.toInt) | .leu => decide (x.toNat ≤ y.toNat))) ∧
    (∀ (s : State) (o : VCmpOp), SlotReady s [] [o.a.val, o.b.val] o.c.g o.c.tok →
      SendsMask (.vcmp o) s o.c o.d (rdM (vec s) o.mask) (fun l =>
        let x := vval o.t (cmpElem o.t o.hi (rdV (vec s) o.a l))
        let y := vval o.t (cmpElem o.t o.hi (rdV (vec s) o.b l))
        let unordered := x.isNan || y.isNan
        match o.cond with
        | .eq => valEq x y | .ne => !valEq x y | .lt => valLt x y | .le => !unordered && valLe x y
        | .ltu => unordered || valLt x y | .leu => unordered || valLe x y)))

/-- R169: the integer vector instructions, lane by lane, on 32-bit values; no flag. -/
def Obligations.VectorIntegers : Prop :=
  ∀ (s : State) (o : VInt2), SlotReady s [] (o.d.val :: o.a.val :: namesB o.b) o.c.g o.c.tok →
    let x := fun (l : Nat) => rdV (vec s) o.a l
    let y := operandB (vec s) o.b
    let n := fun (l : Nat) => (y l).toNat % 32
    let r := fun (i : Instr) (lat : Nat) (f : Nat → Lane) => Sends i s o.c lat o.d (rdM (vec s) o.mask) f 0
    r (.viadd o) 2 (fun l => BitVec.ofNat 32 ((x l).toNat + (y l).toNat)) ∧
    r (.visub o) 2 (fun l => BitVec.ofInt 32 ((x l).toInt - (y l).toInt)) ∧
    r (.vimul o) 4 (fun l => BitVec.ofNat 32 ((x l).toNat * (y l).toNat)) ∧
    r (.vand o) 2 (fun l => x l &&& y l) ∧ r (.vor o) 2 (fun l => x l ||| y l) ∧ r (.vxor o) 2 (fun l => x l ^^^ y l) ∧
    r (.vshl o) 2 (fun l => BitVec.ofNat 32 ((x l).toNat * 2 ^ n l)) ∧
    r (.vshr o) 2 (fun l => BitVec.ofNat 32 ((x l).toNat / 2 ^ n l)) ∧
    r (.vsra o) 2 (fun l => BitVec.ofInt 32 ((x l).toInt / 2 ^ n l)) ∧
    r (.vimin o) 2 (fun l => if (x l).toInt ≤ (y l).toInt then x l else y l) ∧
    r (.vimax o) 2 (fun l => if (x l).toInt ≤ (y l).toInt then y l else x l) ∧
    r (.viminu o) 2 (fun l => if (x l).toNat ≤ (y l).toNat then x l else y l) ∧
    r (.vimaxu o) 2 (fun l => if (x l).toNat ≤ (y l).toNat then y l else x l)

/-- R165 to R167: the floating vector instructions on FP32 lanes: the exact result of the two, three or one operands, rounded once to
nearest even, with the flags that forming and rounding it raise; minimum, maximum, absolute value and negation are exact.
R165, R26: a floating instruction of a 16-bit type does the same on the two elements of a lane apart, its low and its high half, each
rounded to the type; an immediate's low half stands for both, and the flags of both are raised.
R30: what the codes of each floating format stand for. R42 to R44: what rounding to each floating and integer format gives: the multiple
of the spacing that is nearest, ties to even (toward zero in RTZ; the lower one, or with SR one more where the fraction says so), with NX
where something is dropped and UF below the normal range; the overflow, infinity and NaN results with their flags; the signs of zeros; and
what exact sums and products are.
The model's choice: VEXP2 and VLOG2 are computed with 320 fraction bits (log entry 12). -/
def Obligations.VectorFloats : Prop :=
  (
    let val := fun (x : Lane) => value FP32 x.toNat
    let near := fun (r : Val × Flags) => ((convert FP32 .rne 0 r.1).1, (convert FP32 .rne 0 r.1).2 ||| r.2)
    (∀ (s : State) (o : VFloat2), o.t = .f32 → SlotReady s [] (o.d.val :: o.a.val :: namesB o.b) o.c.g o.c.tok →
      let x := fun (l : Nat) => rdV (vec s) o.a l
      let y := operandB (vec s) o.b
      let mask := rdM (vec s) o.mask
      let r := fun (i : Instr) (lat : Nat) (f : Nat → Nat × Flags) =>
        Sends i s o.c lat o.d mask (fun l => BitVec.ofNat 32 (f l).1) (laneFlags mask (fun l => (f l).2))
      r (.vadd o) 4 (fun l => near (valAdd (val (x l)) (val (y l)))) ∧
      r (.vsub o) 4 (fun l => near (valAdd (val (x l)) (val (y l)).neg)) ∧
      r (.vmul o) 4 (fun l => near (valMul (val (x l)) (val (y l)))) ∧
      r (.vmin o) 2 (fun l => (if (val (x l)).isNan || (val (y l)).isNan then 0x7FC00000
        else if before (val (x l)) (val (y l)) then (x l).toNat else (y l).toNat, 0)) ∧
      r (.vmax o) 2 (fun l => (if (val (x l)).isNan || (val (y l)).isNan then 0x7FC00000
        else if before (val (x l)) (val (y l)) then (y l).toNat else (x l).toNat, 0))) ∧
    (∀ (s : State) (o : VFloat3), o.t = .f32 → SlotReady s [] (o.d.val :: o.a.val :: namesB o.b ++ [o.cc.val]) o.c.g o.c.tok →
      let mask := rdM (vec s) o.mask
      let f := fun (l : Nat) =>
        let p := valMul (val (rdV (vec s) o.a l)) (val (operandB (vec s) o.b l))
        let q := valAdd p.1 (val (rdV (vec s) o.cc l))
        near (q.1, p.2 ||| q.2)
      Sends (.vfma o) s o.c 4 o.d mask (fun l => BitVec.ofNat 32 (f l).1) (laneFlags mask (fun l => (f l).2))) ∧
    (∀ (s : State) (o : VFloat1), o.t = .f32 → SlotReady s [] [o.d.val, o.a.val] o.c.g o.c.tok →
      let x := fun (l : Nat) => rdV (vec s) o.a l
      let mask := rdM (vec s) o.mask
      let r := fun (i : Instr) (lat : Nat) (f : Nat → Nat × Flags) =>
        Sends i s o.c lat o.d mask (fun l => BitVec.ofNat 32 (f l).1) (laneFlags mask (fun l => (f l).2))
      r (.vabs o) 2 (fun l => ((x l).toNat % 2 ^ 31, 0)) ∧
      r (.vneg o) 2 (fun l => (if 2 ^ 31 ≤ (x l).toNat then (x l).toNat - 2 ^ 31 else (x l).toNat + 2 ^ 31, 0)) ∧
      r (.vrcp o) 10 (fun l => near (rcpVal (val (x l)))) ∧ r (.vrsq o) 10 (fun l => near (rsqVal (val (x l)))) ∧
      r (.vexp2 o) 10 (fun l => near (exp2Val (val (x l)))) ∧ r (.vlog2 o) 10 (fun l => near (log2Val (val (x l)))))) ∧
  (
    let fmt := fun (t : VType) => if t = .bf16 then BF16 else FP16
    let val := fun (t : VType) (x : Nat) => value (fmt t) x
    let near := fun (t : VType) (r : Val × Flags) => ((convert (fmt t) .rne 0 r.1).1, (convert (fmt t) .rne 0 r.1).2 ||| r.2)
    let nan := fun (t : VType) => if t = .bf16 then 0x7FC0 else 0x7E00
    let halves := fun (f : (Nat → Nat) → Nat × Flags) =>
      ((f (· % 2 ^ 16)).1 + (f (· / 2 ^ 16)).1 * 2 ^ 16, (f (· % 2 ^ 16)).2 ||| (f (· / 2 ^ 16)).2)
    let sends := fun (s : State) (c : VCtl) (d : Fin 32) (m : Fin 8) (i : Instr) (lat : Nat) (f : Nat → (Nat → Nat) → Nat × Flags) =>
      Sends i s c lat d (rdM (vec s) m) (fun l => BitVec.ofNat 32 (halves (f l)).1) (laneFlags (rdM (vec s) m) (fun l => (halves (f l)).2))
    (∀ (s : State) (o : VFloat2), o.t ≠ .f32 → SlotReady s [] (o.d.val :: o.a.val :: namesB o.b) o.c.g o.c.tok →
      let x := fun (l : Nat) => (rdV (vec s) o.a l).toNat
      let y := fun (l : Nat) => (operandB16 (vec s) o.b l).toNat
      let r := sends s o.c o.d o.mask
      let v := val o.t
      r (.vadd o) 4 (fun l h => near o.t (valAdd (v (h (x l))) (v (h (y l))))) ∧
      r (.vsub o) 4 (fun l h => near o.t (valAdd (v (h (x l))) (v (h (y l))).neg)) ∧
      r (.vmul o) 4 (fun l h => near o.t (valMul (v (h (x l))) (v (h (y l))))) ∧
      r (.vmin o) 2 (fun l h => (if (v (h (x l))).isNan || (v (h (y l))).isNan then nan o.t
        else if before (v (h (x l))) (v (h (y l))) then h (x l) else h (y l), 0)) ∧
      r (.vmax o) 2 (fun l h => (if (v (h (x l))).isNan || (v (h (y l))).isNan then nan o.t
        else if before (v (h (x l))) (v (h (y l))) then h (y l) else h (x l), 0))) ∧
    (∀ (s : State) (o : VFloat3), o.t ≠ .f32 → SlotReady s [] (o.d.val :: o.a.val :: namesB o.b ++ [o.cc.val]) o.c.g o.c.tok →
      let v := val o.t
      sends s o.c o.d o.mask (.vfma o) 4 (fun l h =>
        let p := valMul (v (h (rdV (vec s) o.a l).toNat)) (v (h (operandB16 (vec s) o.b l).toNat))
        let q := valAdd p.1 (v (h (rdV (vec s) o.cc l).toNat))
        near o.t (q.1, p.2 ||| q.2))) ∧
    (∀ (s : State) (o : VFloat1), o.t ≠ .f32 → SlotReady s [] [o.d.val, o.a.val] o.c.g o.c.tok →
      let x := fun (l : Nat) => (rdV (vec s) o.a l).toNat
      let r := sends s o.c o.d o.mask
      let v := val o.t
      r (.vabs o) 2 (fun l h => (h (x l) % 2 ^ 15, 0)) ∧
      r (.vneg o) 2 (fun l h => (if 2 ^ 15 ≤ h (x l) then h (x l) - 2 ^ 15 else h (x l) + 2 ^ 15, 0)) ∧
      r (.vrcp o) 10 (fun l h => near o.t (rcpVal (v (h (x l))))) ∧ r (.vrsq o) 10 (fun l h => near o.t (rsqVal (v (h (x l))))) ∧
      r (.vexp2 o) 10 (fun l h => near o.t (exp2Val (v (h (x l))))) ∧ r (.vlog2 o) 10 (fun l h => near o.t (log2Val (v (h (x l))))))) ∧
  (
    (∀ f ∈ floats, ∀ b : Nat, b < 2 ^ (1 + f.e + f.m) →
      let neg := decide (2 ^ (f.e + f.m) ≤ b)
      let E := b / 2 ^ f.m % 2 ^ f.e
      let F := b % 2 ^ f.m
      if (f.inf = true ∧ E = 2 ^ f.e - 1 ∧ F ≠ 0) ∨ (f.code = E4M3 ∧ E = 15 ∧ F = 7) then value f.code b = .nan
      else if f.inf = true ∧ E = 2 ^ f.e - 1 then value f.code b = .inf neg
      else if E = 0 then Stands (value f.code b) neg ((F : ℚ) * 2 ^ ((1 : ℤ) - f.bias - f.m))
      else Stands (value f.code b) neg ((2 ^ f.m + F : ℚ) * 2 ^ ((E : ℤ) - f.bias - f.m))) ∧
    (∀ f ∈ floats, ∀ (mode : RMode) (u n d : Nat) (neg : Bool) (e : Int), d ≠ 0 →
      let a : ℚ := (n : ℚ) / d * 2 ^ e
      let least : ℚ := 2 ^ ((1 : ℤ) - f.bias)
      let q : ℚ := 2 ^ (max (Int.log 2 a) ((1 : ℤ) - f.bias) - f.m)
      let k := rounded mode u a q
      let sign := if neg then 2 ^ (f.e + f.m) else 0
      let out := convert f.code mode u (.num neg n d e)
      (n = 0 → out = (sign, 0)) ∧
      (n ≠ 0 → f.maxFinite < k * q →
        out = ((if f.inf = true ∧ mode = .rne then (2 ^ f.e - 1) * 2 ^ f.m else f.maxCode) + sign, OF ||| NX)) ∧
      (n ≠ 0 → k * q ≤ f.maxFinite → out.1 < 2 ^ (1 + f.e + f.m) ∧ Stands (value f.code out.1) neg (k * q) ∧
        (¬Inexact a q → out.2 = 0) ∧ (Inexact a q → out.2 = if a < least then NX ||| UF else NX)) ∧
      convert f.code mode u .nan = (match f.nan with | some c => (c, 0) | none => (0, NV)) ∧
      convert f.code mode u (.inf neg) = (if f.inf then ((2 ^ f.e - 1) * 2 ^ f.m + sign, 0) else (f.maxCode + sign, SAT))) ∧
    (∀ f ∈ integers, ∀ (mode : RMode) (u n d : Nat) (neg : Bool) (e : Int), d ≠ 0 →
      let (code, w, lo, hi) := f
      let a : ℚ := (n : ℚ) / d * 2 ^ e
      let v : ℤ := if neg then -(rounded mode u a 1 : ℤ) else rounded mode u a 1
      let as := fun (x : ℤ) => (x % 2 ^ w).toNat
      let out := convert code mode u (.num neg n d e)
      (v < lo → out = (as lo, SAT)) ∧ (hi < v → out = (as hi, SAT)) ∧
      (lo ≤ v → v ≤ hi → out.1 = as v ∧ (¬Inexact a 1 → out.2 = 0) ∧ (Inexact a 1 → out.2 = NX)) ∧
      convert code mode u .nan = (0, NV) ∧ convert code mode u (.inf neg) = (as (if neg then lo else hi), SAT) ∧
      (∀ b < 2 ^ w, Means (value code b) ((if lo < 0 ∧ 2 ^ (w - 1) ≤ b then (b : ℤ) - 2 ^ w else b : ℤ) : ℚ))) ∧
    (∀ (x y : Val) (p q : ℚ), Means x p → Means y q →
      Means (valAdd x y).1 (p + q) ∧ (valAdd x y).2 = 0 ∧ Means (valMul x y).1 (p * q) ∧ (valMul x y).2 = 0 ∧
      (p + q = 0 → (valAdd x y).1.isNeg = (decide (p = 0) && x.isNeg && y.isNeg)) ∧
      (valMul x y).1.isNeg = (x.isNeg ^^ y.isNeg) ∧
      (∀ b, valAdd x (.inf b) = (.inf b, 0) ∧ valAdd (.inf b) x = (.inf b, 0) ∧
        (p = 0 → valMul x (.inf b) = (.nan, NV) ∧ valMul (.inf b) x = (.nan, NV)) ∧
        (p ≠ 0 → valMul x (.inf b) = (.inf (x.isNeg ^^ b), 0) ∧ valMul (.inf b) x = (.inf (x.isNeg ^^ b), 0)))) ∧
    (∀ (x : Val) (b c : Bool), valAdd .nan x = (.nan, 0) ∧ valAdd x .nan = (.nan, 0) ∧ valMul .nan x = (.nan, 0) ∧ valMul x .nan = (.nan, 0) ∧
      valAdd (.inf b) (.inf c) = (if b = c then (.inf b, 0) else (.nan, NV)) ∧ valMul (.inf b) (.inf c) = (.inf (b ^^ c), 0)))

/-- R171 to R173: the conversions: VCVT between the formats it may name, VPACK of two registers into halves, VUNPK of halves, VRNS into and
VCRT out of the residue format, in every rounding mode. R55: with SR the vector generator takes one step, and each lane, or each half of
one, draws its fraction from the new state, rotated left; otherwise the generator stays.
R174, R175: the reductions. VRED.I32 puts the wrapping sum of the active lanes into each of them, VSCAN.I32 the sum of the active lanes
up to each; VRED sums the lanes, or the 128 elements of a 16-bit type in FP32, −0 for each of an inactive lane, in the fixed tree of
neighbours, and VSCAN.F32 by distances 1, 2, 4 … 32; their flags are those of all these additions.
R49, R50: entering RNS30 takes the three residues, each the non-negative remainder; leaving it gives the one value of the range that has
them; sums and products of words are made by channel. -/
def Obligations.ConversionsAndReductions : Prop :=
  let stepped := fun (s : State) =>
    let x := (vec s).seed ^^^ ((vec s).seed <<< 13)
    let y := x ^^^ (x >>> 17)
    y ^^^ (y <<< 5)
  let drawn := fun (s : State) (r : RMode) (k : Nat) => if r = .sr then ((stepped s).rotateLeft (k % 32)).toNat else 0
  let needs5 := fun (r : RMode) => (if r = .sr then [5] else [] : List Nat)
  let seeded := fun (s : State) (i : Instr) (r : RMode) =>
    ∃ t, exec i s = .next t ∧ (vec t).seed = if r = .sr then stepped s else (vec s).seed
  let add := fun (x y : Nat) =>
    let p := valAdd (value FP32 x) (value FP32 y)
    ((convert FP32 .rne 0 p.1).1, (convert FP32 .rne 0 p.1).2 ||| p.2)
  let union := fun (fs : List Flags) => fs.foldl (fun g f => g ||| f) 0
  let level := fun (x : Nat → Nat) (l : Nat) => (add (x (2 * l)) (x (2 * l + 1))).1
  let summed := fun (x : Nat → Nat) (n : Nat) => (level^[n] x) 0
  let sumFlags := fun (x : Nat → Nat) (n : Nat) => union ((List.range n).flatMap (fun i =>
    (List.range (2 ^ (n - 1 - i))).map (fun l => (add ((level^[i] x) (2 * l)) ((level^[i] x) (2 * l + 1))).2)))
  (
    (∀ (s : State) (o : VCvtOp), cvtSrc o.src.toNat = true → cvtDst o.dst.toNat = true →
      SlotReady s (needs5 o.r) [o.d.val, o.a.val] o.c.g o.c.tok →
      let mask := rdM (vec s) o.mask
      let f := fun (l : Nat) =>
        convert o.dst.toNat o.r (drawn s o.r (7 * l)) (value o.src.toNat ((rdV (vec s) o.a l).toNat % 2 ^ fmtWidth o.src.toNat))
      Sends (.vcvt o) s o.c 4 o.d mask (fun l => BitVec.ofNat 32 (f l).1) (laneFlags mask (fun l => (f l).2)) ∧ seeded s (.vcvt o) o.r) ∧
    (∀ (s : State) (o : VPackOp), SlotReady s (needs5 o.r) [o.d.val, o.a.val, o.b.val] o.c.g o.c.tok →
      let mask := rdM (vec s) o.mask
      let fmt := match o.t with | .f32 => FP32 | .bf16 => BF16 | .f16 => FP16
      let f := fun (e : Nat) => convert fmt o.r (drawn s o.r (7 * (e / 2) + 16 * (e % 2)))
        (value FP32 (if e < 64 then rdV (vec s) o.a e else rdV (vec s) o.b (e - 64)).toNat)
      Sends (.vpack o) s o.c 4 o.d mask (fun l => BitVec.ofNat 32 ((f (2 * l)).1 + (f (2 * l + 1)).1 * 2 ^ 16))
        (laneFlags mask (fun l => (f (2 * l)).2 ||| (f (2 * l + 1)).2)) ∧ seeded s (.vpack o) o.r) ∧
    (∀ (s : State) (o : VUnpkOp), SlotReady s [] [o.d.val, o.a.val] o.c.g o.c.tok →
      let half := fun (e : Nat) => (rdV (vec s) o.a (e / 2)).toNat / 2 ^ (16 * (e % 2)) % 2 ^ 16
      Sends (.vunpk o) s o.c 4 o.d (rdM (vec s) o.mask)
        (fun l => BitVec.ofNat 32 (toFP32 (vval o.t (half (if o.hi then 64 + l else l)))).1) 0) ∧
    (∀ (s : State) (o : VRR), SlotReady s [3] [o.d.val, o.a.val] o.c.g o.c.tok →
      Sends (.vrns o) s o.c 4 o.d (rdM (vec s) o.mask) (fun l => BitVec.ofNat 32 (toRNS (rdV (vec s) o.a l).toInt)) 0) ∧
    (∀ (s : State) (o : VCrtOp), SlotReady s (3 :: needs5 o.r) [o.d.val, o.a.val] o.c.g o.c.tok →
      let mask := rdM (vec s) o.mask
      let f := fun (l : Nat) =>
        let p := valMul (Val.ofInt (fromRNS (rdV (vec s) o.a l).toNat)) (value FP32 o.scale.toNat)
        let q := convert (if o.i32 then INT32 else FP32) o.r (drawn s o.r (7 * l)) p.1
        (q.1, p.2 ||| q.2)
      Sends (.vcrt o) s o.c 4 o.d mask (fun l => BitVec.ofNat 32 (f l).1) (laneFlags mask (fun l => (f l).2)) ∧ seeded s (.vcrt o) o.r)) ∧
  (
    (∀ (s : State) (o : VRR), SlotReady s [] [o.d.val, o.a.val] o.c.g o.c.tok →
      let mask := rdM (vec s) o.mask
      let x := fun (l : Nat) => if mask.getLsbD l then (rdV (vec s) o.a l).toNat else 0
      Sends (.vredI32 o) s o.c 6 o.d mask (fun _ => BitVec.ofNat 32 ((List.range 64).map x).sum) 0 ∧
      Sends (.vscanI32 o) s o.c 6 o.d mask (fun l => BitVec.ofNat 32 ((List.range (l + 1)).map x).sum) 0) ∧
    (∀ (s : State) (o : VRR), SlotReady s [] [o.d.val, o.a.val] o.c.g o.c.tok →
      let mask := rdM (vec s) o.mask
      let start := (List.range 64).map (fun l => if mask.getLsbD l then (rdV (vec s) o.a l).toNat else 2 ^ 31)
      let next := fun (d : Nat) (x : List Nat) => (List.range 64).map (fun l => if l < d then x.getD l 0 else (add (x.getD (l - d) 0) (x.getD l 0)).1)
      let raised := fun (d : Nat) (x : List Nat) =>
        union ((List.range 64).map (fun l => if l < d then 0 else (add (x.getD (l - d) 0) (x.getD l 0)).2))
      let x1 := next 1 start
      let x2 := next 2 x1
      let x4 := next 4 x2
      let x8 := next 8 x4
      let x16 := next 16 x8
      Sends (.vscan o) s o.c 6 o.d mask (fun l => BitVec.ofNat 32 ((next 32 x16).getD l 0))
        (raised 1 start ||| raised 2 x1 ||| raised 4 x2 ||| raised 8 x4 ||| raised 16 x8 ||| raised 32 x16)) ∧
    (∀ (s : State) (o : VFloat1), o.t = .f32 → SlotReady s [] [o.d.val, o.a.val] o.c.g o.c.tok →
      let mask := rdM (vec s) o.mask
      let start := fun (l : Nat) => if mask.getLsbD l then (rdV (vec s) o.a l).toNat else 2 ^ 31
      Sends (.vred o) s o.c 6 o.d mask (fun _ => BitVec.ofNat 32 (summed start 6)) (sumFlags start 6)) ∧
    (∀ (s : State) (o : VFloat1), o.t ≠ .f32 → SlotReady s [] [o.d.val, o.a.val] o.c.g o.c.tok →
      let mask := rdM (vec s) o.mask
      let half := fun (e : Nat) => (rdV (vec s) o.a (e / 2)).toNat / 2 ^ (16 * (e % 2)) % 2 ^ 16
      let start := fun (e : Nat) => if mask.getLsbD (e / 2) then (toFP32 (value (if o.t = .bf16 then BF16 else FP16) (half e))).1 else 2 ^ 31
      Sends (.vred o) s o.c 6 o.d mask (fun _ => BitVec.ofNat 32 (summed start 7)) (sumFlags start 7))) ∧
  (
    (∀ v : Int, toRNS v % 2 ^ 11 = (v % 1025).toNat ∧ toRNS v / 2 ^ 11 % 2 ^ 10 = (v % 1024).toNat ∧ toRNS v / 2 ^ 21 = (v % 1023).toNat ∧
      (-536870400 ≤ v → v < 536870400 → fromRNS (toRNS v) = v)) ∧
    (∀ w : Nat, -536870400 ≤ fromRNS w ∧ fromRNS w < 536870400 ∧ fromRNS w % 1025 = ((w % 2 ^ 11 % 1025 : Nat) : Int) ∧
      fromRNS w % 1024 = ((w / 2 ^ 11 % 2 ^ 10 : Nat) : Int) ∧ fromRNS w % 1023 = ((w / 2 ^ 21 % 2 ^ 10 % 1023 : Nat) : Int)) ∧
    (∀ v x : Int, rnsOp (· + ·) (toRNS v) (toRNS x) = toRNS (v + x) ∧ rnsOp (· * ·) (toRNS v) (toRNS x) = toRNS (v * x)))

/-- R150, R153, R155: the results that are due write, in the order their pairs issued: each its lanes, or the mask bits it selects, so that
of several the last stays in a lane or bit, and every other lane and bit is as before; their flags are raised, and only results not yet due
stay in flight. R69, R153: a result's tokens are pushed as it writes; one without room is held, and no result behind it writes, nor
any while one is held. R268: a stopped run's results write, and their pushes are not made.
The model's choice: results are written as an event of the engine's turn (log entry 1). -/
def Obligations.WritebackWritesTheActiveLanes : Prop :=
  ∀ (s : State) (a : Nat),
    let x := (tile s a).vec
    let due := x.flight.filter (fun f => decide (f.due ≤ x.slot))
    let stopped := ∃ r, x.run = some r ∧ r.stop = true
    let lane := fun (fs : List Flight) (k : Nat) =>
      (((fs.flatMap (·.v)).filter (fun e => e.1 == k)).getLast?.map (·.2)).getD (getAt 0 x.v k)
    let bit := fun (fs : List Flight) (n l : Nat) =>
      ((fs.filterMap (fun f => match f.m with
        | some (k, which, y) => if k = n ∧ which.getLsbD l = true then some (y.getLsbD l) else none
        | none => none)).getLast?).getD ((getAt 0 x.m n).getLsbD l)
    let writes := fun (t : State) (fs : List Flight) =>
      (∀ k, getAt 0 (tile t a).vec.v k = lane fs k) ∧
      (∀ n l, n ≠ 0 → l < 64 → (getAt 0 (tile t a).vec.m n).getLsbD l = bit fs n l) ∧
      (tile t a).vec.flags = fs.foldl (fun g f => g ||| f.flags) x.flags ∧ t.mem = s.mem ∧ (tile t a).pad = (tile s a).pad
    ∃ t, exec (.vectorWriteback a) s = .next t ∧
      (x.push = none → stopped ∨ (∀ f ∈ due, f.push = Push.none) → writes t due ∧ (tile t a).fifo = (tile s a).fifo ∧
        (tile t a).vec.push = none ∧ (tile t a).vec.flight = x.flight.filter (fun f => !decide (f.due ≤ x.slot))) ∧
      (x.push = none → ¬stopped → ∀ f, due = [f] → roomFor (tile s a).fifo f.push = true → writes t [f] ∧
        (tile t a).fifo = pushInto (tile s a).fifo f.push ∧ (tile t a).vec.push = none ∧ (tile t a).vec.flight = x.flight.erase f) ∧
      (x.push = none → ¬stopped → ∀ f fs, due = f :: fs → roomFor (tile s a).fifo f.push = false → writes t [f] ∧
        (tile t a).fifo = (tile s a).fifo ∧ (tile t a).vec.push = some f.push ∧ (tile t a).vec.flight = x.flight.erase f) ∧
      (x.push ≠ none → writes t [] ∧ (tile t a).vec.push = x.push ∧ (tile t a).vec.flight = x.flight)

/-! ## Matrix records -/

/-- R123, R187, R202: MNOP with nothing in progress completes at acceptance: it takes the next number and the timeline reaches it, with no
other effect than its tokens; MEND is in progress as the run's last record, with no record after it to overlap it. The completion of the one
record in progress, its passes made, raises its
flags and brings the timeline to its number, and MEND's ends the run.
R201: MREP before a record it can repeat completes at acceptance and leaves that record to be executed with its trip counts and strides;
its own number is taken, its pops and pushes are made.
R25, R75, R394: a matrix record of a disabled feature faults 0x12 with its number, one whose accumulator is not declared or whose format
field holds a reserved code, or in a record that multiplies or loads a plane one that is no operand, faults 0x02 with the field: before its
pops, with no number taken; the engine parks at it. R201: MREP before a record it cannot repeat faults 0x02 after its pops.
The model's choices: a record makes its reads and writes in the step that accepts it (log entry 9); which of several features or fields is
named (log entry 23). -/
def Obligations.MatrixNopEndAndRepeat : Prop :=
  (
    (∀ (s : State) (r : MRec), MatReady s [] none false r → (mat s).busy = [] → (mat s).ahead = [] → (mat s).accepted = (mat s).tl →
      (mat s).rep = none → roomFor (popFrom (tile s s.cur).fifo (matPops r)) (matPushes r) = true →
      ∃ t, exec (.mnop r) s = .next t ∧ (mat t).accepted = (mat s).accepted + 1 ∧ (mat t).tl = (mat s).accepted + 1 ∧
        (mat t).busy = [] ∧ (mat t).acc = (mat s).acc ∧ (mat t).active = (mat s).active ∧ (mat t).shadow = (mat s).shadow ∧
        (mat t).flags = (mat s).flags ∧ (tile t s.cur).pad = (tile s s.cur).pad ∧ OnlyTile s.cur s t ∧
        ((∀ q, (mat s).run = some q → q.stop = false) →
          (tile t s.cur).fifo = pushInto (popFrom (tile s s.cur).fifo (matPops r)) (matPushes r))) ∧
    (∀ (s : State) (r : MRec), MatReady s [] none false r →
      InProgress (.mend r) s r true true fun t f => f = 0 ∧ t.mat.acc = (mat s).acc ∧ PlanesKept s t ∧ t.pad = (tile s s.cur).pad) ∧
    (∀ (s : State) (a : Nat) (d : MatDone), (tile s a).mat.busy = [d] → (tile s a).mat.push = none → (tile s a).mat.ahead = [] →
      (tile s a).mat.going = none → d.n = ((tile s a).mat.tl + 1).toNat → roomFor (tile s a).fifo d.push = true → (tile s a).mat.rep = none →
      ∃ t, exec (.matrixRecordComplete a 0) s = .next t ∧ (tile t a).mat.busy = [] ∧ (tile t a).mat.tl = (tile s a).mat.tl + 1 ∧
        (tile t a).mat.flags = (tile s a).mat.flags ||| d.flags ∧ (tile t a).mat.acc = (tile s a).mat.acc ∧ (tile t a).pad = (tile s a).pad ∧
        (∀ q, (tile s a).mat.run = some q → q.stop = false →
          (tile t a).fifo = pushInto (tile s a).fifo d.push ∧ (d.last = true → (tile t a).mat.run = none)) ∧
        (core t a).latch = true ∧ OnlyTile a s t)) ∧
  (
    ∀ (s : State) (r : MRec) (q : RunState), MatReady s [] none false r → (mat s).rep = none → (mat s).run = some q → q.stop = false →
      q.pc + 1 < 256 → 2 < fetchM s s.cur (q.pc + 1) / 2 ^ 504 % 2 ^ 8 →
      ∃ t, exec (.mrep r) s = .next t ∧ (mat t).accepted = (mat s).accepted + 1 ∧ (mat t).rep = some r ∧ (mat t).ml0 = r.trip.l0.toNat ∧
        (mat t).ml1 = r.trip.l1.toNat ∧ (mat t).o0 = 0 ∧ (mat t).o1 = 0 ∧ (mat t).run = some { q with pc := q.pc + 1 } ∧
        (mat t).acc = (mat s).acc ∧ (mat t).active = (mat s).active ∧ (mat t).shadow = (mat s).shadow ∧ (mat t).flags = (mat s).flags ∧
        (tile t s.cur).pad = (tile s s.cur).pad ∧ OnlyTile s.cur s t ∧
        ((mat s).ahead = [] → (mat s).accepted = (mat s).tl → (mat t).tl = (mat s).accepted + 1) ∧
        (roomFor (popFrom (tile s s.cur).fifo (matPops r)) (matPushes r) = true →
          (tile t s.cur).fifo = pushInto (popFrom (tile s s.cur).fifo (matPops r)) (matPushes r))) ∧
  (
    (∀ (s : State) (i : Instr) (u : MatUse), matrixWord i = some u → mayAccept (mat s) u.ld = true →
      let bad := fun (f : Nat) =>
        f ∉ ([0x00, 0x04, 0x09, 0x0A, 0x0B, 0x0C, 0x0D, 0x0E, 0x0F, 0x20, 0x21, 0x22, 0x23, 0x24, 0x25] : List Nat) ∧
          (u.operand = true ∨ f ∉ ([0x01, 0x02, 0x03, 0x08, 0x10, 0x18, 0x19] : List Nat))
      ((∃ n, u.Needs n ∧ feature s n = false) → ∃ n, u.Needs n ∧ feature s n = false ∧ MatFaults i s none 0x12 (BitVec.ofNat 64 n)) ∧
      ((∀ n, u.Needs n → feature s n = true) →
        let undeclared := u.acc = true ∧ (hdr s s.cur).accs ≤ u.r.acc.val
        (undeclared → MatFaults i s none 0x02 252) ∧
        (¬undeclared → u.a = true ∧ bad u.r.fmta.toNat → MatFaults i s none 0x02 253) ∧
        (¬undeclared → ¬(u.a = true ∧ bad u.r.fmta.toNat) → u.b = true ∧ bad u.r.fmtb.toNat → MatFaults i s none 0x02 252))) ∧
    (∀ (s : State) (r : MRec) (q : RunState), MatReady s [] none false r → (mat s).run = some q →
      256 ≤ q.pc + 1 ∨ fetchM s s.cur (q.pc + 1) / 2 ^ 504 % 2 ^ 8 ≤ 2 → ∃ x < 64, MatFaults (.mrep r) s (some r) 0x02 (BitVec.ofNat 64 (192 + x))))

/-- R190: LDSTAT fills the shadow plane: its format, its K extent, and the code at each place, element k or j of its run where it lies in
the extents and the all-zero code elsewhere. The active plane and the accumulators do not change. R192: MSWAP exchanges the planes.
R186, R190: an LDSTAT whose rows, cols or BS break its rule faults 0x02 with the field, one whose elements of 16 bits are misaligned 0x05
with the lowest such address, one that would read a byte outside the scratchpad 0x04 with the lowest such byte; nothing of it takes effect but its
pops, which it keeps.
The model's choices: a record makes its reads and writes in the step that accepts it (log entry 9); which of several fields is named (log
entry 23). -/
def Obligations.PlaneRecords : Prop :=
  (∀ (s : State) (r : MRec), MatReady s (matFeats r false true []) (matCheck3 s r false false true true) true r → statCheck r s = .ok →
    InProgress (.ldstat r) s r true false fun t f =>
      let b := basesOf (mat s) r
      let w := fmtWidth r.fmtb.toNat
      let code := fun (run k : Nat) => readN (tile s s.cur).pad ((b.b : Int) + run * r.strb.l0.toInt).toNat
        (((if r.fl.t then r.rows.toNat else r.cols.toNat) * w + 7) / 8) / 2 ^ (k * w) % 2 ^ w
      f = 0 ∧ t.mat.active = (mat s).active ∧ t.mat.acc = (mat s).acc ∧ t.pad = (tile s s.cur).pad ∧
        t.mat.shadow.fmt = r.fmtb.toNat ∧ t.mat.shadow.ext = r.rows.toNat ∧
        (∀ k j : Nat, j < 64 → (getAt 0 t.mat.shadow.w (64 * k + j)).toNat =
          if k < r.rows.toNat ∧ j < r.cols.toNat then (if r.fl.t then code j k else code k j) else 0) ∧
        (r.fl.bs = true → ∀ g j : Nat, j < 64 → getAt 0x7F t.mat.shadow.sw (64 * g + j) =
          if g < r.rows.toNat / 32 ∧ j < r.cols.toNat then getB (tile s s.cur).pad (b.sb + 64 * g + j) else 0x7F)) ∧
  (∀ (s : State) (r : MRec), MatReady s [] none false r →
    InProgress (.mswap r) s r true false fun t f =>
      f = 0 ∧ t.mat.active = (mat s).shadow ∧ t.mat.shadow = (mat s).active ∧ t.mat.acc = (mat s).acc ∧ t.pad = (tile s s.cur).pad) ∧
  (∀ (s : State) (r : MRec), MatReady s (matFeats r false true []) (matCheck3 s r false false true true) true r →
    let b := basesOf (mat s) r
    let w := fmtWidth r.fmtb.toNat
    let rows := r.rows.toNat = 0 ∨ passK r.fmtb.toNat < r.rows.toNat ∨ (isMX r.fmtb.toNat = true ∧ r.rows.toNat % 32 ≠ 0)
    let cols := r.cols.toNat = 0 ∨ 64 < r.cols.toNat
    let scaled := r.fl.bs = isMX r.fmtb.toNat
    let runs := if r.fl.t then r.cols.toNat else r.rows.toNat
    let len := ((if r.fl.t then r.rows.toNat else r.cols.toNat) * w + 7) / 8
    let start := fun (k : Nat) => (b.b : Int) + k * r.strb.l0.toInt
    (rows → MatFaults (.ldstat r) s (some r) 0x02 197) ∧ (¬rows → cols → MatFaults (.ldstat r) s (some r) 0x02 195) ∧
    (¬rows → ¬cols → ¬scaled → MatFaults (.ldstat r) s (some r) 0x02 251) ∧
    (¬rows → ¬cols → scaled → SpanFaults (.ldstat r) s r (fun a => w = 16 ∧ ∃ k < runs, a = start k ∧ a % 2 ≠ 0)
      (w = 16 ∧ r.strb.l0.toInt % 2 ≠ 0)
      (fun a => (∃ k < runs, start k ≤ a ∧ a < start k + len) ∨
        (r.fl.bs = true ∧ ∃ g < r.rows.toNat / 32, ((b.sb + 64 * g : Nat) : Int) ≤ a ∧ a < ((b.sb + 64 * g + r.cols.toNat : Nat) : Int)))))

/-- R193, R196: an accepted MMA, MMABS or MDIST is in progress from its first pass, its resume coordinate (R180) at step, row and pass 0
and its bases fixed; ZERO has zeroed the words it updates in every step, and nothing else of the accumulators, the planes or the
scratchpad has changed.
R45, R46, R194, R195, R204: a turn of the engine then makes one pass: it updates each column's word of the coordinate's row by one pass
over its A run and the plane's column, and no other word, adds its flags to those of the record in progress, and moves the coordinate to
the next pass, row or step, level 0 the fastest and level 3 the slowest; after the last, SWAP exchanges the planes. An INT4 pass adds the
exact dot product, wrapping (R48).
A floating pass rounds the exact sum of its products, of an MX format each under its block's scales, or of its squared differences, once
to FP32, and rounds the sum of that and the word once more; a NaN element or scale makes the word NaN, and so does an infinity times zero
or with another of the other sign, with NV (R46, R47). An INT8 pass adds the residues of the exact dot product by channel (R48, R49).
R186, R193: a record whose counts, rows, formats, planes or strides break its rule faults 0x02 with the field, one with a misaligned element
or stride 0x05, one that would read outside the scratchpad 0x04 with the lowest such byte, before any effect but its pops.
The model's choices: one pass of a row is made a turn (log entry 1); which of several fields is named (log entry 23). -/
def Obligations.MultiplyRecords : Prop :=
  let begun := fun (s : State) (r : MRec) (dist : Bool) (t : Tile) (f : Flags) =>
    let b := basesOf (mat s) r
    f = 0 ∧ t.mat.going = some ⟨((mat s).accepted + 1).toNat, r, dist, ⟨0, 0, 0, 0⟩, 0, 0, b.a, b.c, b.sa, b.outer⟩ ∧
      PlanesKept s t ∧ t.pad = (tile s s.cur).pad ∧ (r.fl.zero = false → t.mat.acc = (mat s).acc) ∧
      (r.fl.zero = true →
        let step := fun (i : Quad Nat) => i.l0 < Nat.max r.trip.l0.toNat 1 ∧ i.l1 < Nat.max r.trip.l1.toNat 1 ∧
          i.l2 < Nat.max r.trip.l2.toNat 1 ∧ i.l3 < Nat.max r.trip.l3.toNat 1
        let row := fun (i : Quad Nat) (q : Nat) =>
          ((b.c : Int) + i.l0 * r.strc.l0.toInt + i.l1 * r.strc.l1.toInt + i.l2 * r.strc.l2.toInt + i.l3 * r.strc.l3.toInt + q).toNat
        (∀ i, step i → ∀ q < r.rows.toNat, ∀ j < r.cols.toNat, accWord t.mat r.acc (row i q) j = 0) ∧
        ∀ k, (∀ i, step i → ∀ q < r.rows.toNat, ∀ j < r.cols.toNat, k ≠ r.acc * 8192 + row i q * 64 + j) →
          getAt 0 t.mat.acc k = getAt 0 (mat s).acc k)
  let accepts := fun (s : State) (i : Instr) (r : MRec) (dist : Bool) =>
    InProgress i s r (r.kpass.toNat == 2 || r.fl.swap) false (begun s r dist)
  (∀ (s : State) (r : MRec), MatReady s (matFeats r true true []) (matCheck3 s r true true true true) false r →
    mulCheck r false (fun f => !isMX f) s = .ok → accepts s (.mma r) r false) ∧
  (∀ (s : State) (r : MRec), MatReady s (matFeats r true true [2]) (matCheck3 s r true true true true) false r →
    mulCheck r true isMX s = .ok → accepts s (.mmabs r) r false) ∧
  (∀ (s : State) (r : MRec), MatReady s (matFeats r true true [4]) (matCheck3 s r true true true true) false r →
    mulCheck r false (fun f => [BF16, FP16, E4M3, E5M2].contains f) s = .ok → accepts s (.mdist r) r true) ∧
  (∀ (s : State) (a : Nat) (ts : List Turn) (q : RunState) (g : MatGoing),
    let s' := { s with agenda := ts, cur := a }
    let r := g.r
    let n := Nat.max r.kpass.toNat 1
    let f := r.fmta.toNat
    let i := g.step
    let moved := fun (x : Quad (BitVec 20)) => i.l0 * x.l0.toInt + i.l1 * x.l1.toInt + i.l2 * x.l2.toInt + i.l3 * x.l3.toInt
    let k := g.row * n + g.pass
    let run := (g.a : Int) + moved r.stra + (k * passBytes f : Nat)
    let scale := (((g.sa : Int) + g.outer * passBlocks f / passBytes f) % 2 ^ 20) + moved r.stra * passBlocks f / passBytes f +
      (k * passBlocks f : Nat)
    let row := (g.c : Int) + moved r.strc + g.row
    let m := (tile s a).mat
    let pl := if g.pass = 1 then m.shadow else m.active
    let w := fmtWidth f
    let pad := (tile s a).pad
    let made := fun (j : Nat) => onePass f r.fmtb.toNat (passK pl.fmt) pl.ext g.dist
      (fun e => readN pad run.toNat ((pl.ext * w + 7) / 8) / 2 ^ (e * w) % 2 ^ w) (fun e => (getAt 0 pl.w (64 * e + j)).toNat)
      (fun b => if isMX f ∧ b < passBlocks f then (getB pad (scale.toNat + b)).toNat else 0)
      (fun b => (getAt 0x7F pl.sw (64 * b + j)).toNat) (accWord m r.acc row.toNat j)
    syncNow s = none → s.agenda = .matrix a :: ts → m.push = none → m.parked = false → m.paused = false → m.run = some q → m.busy ≠ [] → m.going = some g →
    nextIsLoad a s' = false → 0 ≤ run → 0 ≤ row → (isMX f = true → 0 ≤ scale) →
    ∃ t, step s = .next t ∧
      (∀ j < r.cols.toNat, accWord (tile t a).mat r.acc row.toNat j = (made j).1 % 2 ^ 32) ∧
      (tile t a).mat.busy = m.busy.map (fun d => if d.n = g.n then
        { d with flags := (List.range r.cols.toNat).foldl (fun x j => x ||| (made j).2) d.flags } else d) ∧
      OtherWordsKept m (tile t a).mat r.acc row.toNat 1 r.cols.toNat ∧ (tile t a).pad = pad ∧
      (g.pass + 1 < n → (tile t a).mat.going = some { g with pass := g.pass + 1 }) ∧
      (n ≤ g.pass + 1 → g.row + 1 < r.rows.toNat → (tile t a).mat.going = some { g with pass := 0, row := g.row + 1 }) ∧
      (n ≤ g.pass + 1 → r.rows.toNat ≤ g.row + 1 →
        (i.l0 + 1 < r.trip.l0.toNat → (tile t a).mat.going = some { g with pass := 0, row := 0, step := { i with l0 := i.l0 + 1 } }) ∧
        (r.trip.l0.toNat ≤ i.l0 + 1 → i.l1 + 1 < r.trip.l1.toNat →
          (tile t a).mat.going = some { g with pass := 0, row := 0, step := { i with l0 := 0, l1 := i.l1 + 1 } }) ∧
        (r.trip.l0.toNat ≤ i.l0 + 1 → r.trip.l1.toNat ≤ i.l1 + 1 → i.l2 + 1 < r.trip.l2.toNat →
          (tile t a).mat.going = some { g with pass := 0, row := 0, step := { i with l0 := 0, l1 := 0, l2 := i.l2 + 1 } }) ∧
        (r.trip.l0.toNat ≤ i.l0 + 1 → r.trip.l1.toNat ≤ i.l1 + 1 → r.trip.l2.toNat ≤ i.l2 + 1 → i.l3 + 1 < r.trip.l3.toNat →
          (tile t a).mat.going = some { g with pass := 0, row := 0, step := ⟨0, 0, 0, i.l3 + 1⟩ }) ∧
        (r.trip.l0.toNat ≤ i.l0 + 1 → r.trip.l1.toNat ≤ i.l1 + 1 → r.trip.l2.toNat ≤ i.l2 + 1 → r.trip.l3.toNat ≤ i.l3 + 1 →
          (tile t a).mat.going = none ∧
          (r.fl.swap = true → (tile t a).mat.active = m.shadow ∧ (tile t a).mat.shadow = m.active))) ∧
      ((tile t a).mat.going ≠ none ∨ r.fl.swap = false → (tile t a).mat.active = m.active ∧ (tile t a).mat.shadow = m.shadow) ∧
      (tile t a).mat.tl = m.tl ∧ (core t a) = (core s a) ∧
      (∀ b, b ≠ a → tile t b = tile s b) ∧ t.mem = s.mem) ∧
  (∀ (ext old : Nat) (a w : Nat → Nat) (sa sw : Nat → Nat), old < 2 ^ 32 →
    ((onePass INT4 INT4 256 ext false a w sa sw old).1 : Int) =
      ((old : Int) + ((List.range ext).map (fun k => signed 4 (a k) * signed 4 (w k))).sum) % 2 ^ 32 ∧
    (onePass INT4 INT4 256 ext false a w sa sw old).2 = 0 ∧
    (let v := ((List.range ext).map (fun k => signed 8 (a k) * signed 8 (w k))).sum
     let y := onePass INT8 INT8 128 ext false a w sa sw old
     ((y.1 % 2 ^ 11 : Nat) : Int) = ((old % 2 ^ 11 : Nat) + v) % 1025 ∧ ((y.1 / 2 ^ 11 % 2 ^ 10 : Nat) : Int) = ((old / 2 ^ 11 % 2 ^ 10 : Nat) + v) % 1024 ∧
       ((y.1 / 2 ^ 21 : Nat) : Int) = ((old / 2 ^ 21 % 2 ^ 10 : Nat) + v) % 1023 ∧ y.2 = 0)) ∧
  (∀ (f fb kp ext old : Nat) (a w sa sw : Nat → Nat) (dist : Bool), f ≠ INT8 → f ≠ INT4 →
    let el := fun (g x : Nat) =>
      if g = MXINT8 then (Val.ofInt (signed 8 x)).scale (-6) else if isMX g = true then value (mxElem g) x else value g x
    let x := fun (k : Nat) => el f (a k)
    let y := fun (k : Nat) => el fb (w k)
    let scaled := isMX f = true ∧ dist = false
    let noNumber := fun (k : Nat) => (x k).isNan = true ∨ (y k).isNan = true ∨ (scaled ∧ (sa (k / 32) = 255 ∨ sw (k / 32) = 255))
    let product := fun (k : Nat) => (if dist then (valMul (valAdd (x k) (y k).neg).1 (valAdd (x k) (y k).neg).1).1 else (valMul (x k) (y k)).1)
    let ends := fun (P : Val) (g : Flags) =>
      let S := convert FP32 .rne 0 P
      let T := valAdd (value FP32 old) (value FP32 S.1)
      onePass f fb kp ext dist a w sa sw old = ((convert FP32 .rne 0 T.1).1, g ||| S.2 ||| T.2 ||| (convert FP32 .rne 0 T.1).2)
    (∀ X Y : Nat → ℚ, (∀ k < ext, Means (x k) (X k) ∧ Means (y k) (Y k) ∧ ¬noNumber k) →
      let term := fun (k : Nat) => if dist then (X k - Y k) ^ 2
        else if isMX f = true then X k * Y k * 2 ^ ((sa (k / 32) : ℤ) - 127) * 2 ^ ((sw (k / 32) : ℤ) - 127) else X k * Y k
      ∃ P, Means P ((List.range ext).map term).sum ∧ ends P 0) ∧
    ((∃ k < ext, noNumber k) → ∃ g, ends .nan g) ∧
    ((∀ k < ext, ¬noNumber k) → (∃ k < ext, product k = .nan) ∨ ((∃ k < ext, product k = .inf false) ∧ ∃ k < ext, product k = .inf true) →
      ends .nan NV) ∧
    (∀ b, (∀ k < ext, ¬noNumber k ∧ product k ≠ .nan ∧ product k ≠ .inf (!b)) → (∃ k < ext, product k = .inf b) → ends (.inf b) 0)) ∧
  (∀ (s : State) (r : MRec),
    let m := mat s
    let b := basesOf m r
    let f := r.fmta.toNat
    let w := fmtWidth f
    let n := Nat.max r.kpass.toNat 1
    let nb := passBlocks f
    let PB := passBytes f
    let step := fun (i : Quad Nat) => i.l0 < Nat.max r.trip.l0.toNat 1 ∧ i.l1 < Nat.max r.trip.l1.toNat 1 ∧
      i.l2 < Nat.max r.trip.l2.toNat 1 ∧ i.l3 < Nat.max r.trip.l3.toNat 1
    let moved := fun (i : Quad Nat) (x : Quad (BitVec 20)) => i.l0 * x.l0.toInt + i.l1 * x.l1.toInt + i.l2 * x.l2.toInt + i.l3 * x.l3.toInt
    let pass := fun (P : Quad Nat → Nat → Nat → Prop) => ∃ i q p, step i ∧ q < r.rows.toNat ∧ p < n ∧ P i q p
    let run := fun (i : Quad Nat) (q p : Nat) => (b.a : Int) + moved i r.stra + ((q * n + p) * PB : Nat)
    let scale := fun (i : Quad Nat) (q p : Nat) =>
      ((b.sa : Int) + b.outer * nb / PB) % 2 ^ 20 + moved i r.stra * nb / PB + ((q * n + p) * nb : Nat)
    let ext := fun (p : Nat) => (if p = 1 then m.shadow else m.active).ext
    let faults := fun (i : Instr) (mx : Bool) (formats : List Nat) =>
      let fault := fun (bit : Nat) => MatFaults i s (some r) 0x02 (BitVec.ofNat 64 (192 + bit / 8))
      let rows := r.rows.toNat = 0 ∨ 128 < r.rows.toNat
      let cols := r.cols.toNat = 0 ∨ 64 < r.cols.toNat
      let row := pass (fun i q _ => (b.c : Int) + moved i r.strc + q < 0 ∨ 127 < (b.c : Int) + moved i r.strc + q)
      let pair := f ∈ formats ∧ r.fmtb.toNat ∈ formats ∧ pairClass f = pairClass r.fmtb.toNat
      let planes := m.active.fmt = r.fmtb.toNat ∧ (r.kpass.toNat = 2 → m.shadow.fmt = r.fmtb.toNat)
      let follows := fun (x : Int) => x * nb % PB = 0
      let strides := mx = true → follows b.outer ∧ follows r.stra.l0.toInt ∧ follows r.stra.l1.toInt ∧ follows r.stra.l2.toInt ∧
        follows r.stra.l3.toInt
      (rows → fault 44) ∧ (¬rows → 2 < r.kpass.toNat → fault 36) ∧ (¬rows → r.kpass.toNat ≤ 2 → cols → fault 28) ∧
      (¬rows → r.kpass.toNat ≤ 2 → ¬cols → row → fault 404) ∧
      (¬rows → r.kpass.toNat ≤ 2 → ¬cols → ¬row → ¬(pair ∧ planes) → fault 484) ∧
      (¬rows → r.kpass.toNat ≤ 2 → ¬cols → ¬row → pair → planes → ¬strides → ∃ l < 4, fault (280 - 20 * l)) ∧
      (¬rows → r.kpass.toNat ≤ 2 → ¬cols → ¬row → pair → planes → strides →
        SpanFaults i s r (fun x => w = 16 ∧ pass (fun i q p => x = run i q p ∧ x % 2 ≠ 0))
          (w = 16 ∧ (r.stra.l0.toInt % 2 ≠ 0 ∨ r.stra.l1.toInt % 2 ≠ 0 ∨ r.stra.l2.toInt % 2 ≠ 0 ∨ r.stra.l3.toInt % 2 ≠ 0))
          (fun x => pass (fun i q p => run i q p ≤ x ∧ x < run i q p + ((ext p * w + 7) / 8 : Nat)) ∨
            (mx = true ∧ pass (fun i q p => scale i q p ≤ x ∧ x < scale i q p + (nb : Nat)))))
    (MatReady s (matFeats r true true []) (matCheck3 s r true true true true) false r →
      faults (.mma r) false [BF16, FP16, E4M3, E5M2, E2M1, E3M2, E2M3, INT8, INT4]) ∧
    (MatReady s (matFeats r true true [2]) (matCheck3 s r true true true true) false r →
      faults (.mmabs r) true [MXE4M3, MXE5M2, MXE3M2, MXE2M3, MXFP4, MXINT8]) ∧
    (MatReady s (matFeats r true true [4]) (matCheck3 s r true true true true) false r → faults (.mdist r) false [BF16, FP16, E4M3, E5M2]))

/-- R197: MTOPK and MBOTK write, for each row, the k best entries in rank, word and column: an order of all the columns in which none is
outranked by a later one and equals stand by column.
R198 to R200: ACCZ zeroes, ACCLD replaces and ACCADD adds to the words of its rows and columns, each element of a row's run meeting its
column; every other word stays. ACCRD of a raw copy writes each word's bits as the elements of the rows' runs, where the rows do not
overlap; a converting one writes each word's value, times its column's scale with BS, rounded once, stochastically with SR from the
read-out generator, which steps once a row (R55); every byte outside the runs and the accumulators stay.
R186: a record whose rows, columns, accumulator rows or formats break its rule faults 0x02 with the field, one whose output, source or
scales are misaligned 0x05, one that touches a byte outside the scratchpad 0x04 with the lowest such byte, before any effect but its pops.
The model's choices: a record makes its reads and writes in the step that accepts it (log entry 9); which of several fields is named (log
entry 23). -/
def Obligations.AccumulatorAndRankRecords : Prop :=
  (
    let best := fun (s : State) (r : MRec) (top : Bool) (t : Tile) =>
      let b := basesOf (mat s) r
      let k := r.kpass.toNat
      ∀ q < r.rows.toNat,
        let word := fun (j : Nat) => accWord (mat s) r.acc (b.c + q) j
        ∃ order : List Nat, order.Perm (List.range r.cols.toNat) ∧
          order.Pairwise (fun c d => outranks (r.fmta.toNat == FP32) top (word d) (word c) = false ∧
            (outranks (r.fmta.toNat == FP32) top (word c) (word d) = false → c < d)) ∧
          ∀ e < k, ∃ c, order[e]? = some c ∧ readN t.pad (b.b + 8 * (k * q + e)) 8 = word c + c * 2 ^ 32
    ∀ (s : State) (r : MRec), MatReady s (matFeats r true false [4]) (matCheck3 s r true true false false) false r → topkCheck r s = .ok →
      (InProgress (.mtopk r) s r false false fun t f => f = 0 ∧ best s r true t ∧ t.mat.acc = (mat s).acc ∧ PlanesKept s t ∧
        ∀ x, x < (basesOf (mat s) r).b ∨ (basesOf (mat s) r).b + 8 * r.kpass.toNat * r.rows.toNat ≤ x → getB t.pad x = getB (tile s s.cur).pad x) ∧
      (InProgress (.mbotk r) s r false false fun t f => f = 0 ∧ best s r false t ∧ t.mat.acc = (mat s).acc ∧ PlanesKept s t ∧
        ∀ x, x < (basesOf (mat s) r).b ∨ (basesOf (mat s) r).b + 8 * r.kpass.toNat * r.rows.toNat ≤ x → getB t.pad x = getB (tile s s.cur).pad x)) ∧
  (
    let elem := fun (s : State) (r : MRec) (q j : Nat) =>
      let w := fmtWidth r.fmtb.toNat
      readN (tile s s.cur).pad (((basesOf (mat s) r).b : Int) + q * r.strb.l0.toInt).toNat ((r.cols.toNat * w + 7) / 8) / 2 ^ (j * w) % 2 ^ w
    let words := fun (s : State) (r : MRec) (t : Tile) (f : Nat → Nat → Nat → Nat) =>
      let c := (basesOf (mat s) r).c
      (∀ q < r.rows.toNat, ∀ j < r.cols.toNat, accWord t.mat r.acc (c + q) j = f q j (accWord (mat s) r.acc (c + q) j) % 2 ^ 32) ∧
        OtherWordsKept (mat s) t.mat r.acc c r.rows.toNat r.cols.toNat ∧ PlanesKept s t ∧ t.pad = (tile s s.cur).pad
    (∀ (s : State) (r : MRec), MatReady s [] (matCheck3 s r true false false false) false r → acczCheck r s = .ok →
      InProgress (.accz r) s r false false fun t f => f = 0 ∧ words s r t (fun _ _ _ => 0)) ∧
    (∀ (s : State) (r : MRec), MatReady s (matFeats r true true []) (matCheck3 s r true true true false) false r → accldCheck r s = .ok →
      (InProgress (.accld r) s r false false fun t f => f = 0 ∧ words s r t (fun q j _ => entering r.fmta.toNat r.fmtb.toNat (elem s r q j))) ∧
      (InProgress (.accadd r) s r false false fun t _ =>
        words s r t (fun q j old => (accSum r.fmta.toNat old (entering r.fmta.toNat r.fmtb.toNat (elem s r q j))).1))) ∧
    (∀ (s : State) (r : MRec), MatReady s (matFeats r true true []) (matCheck3 s r true true true false) false r → accrdCheck r s = .ok →
      r.fmta = r.fmtb → r.fl.bs = false → (4 * r.cols.toNat : Int) ≤ r.strb.l0.toInt →
      InProgress (.accrd r) s r false false fun t f => f = 0 ∧ t.mat.acc = (mat s).acc ∧ PlanesKept s t ∧
        (∀ q < r.rows.toNat, ∀ j < r.cols.toNat,
          readN t.pad ((basesOf (mat s) r).b + q * r.strb.l0.toInt.toNat + 4 * j) 4 = accWord (mat s) r.acc ((basesOf (mat s) r).c + q) j) ∧
        (∀ x, (∀ q < r.rows.toNat, x < (basesOf (mat s) r).b + q * r.strb.l0.toInt.toNat ∨
          (basesOf (mat s) r).b + q * r.strb.l0.toInt.toNat + 4 * r.cols.toNat ≤ x) → getB t.pad x = getB (tile s s.cur).pad x)) ∧
    (∀ (s : State) (r : MRec), MatReady s (matFeats r true true []) (matCheck3 s r true true true false) false r → accrdCheck r s = .ok →
      r.fmta ≠ r.fmtb ∨ r.fl.bs = true →
      let b := basesOf (mat s) r
      let n := fmtWidth r.fmtb.toNat / 8
      let str := r.strb.l0.toInt.toNat
      let sc := fun (j : Nat) => b.sa + 4 * j
      (n * r.cols.toNat : Int) ≤ r.strb.l0.toInt →
      (r.fl.bs = true → ∀ q < r.rows.toNat, sc r.cols.toNat ≤ b.b + q * str ∨ b.b + q * str + n * r.cols.toNat ≤ b.sa) →
      let next := fun (x : BitVec 32) =>
        let x := x ^^^ (x <<< 13)
        let x := x ^^^ (x >>> 17)
        x ^^^ (x <<< 5)
      let drawn := fun (q j : Nat) => ((next^[q + 1] (mat s).seed).rotateLeft
        ((if n = 2 then 7 * (j / 2 % 64) + 16 * (j % 2) else 7 * (j % 64)) % 32)).toNat
      let out := fun (q j : Nat) =>
        let w := accWord (mat s) r.acc (b.c + q) j
        let x := if r.fmta.toNat = FP32 then value FP32 w else if r.fmta.toNat = INT32 then Val.ofInt (signed 32 w) else Val.ofInt (fromRNS w)
        let p := if r.fl.bs then valMul x (value FP32 (readN (tile s s.cur).pad (sc j) 4)) else (x, 0)
        let y := convert r.fmtb.toNat (if r.fl.sr then .sr else .rne) (drawn q j) p.1
        (y.1, p.2 ||| y.2)
      InProgress (.accrd r) s r false false fun t f => t.mat.acc = (mat s).acc ∧ PlanesKept s t ∧
        f = (List.range r.rows.toNat).foldl (fun g q => (List.range r.cols.toNat).foldl (fun g j => g ||| (out q j).2) g) 0 ∧
        t.mat.seed = (if r.fl.sr then next^[r.rows.toNat] (mat s).seed else (mat s).seed) ∧
        (∀ q < r.rows.toNat, ∀ j < r.cols.toNat, readN t.pad (b.b + q * str + n * j) n = (out q j).1) ∧
        (∀ x, (∀ q < r.rows.toNat, x < b.b + q * str ∨ b.b + q * str + n * r.cols.toNat ≤ x) → getB t.pad x = getB (tile s s.cur).pad x))) ∧
  (
    ∀ (s : State) (r : MRec),
      let b := basesOf (mat s) r
      let n := fmtWidth r.fmtb.toNat / 8
      let fault := fun (i : Instr) (bit : Nat) => MatFaults i s (some r) 0x02 (BitVec.ofNat 64 (192 + bit / 8))
      let rows := r.rows.toNat = 0 ∨ 128 < r.rows.toNat
      let cols := r.cols.toNat = 0 ∨ 64 < r.cols.toNat
      let base := 128 < b.c + r.rows.toNat
      let fields := fun (i : Instr) => (rows → fault i 44) ∧ (¬rows → cols → fault i 28) ∧ (¬rows → ¬cols → base → fault i 404)
      let start := fun (q : Nat) => (b.b : Int) + q * r.strb.l0.toInt
      let runs := fun (a : Int) => ∃ q < r.rows.toNat, start q ≤ a ∧ a < start q + ((r.cols.toNat * fmtWidth r.fmtb.toNat + 7) / 8 : Nat)
      let skew := fun (a : Int) => 2 ≤ n ∧ ∃ q < r.rows.toNat, a = start q ∧ a % n ≠ 0
      let stride := 2 ≤ n ∧ r.strb.l0.toInt % n ≠ 0
      let pair := (r.fmta.toNat = FP32 ∧ r.fmtb.toNat ∈ [FP32, BF16, FP16]) ∨ (r.fmta.toNat = INT32 ∧ r.fmtb.toNat ∈ [INT32, INT16, INT8]) ∨
        (r.fmta.toNat = RNS30 ∧ r.fmtb.toNat ∈ [RNS30, INT32])
      let raw := r.fmta = r.fmtb ∧ r.fl.bs = false
      (∀ i, i = .mtopk r ∨ i = .mbotk r → MatReady s (matFeats r true false [4]) (matCheck3 s r true true false false) false r →
        fields i ∧ (¬rows → ¬cols → ¬base →
          let k := r.kpass.toNat
          (k = 0 ∨ r.cols.toNat < k → fault i 36) ∧
          (1 ≤ k → k ≤ r.cols.toNat → r.fmta.toNat ≠ FP32 → r.fmta.toNat ≠ INT32 → fault i 492) ∧
          (1 ≤ k → k ≤ r.cols.toNat → r.fmta.toNat = FP32 ∨ r.fmta.toNat = INT32 →
            SpanFaults i s r (fun a => a = b.b ∧ a % 8 ≠ 0) False (fun a => (b.b : Int) ≤ a ∧ a < (b.b + 8 * k * r.rows.toNat : Nat))))) ∧
      (MatReady s [] (matCheck3 s r true false false false) false r → fields (.accz r)) ∧
      (∀ i, i = .accld r ∨ i = .accadd r → MatReady s (matFeats r true true []) (matCheck3 s r true true true false) false r →
        fields i ∧ (¬rows → ¬cols → ¬base → (¬pair → fault i 484) ∧ (pair → SpanFaults i s r skew stride runs))) ∧
      (MatReady s (matFeats r true true []) (matCheck3 s r true true true false) false r →
        fields (.accrd r) ∧ (¬rows → ¬cols → ¬base →
          let kind := r.fmta.toNat ∈ [FP32, INT32, RNS30]
          let format := raw ∨ r.fmtb.toNat ∈ [FP32, BF16, FP16, E4M3, E5M2, INT32, INT16, INT8]
          (¬kind → fault (.accrd r) 492) ∧ (kind → ¬format → fault (.accrd r) 484) ∧
          (kind → format → raw → r.fl.sr = true → fault (.accrd r) 477) ∧
          (kind → format → ¬(raw ∧ r.fl.sr = true) →
            SpanFaults (.accrd r) s r (fun a => skew a ∨ (r.fl.bs = true ∧ a = b.sa ∧ a % 4 ≠ 0)) stride
              (fun a => runs a ∨ (r.fl.bs = true ∧ (b.sa : Int) ≤ a ∧ a < (b.sa + 4 * r.cols.toNat : Nat)))))))

/-! ## Move records -/

/-- R123, R187, R250 to R252: an accepted data record, of whatever form its checks pass, takes the next number, makes its pops, marks its
token register and is in progress. XEND is in progress as the run's last record. XNOP with its pushes' room completes at acceptance: the
timeline reaches its number and its token says done, with a count of 0. XREP does too, and leaves the next record to be repeated.
R252, R254: the record in progress, with nothing left to wait for, completes: its flags are raised, the timeline reaches its number, its
token register holds done, status 0 and its count, a completion record begins with the token and the number, its pushes are made, and
XEND's ends the run; R250: the engine goes on to the next record, or to the same one while repetitions are left. R69: an engine that waits for
room makes its pushes once there is room.
R75, R231, R394: a record of a disabled feature traps with 0x12 and the lowest such feature, one whose token register, map slot or output format
is not there with 0x02 and the field, before its pops; one whose bits break a limit with 0x02, whose pointers are misaligned with 0x05 or outside
the scratchpad with 0x04 and the least such address, whose shape does not translate with 0x06 and its VA, whose shape is not valid with 0x0C and its
pointer, whose elements lie outside the scratchpad with 0x04 and the least such byte, after its pops and with no other effect.
The model's choices: a record makes its reads and writes in the step that accepts it (log entry 9); which of several fields is named, and the
sequence 0 of a record with no number (log entry 23). -/
def Obligations.MoveRecordsAcceptAndComplete : Prop :=
  (
    (∀ (s : State) (r : XRec) (f : XFetch),
      let taken := fun (i : Instr) (k : XKind) (feats : List Nat) (ofmt : Bool) =>
        MovReady s (movFeats r feats) (movCheck3 s r false ofmt) r → (dataChecks k r (popsMade s r)).1 = .ok (some f) →
          Taken i s r (fun _ d => d.last = false)
      taken (.load r) .load [] true ∧ taken (.store r) .store [] false ∧ taken (.copy r) .copy [] false ∧ taken (.fill r) .fill [] false ∧
      taken (.send r) .send [] true ∧ taken (.gather r) .gather [] true ∧ taken (.scatter r) .scatter [] true ∧
      taken (.coll r) .coll [] true ∧ taken (.reds r) .reds [9] true) ∧
    (∀ (s : State) (r : XRec), MovReady s [] (movCheck3 s r false false) r →
      Taken (.xend r) s r (fun t d => d.last = true ∧ d.wait = .nothing ∧ t.transit = s.transit ∧ t.mem = s.mem ∧
        (tile t s.cur).pad = (tile s s.cur).pad)) ∧
    (∀ (s : State) (r : XRec) (q : RunState), MovReady s [] (movCheck3 s r false false) r → (mov s).run = some q → q.stop = false →
      (mov s).rep = none → roomFor (popFrom (tile s s.cur).fifo (movPops r)) (movPushes r) = true →
      let finished := fun (i : Instr) (more : State → Prop) =>
        ∃ t, exec i s = .next t ∧ (mov t).accepted = (mov s).accepted + 1 ∧ (mov t).tl = (mov s).accepted + 1 ∧ (mov t).busy = none ∧
          (mov t).run = some { q with pc := q.pc + 1 } ∧
          (tile t s.cur).fifo = pushInto (popFrom (tile s s.cur).fifo (movPops r)) (movPushes r) ∧
          (r.treg ≠ 0 → rdS (core t s.cur) r.treg = 0x8000000000000000 ∧ tokPending (core t s.cur) r.treg = false) ∧
          (∀ n, n ≠ r.treg.val → rdS (core t s.cur) n = rdS (core s s.cur) n) ∧
          (∀ x, r.fl.crec = false ∨ x < r.crec.toNat ∨ r.crec.toNat + 64 ≤ x → getB (tile t s.cur).pad x = getB (tile s s.cur).pad x) ∧
          t.transit = s.transit ∧ t.mem = s.mem ∧ more t
      finished (.xnop r) (fun t => (mov t).rep = none) ∧
      ((xrepChecks r (popsMade s r)).1 = .ok none →
        finished (.xrep r) (fun t => (mov t).rep = some r ∧ (mov t).xl0 = r.trip.l0.toNat ∧ (mov t).xl1 = r.trip.l1.toNat ∧ (mov t).o0 = 0 ∧
          (mov t).o1 = 0)))) ∧
  (
    (∀ (s : State) (a : Nat) (b0 b : MovDone), (tile s a).mov.busy = some b0 → (tile s a).mov.push = none → (tile s a).mov.parked = none → (tile s a).mov.paused = false →
      movReady s a b0 = some b → b.treg < 64 → roomFor (tile s a).fifo b.push = true →
      let token := 2 ^ 63 + b.bits / 8 % 2 ^ 48
      ∃ t, exec (.moveRecordComplete a) s = .next t ∧ (tile t a).mov.busy = none ∧ (tile t a).mov.tl = BitVec.ofNat 64 b.n ∧
        (tile t a).mov.flags = (tile s a).mov.flags ||| b.flags ∧
        (b.treg ≠ 0 → (rdS (core t a) b.treg).toNat = token ∧ tokPending (core t a) b.treg = false) ∧
        (∀ n, n ≠ b.treg → rdS (core t a) n = rdS (core s a) n) ∧ (core t a).latch = true ∧
        (∀ c fp, b.crec = some (c, fp) → readN (tile t a).pad c 8 = token ∧ readN (tile t a).pad (c + 8) 8 = b.n % 2 ^ 64 ∧
          ∀ i x, i < 6 → fp[i]? = some x → readN (tile t a).pad (c + 16 + 8 * i) 8 = x.toNat) ∧
        (∀ x, (∀ c fp, b.crec = some (c, fp) → x < c ∨ c + 64 ≤ x) → getB (tile t a).pad x = getB (tile s a).pad x) ∧
        (∀ q, (tile s a).mov.run = some q → q.stop = false → (tile t a).fifo = pushInto (tile s a).fifo b.push ∧
          (b.last = true → (tile t a).mov.run = none) ∧
          (b.last = false →
            let m := (tile s a).mov
            let more0 := m.rep ≠ none ∧ m.o0 + 1 < Nat.max m.xl0 1
            let more1 := m.rep ≠ none ∧ ¬more0 ∧ m.o1 + 1 < Nat.max m.xl1 1
            (more0 → (tile t a).mov.run = some q ∧ (tile t a).mov.rep = m.rep ∧ (tile t a).mov.o0 = m.o0 + 1 ∧ (tile t a).mov.o1 = m.o1) ∧
            (more1 → (tile t a).mov.run = some q ∧ (tile t a).mov.rep = m.rep ∧ (tile t a).mov.o0 = 0 ∧ (tile t a).mov.o1 = m.o1 + 1) ∧
            (¬more0 → ¬more1 → (tile t a).mov.run = some { q with pc := q.pc + 1 } ∧ (tile t a).mov.rep = none))) ∧
        OnlyTile a s t) ∧
    (∀ (s : State) (a : Nat) (e : Engine) (p : Push), heldPush (tile s a) e = some p → roomFor (tile s a).fifo p = true →
      ∃ t, exec (.fifoPush a e) s = .next t ∧ (tile t a).fifo = pushInto (tile s a).fifo p ∧ heldPush (tile t a) e = none ∧
        (tile t a).pad = (tile s a).pad ∧ (∀ n, rdS (core t a) n = rdS (core s a) n) ∧ OnlyTile a s t)) ∧
  (∀ (s : State) (i : Instr) (u : MovUse), moveWord i = some u → MovFree s →
    (∀ n, u.Needs n → feature s n = false → (∀ m < n, u.Needs m → feature s m = true) →
      MovFaults i s s u.r false 0x12 (BitVec.ofNat 64 n)) ∧
    ((∀ n, u.Needs n → feature s n = true) →
      let treg := u.r.treg ≠ 0 ∧ (hdr s s.cur).sregs ≤ u.r.treg.val
      let slot := u.slot = true ∧ (hdr s s.cur).maps ≤ u.r.slot.val
      (treg → MovFaults i s s u.r false 0x02 253) ∧
      (¬treg → slot → MovFaults i s s u.r false 0x02 238) ∧
      (¬treg → ¬slot → u.format = true → u.r.fl.cvt = true → fmtWidth (u.r.limit.toNat % 256) = 0 → MovFaults i s s u.r false 0x02 202))) ∧
  (
    let idle := fun (r : XRec) (l : Nat) => ∃ t st, [(r.trip.l0, r.step.l0), (r.trip.l1, r.step.l1), (r.trip.l2, r.step.l2),
      (r.trip.l3, r.step.l3)][l]? = some (t, st) ∧ t.toNat ≤ 1 ∧ st ≠ ⟨0, 0⟩
    let beyond := fun (r : XRec) (n l : Nat) => ∃ t st, [(r.trip.l0, r.step.l0), (r.trip.l1, r.step.l1), (r.trip.l2, r.step.l2),
      (r.trip.l3, r.step.l3)][l]? = some (t, st) ∧ 1 < t.toNat ∧ n ≤ st.dim.val
    let first := fun (p : Nat → Prop) (l : Nat) => p l ∧ ∀ m < l, ¬p m
    (∀ (s : State) (i : Instr) (k : XKind) (r : XRec) (feats : List Nat) (ofmt : Bool), dataWord i = some (k, r, feats, ofmt) →
      MovReady s (movFeats r feats) (movCheck3 s r false ofmt) r →
      let p := popsMade s r
      let bad := fun (c : Nat) (x : Word) => MovFaults i s p r true c x
      let lone := (r.fl.sr = true ∧ r.fl.cvt = false) ∨ (r.fl.fpr = true ∧ r.fl.crec = false)
      let mixed := r.fl.bscl = true ∧ r.fl.cvt = true
      let turned := r.fl.trn = true ∧ permField r ≠ 0
      let scratch := (hdr s s.cur).scratch
      (∀ c x s1, dataChecks k r p = (.error (.at_ c x), s1) → MovFaults i s s1 r true c x) ∧
      (∀ s1, dataChecks k r p = (.error .hold, s1) → exec i s = .next s1) ∧
      (lone → bad 0x02 253) ∧ (¬lone → mixed → bad 0x02 252) ∧ (¬lone → ¬mixed → turned → bad 0x02 253) ∧
      (¬lone → ¬mixed → ¬turned →
        (∀ l, first (idle r) l → bad 0x02 (BitVec.ofNat 64 (220 - 2 * l))) ∧
        ((∀ l, ¬idle r l) →
          (isSeq s.cur = true → k = .load ∨ k = .gather → bad 0x02 255) ∧
          (isSeq s.cur = false ∨ (k ≠ .load ∧ k ≠ .gather) → ofmt = true →
            (if r.fl.cvt then cvtFmt (r.limit.toNat % 256) = false else r.limit.toNat % 256 ≠ 0) → bad 0x02 202) ∧
          (k = .copy → r.limit.toNat % 256 ≠ 0 → bad 0x02 202) ∧
          (k = .store → 2 ^ 56 ≤ r.second.toNat → bad 0x02 213) ∧
          (k = .store → r.second.toNat < 2 ^ 56 → 2 ^ 56 ≤ r.dest.toNat → bad 0x02 237))) ∧
      (bitsBad k p r = none →
        (∀ a, Least (fun x => (x = pointerAddr r.shape ∧ x % 64 ≠ 0) ∨ (x = r.window.toNat ∧ x % 64 ≠ 0) ∨
            (r.fl.crec = true ∧ x = r.crec.toNat ∧ x % 64 ≠ 0) ∨ (k = .copy ∧ x = pointerAddr r.second ∧ x % 64 ≠ 0) ∨
            (listKind k = true ∧ x = pointerAddr r.second ∧ x % 4 ≠ 0)) a → bad 0x05 (BitVec.ofInt 64 a)) ∧
        (pointersAligned k r = none →
          let within := fun (x : Int) (b n : Nat) => (b : Int) ≤ x ∧ x < (b + n : Nat)
          (∀ a, Least (fun x => (scratch : Int) ≤ x ∧ (within x r.window.toNat 128 ∨ (isPad r.shape = true ∧ within x (padPtr r.shape) 256) ∨
              (r.fl.crec = true ∧ within x r.crec.toNat 64) ∨ (k = .copy ∧ isPad r.second = true ∧ within x (padPtr r.second) 256) ∨
              (listKind k = true ∧ isPad r.second = true ∧ within x (padPtr r.second) (4 * entryCount r)))) a → bad 0x04 (BitVec.ofInt 64 a)) ∧
          (pointersInside k scratch r = none → (mov s).rep = none →
            (isPad r.shape = false → ∀ x s1, translate p s.cur true (ctxOf p s.cur) r.shape.toNat false = (x, s1) → (∀ ga e, x ≠ .ok ga e) →
              MovFaults i s s1 r true 0x06 r.shape) ∧
            (∀ w s1, fetchRecords k r p = (.ok w, s1) →
              let f := fetchedOf w
              (listKind k = false → ∀ l, first (beyond r f.sh.ndim) l → MovFaults i s s1 r true 0x02 (BitVec.ofNat 64 (220 - 2 * l))) ∧
              (fetchedBad k s1 r f = none →
                (shapeOk w.sh = false → MovFaults i s s1 r true 0x0C r.shape) ∧
                (invalidBad (mov p) r w f (knownRuns k (mov p) r f) = none → k ≠ .copy → isMX f.sh.fmt = false → bitOf f.sh.base 63 = true →
                  ∀ a, Least (fun x => (x < 0 ∨ (scratch : Int) ≤ x) ∧ ∃ q ∈ allEls (knownRuns k (mov p) r f), inExt f.sh (srcAt q.1 q.2) = true ∧
                    let (o, _, n) := elemOff f.sh (srcAt q.1 q.2)
                    (ptrAddr f.sh.base : Int) + o ≤ x ∧ x < (ptrAddr f.sh.base : Int) + o + n) a →
                    MovFaults i s s1 r true 0x04 (BitVec.ofInt 64 a)))))))) ∧
    (∀ (s : State) (r : XRec), MovReady s [] (movCheck3 s r false false) r →
      let p := popsMade s r
      (∀ l, first (idle r) l → MovFaults (.xrep r) s p r true 0x02 (BitVec.ofNat 64 (220 - 2 * l))) ∧
      ((∀ l, ¬idle r l) → ∀ q, (mov s).run = some q →
        256 ≤ q.pc + 1 ∨ bits (fetchX s s.cur (q.pc + 1)) 511 504 ∈ [0x00, 0x01, 0x02, 0x15, 0x18, 0x19, 0x1A, 0x1B, 0x1C] →
        ∃ x < 64, MovFaults (.xrep r) s p r true 0x02 (BitVec.ofNat 64 (192 + x))) ∧
      (4 < r.limit.toNat → MovFaults (.signal r) s p r true 0x02 202) ∧
      (r.limit.toNat ≤ 4 →
        (r.dest.toNat % 8 ≠ 0 → MovFaults (.signal r) s p r true 0x05 r.dest) ∧
        (r.dest.toNat % 8 = 0 → ∀ x s1, translate p s.cur true (ctxOf p s.cur) r.dest.toNat true = (x, s1) →
          (x = .fail → MovFaults (.signal r) s s1 r true 0x07 r.dest) ∧ (x = .wprot → MovFaults (.signal r) s s1 r true 0x08 r.dest) ∧
          (∀ ga e, x = .ok ga e → eClass e ≠ 2 ∨ (hdr s s.cur).killable = true → MovFaults (.signal r) s s1 r true 0x09 r.dest))) ∧
      (32 < r.limit.toNat → MovFaults (.wellrd r) s p r true 0x02 202) ∧
      (r.limit.toNat ≤ 32 → isSeq s.cur = true → MovFaults (.wellrd r) s p r true 0x02 255) ∧
      (r.limit.toNat ≤ 32 → isSeq s.cur = false →
        let place := isPad r.shape = true ∧ bits r.shape.toNat 62 20 = 0
        let n := 256 * wellCount r s
        (¬place → MovFaults (.wellrd r) s p r true 0x02 244) ∧
        (place → 0 < n → (hdr s s.cur).scratch < padPtr r.shape + n →
          MovFaults (.wellrd r) s p r true 0x04 (BitVec.ofNat 64 (Nat.max (padPtr r.shape) (hdr s s.cur).scratch))))) ∧
    (∀ (s : State) (r : XRec) (i : Instr), MovReady s [] (movCheck3 s r true false) r →
      let bad := fun (c : Nat) (x : Word) => MovFaults i s (popsMade s r) r true c x
      let at_ := padPtr r.shape
      (isSeq s.cur = true → i = .mapclr r ∨ i = .mapready r ∨ i = .mapset r ∨ i = .mapswap r → bad 0x02 255) ∧
      (isSeq s.cur = false → i = .mapset r ∨ i = .mapswap r →
        let place := isPad r.shape = true ∧ bits r.shape.toNat 62 20 = 0
        let map := mapAt (tile s s.cur).pad at_
        let n := 64 + 16 * map.dims.length
        (¬place → bad 0x02 244) ∧ (place → at_ % 64 ≠ 0 → bad 0x05 (BitVec.ofNat 64 at_)) ∧
        (place → at_ % 64 = 0 → (hdr s s.cur).scratch < at_ + 64 → bad 0x04 (BitVec.ofNat 64 (Nat.max at_ (hdr s s.cur).scratch))) ∧
        (place → at_ % 64 = 0 → at_ + 64 ≤ (hdr s s.cur).scratch → (hdr s s.cur).scratch < at_ + n →
          bad 0x04 (BitVec.ofNat 64 (hdr s s.cur).scratch)) ∧
        (place → at_ % 64 = 0 → at_ + n ≤ (hdr s s.cur).scratch → mapOk (hdr s s.cur).scratch (feature s 7) (tile s s.cur).pad at_ = false →
          bad 0x0C r.shape))))

/-- R205 to R207, R235 to R238, R243 to R246, R371: from the scratchpad, each run of the traversal is cut into bursts of at most four payload
flits; LOAD and GATHER send them to the tile itself, SEND and SCATTER each to every tile of the rectangle, COLL to its step's peer in the gang, and
REDS sixteen a block to the switch group, the last of a record or a block with its weight. Each burst carries its elements' bits, MX elements
whole, converted with CVT and rounded once (R236), stochastically with SR from the move generator, which steps once for every 64 elements of a run
(R55), with its blocks' scales under BSCL, its coordinates, contributor and weight. Neither memory nor the scratchpad changes. GATHER's sources,
and SCATTER's destinations, stand in the list. A SYNC SEND's burst is scheduled flit by flit for every tile of the rectangle, with its nominal
cycle (R275).
A record whose first element lies in global memory sends what the tile reads there; one whose address does not translate parks it with 0x06
and the VA at coordinate 0, nothing sent (R256).
The model's choice: a record reads its elements in the step that accepts it (log entry 9). -/
def Obligations.TransfersSendTheirElements : Prop :=
  (∀ (s : State) (r : XRec) (f : XFetch),
    let pad := (tile s s.cur).pad
    let ofmt := if r.fl.cvt then r.limit.toNat % 256 else f.sh.fmt
    let w := fmtWidth ofmt
    let b := mostElems w r.fl.bscl
    let nd := f.sh.ndim
    let runs := traverse r none 0 0 f (List.range nd)
    let permuted := fun (k : XKind) => traverse r none 0 0 f (recPerm k r nd)
    let count := fun (qs : List XRun) => w * (qs.map (·.n)).sum
    let out := fun (qs : List XRun) (l e : Nat) (c : List Int) => outElem s r f.sh.fmt ofmt (allEls qs) l e (padElem pad f.sh c)
    let flags := fun (qs : List XRun) =>
      ((List.range (allEls qs).length).zip (allEls qs)).foldl (fun g p => g ||| (out qs p.1 p.2.2 (srcAt p.2.1 p.2.2)).2) 0
    let scale := fun (c : List Int) => if inExt f.sh c then some (padScale pad f.sh c) else none
    let entry := fun (j : Nat) => (List.range nd).map (fun d => ((readN pad (padPtr r.second + 4 * nd * j + 4 * d) 4 : Nat) : Int))
    let carried := fun (qs : List XRun) (p : Piece) (x : Burst) =>
      Carries r f.sh ofmt p.len (fun e => (out qs (p.pos + e) (p.start + e) (srcAt p.run (p.start + e))).1)
        (fun k => scale (srcAt p.run (p.start + 32 * k))) (coordsOf (dstAt p.run p.start)) x
    let kept := fun (t : State) => t.mem = s.mem ∧ (tile t s.cur).pad = pad
    let dest := destOf r.dest
    let tiles := rect dest.die dest.tile (dest.mw + 1) (dest.mh + 1)
    let toRect := fun (qs : List XRun) (weight contrib : Nat) (t : State) =>
      let ps := cutPieces b qs 0
      ∃ xs, t.transit = s.transit ++ xs ∧ xs.length = ps.length * tiles.length ∧
        ∀ i p, ps[i]? = some p → ∀ (j d : Nat), tiles[j]? = some d → ∃ x, xs[i * tiles.length + j]? = some x ∧
          x.src = s.cur ∧ x.dst = d ∧ carried qs p x.b ∧ x.b.contrib = contrib ∧ x.b.weight = if i + 1 = ps.length then weight else 0
    let toSelf := fun (qs : List XRun) (t : State) =>
      ∃ xs, t.transit = s.transit ++ xs ∧
        List.Forall₂ (fun p (x : Transit) => x.src = s.cur ∧ x.dst = s.cur ∧ x.cls = 0 ∧ carried qs p x.b ∧ x.b.weight = 0) (cutPieces b qs 0) xs
    let sent := fun (qs : List XRun) (wait : MovWait) (t : State) (d : MovDone) => d.wait = wait ∧ d.bits = count qs ∧ d.flags = flags qs ∧ kept t
    let origin := f.org.map (fun n => (n : Int))
    let gathered := (List.range (entryCount r)).flatMap (fun j => boxRuns [] (entry j) (blockOrigin r f origin j) f.ext (List.range nd))
    let scattered := (List.range (entryCount r)).flatMap (fun j => boxRuns [] (blockOrigin r f origin j) (entry j) f.ext (List.range nd))
    let whole := isMX f.sh.fmt = true → ∀ j < entryCount r, (entry j).getD 0 0 % 32 = 0
    let weight := if r.fl.wq then bits r.second.toNat 15 0 else 0
    let contrib := if r.fl.wq then bits r.second.toNat 31 16 else 0
    (PadRecord s .load r f → MovReady s (movFeats r []) (movCheck3 s r false true) r →
      Taken (.load r) s r (fun t d => toSelf (permuted .load) t ∧ sent (permuted .load) .landing t d)) ∧
    (PadRecord s .send r f → MovReady s (movFeats r []) (movCheck3 s r false true) r → dest.here = true → r.fl.sync = false →
      Taken (.send r) s r (fun t d => toRect (permuted .send) weight contrib t ∧ sent (permuted .send) .port t d)) ∧
    (PadRecord s .gather r f → MovReady s (movFeats r []) (movCheck3 s r false true) r → isPad r.second = true → whole →
      (∀ q ∈ gathered, ∀ e < q.n, (inExt f.sh (srcAt q e) = false → f.sh.zfill = true) ∧ (inExt f.sh (srcAt q e) = true →
        let (o, _, n) := elemOff f.sh (srcAt q e)
        0 ≤ (ptrAddr f.sh.base : Int) + o ∧ (ptrAddr f.sh.base : Int) + o + n ≤ (hdr s s.cur).scratch ∧
        (isMX f.sh.fmt = true → 0 ≤ (ptrAddr f.sh.scale : Int) + shapeScale f.sh (srcAt q e) ∧
          (ptrAddr f.sh.scale : Int) + shapeScale f.sh (srcAt q e) < (hdr s s.cur).scratch))) →
      Taken (.gather r) s r (fun t d => toSelf gathered t ∧ sent gathered .landing t d)) ∧
    (PadRecord s .scatter r f → MovReady s (movFeats r []) (movCheck3 s r false true) r → isPad r.second = true → whole →
      dest.here = true → r.fl.sync = false →
      Taken (.scatter r) s r (fun t d => toRect scattered 0 0 t ∧ sent scattered .port t d)) ∧
    (PadRecord s .coll r f → MovReady s (movFeats r []) (movCheck3 s r false true) r → dest.space = 0 →
      Taken (.coll r) s r (fun t d => sent runs .port t d ∧
        ∃ xs, t.transit = s.transit ++ xs ∧
          List.Forall₂ (fun p (x : Transit) =>
            let y := (gang s s.cur).getD (peerOfStep r (gang s s.cur).length p.run.lev) s.cur
            x.src = s.cur ∧ x.dst = 64 * dieOf y + y % 64 ∧ carried runs p x.b ∧ x.b.weight = 0 ∧ x.b.contrib = 0) (cutPieces b runs 0) xs)) ∧
    (PadRecord s .reds r f → MovReady s (movFeats r [9]) (movCheck3 s r false true) r → bitOf r.dest.toNat 63 = true →
      r.fl.bscl = false → r.fl.sync = false →
      Taken (.reds r) s r (fun t d => sent runs .port t d ∧
        let els := allEls runs
        let per := 2048 / w
        let x := r.second.toNat
        ∃ xs, t.transit = s.transit ++ xs ∧ xs.length * per = els.length ∧
          ∀ i < xs.length, ∃ y, xs[i]? = some y ∧ y.src = s.cur ∧ y.dst = 1024 + bits r.dest.toNat 15 0 ∧
            y.b.contrib = bits x 31 16 ∧ y.b.weight = (if r.fl.wq ∧ i % 16 = 15 then bits x 15 0 else 0) ∧
            Carries r f.sh ofmt per
              (fun e => match els[i * per + e]? with | some p => (out runs (i * per + e) p.2 (srcAt p.1 p.2)).1 | none => 0)
              (fun _ => none) [((bits x 55 32 + i / 16) * (32768 / w) + i % 16 * per) % 2 ^ 32, bits x 63 56] y.b)) ∧
    (∀ p st, PadRecord s .send r f → MovReady s (movFeats r []) (movCheck3 s r false true) r → r.fl.sync = true →
      cutPieces b (permuted .send) 0 = [p] → (tile s s.cur).stepOpen = some st → Nat.max (leaveAt s s.cur) st.start < st.start + st.n →
      Taken (.send r) s r (fun t d => sent (permuted .send) .port t d ∧ t.transit = s.transit ∧
        ∃ x, carried (permuted .send) p x ∧ x.contrib = contrib ∧ x.weight = weight ∧ t.sync.length = s.sync.length + x.flits.length ∧
          ∀ k < x.flits.length, ∃ g, t.sync[s.sync.length + k]? = some g ∧ g.src = s.cur ∧ g.b = x ∧ g.flit = k ∧
            g.dsts.map (·.1) = tiles ∧ g.sched = Nat.max (leaveAt s s.cur) st.start + (k + 1) + 8 +
              2 * tiles.foldl (fun m d => Nat.max m (hops (s.cur % 64) (d % 64))) 0))) ∧
  (∀ (s s2 : State) (r : XRec) (f : XFetch) (i : Instr) (k : XKind) (feats : List Nat) (p : XRun × Nat) (rest : List (XRun × Nat)),
    dataWord i = some (k, r, feats, true) → k ≠ .gather → k ≠ .scatter →
    (dataChecks k r (popsMade s r)).1 = .ok (some f) → (mov s).rep = none → MovReady s (movFeats r feats) (movCheck3 s r false true) r →
    allEls (traverse r none 0 0 f (recPerm k r f.sh.ndim)) = p :: rest → inExt f.sh (srcAt p.1 p.2) = true → bitOf f.sh.base 63 = false →
    let s1 := movAccept r (some f) (dataChecks k r (popsMade s r)).2
    let (o, bit, n) := elemOff f.sh (srcAt p.1 p.2)
    let va : Int := f.sh.base + o
    0 ≤ va →
    (∀ x, translate s1 s.cur true (ctxOf s1 s.cur) va.toNat false = (x, s2) → (∀ ga e, x ≠ .ok ga e) →
      Parks i s r 0 0x06 (BitVec.ofInt 64 va) (fun t d => d.bits = 0 ∧ t.transit = s1.transit ∧ t.sync = s1.sync ∧ t.mem = s2.mem ∧
        (tile t s.cur).pad = (tile s s.cur).pad)) ∧
    (∀ ga e, translate s1 s.cur true (ctxOf s1 s.cur) va.toNat false = (.ok ga e, s2) → unroutedAt s2 ga = none → lostAt s2 s.cur ga = false →
      cleanLine (core s2 s.cur) ga e = none ∨ allOwn (core s2 s.cur) ga n = true → va.toNat % 128 + n ≤ 128 → rest = [] →
      isMX f.sh.fmt = false → r.fl.cvt = false → (k = .load ∧ eK e = true) ∨ (k = .coll ∧ (destOf r.dest).space = 0) →
      Taken i s r (fun t d => d.bits = fmtWidth f.sh.fmt ∧ (tile t s.cur).pad = (tile s s.cur).pad ∧
        ∃ x, t.transit = s1.transit ++ [x] ∧ x.src = s.cur ∧
          Carries r f.sh f.sh.fmt 1 (fun _ => viewN s2 s.cur ga n / 2 ^ bit % 2 ^ fmtWidth f.sh.fmt) (fun _ => none) (coordsOf (dstAt p.1 p.2)) x.b)))

/-- R239 to R242, bit by bit, in any element format but MX: in the scratchpad, FILL writes its value to each element inside the extents that
overlaps no other but one at its own place, and to no other bit; COPY writes to each destination element that no other element overlaps the
source element's bits, where sources and destinations lie apart, and to no other bit; STORE writes the tile's own view of memory as its
stores do: of one element, at its address, every other byte of memory standing as the translation left it; of several on PHASE pages, each
element that no other overlaps, MX elements with their blocks' scales where the record names a scale array, with every other byte of the tile
and of memory as before.
R236, R241: any COPY within the scratchpad, converted, of MX blocks, or over its own bytes, writes its elements in traversal order, each one's
source read after every earlier write, or all sources before the first write where TRN or a permutation moves elements between spans that
share a byte; an MX block's scale byte goes with its first element. Neither memory nor any other byte changes.
R253, R256: a STORE, FILL or COPY whose first element goes to global memory writes it there, by its page's class, or parks before it with nothing
written: 0x07 where the address does not translate, 0x08 where the page may not be written, 0x09 against its class, 0x13 beyond a killable task's
unpublished limit; a READDUP page's collapse it awaits (R377). A COPY whose first source element lies in global memory reads what the tile sees
there, or parks with 0x06.
The model's choices: a record makes its reads and writes in the step that accepts it (log entry 9), and what SPECWR counts (log entry 41). -/
def Obligations.WritingRecords : Prop :=
  ∀ (s : State) (r : XRec) (f : XFetch),
    let pad := (tile s s.cur).pad
    let runs := traverse r none 0 0 f (List.range f.sh.ndim)
    let w := fmtWidth f.sh.fmt
    let bitAt := fun (m : Mem) (i : Nat) => (getB m (i / 8)).getLsbD (i % 8)
    let firstBit := fun (sh : Shape) (c : List Int) => 8 * (padPlace sh c).1 + (padPlace sh c).2.1
    let apart := fun (i j : Nat) => i + w ≤ j ∨ j + w ≤ i
    (PlainRecord s .fill r f → MovReady s (movFeats r []) (movCheck3 s r false false) r →
      Taken (.fill r) s r (fun t d => d.wait = .nothing ∧ t.transit = s.transit ∧ t.mem = s.mem ∧
        let els := (allEls runs).filter (fun p => inExt f.sh (srcAt p.1 p.2))
        let at_ := fun (p : XRun × Nat) => firstBit f.sh (srcAt p.1 p.2)
        d.bits = w * els.length ∧
        (∀ p ∈ els, (∀ q ∈ els, at_ q = at_ p ∨ apart (at_ p) (at_ q)) →
          ∀ j < w, bitAt (tile t s.cur).pad (at_ p + j) = r.second.getLsbD j) ∧
        ∀ i, (∀ p ∈ els, i < at_ p ∨ at_ p + w ≤ i) → bitAt (tile t s.cur).pad i = bitAt pad i)) ∧
    (∀ g : Shape, f.dst = some g → bitOf g.base 63 = true →
      PlainRecord s .copy r f → MovReady s (movFeats r []) (movCheck3 s r false false) r →
      let els := allEls (traverse r none 0 0 f (recPerm .copy r f.sh.ndim))
      let src := fun (p : XRun × Nat) => firstBit f.sh (srcAt p.1 p.2)
      let dst := fun (p : XRun × Nat) => firstBit g (dstAt p.1 p.2)
      let written := fun (p : XRun × Nat) => p ∈ els ∧ inExt g (dstAt p.1 p.2) = true
      (∀ p q, p ∈ els → inExt f.sh (srcAt p.1 p.2) = true → written q → apart (src p) (dst q)) →
      Taken (.copy r) s r (fun t d => d.wait = .nothing ∧ t.transit = s.transit ∧ t.mem = (dataChecks .copy r (popsMade s r)).2.mem ∧
        (∀ p, written p → (∀ q, written q → q = p ∨ apart (dst p) (dst q)) →
          ∀ j < w, bitAt (tile t s.cur).pad (dst p + j) = (padElem pad f.sh (srcAt p.1 p.2)).testBit j) ∧
        ∀ i, (∀ p, written p → i < dst p ∨ dst p + w ≤ i) → bitAt (tile t s.cur).pad i = bitAt pad i)) ∧
    (PadRecord s .store r f → r.fl.cvt = false → MovReady s (movFeats r []) (movCheck3 s r false false) r →
      let els := (allEls runs).filter (fun p => inExt f.sh (srcAt p.1 p.2))
      let va := fun (p : XRun × Nat) => r.dest.toNat + (elemOff f.sh (srcAt p.1 p.2)).1
      let bit := fun (p : XRun × Nat) => (elemOff f.sh (srcAt p.1 p.2)).2.1
      let n := fun (p : XRun × Nat) => (elemOff f.sh (srcAt p.1 p.2)).2.2
      (∀ (p : XRun × Nat) (ga e : Nat) (s1 : State), runs = [p.1] → p.1.n = 1 → els = [p] → isDense f.sh.fmt = false →
        0 ≤ va p → (va p).toNat % 128 + n p ≤ 128 →
        translate s s.cur true (ctxOf s s.cur) (va p).toNat true = (.ok ga e, s1) → lostAt s s.cur ga = false → unroutedAt s ga = none →
        (eClass e = 2 → (hdr s s.cur).killable = false ∧ (hdr s s.cur).hcstores = true) →
        (eClass e = 1 → overLimit (core s s.cur) ga = false) →
        Taken (.store r) s r (fun t d => d.wait = .nothing ∧ d.bits = w ∧ (movStopped (mov s) = false → d.writes = 1) ∧
          viewN t s.cur ga (n p) = padElem pad f.sh (srcAt p.1 p.2) ∧ (tile t s.cur).pad = pad ∧
          ∀ x, x < ga ∨ ga + n p ≤ x → getB t.mem x = getB s1.mem x)) ∧
      (∀ g : Nat → Nat,
        let sva := fun (p : XRun × Nat) => (r.second.toNat : Int) + shapeScale f.sh (srcAt p.1 p.2)
        let scaled := fun (p : XRun × Nat) => isMX f.sh.fmt = true ∧ r.second ≠ 0 ∧ (srcAt p.1 p.2).getD 0 0 % 32 = 0
        let onPhase := fun (v : Nat) => lostAt s s.cur (g v) = false ∧ unroutedAt s (g v) = none ∧
          ∃ e, eClass e = 1 ∧ translate s s.cur true (ctxOf s s.cur) v true = (.ok (g v) e, s)
        (∀ p ∈ els, 0 ≤ va p ∧ (∀ j < n p, onPhase ((va p).toNat + j)) ∧ (scaled p → 0 ≤ sva p ∧ onPhase (sva p).toNat)) →
        (linesOf (closeRecord (core s s.cur)).unpub).length + 3 * els.length < 65536 →
        let place := fun (p : XRun × Nat) (j : Nat) => (g ((va p).toNat + (bit p + j) / 8), (bit p + j) % 8)
        let stored := fun (x : Nat) => ∃ p ∈ els, (∃ j < n p, g ((va p).toNat + j) = x) ∨ (scaled p ∧ g (sva p).toNat = x)
        Taken (.store r) s r (fun t d => d.wait = .nothing ∧ d.bits = w * els.length ∧ t.mem = s.mem ∧ (tile t s.cur).pad = pad ∧
          (∀ p ∈ els, (∀ q ∈ els, (q = p ∨ ∀ i < w, ∀ j < w, place p i ≠ place q j) ∧ (scaled q → ∀ j < w, (place p j).1 ≠ g (sva q).toNat)) →
            ∀ j < w, (viewN t s.cur (place p j).1 1).testBit (place p j).2 = (padElem pad f.sh (srcAt p.1 p.2)).testBit j) ∧
          (∀ p ∈ els, scaled p → (∀ q ∈ els, (∀ j < n q, g ((va q).toNat + j) ≠ g (sva p).toNat) ∧
              (scaled q → q = p ∨ g (sva q).toNat ≠ g (sva p).toNat)) →
            viewN t s.cur (g (sva p).toNat) 1 = padScale pad f.sh (srcAt p.1 p.2)) ∧
          ∀ x, ¬stored x → ownByte (core t s.cur) x = ownByte (core s s.cur) x))) ∧
    (∀ g : Shape, f.dst = some g → bitOf g.base 63 = true → (isMX f.sh.fmt = true → bitOf g.scale 63 = true ∧ f.sh.zfill = false) →
      PadRecord s .copy r f → MovReady s (movFeats r []) (movCheck3 s r false false) r →
      let ofmt := if r.fl.cvt then g.fmt else f.sh.fmt
      let els := allEls (traverse r none 0 0 f (recPerm .copy r f.sh.ndim))
      let touches := fun (sh : Shape) (c : XRun × Nat → List Int) (x : Nat) => ∃ p ∈ els, inExt sh (c p) = true ∧
        (padPlace sh (c p)).1 ≤ x ∧ x < (padPlace sh (c p)).1 + (padPlace sh (c p)).2.2
      let spans := fun (sh : Shape) (c : XRun × Nat → List Int) (x : Nat) => ∃ a b, touches sh c a ∧ touches sh c b ∧ a ≤ x ∧ x ≤ b
      let src := fun (p : XRun × Nat) => srcAt p.1 p.2
      let dst := fun (p : XRun × Nat) => dstAt p.1 p.2
      let write := fun (read : Mem → Mem) (m : Mem) (q : Nat × XRun × Nat) =>
        if inExt g (dst q.2) then
          let m1 := putBits m (padPlace g (dst q.2)).1 (padPlace g (dst q.2)).2.1 (fmtWidth ofmt)
            (outElem s r f.sh.fmt ofmt els q.1 q.2.2 (padElem (read m) f.sh (src q.2))).1
          if isMX g.fmt && (dst q.2).getD 0 0 % 32 == 0 then
            putBits m1 ((ptrAddr g.scale : Int) + shapeScale g (dst q.2)).toNat 0 8 (padScale (read m) f.sh (src q.2))
          else m1
        else m
      let all := fun (read : Mem → Mem) => ((List.range els.length).zip els).foldl (write read) pad
      let first := permOf r f.sh.ndim ≠ List.range f.sh.ndim ∧ ∃ x, spans f.sh src x ∧ spans g dst x
      Taken (.copy r) s r (fun t d => d.wait = .nothing ∧ t.transit = s.transit ∧ t.mem = (dataChecks .copy r (popsMade s r)).2.mem ∧
        d.bits = fmtWidth ofmt * (els.filter (fun p => inExt g (dst p))).length ∧
        (first → (tile t s.cur).pad = all (fun _ => pad)) ∧ (¬first → (tile t s.cur).pad = all (fun m => m)))) ∧
    (∀ (s2 : State) (i : Instr) (k : XKind) (p : XRun × Nat) (rest : List (XRun × Nat)) (sh : Shape) (base : Nat) (c : List Int),
      dataWord i = some (k, r, [], false) → (dataChecks k r (popsMade s r)).1 = .ok (some f) → (mov s).rep = none →
      MovReady s (movFeats r []) (movCheck3 s r false false) r →
      allEls (traverse r none 0 0 f (recPerm k r f.sh.ndim)) = p :: rest → inExt f.sh (srcAt p.1 p.2) = true → inExt sh c = true →
      let s1 := movAccept r (some f) (dataChecks k r (popsMade s r)).2
      let (o, bit, n) := elemOff sh c
      let va : Int := base + o
      0 ≤ va →
      let source := bitOf f.sh.base 63 = true ∧ (isMX f.sh.fmt = true → bitOf f.sh.scale 63 = true)
      let unwritten := fun (t : State) (d : MovDone) => d.bits = 0 ∧ t.mem = s2.mem ∧ t.transit = s1.transit ∧ (tile t s.cur).pad = pad ∧
        (core t s.cur).recUnpub = (core s2 s.cur).recUnpub ∧ (core t s.cur).unpub = (core s2 s.cur).unpub ∧
        (core t s.cur).dirty = (core s2 s.cur).dirty
      ((k = .store ∧ source ∧ sh = f.sh ∧ c = srcAt p.1 p.2 ∧ base = r.dest.toNat) ∨
          (k = .fill ∧ bitOf f.sh.base 63 = false ∧ sh = f.sh ∧ c = srcAt p.1 p.2 ∧ base = f.sh.base) ∨
          (k = .copy ∧ source ∧ f.dst = some sh ∧ bitOf sh.base 63 = false ∧ c = dstAt p.1 p.2 ∧ base = sh.base) →
        (∀ x, translate s1 s.cur true (ctxOf s1 s.cur) va.toNat true = (x, s2) →
          let parks := fun (cause : Nat) => Parks i s r 0 cause (BitVec.ofInt 64 va) unwritten
          (x = .fail → parks 0x07) ∧ (x = .wprot → parks 0x08) ∧
          (∀ e, x = .collapse e → Taken i s r (fun t d => d.wait = .collapse va.toNat false ∧ unwritten t d)) ∧
          (∀ ga e, x = .ok ga e →
            (eClass e = 2 → (hdr s s.cur).killable = true ∨ (hdr s s.cur).hcstores = false → parks 0x09) ∧
            (eClass e = 1 → overLimit (core s2 s.cur) ga = true → (hdr s s.cur).killable = true → parks 0x13) ∧
            ((eClass e = 2 → (hdr s s.cur).killable = false ∧ (hdr s s.cur).hcstores = true) → (eClass e = 1 → overLimit (core s2 s.cur) ga = false) →
              rest = [] → isMX f.sh.fmt = false → r.fl.cvt = false → isDense f.sh.fmt = false → va.toNat % 128 + n ≤ 128 →
              lostAt s2 s.cur ga = false → unroutedAt s2 ga = none →
              Taken i s r (fun t d => d.wait = .nothing ∧ d.bits = w ∧ d.writes = 1 ∧ (tile t s.cur).pad = pad ∧
                viewN t s.cur ga n = (if k = .fill then r.second.toNat else padElem pad f.sh (srcAt p.1 p.2)) ∧
                ∀ x, x < ga ∨ ga + n ≤ x → getB t.mem x = getB s2.mem x))))) ∧
      (k = .copy → bitOf f.sh.base 63 = false → f.dst = some sh → bitOf sh.base 63 = true → c = dstAt p.1 p.2 →
        let (o, _, n) := elemOff f.sh (srcAt p.1 p.2)
        let va : Int := f.sh.base + o
        0 ≤ va → ∀ x, translate s1 s.cur true (ctxOf s1 s.cur) va.toNat false = (x, s2) →
          ((∀ ga e, x ≠ .ok ga e) → Parks i s r 0 0x06 (BitVec.ofInt 64 va) unwritten) ∧
          (∀ ga e, x = .ok ga e → unroutedAt s2 ga = none → lostAt s2 s.cur ga = false →
            cleanLine (core s2 s.cur) ga e = none ∨ allOwn (core s2 s.cur) ga n = true → va.toNat % 128 + n ≤ 128 → rest = [] →
            isMX f.sh.fmt = false → isDense f.sh.fmt = false → r.fl.cvt = false →
            Taken i s r (fun t d => d.wait = .nothing ∧ d.bits = w ∧
              (tile t s.cur).pad = putBits pad (padPlace sh c).1 bit w (viewN s2 s.cur ga n)))))

/-- R247: SIGNAL adds its value to the semaphore at its address, and to no other byte of memory; R75, R260: at an address that is
no multiple of 8 it faults before it is accepted, with sequence 0. R248: MAPSET, MAPSWAP and MAPCLR wait with
their change for a flit boundary, MAPSWAP with the shadow already written; MAPREADY waits for its slot's ready flag. R249: WELLRD copies
the oldest stray records to the scratchpad and removes them.
The model's choices: a record acts in the step that accepts it (log entry 9), and a record that faults before it is accepted has sequence
0 (log entry 23). -/
def Obligations.SignalMapAndWellRecords : Prop :=
  (∀ (s : State) (r : XRec) (ga e : Nat) (s1 : State), MovReady s [] (movCheck3 s r false false) r → r.limit.toNat ≤ 4 →
    r.dest.toNat % 8 = 0 → translate s s.cur true (ctxOf s s.cur) r.dest.toNat true = (.ok ga e, s1) → eClass e = 2 →
    (hdr s s.cur).killable = false → lostAt s s.cur ga = false → unroutedAt s ga = none →
    Taken (.signal r) s r (fun t d => d.wait = .nothing ∧ readN t.mem ga 8 = (readN s1.mem ga 8 + r.second.toNat) % 2 ^ 64 ∧
      (tile t s.cur).pad = (tile s s.cur).pad ∧ t.transit = s.transit ∧
      ∀ x, x < ga ∨ ga + 8 ≤ x → getB t.mem x = getB s1.mem x)) ∧
  (∀ (s : State) (r : XRec) (q : RunState), MovReady s [] (movCheck3 s r false false) r → r.limit.toNat ≤ 4 → r.dest.toNat % 8 ≠ 0 →
    (mov s).run = some q → q.e.bank = .none → q.stop = false →
    ∃ t, exec (.signal r) s = .next t ∧ (mov t).accepted = (mov s).accepted ∧ (mov t).busy = none ∧ (mov t).parked = some (0x05, r.treg.val) ∧
      (core t s.cur).async = (core s s.cur).async ++ [⟨0x05, r.dest, BitVec.ofNat 64 (3 * 2 ^ 61 + q.pc % 2 ^ 13 * 2 ^ 48)⟩] ∧
      t.mem = s.mem ∧ t.transit = s.transit) ∧
  (∀ (s : State) (r : XRec),
    let reed := (tile s s.cur).reed
    let map := mapAt (tile s s.cur).pad (r.shape.toNat % 2 ^ 20)
    let still := fun (t : State) => (tile t s.cur).pad = (tile s s.cur).pad ∧ t.transit = s.transit ∧ t.mem = s.mem
    MovReady s [] (movCheck3 s r true false) r →
    ((mapChecks r (popsMade s r)).1 = .ok none →
      Taken (.mapset r) s r (fun t d => d.wait = .boundary ∧ (tile t s.cur).reed = { reed with change := some (.set r.slot map) } ∧ still t) ∧
      Taken (.mapswap r) s r (fun t d => d.wait = .boundary ∧ (tile t s.cur).reed.change = some (.swap r.slot) ∧
        (slotOf t s.cur r.slot).shadow = some map ∧ (slotOf t s.cur r.slot).map = (slotOf s s.cur r.slot).map ∧
        (∀ i, i ≠ r.slot.val → slotOf t s.cur i = slotOf s s.cur i) ∧ still t)) ∧
    (isSeq s.cur = false →
      Taken (.mapclr r) s r (fun t d => d.wait = .boundary ∧ (tile t s.cur).reed = { reed with change := some (.clear r.slot) } ∧ still t) ∧
      Taken (.mapready r) s r (fun t d => d.wait = .mapready r.slot ∧ (tile t s.cur).reed = reed ∧ still t))) ∧
  (∀ (s : State) (r : XRec), MovReady s [] (movCheck3 s r false false) r → (wellChecks r (popsMade s r)).1 = .ok none →
    let held := (tile s s.cur).reed.well
    let n := if r.limit = 0 then held.length else Nat.min r.limit.toNat held.length
    Taken (.wellrd r) s r (fun t d => d.wait = .nothing ∧ d.bits = 8 * (256 * n) ∧ (tile t s.cur).reed.well = held.drop n ∧
      (∀ i < n, readN (tile t s.cur).pad (padPtr r.shape + 256 * i) 256 = held.getD i 0 % 2 ^ 2048) ∧
      (∀ x, x < padPtr r.shape ∨ padPtr r.shape + 256 * n ≤ x → getB (tile t s.cur).pad x = getB (tile s s.cur).pad x) ∧
      t.transit = s.transit ∧ t.mem = s.mem))

/-! ## The Reedbed -/

/-- R11, R13, R14, R213: a data burst whose header may have arrived is taken by a free port: three cycles on (four with an extension flit)
its first payload flit may be written, and the burst has the port's next number. It is taken behind a burst whose flits have all arrived as
well, and then waits for that one. R207: a malformed one is lost instead, its elements counted. R218, R226: none is taken while a scheduled CODE
flit whose turn has come waits for a busy engine. A burst that an earlier one of its sender and receiver, of its dies or of its device's
agent and class precedes does not arrive, nor does one whose path has failed or retrains (R388, R389), nor one of a device's agent and
class while another tile's port still holds such a burst, but for a copy of the same one (R369). R393: one that its sender sent before a
reset of its die is dropped and counted, where it has not left that die.
R220: a ready push that waited is made once there is room.
R213, R221, R225, R248: at a flit boundary, with no flit held for a busy engine, the waiting change is made and its record may complete.
MAPSET installs the map, with the counter at 0 and ready clear; MAPCLR leaves the slot without one; MAPSWAP makes the shadow the map, and
its record's count is the counter it replaced. A policy that is not KEEP becomes the Reedbed's. The other slots, the well and the scratchpad stay. -/
def Obligations.HeadersReadyPushesAndMapChanges : Prop :=
  let blocked := fun (s : State) (a : Nat) => ∃ k f c, s.sync[k]? = some f ∧ (a, c) ∈ f.dsts ∧ c ≤ s.now ∧ syncBefore s k (a, c) = false ∧
    codeHeld s a f.ctx f.b f.flit = true
  (
    (∀ (s : State) (a k i : Nat) (x : Transit), transitTo a s.transit k 0 = some (i, x) → x.due ≤ s.now →
      (overtakes s.transit i x = false → portHolds s a x = false → reaches s x.src a = true → ¬blocked s a →
        stale s x.src x.inc a 0 = false → x.b.kind = 0 → malformed x.b = false →
        let taken := fun (t : State) (p : Port) => exec (.headerFlitArrives a k) s = .next t ∧ p.t = x ∧ p.flit = 0 ∧ p.held = false ∧
          p.no = (tile s a).reed.heads + 1 ∧ (tile t a).reed.heads = (tile s a).reed.heads + 1 ∧
          p.at_ = s.now + 1 + (if x.b.ext then 1 else 0) ∧ p.due = s.now + 3 + (if x.b.ext then 1 else 0) ∧
          t.transit = s.transit.eraseIdx i ∧
          (tile t a).reed.slots = (tile s a).reed.slots ∧ (tile t a).pad = (tile s a).pad ∧ t.mem = s.mem
        ((tile s a).reed.port = none → ∃ t p, taken t p ∧ (tile t a).reed.port = some p) ∧
        (∀ q, (tile s a).reed.port = some q → (tile s a).reed.portNext = none → q.held = false → q.upto ≤ s.now →
          ∃ t p, taken t p ∧ (tile t a).reed.port = some q ∧ (tile t a).reed.portNext = some p)) ∧
      (∀ j y, j < i → s.transit[j]? = some y → y.cls = x.cls →
        ((y.src = x.src ∧ (y.dst = x.dst ∨ (65536 ≤ x.src ∧ y.num ≠ x.num))) ∨
          (endDie x.src ≠ endDie x.dst ∧ endDie y.src = endDie x.src ∧ endDie y.dst = endDie x.dst)) →
        exec (.headerFlitArrives a k) s = .next s) ∧
      (reaches s x.src a = false ∨ portHolds s a x = true ∨ blocked s a → exec (.headerFlitArrives a k) s = .next s) ∧
      (overtakes s.transit i x = false → portHolds s a x = false → reaches s x.src a = true → ¬blocked s a → (tile s a).reed.port = none →
        stale s x.src x.inc a x.b.kind = false → malformed x.b = true → x.co = none → runsCtx s a x.ctx = true →
        ∃ t, exec (.headerFlitArrives a k) s = .next t ∧ t.transit = s.transit.eraseIdx i ∧ t.mem = s.mem ∧ (tile t a).pad = (tile s a).pad ∧
          (tile t a).reed.slots = (tile s a).reed.slots ∧ (tile t a).reed.port = none ∧
          (tile t a).reed.lost = Nat.min ((tile s a).reed.lost + Nat.min x.b.runlen 512) (2 ^ 48 - 1)) ∧
      (overtakes s.transit i x = false → portHolds s a x = false → reaches s x.src a = true → ¬blocked s a → (tile s a).reed.port = none →
        x.src < 277 → x.inc ≠ (die s (dieOf x.src)).incarn → endDie x.src = endDie a →
        ∃ t, exec (.headerFlitArrives a k) s = .next t ∧ t.transit = s.transit.eraseIdx i ∧ t.tiles = s.tiles ∧
          counter t (dieOf a) 0x09 = Nat.min (counter s (dieOf a) 0x09 + 1) (2 ^ 48 - 1))) ∧
    (∀ (s : State) (a i : Nat) (sl : Slot) (m : MapRec), lookup (tile s a).reed.slots i = some sl → sl.map = some m → sl.push = true →
      roomFor (tile s a).fifo (readyTokens m) = true →
      ∃ t, exec (.readyPush a i) s = .next t ∧ (tile t a).fifo.xm = (tile s a).fifo.xm + (if bitOf m.rtgt 0 then 1 else 0) ∧
        (tile t a).fifo.xv = (tile s a).fifo.xv + (if bitOf m.rtgt 1 then 1 else 0) ∧ (slotOf t a i).push = false ∧
        (slotOf t a i).count = sl.count ∧ (tile t a).pad = (tile s a).pad ∧ (core t a) = (core s a) ∧ OnlyTile a s t)) ∧
  (
    (∀ (s : State) (a : Nat), blocked s a ∨ (∃ p, (tile s a).reed.port = some p ∧ p.held = true) → exec (.mapChangeAtBoundary a) s = .next s) ∧
    ∀ (s : State) (a : Nat), ¬blocked s a → (∀ p, (tile s a).reed.port = some p → p.held = false) →
      let changed := fun (slot : Nat) (m shadow : Option MapRec) (bits : Nat → Nat) =>
        ∃ t, exec (.mapChangeAtBoundary a) s = .next t ∧ slotOf t a slot = ⟨m, shadow, 0, false, 0, false, false, false⟩ ∧
          (∀ i, i ≠ slot → slotOf t a i = slotOf s a i) ∧ (tile t a).reed.change = none ∧
          (tile t a).reed.policy = (match m with
            | some m => if m.policy = 0 then (tile s a).reed.policy else m.policy
            | none => (tile s a).reed.policy) ∧
          (tile t a).reed.well = (tile s a).reed.well ∧ (tile t a).pad = (tile s a).pad ∧
          (∀ b, (tile s a).mov.busy = some b → b.wait = .boundary →
            (tile t a).mov.busy = some { b with wait := .nothing, bits := bits b.bits }) ∧
          (core t a) = (core s a) ∧ (∀ b, b ≠ a → tile t b = tile s b) ∧ t.mem = s.mem ∧ t.transit = s.transit
      (∀ i m, (tile s a).reed.change = some (.set i m) → changed i (some m) (slotOf s a i).shadow id) ∧
      (∀ i, (tile s a).reed.change = some (.clear i) → changed i none (slotOf s a i).shadow id) ∧
      (∀ i sl, (tile s a).reed.change = some (.swap i) → lookup (tile s a).reed.slots i = some sl →
        changed i sl.shadow none (fun _ => 8 * sl.count)))

/-- R213 to R215, R219, R221, R222, R224: a payload flit lands at a free port on a cycle on which the port has taken no other. For each of
its elements the maps of the burst's tensor, dimensions and SYNC whose box holds it are the candidates; those of a compatible format
receive it, the lowest EXCL one alone where there is one; a candidate of another format makes trap 0x15, and an element that only such have
is lost. A slot that receives counts (the weight once for a QUORUM map, bytes with CUNIT, elements else), no other slot changes, and the
slots that have counted a burst are noted by its number until its last flit. An element without a candidate strays: under DISCARD and FAULT
it is lost, with trap 0x0A under FAULT; under WELL the flit makes one stray record, or is lost from a full well, and OVF is set.
R211, R216 to R218: where one map receives the flit whole: PLACE writes each element's bits at their place and changes no other bit, a DATA
element at an ATOMIC map too; ACCUM.FX adds to the 64-bit element, ACCUM.FP rounds the sum, each with the overflow flag where it sets it;
COUNT stores nothing; an ATOMIC element does its operation, and the issuer has the old value; a CODE flit writes its bank.
The port goes on to the next flit a cycle later, or after the last to the burst that waits behind, or is free. A flit held for a busy
engine lands when it is released. R226: a scheduled flit lands so at a receiver whose cycle has come and where none stands before it; a late
one counts in SSLATE, one of a task that does not run there nowhere. R207: one of a malformed burst lands nowhere. R219, R220: on the next
cycle the slot that has reached expect is ready, with its count, its tokens are pushed or wait in the slot, and the event latch is set.
R393: a burst whose sender's die has been reset meanwhile, and has not left it, goes on no longer.
The model's choice: of several elements of a flit that trap, the first in element order names the cause and the slot (log entry 26). -/
def Obligations.PayloadFlitsLand : Prop :=
  let offset := fun (m : MapRec) (e : Elem) =>
    let o := landBase m + ((m.dims.zip e.cs).map (fun p => (p.2 - p.1.lo) / 2 ^ p.1.logb * p.1.S + (p.2 - p.1.lo) % 2 ^ p.1.logb * p.1.s)).sum
    let lo := match m.dims[m.sdim]? with | some d => d.lo | none => 0
    if m.swz then Nat.xor o (64 * ((e.cs.getD m.sdim 0 - lo) / 2 ^ m.sshift % 32)) else o
  let bitOff := fun (m : MapRec) (e : Elem) =>
    8 * offset m e + (if isDense m.fmt then (e.cs.getD 0 0 - (match m.dims[0]? with | some d => d.lo | none => 0)) * fmtWidth m.fmt else 0)
  let apart := fun (m : MapRec) (n : Nat) (es : List Elem) =>
    es.Pairwise (fun e f => bitOff m e + n ≤ bitOff m f ∨ bitOff m f + n ≤ bitOff m e)
  let bitAt := fun (m : Mem) (i : Nat) => (getB m (i / 8)).getLsbD (i % 8)
  let counts := fun (t : State) (a slot : Nat) (b : Burst) (again : Bool) (n : Nat) (sl : Slot) (m : MapRec) =>
    let add := if m.quorum then (if again then 0 else b.weight) else if m.cunit then n * fmtWidth b.fmt / 8 else n
    let c := Nat.min (sl.count + add) (2 ^ 48 - 1)
    (slotOf t a slot).count = c ∧ (slotOf t a slot).ready = sl.ready ∧
      (slotOf t a slot).rising = (sl.rising || (m.expect != 0 && decide (m.expect ≤ c) && !sl.ready))
  -- what becomes of a flit at the Reedbed, whatever its maps
  let resolved := fun (s t : State) (a : Nat) (b : Burst) (k cycle no : Nat) =>
    let r := (tile s a).reed
    let counted := countedOf r no
    let u := (tile t a).reed
    let es := flitElems b k
    let C := fun (e : Elem) => (candidates r b).filter (fun c => inBox c.2.dims e.cs)
    let M := fun (e : Elem) => (C e).filter (fun c => compat c.2.mode c.2.fmt b.fmt)
    let X := fun (e : Elem) => (C e).filter (fun c => !compat c.2.mode c.2.fmt b.fmt)
    let receivers := fun (e : Elem) => match (M e).find? (fun c => c.2.excl) with | some c => [c] | none => M e
    let strays := es.filter (fun e => (C e).isEmpty)
    let wrong := es.filter (fun e => (M e).isEmpty && !(X e).isEmpty)
    let info := b.tensor * 2 ^ 32 + b.fmt * 2 ^ 24
    let trap := es.findSome? (fun e => match X e with
      | c :: _ => some (0x15, info + c.1 * 2 ^ 19)
      | [] => if (C e).isEmpty && r.policy == 3 then some (0x0A, info) else none)
    let first := k * (512 / fmtWidth b.fmt)
    let record := headerNum b (b.coords.getD 0 0 + first) es.length + extNum b * 2 ^ 512 + b.flits.getD k 0 * 2 ^ 1024 +
      (strays.map (fun e => 2 ^ (e.j - first))).sum * 2 ^ 1536 + (cycle - (die s (dieOf a)).base) % 2 ^ 64 * 2 ^ 1664
    (∀ i sl m, lookup r.slots i = some sl → sl.map = some m →
      let got := es.filter (fun e => (receivers e).any (fun c => c.1 == i))
      (got = [] → slotOf t a i = sl) ∧ (got ≠ [] → counts t a i b (counted.contains i) got.length sl m)) ∧
    (if b.flits.length ≤ k + 1 then countedOf u no = []
      else ∀ i, i ∈ countedOf u no ↔ i ∈ counted ∨ ∃ e ∈ es, ∃ c ∈ receivers e, c.1 = i) ∧
    u.lost = Nat.min (r.lost + wrong.length + (if r.policy = 2 ∧ r.well.length < 32 then 0 else strays.length)) (2 ^ 48 - 1) ∧
    (strays = [] ∨ r.policy ≠ 2 ∨ 32 ≤ r.well.length → u.well = r.well) ∧
    (strays ≠ [] → r.policy = 2 → 32 ≤ r.well.length → u.wellOvf = true) ∧
    (strays ≠ [] → r.policy = 2 → r.well.length < 32 → b.poison.contains k = false → u.well = r.well ++ [record]) ∧
    (trap = none ∨ (core s a).landTrap = true → (core t a).async = (core s a).async) ∧
    (∀ c x, trap = some (c, x) → (core s a).landTrap = false → (core t a).landTrap = true ∧
      (core t a).async = (core s a).async ++ [⟨c, BitVec.ofNat 64 x, BitVec.ofNat 64 (2 ^ 63)⟩])
  -- the flit goes whole to one map
  let receives := fun (s : State) (a ctx : Nat) (b : Burst) (k slot : Nat) (sl : Slot) (m : MapRec) =>
    runsCtx s a ctx = true ∧ b.bscl = false ∧ candidates (tile s a).reed b = [(slot, m)] ∧
      lookup (tile s a).reed.slots slot = some sl ∧ compat m.mode m.fmt b.fmt = true ∧
      flitElems b k ≠ [] ∧ ∀ e ∈ flitElems b k, inBox m.dims e.cs = true
  let placed := fun (s t : State) (a : Nat) (m : MapRec) (es : List Elem) =>
    let w := fmtWidth m.fmt
    apart m w es →
    (∀ e ∈ es, ∀ j < w, bitAt (tile t a).pad (bitOff m e + j) = e.x.testBit j) ∧
    (∀ i, (∀ e ∈ es, i < bitOff m e ∨ bitOff m e + w ≤ i) → bitAt (tile t a).pad i = bitAt (tile s a).pad i)
  -- every element's location of n bytes takes f of what it held, and the overflow flag
  let updated := fun (s t : State) (a slot : Nat) (sl : Slot) (m : MapRec) (es : List Elem) (n : Nat) (f : Elem → Nat → Nat × Bool) =>
    isDense m.fmt = false → apart m (8 * n) es →
    let old := fun (e : Elem) => readN (tile s a).pad (offset m e) n
    (∀ e ∈ es, readN (tile t a).pad (offset m e) n = (f e (old e)).1 % 256 ^ n) ∧
    (∀ x, (∀ e ∈ es, x < offset m e ∨ offset m e + n ≤ x) → getB (tile t a).pad x = getB (tile s a).pad x) ∧
    (slotOf t a slot).ovf = (sl.ovf || es.any (fun e => (f e (old e)).2))
  let overflows := fun (g : Flags) => (g &&& (OF ||| NV)) != 0
  let stored := fun (s t : State) (a slot : Nat) (sl : Slot) (m : MapRec) (b : Burst) (es : List Elem) =>
    (m.mode = 0 ∨ (m.mode = 3 ∧ b.kind = 0) → placed s t a m es) ∧
    (m.mode = 1 → updated s t a slot sl m es 8 (fun e y =>
      if b.fmt = FIX64 then (y + e.x, false) else (y + (enterFIX64 (value b.fmt e.x) m.anchor).1, (enterFIX64 (value b.fmt e.x) m.anchor).2))) ∧
    (m.mode = 2 → updated s t a slot sl m es (fmtWidth m.fmt / 8) (fun e y =>
      let z := valAdd (value m.fmt y) (value b.fmt e.x)
      ((convert m.fmt .rne 0 z.1).1, overflows (z.2 ||| (convert m.fmt .rne 0 z.1).2)))) ∧
    (m.mode = 5 → (tile t a).pad = (tile s a).pad)
  let passes := fun (s t : State) (a : Nat) (p : Port) =>
    (if p.flit + 1 < p.t.b.flits.length then
      ∃ q, (tile t a).reed.port = some q ∧ q.t = p.t ∧ q.flit = p.flit + 1 ∧ q.due = s.now + 1 ∧ q.held = false ∧ q.no = p.no
     else (tile t a).reed.port = (tile s a).reed.portNext.map (fun q => { q with due := Nat.max q.due (s.now + 1) })) ∧
    (tile t a).reed.taken = s.now + 1
  let free := fun (s : State) (a : Nat) => (tile s a).reed.taken ≤ s.now
  let inOrder := fun (s : State) (a : Nat) => ((tile s a).reed.slots.map (·.1)).Pairwise (· < ·)
  let turn := fun (s : State) (a : Nat) (p : Port) => p.held = false ∧ p.due ≤ s.now ∧ free s a ∧ syncDueAt s a = false
  let released := fun (s : State) (a : Nat) (p : Port) => p.held = true ∧ p.due ≤ s.now ∧ free s a
  -- the event that lands the port's flit
  let lands := fun (s : State) (a : Nat) (p : Port) (i : Instr) =>
    (i = .payloadFlitLands a ∧ turn s a p) ∨ (i = .codeLandingRelease a ∧ released s a p)
  let scheduled := fun (s : State) (a k : Nat) (f : SyncFlit) (c : Nat) =>
    s.sync[k]? = some f ∧ f.dsts = [(a, c)] ∧ c ≤ s.now ∧ free s a ∧ syncBefore s k (a, c) = false ∧ codeHeld s a f.ctx f.b f.flit = false ∧
      f.inc = (die s (dieOf f.src)).incarn
  (∀ (s : State) (a : Nat) (p : Port) (i : Instr), (tile s a).reed.port = some p → lands s a p i → inOrder s a →
    runsCtx s a p.t.ctx = true → codeHeld s a p.t.ctx p.t.b p.flit = false → stale s p.t.src p.t.inc a p.t.b.kind = false →
    ∃ t, exec i s = .next t ∧ resolved s t a p.t.b p.flit p.at_ p.no ∧ passes s t a p ∧ (p.t.co = none → OnlyTile a s t)) ∧
  (∀ (s : State) (a : Nat) (i : Instr), i = .payloadFlitLands a ∨ i = .codeLandingRelease a → s.now < (tile s a).reed.taken →
    exec i s = .next s) ∧
  (∀ (s : State) (a slot : Nat) (sl : Slot) (m : MapRec) (p : Port) (i : Instr), (tile s a).reed.port = some p → lands s a p i → inOrder s a →
    p.t.co = none → stale s p.t.src p.t.inc a p.t.b.kind = false → receives s a p.t.ctx p.t.b p.flit slot sl m → m.mode ≠ 4 →
    ∃ t, exec i s = .next t ∧ stored s t a slot sl m p.t.b (flitElems p.t.b p.flit)) ∧
  (∀ (s : State) (a slot : Nat) (sl : Slot) (m : MapRec) (p : Port) (i : Instr), (tile s a).reed.port = some p → lands s a p i → inOrder s a →
    p.t.co = none → stale s p.t.src p.t.inc a p.t.b.kind = false → receives s a p.t.ctx p.t.b p.flit slot sl m → m.mode = 4 →
    isDense m.fmt = false → apart m 8 (flitElems p.t.b p.flit) → codeStandby m = false → codeEngine m = 1 →
    enginesIdle (tile s a) ⟨false, false, true⟩ = true →
    ∃ t, exec i s = .next t ∧ (tile t a).pad = (tile s a).pad ∧ (tile t a).banks.actV = (tile s a).banks.actV ∧
      let bank := fun (k : Banks) => if k.actV then k.vB else k.vA
      (∀ e ∈ flitElems p.t.b p.flit, getB (bank (tile t a).banks) (offset m e) = BitVec.ofNat 8 e.x) ∧
      ∀ x, (∀ e ∈ flitElems p.t.b p.flit, x ≠ offset m e) → getB (bank (tile t a).banks) x = getB (bank (tile s a).banks) x) ∧
  (∀ (s : State) (a slot id : Nat) (sl : Slot) (m : MapRec) (p : Port) (i : Instr) (f : Nat) (e : Elem) (op : AOp),
    (tile s a).reed.port = some p → lands s a p i → inOrder s a → p.t.co = some id → p.t.inc = (die s (dieOf p.t.src)).incarn →
    p.flit = 0 → p.t.b.kind = 1 → p.t.b.flits = [f] → flitElems p.t.b 0 = [e] → receives s a p.t.ctx p.t.b 0 slot sl m → m.mode = 3 →
    (m.fmt = FP32 ∨ m.fmt = INT32 ∨ m.fmt = FIX64) → (tile s a).padPoison = [] →
    ([.add, .and, .or, .xor, .min, .max, .minu, .maxu, .swap, .cas] : List AOp)[f / 2 ^ 128 % 16]? = some op →
    let w := fmtWidth m.fmt
    let v := f % 2 ^ 64 % 2 ^ w
    let c := f / 2 ^ 64 % 2 ^ 64 % 2 ^ w
    let old := readN (tile s a).pad (offset m e) (w / 8)
    let z := valAdd (value FP32 old) (value FP32 v)
    let nan := (value FP32 old).isNan || (value FP32 v).isNan
    let new := if m.fmt = FP32 then (match op with
        | .add => (toFP32 z.1).1
        | .min => if nan then 0x7FC00000 else if before (value FP32 old) (value FP32 v) then old else v
        | .max => if nan then 0x7FC00000 else if before (value FP32 old) (value FP32 v) then v else old
        | o => aopResult o 32 old v c)
      else aopResult op w old v c
    ∃ t, exec i s = .next t ∧
      updated s t a slot sl m [e] (w / 8) (fun _ _ => (new, decide (m.fmt = FP32 ∧ op = .add) && overflows (z.2 ||| (toFP32 z.1).2))) ∧
      ∀ q ∈ (core t p.t.src).co, q.id = id → q.ans = some (some (BitVec.ofNat 64 old))) ∧
  (∀ (s : State) (a : Nat) (p : Port), (tile s a).reed.port = some p → turn s a p →
    codeHeld s a p.t.ctx p.t.b p.flit = false → p.t.src < 277 → p.t.inc ≠ (die s (dieOf p.t.src)).incarn → endDie p.t.src = endDie a →
    ∃ t, exec (.payloadFlitLands a) s = .next t ∧ (tile t a).pad = (tile s a).pad ∧ (tile t a).reed.slots = (tile s a).reed.slots ∧
      (tile t a).reed.port = (tile s a).reed.portNext.map (fun q => { q with due := Nat.max q.due (s.now + 1) }) ∧
      counter t (dieOf a) 0x09 = Nat.min (counter s (dieOf a) 0x09 + 1) (2 ^ 48 - 1)) ∧
  (∀ (s : State) (a k : Nat) (f : SyncFlit) (c : Nat), scheduled s a k f c → malformed f.b = false → inOrder s a → runsCtx s a f.ctx = true →
    ∃ t, exec (.syncLanding k) s = .next t ∧
      resolved s t a f.b f.flit (f.leave + 6 + 2 * hops (f.src % 64) (a % 64)) (syncNo f) ∧
      (∀ slot sl m, receives s a f.ctx f.b f.flit slot sl m → m.mode ≠ 4 → stored s t a slot sl m f.b (flitElems f.b f.flit)) ∧
      t.sync.length + 1 = s.sync.length ∧ (tile t a).reed.taken = s.now + 1 ∧ (tile t a).reed.port = (tile s a).reed.port ∧
      (tile t a).reed.sslate.toNat =
        (if f.sched < s.now then Nat.min ((tile s a).reed.sslate.toNat + 1) (2 ^ 32 - 1) else (tile s a).reed.sslate.toNat) ∧
      (∀ b, b ≠ a → tile t b = tile s b) ∧ t.mem = s.mem) ∧
  (∀ (s : State) (a k : Nat) (f : SyncFlit) (c : Nat), scheduled s a k f c → malformed f.b = false → runsCtx s a f.ctx = false →
    ∃ t, exec (.syncLanding k) s = .next t ∧ (tile t a).pad = (tile s a).pad ∧ (tile t a).reed.slots = (tile s a).reed.slots ∧
      (tile t a).reed.sslate = (tile s a).reed.sslate ∧ (tile t a).reed.taken = s.now + 1 ∧ t.sync.length + 1 = s.sync.length) ∧
  (∀ (s : State) (a k : Nat) (f : SyncFlit) (c : Nat), scheduled s a k f c → malformed f.b = true → runsCtx s a f.ctx = true → f.flit = 0 →
    ∃ t, exec (.syncLanding k) s = .next t ∧ (tile t a).pad = (tile s a).pad ∧ (tile t a).reed.slots = (tile s a).reed.slots ∧
      (tile t a).reed.lost = Nat.min ((tile s a).reed.lost + Nat.min f.b.runlen 512) (2 ^ 48 - 1)) ∧
  (∀ (s : State) (a k : Nat) (f : SyncFlit) (c : Nat), s.sync[k]? = some f → f.dsts = [(a, c)] →
    s.now < c ∨ s.now < (tile s a).reed.taken ∨ syncBefore s k (a, c) = true ∨ codeHeld s a f.ctx f.b f.flit = true →
    ∃ t, exec (.syncLanding k) s = .next t ∧ t.tiles = s.tiles ∧ t.mem = s.mem ∧ t.sync.length = s.sync.length) ∧
  (∀ (s : State) (a n i : Nat) (ts : List Turn) (sl : Slot) (m : MapRec), syncNow s = none → s.agenda = .pass n :: ts → nextDue s = none → 0 < n →
    inOrder s a → lookup (tile s a).reed.slots i = some sl → sl.map = some m → sl.rising = true →
    ∃ t, step s = .next t ∧ t.now = s.now + n ∧ (slotOf t a i).ready = true ∧ (slotOf t a i).readyCount = sl.count ∧
      (slotOf t a i).count = sl.count ∧ (slotOf t a i).rising = false ∧ (core t a).latch = true ∧ (tile t a).pad = (tile s a).pad ∧ t.mem = s.mem ∧
      ((∀ j, j ≠ i → (slotOf s a j).rising = false) →
        let p := readyTokens m
        if roomFor (tile s a).fifo p = true then (tile t a).fifo = pushInto (tile s a).fifo p ∧ (slotOf t a i).push = false
        else (tile t a).fifo = (tile s a).fifo ∧ (slotOf t a i).push = true))

/-! ## The memory system -/

/-- R314: after four accesses in a row from one tile of its home die, three hops away or more, a line moves to that tile's slice; no byte
changes. R317, R319: at the end of an epoch a written REPLCTL is in force, but for its EPOCH field; each region homed on the die takes the
degree its counters give under RAISE and LOWER (none in mode OFF, three in mode MAX); its replica dies are then that many of the other
compute dies, those that have read it most, of equal ones the lower numbered, with a die whose accesses carry RDEG MAX (R316); no other
die keeps a replica of its lines; and its counters halve; no byte changes.
The model's choice: how long RDEG MAX keeps a die there (log entry 37). -/
def Obligations.MigrationAndReplication : Prop :=
  (∀ (s : State) (line a n : Nat), lookup s.access line = some (a, n) → 4 ≤ n → a < 256 → dieOf a = homeDie (128 * line) →
    3 ≤ hops (sliceOf s line) (a % 64) →
    ∃ t, exec (.lineMigration line a) s = .next t ∧ sliceOf t line = a % 64 ∧ t.mem = s.mem ∧ t.tiles = s.tiles ∧ t.dies = s.dies ∧
      t.replicas = s.replicas) ∧
  (∀ (s : State) (d : Nat), let lg := bits (die s d).replctl.toNat 52 48
    (die s d).epochAt + 2 ^ lg ≤ s.now → (s.regions.map (·.1)).Pairwise (· < ·) →
    ∃ t, exec (.replicationEpochEnd d) s = .next t ∧ (die t d).epochAt = s.now ∧ (die t d).replNext = none ∧ t.mem = s.mem ∧
      t.tiles = s.tiles ∧
      ((die s d).replNext = none → (die t d).replctl = (die s d).replctl) ∧
      (∀ w, (die s d).replNext = some w → bits (die t d).replctl.toNat 52 48 = lg ∧
        (die t d).replctl.toNat % 2 ^ 48 = w.toNat % 2 ^ 48 ∧ (die t d).replctl.toNat / 2 ^ 53 = w.toNat / 2 ^ 53) ∧
      ∀ i r, lookup s.regions i = some r → homeDie (2 ^ 21 * i) = d →
        let w := (die t d).replctl.toNat
        let mode := if feature s 10 then bits w 63 62 else 1
        let raise := bits w 47 40
        let lower := bits w 39 32
        let reads := (r.reads.map (·.2)).sum
        ∃ q, lookup t.regions i = some q ∧ q.writes = r.writes / 2 ∧ q.colls = r.colls / 2 ∧ q.max = r.max ∧
          (let reads := fun (e : Nat) => getAt 0 r.reads e
           ∃ top : List Nat, top.Nodup ∧ top.length = Nat.min q.deg 3 ∧ (∀ m ∈ top, m < 4 ∧ m ≠ d) ∧
            (∀ m ∈ top, ∀ e < 4, e ≠ d → e ∉ top → reads e < reads m ∨ (reads e = reads m ∧ m < e)) ∧
            ∀ e < 4, bitOf q.dies e = (top.contains e || bitOf r.max e)) ∧
          (∀ l ∈ t.replicas, l.1 / 16384 = i → ∀ e, bitOf l.2 e = true → bitOf q.dies e = true) ∧
          q.deg = if mode = 1 then 0 else if mode = 2 then 3
            else if lower ≤ r.colls ∨ reads < r.writes * raise then r.deg - 1
            else if raise * (r.writes + 1) ≤ reads then Nat.min (r.deg + 1) 3 else r.deg)

/-- R323 to R325, R376, R377: a write that waits on a READDUP page first has its collapse put to the other devices of the page's set: a
malformed set, or one that the owner die cannot be asked for or cannot read, declines it, and a page that is READDUP no more lets the write go
on. R369: each request, and each answer and acknowledgement to another device, goes out as a note of the collective class with a copy that is kept,
and waits for room as those do. Once every device not
declared lost can be reached over a port that does not retrain (R388), the
page, a 2 MiB one where the set says so, is split, no TLB of the part holds a translation, and the others are asked to redirect; until
then, and from then on until they have answered, nothing more happens. Once they have, the block's entries say LOCAL with W set and the write is
made again; a collapse whose access has been saved with its task goes on without it. A device that has been reached may decline, and the
write will fail; one declared lost, or not reached, declines nothing. A device asked to redirect answers, and makes the block's entries
PEER entries of the writer's frame at once; it zeroes its own copy and frees its frame then, or, while move records are in progress, once
they have completed, and acknowledges. R403: with no entry of the context in its registry it answers and acknowledges at once. R388, R394:
no request comes while the ports to the writer retrain, nor from another domain while feature 14 is disabled.
The model's choice: the order of the parties' steps is the agenda's (log entry 1); a frame that is still in use is given up in the event
of a later request, and a note is a burst of its own (log entry 19); a collapse request carries the writer's frame (log entry 30); an owner die out
of reach declines (log entry 40). -/
def Obligations.ReaddupCollapses : Prop :=
  let noted := fun (s t : State) (dev ctx n : Nat) => s.dev.lost.contains dev = false → routed s dev = true →
    let f := findFlow s.dev.flows dev 1
    let at_ := fun (i : Nat) => if i = 0 then f.send else (f.send + i) % 2 ^ 48
    (findFlow t.dev.flows dev 1).kept = f.kept ++ (List.range n).map (fun i =>
      (at_ i, (⟨s.dev.devid, 1, at_ i, ctx, 0, 0, 0, 0, some 65536, collapseNote⟩ : DevBurst)))
  let owned := fun (s : State) (a e : Nat) (reads : List Nat) => diePath s (endDie a) (eOwner e) = true ∧ reachesAll s (eOwner e) reads = true
  let coreWaits := fun (s : State) (a va : Nat) => (core s a).wait = .collapse va false
  let movWaits := fun (s : State) (a va : Nat) => ∃ b, (tile s a).mov.busy = some b ∧ b.wait = .collapse va false
  let waits := fun (s : State) (a va : Nat) (x : Bool) =>
    (x = false → coreWaits s a va) ∧ (x = true → movWaits s a va ∧ ∀ v, ¬coreWaits s a v)
  let mine := fun (a : Nat) (x : Bool) (c : Collapse) => c.agent == a && (c.x == x && c.left.isNone)
  let reached := fun (s : State) (d : Nat) => s.dev.lost.contains d = true ∨ (routed s d = true ∧ linkedTo s d = true)
  let letGo := fun (s t : State) (a : Nat) (x : Bool) (va : Nat) (declined : Bool) => (∀ q ∈ t.collapses, mine a x q = false) ∧
    (x = false → (core t a).wait = if declined then .collapse va true else .retry) ∧
    (x = true → (tile t a).mov.busy =
      (tile s a).mov.busy.map (fun b => { b with wait := if declined then .collapse va true else .resume })) ∧
    ∀ b, b ≠ a → tile t b = tile s b
  let splitHere := fun (s t : State) (c : Collapse) (e pa : Nat) =>
    let splits := c.split = true ∧ eSize e = 1
    t.collapses = s.collapses.map (fun q => if q = c then { q with done := true } else q) ∧
      (∀ d, d < 5 → (die t d).lltlb = []) ∧ (∀ b, dieOf b < 5 → (core t b).ctlb = [] ∧ (tile t b).mov.xtlb = []) ∧
      (¬splits → t.mem = s.mem) ∧
      (splits → (∀ i < 32, let w := readN t.mem (groupBase 1 pa + 8 * i) 8
          eState w = 3 ∧ eSize w = 0 ∧ eFrame w = eFrame e + i ∧ eClass w = eClass e ∧ eXref w = eXref e) ∧
        ∀ y, y < groupBase 1 pa ∨ groupBase 1 pa + 8 * 32 ≤ y → getB t.mem y = getB s.mem y)
  let given := fun (t s : State) (d frame size : Nat) =>
    (∀ x, frame ≤ x → x < frame + pageBytes size → getB t.mem x = 0) ∧
      (if size = 1 then (die t d).free2m = (die s d).free2m ++ [frame % 2 ^ 36] else (die t d).free64 = (die s d).free64 ++ [frame % 2 ^ 36])
  (∀ (s : State) (a va e pa : Nat) (x split : Bool) (devs : List Nat), waits s a va x → s.collapses.find? (mine a x) = none →
    dupEntry s (ctxOf s a) va = some (e, pa) → dupSet s (ctxOf s a) (eXref e) s.dev.devid = some (split, devs) →
    let reads := entryReads s (ctxOf s a) va ++ tableReads s (ctxOf s a) (ctxOf s a).dsets ((ctxOf s a).dsets + 64 * eXref e) 64
    let others := devs.filter (· != s.dev.devid)
    owned s a e reads →
    ((∃ d ∈ others, noRoom s d collapseNote = true) → exec (.readdupCollapse a) s = .next s) ∧
    ((∀ d ∈ others, noRoom s d collapseNote = false) → ∃ t, exec (.readdupCollapse a) s = .next t ∧
      t.collapses = s.collapses ++ [⟨a, x, (ctxOf s a).id, va, others, split, false, none⟩] ∧ t.tiles = s.tiles ∧
      (∀ d ∈ others, noted s t d (ctxOf s a).id 1) ∧ ((∀ d ∈ others, reached s d) → t.mem = s.mem))) ∧
  (∀ (s : State) (a va : Nat) (x : Bool), waits s a va x → s.collapses.find? (mine a x) = none →
    (dupEntry s (ctxOf s a) va = none → ∃ t, exec (.readdupCollapse a) s = .next t ∧ letGo s t a x va false) ∧
    (∀ e pa, dupEntry s (ctxOf s a) va = some (e, pa) →
      (let reads := entryReads s (ctxOf s a) va ++ tableReads s (ctxOf s a) (ctxOf s a).dsets ((ctxOf s a).dsets + 64 * eXref e) 64
       dupSet s (ctxOf s a) (eXref e) s.dev.devid = none ∨ ¬owned s a e reads) →
      ∃ t, exec (.readdupCollapse a) s = .next t ∧ letGo s t a x va true)) ∧
  (∀ (s : State) (a va : Nat) (x : Bool) (c : Collapse), waits s a va x → s.collapses.find? (mine a x) = some c →
    (c.done = false → (∀ d ∈ c.others, reached s d) → dupEntry s (ctxOf s a) c.va = none →
      ∃ t, exec (.readdupCollapse a) s = .next t ∧ letGo s t a x va false) ∧
    (c.done = false → (∀ d ∈ c.others, reached s d) → ∀ e pa, dupEntry s (ctxOf s a) c.va = some (e, pa) →
      (owned s a e (entryReads s (ctxOf s a) c.va) → ∃ t, exec (.readdupCollapse a) s = .next t ∧ splitHere s t c e pa) ∧
      (¬owned s a e (entryReads s (ctxOf s a) c.va) → ∃ t, exec (.readdupCollapse a) s = .next t ∧ letGo s t a x c.va true)) ∧
    (c.done = true ∨ (∃ d ∈ c.others, ¬reached s d) → (x = false → ∀ v, ¬movWaits s a v) →
      (∀ q ∈ s.collapses, q.agent = a → q.left = none) → exec (.readdupCollapse a) s = .next s)) ∧
  (∀ (s : State) (a e pa : Nat) (c : Collapse) (ctx : Ctx), (∀ v, ¬coreWaits s a v ∧ ¬movWaits s a v) →
    s.collapses.find? (fun q => q.agent == a && (q.left.isSome && !q.done && othersReached s q)) = some c → c.left = some ctx →
    dupEntry s ctx c.va = some (e, pa) → owned s a e (entryReads s ctx c.va) →
    ∃ t, exec (.readdupCollapse a) s = .next t ∧ splitHere s t c e pa) ∧
  (∀ (s : State) (a dev : Nat),
    (s.dev.lost.contains dev = true ∨ routed s dev = false ∨ linkedTo s dev = false → exec (.collapseDecline a dev) s = .next s) ∧
    (∀ c : Collapse, s.collapses.find? (fun c => c.agent == a && (!c.done && c.others.contains dev)) = some c →
      s.dev.lost.contains dev = false → routed s dev = true → linkedTo s dev = true → c.left = none →
      ∃ t, exec (.collapseDecline a dev) s = .next t ∧ letGo s t a c.x c.va true ∧ t.mem = s.mem)) ∧
  (∀ (s : State) (a e pa : Nat) (c : Collapse), findCollapse s a (fun c => c.done && othersReached s c) = some c →
    dupEntry s (c.left.getD (ctxOf s a)) c.va = some (e, pa) →
    let here := owned s a e (entryReads s (c.left.getD (ctxOf s a)) c.va)
    (¬here → c.left = none → ∃ t, exec (.collapseRetry a) s = .next t ∧ letGo s t a c.x c.va true ∧ t.mem = s.mem) ∧
    (here → ∃ t, exec (.collapseRetry a) s = .next t ∧
      (∀ b, dieOf b < 5 → (core t b).ctlb = [] ∧ (tile t b).mov.xtlb = []) ∧
      (∀ i < groupSize (eSize e), let w := readN t.mem (groupBase (eSize e) pa + 8 * i) 8
        eState w = 2 ∧ eW w = true ∧ eFrame w = eFrame e ∧ eSize w = eSize e ∧ eClass w = eClass e ∧ eXref w = 0) ∧
      (∀ x, x < groupBase (eSize e) pa ∨ groupBase (eSize e) pa + 8 * groupSize (eSize e) ≤ x → getB t.mem x = getB s.mem x) ∧
      (c.left = none → (∀ q ∈ t.collapses, mine a c.x q = false) ∧ (c.x = false → (core t a).wait = .retry) ∧
        (c.x = true → (tile t a).mov.busy = (tile s a).mov.busy.map (fun b => { b with wait := .resume }))) ∧
      (c.left ≠ none → t.collapses = s.collapses.erase c ∧ (core t a).wait = (core s a).wait ∧
        (tile t a).mov.busy = (tile s a).mov.busy))) ∧
  (∀ (s : State) (a : Nat) (c : Collapse), findCollapse s a (fun c => c.done && othersReached s c) = some c →
    c.left = none → dupEntry s (ctxOf s a) c.va = none → ∃ t, exec (.collapseRetry a) s = .next t ∧ letGo s t a c.x c.va false) ∧
  (∀ (s : State) (q : CollapseReq), linkedTo s q.writer = false ∨ noRoom s q.writer collapseNote = true → s.leaving = [] →
    exec (.collapseRequest q) s = .next s) ∧
  (∀ (s : State) (q : CollapseReq), linkedTo s q.writer = true → noRoom s q.writer collapseNote = false → routed s q.writer = true →
    s.leaving = [] → lookup s.dev.registry q.ctx = none →
    ∃ t, exec (.collapseRequest q) s = .next t ∧ noted s t q.writer q.ctx 2 ∧ t.mem = s.mem ∧ t.tiles = s.tiles ∧ t.leaving = []) ∧
  (∀ (s : State) (q : CollapseReq) (ctx : Ctx) (at_ e pa i : Nat), linkedTo s q.writer = true → noRoom s q.writer collapseNote = false →
    routed s q.writer = true → lookup s.dev.registry q.ctx = some at_ →
    ctxAt s at_ = some ctx → diePath s 4 (homeDie at_) = true → dupEntry s ctx q.va = some (e, pa) →
    peerIndex s ctx q.writer = some i → s.leaving = [] → q.split = false → eSize e < 2 →
    reachesAll s (eOwner e) (entryReads s ctx q.va ++ tableReads s ctx ctx.peers ctx.peers (8 * (i + 1))) = true →
    let base := groupBase (eSize e) pa
    let frame := eFrame e * 2 ^ 16
    (base + 8 * groupSize (eSize e) ≤ frame ∨ frame + pageBytes (eSize e) ≤ base) →
    (die s (eOwner e)).free2m.length < 256 → (die s (eOwner e)).free64.length < 1024 →
    ∃ t, exec (.collapseRequest q) s = .next t ∧
      (∀ k < groupSize (eSize e), let w := readN t.mem (base + 8 * k) 8
        eState w = 4 ∧ eFrame w = q.frame % 2 ^ 36 ∧ eXref w = i ∧ eSize w = eSize e) ∧
      let later := recordsInProgress s ≠ [] ∨ noRoom (sendNote s q.writer q.ctx) q.writer collapseNote = true
      (¬later → t.leaving = [] ∧ given t s (eOwner e) frame (eSize e) ∧ noted s t q.writer q.ctx 2) ∧
      (later → (∃ l, t.leaving = [l] ∧ l.die = eOwner e ∧ l.frame = frame ∧ l.size = eSize e ∧ l.writer = q.writer ∧ l.ctx = q.ctx ∧
          ∀ r, r ∈ l.recs ↔ r ∈ recordsInProgress s) ∧ noted s t q.writer q.ctx 1 ∧
        ∀ x, x < base ∨ base + 8 * groupSize (eSize e) ≤ x → getB t.mem x = getB s.mem x)) ∧
  (∀ (s : State) (q : CollapseReq) (l : Leaving), lookup s.dev.registry q.ctx = none → s.leaving = [l] →
    (∀ r ∈ l.recs, r ∉ recordsInProgress s) → noRoom s l.writer collapseNote = false → routed s l.writer = true → routed s q.writer = true →
    l.size < 2 → (die s l.die).free2m.length < 256 → (die s l.die).free64.length < 1024 →
    ∃ t, exec (.collapseRequest q) s = .next t ∧ t.leaving = [] ∧ given t s l.die l.frame l.size)

/-! ## Graphs and schedulers -/

/-- R327, R328, R330, R403: an upload that passes the checks of its part, the first of its graph, installs the part with every node as its
record gives it, takes scheduler memory for it and registers its context; one that fails installs nothing. R332, R333, R359: a whole
graph's trigger of eight words waits behind fewer than four others. The next one of an idle graph, without patches, starts a run:
every node stands unfired with no arrivals.
The model's choices: a context descriptor is read at a device PA (log entry 10); an upload or a trigger to a die that no path reaches is
dropped, and a run waits for such a die of its graph (log entry 40). -/
def Obligations.UploadAndTrigger : Prop :=
  (∀ (s : State) (d : Nat) (data : List Word), diePath s 4 d = false →
    exec (.graphUpload d data) s = .next s ∧ exec (.triggerWrite d data) s = .next s) ∧
  (∀ (s : State) (d : Nat) (data : List Word), hostOpen s = true → (die s d).up = true → diePath s 4 d = true → s.dev.featLock = true →
    let g := fun (i : Nat) => (data.getD i 0).toNat
    (∀ e, uploadPart s d g = .error e → ∃ t, exec (.graphUpload d data) s = .next t ∧ t.parts = s.parts ∧ t.dies = s.dies) ∧
    (∀ p c size s1 s2, uploadPart s d g = .ok (p, c, size) → partsOf s p.gid = [] →
      checkParts (ctxRead s d (g 1)).2 c [(d, p)] false (decide (p.dies ≠ 2 ^ d)) d p = (none, s1) →
      (if p.dies = 2 ^ d then checkParts s1 c [(d, p)] true true d p = (none, s2) else s2 = s1) →
      ∃ t, exec (.graphUpload d data) s = .next t ∧ part t d (bits (g 0) 63 48) = some p ∧ p.dies = g 2 ∧
        (∀ n < bits (g 0) 29 13, ∃ x, nodeAt t d (bits (g 0) 63 48) n = some x ∧ x.edge0 = bits (g (8 + 8 * n)) 57 40 ∧
          x.nsucc = bits (g (8 + 8 * n)) 39 24 ∧ x.npred = bits (g (8 + 8 * n)) 23 8 ∧ x.arrivals = 0 ∧ x.fired = false) ∧
        (die t d).used = (die s2 d).used + 64 + 64 * bits (g 0) 29 13 + 4 * bits (g 0) 47 30 ∧
        lookup t.dev.registry c.id = some (g 1) ∧ t.mem = s2.mem ∧ t.tiles = s2.tiles ∧ t.tasks = s2.tasks ∧ t.runs = s2.runs)) ∧
  (∀ (s : State) (d : Nat) (data : List Word), hostOpen s = true → (die s d).up = true → diePath s 4 d = true →
    s.dev.featLock = true → data.length = 8 →
    let g := fun (i : Nat) => (data.getD i 0).toNat
    let gid := bits (g 0) 63 48
    (part s d gid).isSome = true → graphWhole s gid = true → triggerBad g = false → (runOf s gid).pending.length < 4 →
    ∃ t, exec (.triggerWrite d data) s = .next t ∧
      runOf t gid = { runOf s gid with pending := (runOf s gid).pending ++ [data ++ [BitVec.ofNat 64 d]] } ∧
      t.mem = s.mem ∧ t.tiles = s.tiles ∧ t.parts = s.parts ∧ t.tasks = s.tasks) ∧
  (∀ (s : State) (d gid : Nat) (w : List Word) (ws : List (List Word)), (runOf s gid).pending = w :: ws → (runOf s gid).phase = .idle →
    (w.getD 8 0).toNat = d → graphWhole s gid = true → (∀ q ∈ partsOf s gid, diePath s d q.1 = true) → bits (w.getD 0 0).toNat 47 44 = 0 →
    ∃ t, exec (.runStartTrigger d gid) s = .next t ∧ runOf t gid = ⟨(runOf s gid).run + 1, .going, ws⟩ ∧
      (∀ e n x, e < 4 → nodeAt s e gid n = some x →
        nodeAt t e gid n = some { x with arrivals := 0, fired := false, qarr := 0, qset := 0, qst := 0, graceAt := 0 }) ∧
      t.mem = s.mem ∧ t.tiles = s.tiles ∧ t.tasks = s.tasks)

/-- R331, R334, R127: a node that may fire fires once. A LAUNCH node makes a task ready with the descriptor read then and the node's own
parameters and class; a join, a SIGNAL once its semaphore has its value added, and a WAIT once its semaphore reaches the threshold, arrive
at their successors; END, once no task of the run is left, adds one to the run-end semaphore and the graph is idle. R405: with no entry of
the graph's context in the registry the increment is not made, and type 0x0A is recorded. R326: where the graph's context descriptor is refused
as a node fires, a LAUNCH node's task is not started, type 0x03 with cause 0x02 is recorded and the run is stranded unless the node feeds a quorum
join; a SIGNAL strands the run too, and END's increment is not made.
The model's choice: a graph's context descriptor is named by a device PA, and a node's task descriptor names it by the same (log entry
10); an arrival at a die that no path reaches is lost (log entry 40). -/
def Obligations.NodesFire : Prop :=
  let may := fun (s : State) (d gid node : Nat) (stranded : Bool) (p : Part) (c : Ctx) (x : Node) =>
    part s d gid = some p ∧ ctxAt s p.ctx = some c ∧ diePath s d (homeDie p.ctx) = true ∧ lookup p.nodes node = some x ∧ x.fired = false ∧ x.npred ≤ x.arrivals ∧
      isQuorum x.kind = false ∧ ((runOf s gid).phase = .going ∨ (stranded = true ∧ (runOf s gid).phase = .stranded))
  let arrives := fun (s t : State) (d gid node : Nat) (p : Part) (x : Node) =>
    ∀ e n y, nodeAt s e gid n = some y → nodeAt t e gid n = some { y with
      arrivals := y.arrivals + (if diePath s d e then (succs p x).count (e, n) else 0)
      fired := y.fired || (decide (e = d) && decide (n = node)) }
  (∀ (s s1 : State) (d gid node desc q cls : Nat) (p0 p1 : Word) (p : Part) (c : Ctx) (x : Node) (e : Desc),
    may s d gid node false p c x → x.kind = .launch desc p0 p1 q cls →
    readDesc (markFired (unitReads s d [p.ctx]) d gid node) d c desc = (s1, .ok e) → e.dinc < 2 ^ 32 → e.ctx = c.pa →
    ∃ t k, exec (.launchNodeFires d gid node) s = .next t ∧ lookup t.tasks s.nextTask = some k ∧ t.nextTask = s.nextTask + 1 ∧
      k.state = .ready ∧ k.origin = .node d gid node (runOf s gid).run ∧ k.d = { e with param0 := p0, param1 := p1 } ∧ k.ctx = c ∧
      k.gw = e.gw ∧ k.gh = e.gh ∧ k.die = d ∧ k.cls = cls ∧ k.since = s.now ∧ k.killed = none ∧
      nodeAt t d gid node = some { x with fired := true } ∧
      ∀ u, u ≠ s.nextTask → lookup t.tasks u = lookup s.tasks u) ∧
  (∀ (s : State) (d gid node total need grace fill tgt n : Nat) (p : Part) (c : Ctx) (x : Node),
    may s d gid node true p c x → x.kind = .join total need grace fill tgt n →
    ∃ t, exec (.joinNodeFires d gid node) s = .next t ∧ arrives s t d gid node p x ∧ t.mem = s.mem ∧ t.tasks = s.tasks ∧ t.tiles = s.tiles) ∧
  (∀ (s s1 : State) (d gid node va n scope ga e : Nat) (p : Part) (c : Ctx) (x : Node),
    may s d gid node true p c x → x.kind = .signal va n scope → semCheck (markFired (unitReads s d [p.ctx]) d gid node) d c va true = (.ok ga e, s1) →
    ∃ t, exec (.signalNodeFires d gid node) s = .next t ∧ arrives s t d gid node p x ∧ t.tasks = s.tasks ∧
      readN t.mem ga 8 = (readN s1.mem ga 8 + n) % 2 ^ 64 ∧ ∀ a, a < ga ∨ ga + 8 ≤ a → getB t.mem a = getB s1.mem a) ∧
  (∀ (s s1 : State) (d gid node va n ga e : Nat) (p : Part) (c : Ctx) (x : Node),
    may s d gid node true p c x → x.kind = .wait va n → semCheck (unitReads s d [p.ctx]) d c va false = (.ok ga e, s1) → n ≤ readN s1.mem ga 8 →
    ∃ t, exec (.waitNodeFires d gid node) s = .next t ∧ arrives s t d gid node p x ∧ t.mem = s1.mem ∧ t.tasks = s.tasks) ∧
  (∀ (s s1 : State) (d gid node va ga e : Nat) (p : Part) (c : Ctx) (x : Node),
    may s d gid node false p c x → x.kind = .endNode va → runTasks s gid = [] →
    (va ≠ 0 → (lookup s.dev.registry c.id).isSome = true ∧ semCheck (markFired (unitReads s d [p.ctx]) d gid node) d c va true = (.ok ga e, s1)) →
    ∃ t, exec (.endNodeFires d gid node) s = .next t ∧ runOf t gid = { runOf s gid with phase := .idle } ∧
      nodeAt t d gid node = some { x with fired := true } ∧
      (va = 0 → t.mem = s.mem) ∧ (va ≠ 0 → readN t.mem ga 8 = (readN s1.mem ga 8 + 1) % 2 ^ 64)) ∧
  (∀ (s : State) (d gid node va : Nat) (p : Part) (c : Ctx) (x : Node), d < 8 →
    may s d gid node false p c x → x.kind = .endNode va → runTasks s gid = [] → va ≠ 0 → lookup s.dev.registry c.id = none →
    ∃ t, exec (.endNodeFires d gid node) s = .next t ∧ runOf t gid = { runOf s gid with phase := .idle } ∧ Recorded s t 0x0A 0 d) ∧
  (∀ (s : State) (d gid node : Nat) (p : Part) (x : Node), d < 8 → part s d gid = some p → diePath s d (homeDie p.ctx) = true → ctxAt s p.ctx = none →
    lookup p.nodes node = some x → x.fired = false → x.npred ≤ x.arrivals → (runOf s gid).phase = .going → runTasks s gid = [] →
    (∀ desc p0 p1 q cls, x.kind = .launch desc p0 p1 q cls →
      ∃ t k, exec (.launchNodeFires d gid node) s = .next t ∧ lookup t.tasks s.nextTask = some k ∧ k.state = .ended ∧ t.nextTask = s.nextTask + 1 ∧
        k.origin = .node d gid node (runOf s gid).run ∧ Recorded s t 0x03 0x02 d ∧
        (runOf t gid).phase = (if contributes s k then .going else .stranded)) ∧
    (∀ va n scope, x.kind = .signal va n scope → ∃ t, exec (.signalNodeFires d gid node) s = .next t ∧ (runOf t gid).phase = .stranded) ∧
    (∀ va, x.kind = .endNode va → va ≠ 0 → ∃ t, exec (.endNodeFires d gid node) s = .next t ∧
      runOf t gid = { runOf s gid with phase := .idle } ∧ Recorded s t 0x0A 0 d))

/-- R345 to R347, R356: when GRACE has run out, or every contributor has arrived, a quorum join closes: with no straggler nothing else
changes; a straggler that has not started never does, and one that runs has a kill pending on its tiles. When the stragglers have ended
and the arrivals have published, its targets are filled and it arrives at its successors; a fill that fails strands the run. A run whose
join cannot reach QNEED is stranded, and a stranded run with no task left ends.
The model's choice: a graph's context descriptor is named by a device PA (log entry 10), and an arrival at a die that no path
reaches is lost, and a straggler on one is left (log entry 40). -/
def Obligations.QuorumJoins : Prop :=
  let join := fun (s : State) (d gid node total need grace fill tgt n : Nat) (x : Node) =>
    nodeAt s d gid node = some x ∧ x.kind = .join total need grace fill tgt n ∧ isQuorum x.kind = true
  let late := fun (s : State) (d gid node : Nat) (x : Node) =>
    (List.range (preds s gid d node).length).filterMap (fun i => if bitOf x.qset i then none else (preds s gid d node)[i]?)
  (∀ (s : State) (d gid node total need grace fill tgt n : Nat) (x : Node), join s d gid node total need grace fill tgt n x → x.qst = 1 →
    (x.graceAt + grace ≤ s.now ∨ x.qset = 2 ^ (preds s gid d node).length - 1) →
    (late s d gid node x = [] → ∃ t, exec (.quorumClose d gid node) s = .next t ∧ nodeAt t d gid node = some { x with qst := 2 } ∧
      t.tiles = s.tiles ∧ t.tasks = s.tasks ∧ t.mem = s.mem) ∧
    (∀ c, late s d gid node x = [c] → diePath s d c.1 = false → ∃ t, exec (.quorumClose d gid node) s = .next t ∧
      nodeAt t d gid node = some { x with qst := 2 } ∧ t.tiles = s.tiles ∧ t.tasks = s.tasks ∧ t.mem = s.mem) ∧
    (∀ c u k, late s d gid node x = [c] → diePath s d c.1 = true → taskAtNode s c.1 gid c.2 = some (u, k) →
      (k.state = .running → (∀ a ∈ gangOf k, (core s a).run ≠ .reeve true) →
        ∃ t, exec (.quorumClose d gid node) s = .next t ∧ nodeAt t d gid node = some { x with qst := 2 } ∧
          (∀ a ∈ gangOf k, (tile t a).killAt = some s.now) ∧ (∀ a, a ∉ gangOf k → tile t a = tile s a) ∧ t.tasks = s.tasks ∧ t.mem = s.mem) ∧
      (k.state = .ready → k.d.done = 0 → lookup s.tasks u = some k →
        ∃ t, exec (.quorumClose d gid node) s = .next t ∧ nodeAt t d gid node = some { x with qst := 2 } ∧
          lookup t.tasks u = some { k with state := .ended } ∧ t.mem = s.mem))) ∧
  (∀ (s s1 : State) (d gid node total need grace fill tgt n : Nat) (x : Node) (p : Part) (c : Ctx) (ts : List FillTarget),
    join s d gid node total need grace fill tgt n x → part s d gid = some p → ctxAt s p.ctx = some c → diePath s d (homeDie p.ctx) = true → x.qst = 2 → x.fired = false →
    (∀ q ∈ late s d gid node x, contributorOver s gid q = true) → (∀ q ∈ preds s gid d node, publishing s gid (d, node) q = false) →
    fillTargets (unitReads s d [p.ctx]) d c tgt n = (s1, some ts) →
    let who := (List.range (preds s gid d node).length).filter (bitOf x.qset)
    (∀ s2, ts.foldl (fillOne d c fill total x.qarr who) (s1, true) = (s2, true) →
      ∃ t, exec (.quorumFill d gid node) s = .next t ∧ t.mem = s2.mem ∧ t.tasks = s.tasks ∧
        ∀ e m y, nodeAt s e gid m = some y → (e, m) ≠ (d, node) →
          nodeAt t e gid m = some { y with arrivals := y.arrivals + (if diePath s d e then (succs p x).count (e, m) else 0) }) ∧
    (∀ s2, ts.foldl (fillOne d c fill total x.qarr who) (s1, true) = (s2, false) → (runOf s gid).phase = .going →
      ∃ t, exec (.quorumFill d gid node) s = .next t ∧ (runOf t gid).phase = .stranded)) ∧
  (∀ (s : State) (d gid : Nat) (p : Part), part s d gid = some p →
    ((runOf s gid).phase = .going → quorumLost s gid = true →
      ∃ t, exec (.runStranded d gid) s = .next t ∧ (runOf t gid).phase = .stranded ∧ (runOf t gid).run = (runOf s gid).run) ∧
    ((runOf s gid).phase = .stranded → runTasks s gid = [] →
      ∃ t, exec (.runStranded d gid) s = .next t ∧ runOf t gid = { runOf s gid with phase := .idle } ∧ t.tiles = s.tiles ∧ t.tasks = s.tasks))

/-- R335, R336: the head of a command queue whose entry before has started becomes a ready task with the descriptor read then; a ready task
that has waited 2^20 cycles in its class moves up one; and a ready task, where none considered before it fits, is placed at the lowest corner
whose rectangle of free tiles in service fits it.
The model's choice: the launcher's context is known by its descriptor's device PA (log entry 10). -/
def Obligations.ReadyTasksArePlaced : Prop :=
  (∀ (s s1 s2 : State) (d q : Nat) (e : QEntry) (es : List QEntry) (c c1 : Ctx) (de : Desc), (queueOf s d q).entries = e :: es →
    (queueOf s d q).clear = true → ctxAt s e.ctx = some c → diePath s d (homeDie e.ctx) = true →
    readDesc (putQueue (unitReads s d [e.ctx]) d q { queueOf s d q with entries := es, clear := false }) d c e.va = (s1, .ok de) → de.dinc < 2 ^ 32 →
    namedCtx s1 d c de.ctx false = (s2, .ok c1) →
    ∃ t k, exec (.taskReadyQueue d q) s = .next t ∧ lookup t.tasks s.nextTask = some k ∧ t.nextTask = s.nextTask + 1 ∧ k.state = .ready ∧
      k.origin = .queue d q e.seq ∧ k.d = de ∧ k.ctx = c1 ∧ k.gw = de.gw ∧ k.gh = de.gh ∧ k.cls = e.cls ∧ k.runNo = e.seq ∧
      (queueOf t d q).entries = es ∧ (queueOf t d q).clear = false) ∧
  (∀ (s : State) (u : Nat) (k : Task), lookup s.tasks u = some k → k.state = .ready → 0 < k.cls → k.since + 2 ^ 20 ≤ s.now →
    exec (.taskClassPromotion u) s = .next (putTask s u { k with cls := k.cls - 1, since := s.now })) ∧
  (∀ (s : State) (u c : Nat) (k : Task), lookup s.tasks u = some k → k.state = .ready →
    (∀ e ∈ s.tasks, e.2.state = .ready → e.2.die = k.die → comesBefore e (u, k) = true → lowestFit s e.2 (tileFree s) = none) →
    lowestFit s k (tileFree s) = some c →
    ∃ t, exec (.taskPlacement u) s = .next t ∧ lookup t.tasks u = some { k with state := .placed, corner := c } ∧ c < 64 ∧
      c % 8 + k.gw ≤ 8 ∧ c / 8 + k.gh ≤ 8 ∧
      (∀ a ∈ rect k.die c k.gw k.gh, (tile s a).task = none ∧ (die s k.die).absent.contains a = false ∧ placedOn s a = none) ∧
      (∀ c' < c, rectFits s k c' (tileFree s) = false) ∧ (∀ v, v ≠ u → lookup t.tasks v = lookup s.tasks v) ∧ t.mem = s.mem)

/-- R84 to R86, R272, R281, R337, R366: a placed task whose tiles are free, and whose image and data pass their checks, starts on all its
tiles together: word 0, s1 and s2 its parameters, s3 its run number, no engine running, code and scratchpad sections in place. CSTART
starts a sequencer's task so. R345: a task that is late for a quorum join never starts. After a task of another context the scratchpad
bytes that nothing covers are zero. R331, R338: a task whose every tile is done ends; its tiles are free with no map and no stray record
left, its dirty lines are at home, and a LAUNCH node arrives at its successors; a killed task that restarts is ready again, but one that
is late for a quorum join (R345), and one that the reeve core has ended is not (R356).
The model's choices: the context CSTART names and its task descriptor are read at a device PA (log entry 10); only a kill requeues a task (log
entry 31); an arrival at a die that no path reaches is lost (log entry 40). -/
def Obligations.TasksStartAndEnd : Prop :=
  let started := fun (t : State) (a u : Nat) (d : Desc) (runNo : Nat) (im : Image) =>
    (core t a).run = .running ∧ (core t a).pc = 0 ∧ (core t a).wait = .none ∧ rdS (core t a) 1 = d.param0 ∧ rdS (core t a) 2 = d.param1 ∧
      rdS (core t a) 3 = BitVec.ofNat 64 runNo ∧ (∀ r, 3 < r → rdS (core t a) r = 0) ∧ (tile t a).task = some u ∧
      (tile t a).vec = Vec.reset ∧ (tile t a).mat = Mat.reset ∧ (tile t a).mov.run = none ∧ (tile t a).mov.queue = [] ∧
      (tile t a).reed.slots = [] ∧ (tile t a).fifo = ⟨0, 0, 0, 0, 0, 0⟩ ∧
      (∀ pc, fetchC t a pc = readN im.c (8 * pc) 8 ∧ fetchV t a pc = readN im.v (16 * pc) 16 ∧ fetchM t a pc = readN im.m (64 * pc) 64 ∧
        fetchX t a pc = readN im.x (64 * pc) 64)
  let late := fun (s : State) (k : Task) => ∃ d gid n r, k.origin = .node d gid n r ∧
    ∃ j ∈ joinsOf s k, k.arrivedAt.contains (j.1 * 65536 + j.2) = false ∧ accepts s gid j = false
  (∀ (s s1 s2 s3 : State) (u : Nat) (k : Task) (im : Image) (data : Option PreloadData), lookup s.tasks u = some k → k.state = .placed → ¬late s k →
    (∀ a ∈ gangOf k, (tile s a).task = none ∧ (tile s a).preload = none) → (∀ q, k.origin ≠ .cstart q) → (gangOf k).Nodup →
    gangOf k ≠ [] → readImage s k.die k.ctx k.d.image = (s1, .ok im) → im.hdr.killable = k.d.kill →
    ((k.d.plist = 0 ∧ data = none ∧ s2 = s1) ∨
      (k.d.plist ≠ 0 ∧ ∃ m, readPreload s1 k.die k.ctx k.d.plist im.hdr.psize = (s2, .ok m) ∧ data = some m)) →
    writeGlobals ((gangOf k).foldl (fun s a => modTile s a (loadTile u im data)) s2) k.die k.ctx im.secs = (s3, none) →
    ∃ t, exec (.taskStart u) s = .next t ∧
      (∃ k', lookup t.tasks u = some k' ∧ k'.state = .running ∧ k'.hdr = im.hdr ∧ k'.d = k.d ∧ k'.counted = 0 ∧ k'.begun = false ∧ k'.killed = none) ∧
      (∀ a ∈ gangOf k, started t a u k.d k.runNo im) ∧ (∀ a, a ∉ gangOf k → tile t a = tile s3 a) ∧ t.mem = s3.mem ∧
      (∀ a ∈ gangOf k, im.secs = [] → ∀ x,
        (∀ m, data = some m → im.hdr.porig ≤ x → x < im.hdr.porig + im.hdr.psize → getB (tile t a).pad x = getB m.1 (x - im.hdr.porig)) ∧
        (data = none → (tile s a).lastCtx = k.ctx.id → getB (tile t a).pad x = getB (tile s a).pad x) ∧
        ((tile s a).lastCtx ≠ k.ctx.id → x < im.hdr.scratch → (x < im.hdr.porig ∨ im.hdr.porig + im.hdr.psize ≤ x) → getB (tile t a).pad x = 0))) ∧
  (∀ (s : State) (u : Nat) (k : Task), lookup s.tasks u = some k → late s k → exec (.taskStart u) s = .next s) ∧
  (∀ (s : State) (q : Nat) (va : Word) (c : Ctx) (im : Image), hostOpen s = true → s.dev.featLock = true → q < 16 →
    (tile s (256 + q)).task = none → (tile s (256 + q)).preload = none →
    let g := fun (i : Nat) => readN s.mem (va.toNat + 8 * i) 8
    va.toNat % 64 = 0 → va.toNat < 2 ^ 38 → bits (g 5) 63 57 = 0 → bits (g 5) 55 32 = 0 → g 7 = 0 → ctxAt s (g 1) = some c →
    diePath s 4 (homeDie va.toNat) = true → diePath s 4 (homeDie (g 1)) = true →
    let s' := unitReads (unitReads s 4 [va.toNat]) 4 [g 1]
    (readImage s' 4 c (g 0)).2 = .ok im → seqHeader im.hdr = true →
    (writeGlobals (modTile (readImage s' 4 c (g 0)).1 (256 + q) (loadTile s.nextTask im none)) 4 c im.secs).2 = none →
    ∃ t k, exec (.cstart q va) s = .next t ∧ lookup t.tasks s.nextTask = some k ∧ k.state = .running ∧ k.origin = .cstart q ∧
      k.ctx = c ∧ k.d.param0 = BitVec.ofNat 64 (g 2) ∧ k.d.param1 = BitVec.ofNat 64 (g 3) ∧ started t (256 + q) s.nextTask k.d 0 im) ∧
  (∀ (s : State) (u : Nat) (k : Task), lookup s.tasks u = some k → k.state = .running → (∀ a ∈ gangOf k, tileDone s a = true) →
    ∃ t, exec (.taskEnd u) s = .next t ∧
      (∀ a ∈ gangOf k, (tile t a).task = none ∧ (core t a).run = .idle ∧ (tile t a).reed.slots = [] ∧ (tile t a).reed.well = [] ∧
        (core t a).dirty = [] ∧ (tile t a).lastCtx = k.ctx.id) ∧
      (∀ d gid n r p x, k.origin = .node d gid n r → k.killed = none → k.d.done = 0 → part s d gid = some p → lookup p.nodes n = some x →
        lookup t.tasks u = some { k with state := .ended, saved := [], slots := [] } ∧
        ∀ e m y, nodeAt s e gid m = some y →
          nodeAt t e gid m = some { y with arrivals := y.arrivals + (if diePath s d e then (succs p x).count (e, m) else 0) }) ∧
      (∀ c, k.killed = some (c, .kill) → k.d.restart = true → k.hdr.killable = true →
        (∀ d gid n r, k.origin = .node d gid n r → (runOf s gid).phase ≠ .stranded) →
        (late s k → ∃ k', lookup t.tasks u = some k' ∧ k'.state = .ended) ∧ (¬late s k → lookup t.tasks u = some { k with state := .ready, since := s.now, killed := none, overrun := false, counted := 0, begun := false, saved := [], slots := [], exitAt := [] })) ∧
      (∀ c, k.killed = some (c, .ended) → ∃ k', lookup t.tasks u = some k' ∧ k'.state = .ended) ∧
      (∀ a, gangOf k = [a] → (core s a).run = .exited → ((core s a).dirty.map (·.1)).Nodup → k.killed = none → k.d.done = 0 →
        (∀ x y, lookup (core s a).dirty x = some y → lostAt s a x = false ∧ unroutedAt s x = none) →
        (∀ x y, lookup (core s a).dirty x = some y → getB t.mem x = y) ∧
        ∀ x, lookup (core s a).dirty x = none → getB t.mem x = getB s.mem x))

/-- R309, R339, R340: a preload puts a ready task's code into the standby banks of tiles that run another, whose own code and registers
stay; a task whose image lies on a page without K is not started. R341, R342: a task that has used its budget is killed if killable, and
otherwise its running tiles trap to the reeve core with cause 0x0F, their matrix and move engines held; a tile that is stopped already has its
engines held and takes that trap first as it goes on; PGRACE cycles with a kill pending kill it: its tiles that have not exited end, but
for one whose trap has reached the reeve core (R355), a killable task's unpublished stores retracted, those of a record in progress among
them. R348 to R353: a request for pre-emption stands on every tile of the gang; unmet after PGRACE, a task that is not killable is saved
whole and its tiles are vacated, their declared scratchpad saved (R261); resumed on free tiles, it goes on with what was saved, the
landing port as it is (R19), unless it is late for a quorum join (R345).
The model's choices: which of the ends a kill brings lets RESTART make the task ready again, and how a tile that is stopped takes its overrun (log
entry 31); TRAPSRC and TRAPINFO of 0x0F (log entry 44). -/
def Obligations.PreloadsKillsAndSaves : Prop :=
  let late := fun (s : State) (k : Task) => ∃ d gid n r, k.origin = .node d gid n r ∧
    ∃ j ∈ joinsOf s k, k.arrivedAt.contains (j.1 * 65536 + j.2) = false ∧ accepts s gid j = false
  let killed := fun (s t : State) (u : Nat) (k : Task) (cause : Nat) (how : Ending) =>
    lookup t.tasks u = some { k with killed := some (cause, how), saved := [], slots := [] } ∧
      ∀ a ∈ gangOf k, (tile s a).task = some u → (core s a).run ≠ .exited → (core s a).run ≠ .ending → (core s a).run ≠ .reeve false → killable (core s a).wait = true →
        (core t a).run = .ending ∧ (k.hdr.killable = true → (core t a).unpub = [] ∧ (core t a).recUnpub = [])
  (∀ (s s1 : State) (u c : Nat) (k : Task) (im : Image), lookup s.tasks u = some k → k.state = .ready →
    lowestFit s k (fun a => (taskOf s a).isSome && (tile s a).preload.isNone) = some c →
    readImage s k.die k.ctx k.d.image = (s1, .ok im) → k.d.plist = 0 → (rect k.die c k.gw k.gh).Nodup →
    ∃ t, exec (.preload u) s = .next t ∧ t.mem = s1.mem ∧ ∀ a ∈ rect k.die c k.gw k.gh,
      (tile s a).reed.slots = [] → (∀ k', taskOf s1 a = some k' → k'.d.image ≠ k.d.image) →
      (tile t a).preload = some ⟨u, (tile s a).task.getD u, true, true, true, true, false, false⟩ ∧ (core t a).pc = (core s a).pc ∧ (core t a).s = (core s a).s ∧
        (tile t a).pad = (tile s a).pad ∧
        (∀ n, fetchC t a n = fetchC s a n ∧ fetchV t a n = fetchV s a n ∧ fetchM t a n = fetchM s a n ∧ fetchX t a n = fetchX s a n) ∧
        (if (tile s a).banks.actC then (tile t a).banks.cA = im.c else (tile t a).banks.cB = im.c) ∧
        (if (tile s a).banks.actV then (tile t a).banks.vA = im.v else (tile t a).banks.vB = im.v) ∧
        (if (tile s a).banks.actM then (tile t a).banks.mA = im.m else (tile t a).banks.mB = im.m) ∧
        (if (tile s a).banks.actX then (tile t a).banks.xA = im.x else (tile t a).banks.xB = im.x)) ∧
  (∀ (s s1 : State) (u c e i : Nat) (k : Task), lookup s.tasks u = some k → k.state = .ready →
    lowestFit s k (fun a => (taskOf s a).isSome && (tile s a).preload.isNone) = some c → readImage s k.die k.ctx k.d.image = (s1, .error (e, i)) →
    (e = 0x08 → ∃ t k', exec (.preload u) s = .next t ∧ lookup t.tasks u = some k' ∧ k'.state = .ended) ∧
    (e ≠ 0x08 → exec (.preload u) s = .next s1)) ∧
  (∀ (s : State) (u : Nat) (k : Task), lookup s.tasks u = some k → k.state = .running → k.killed = none → k.overrun = false →
    let b := if k.d.budget = 0 then k.hdr.budget else k.d.budget
    b ≠ 0 → b ≤ k.counted →
    (k.hdr.killable = true → ∃ t, exec (.budgetOverrun u) s = .next t ∧ killed s t u { k with overrun := true } 0x0F .kill) ∧
    (k.hdr.killable = false → (∀ a ∈ gangOf k, killable (core s a).wait = true) →
      ∃ t, exec (.budgetOverrun u) s = .next t ∧ lookup t.tasks u = some { k with overrun := true } ∧ t.mem = s.mem ∧
        ∀ a ∈ gangOf k, (core s a).run = .running → (core t a).run = .reeve false ∧ (core t a).trapCause = 0x0F ∧
          (core t a).trapPc = BitVec.ofNat 64 (core s a).pc ∧ (core t a).s = (core s a).s ∧
          (tile t a).mat.paused = true ∧ (tile t a).mov.paused = true) ∧
    (k.hdr.killable = false → (∀ a ∈ gangOf k, killable (core s a).wait = true) → (gangOf k).Nodup →
      ∃ t, exec (.budgetOverrun u) s = .next t ∧
        ∀ a ∈ gangOf k, ((core s a).run = .halted ∨ ∃ b, (core s a).run = .reeve b) → (core t a).run = (core s a).run ∧
          (∃ src, (core t a).async = ⟨0x0F, 0, src⟩ :: (core s a).async) ∧ (tile t a).vec.trapped = true ∧
          (tile t a).mat.paused = true ∧ (tile t a).mov.paused = true)) ∧
  (∀ (s : State) (u a c : Nat) (k : Task), lookup s.tasks u = some k → k.state = .running → k.killed = none → a ∈ gangOf k →
    (tile s a).killAt = some c → c + 2 ^ (die s k.die).pgrace ≤ s.now →
    ∃ t, exec (.forcedKill u) s = .next t ∧ killed s t u k 0x10 .close) ∧
  (∀ (s : State) (u : Nat) (k : Task), lookup s.tasks u = some k → preemptible s k = true →
    ∃ t, exec (.preemptRequest u) s = .next t ∧ t.tasks = s.tasks ∧ t.mem = s.mem ∧
      ∀ a ∈ gangOf k, (tile t a).preemptAt = (tile s a).preemptAt.orElse (fun _ => some s.now) ∧ (core t a) = (core s a)) ∧
  (∀ (s : State) (u a c : Nat) (k : Task), lookup s.tasks u = some k → k.state = .running → k.killed = none → a ∈ gangOf k →
    (gangOf k).Nodup → (tile s a).preemptAt = some c → c + 2 ^ (die s k.die).pgrace ≤ s.now →
    (∀ b ∈ gangOf k, stopped s b = false ∧ killable (core s b).wait = true) →
    (k.hdr.killable = true → ∃ t, exec (.heavySave u) s = .next t ∧ killed s t u k 0x10 .kill) ∧
    (k.hdr.killable = false → syncPending s (gangOf k) = false → (freeSlots s k.ctx (gangOf k).length).length = (gangOf k).length →
      ∃ t k', exec (.heavySave u) s = .next t ∧ lookup t.tasks u = some k' ∧ k'.state = .suspended ∧ k'.heavy = true ∧
        k'.slots = freeSlots s k.ctx (gangOf k).length ∧
        ∀ b ∈ gangOf k, (tile t b).task = none ∧ (tile t b).pad = (tile s b).pad ∧
          ∃ y, lookup k'.saved b = some y ∧ y.core.s = (core s b).s ∧ y.core.p = (core s b).p ∧ y.core.pc = (core s b).pc ∧
            y.vec.v = (tile s b).vec.v ∧ y.mat.acc = (tile s b).mat.acc ∧ y.reed.slots = (tile s b).reed.slots ∧
            ∀ x, getB y.pad x = if x < k.hdr.scratch then getB (tile s b).pad x else 0)) ∧
  (∀ (s : State) (u : Nat) (k : Task), lookup s.tasks u = some k → k.state = .suspended → k.killed = none → ¬late s k → k.ovf = [] → k.ovfLost = [] →
    (gangOf k).Nodup → (∀ a ∈ gangOf k, (tile s a).task = none ∧ placedOn s a = none) →
    ∃ t k', exec (.contextResume u) s = .next t ∧ lookup t.tasks u = some k' ∧ k'.state = .running ∧ t.mem = s.mem ∧
      ∀ a ∈ gangOf k, ∀ y, lookup k.saved a = some y → (tile t a).task = some u ∧ (core t a).s = y.core.s ∧ (core t a).p = y.core.p ∧
        (core t a).pc = y.core.pc ∧ (core t a).run = y.core.run ∧ (tile t a).vec.v = y.vec.v ∧ (tile t a).mat.acc = y.mat.acc ∧
        (tile t a).reed.slots = y.reed.slots ∧ (tile t a).reed.port = (tile s a).reed.port ∧ (tile t a).reed.taken = (tile s a).reed.taken ∧
        (tile t a).reed.heads = (tile s a).reed.heads ∧ (∀ x < k.hdr.scratch, getB (tile t a).pad x = getB y.pad x) ∧
        ∀ x, k.hdr.scratch ≤ x → lookup y.pad x = none → getB (tile t a).pad x = getB (tile s a).pad x)

/-! ## The collective die and the host -/

/-- R370: an aligned write of eight words whose first bit is set arms a group that is not armed, when every field is in range, the reduction
memory is free and the feature is enabled; a write to an armed group is dropped. One whose first bit is clear disarms it: what it holds
and what is on its way to it is dropped, its reserved word reads zero (R6), and its state is the one it
had. R371: a burst
that a group does not hold is counted once for its case, contributor, block and round, and folds nothing; one it holds joins its block, and
a block whose last element it brings folds whole, an integer group by wrapping addition. R372: from the cycle its round is to close on a
group is CLOSING and holds no burst.
The model's choice: a round is to close when every contributor is complete, whatever the weight (log entry 33). -/
def Obligations.SwitchGroupsFold : Prop :=
  (∀ (s : State) (g : Nat) (data : List Word), s.dev.stage = .up → s.dev.d3hot = false → data.length = 8 → g < 65536 →
    ((data.getD 0 0).getLsbD 63 = true →
      ((switchGroup s g).armed = true → exec (.switchGroupArm g data) s = .next s) ∧
      ((switchGroup s g).armed = false → descOk data = true → memoryTaken s g data = false → feature s 9 = true →
        ∃ t, exec (.switchGroupArm g data) s = .next t ∧ switchGroup t g = { Group.empty with desc := data, armed := true } ∧
          (∀ h, h ≠ g → switchGroup t h = switchGroup s h) ∧ t.mem = s.mem ∧ t.tiles = s.tiles)) ∧
    ((data.getD 0 0).getLsbD 63 = false →
      ∃ t, exec (.switchGroupDisarm g data) s = .next t ∧ (switchGroup t g).armed = false ∧ (switchGroup t g).held = [] ∧
        groupState t.now (switchGroup t g) = groupState s.now (switchGroup s g) ∧
        ((switchGroup s g).armed = true → ∀ y ∈ t.transit, y.dst ≠ 1024 + g) ∧ (switchGroup t g).desc.getD 7 0 = 0 ∧
        (switchGroup t g).round = (switchGroup s g).round ∧ (∀ h, h ≠ g → switchGroup t h = switchGroup s h) ∧ t.mem = s.mem)) ∧
  (∀ (s : State) (k g : Nat) (y : Transit), s.transit[k]? = some y → y.dst = 1024 + g → y.due ≤ s.now → overtakes s.transit k y = false →
    portHolds s y.dst y = false → reaches s y.src y.dst = true →
    let x := switchGroup s g
    let b := y.b
    let n := blockElems b.fmt
    let blk := b.coords.getD 0 0 / n
    let key := b.contrib * 65536 + blk
    let taken := fun (after : Group → Prop) => ∃ t, exec (.switchBurstArrival k) s = .next t ∧ t.transit = s.transit.eraseIdx k ∧
      after (switchGroup t g) ∧ (∀ h, h ≠ g → switchGroup t h = switchGroup s h) ∧ t.mem = s.mem ∧ t.tiles = s.tiles
    let once := fun (c : Nat) => if x.seen.contains (c, b.contrib, blk, b.coords.getD 1 0 % 256) then 0 else 1
    let add := fun (m c : Nat) => if once c = 1 then Nat.min (m + 1) 65535 else m
    (switchCase s.now x b = .dup → taken (fun z => z.acc = x.acc ∧ z.held = x.held ∧ z.dup = add x.dup 0 ∧ z.late = x.late ∧ z.early = x.early)) ∧
    (switchCase s.now x b = .late → taken (fun z => z.acc = x.acc ∧ z.held = x.held ∧ z.late = add x.late 1 ∧ z.dup = x.dup ∧ z.early = x.early)) ∧
    (switchCase s.now x b = .early → taken (fun z => z.acc = x.acc ∧ z.held = x.held ∧ z.early = add x.early 2 ∧ z.dup = x.dup ∧ z.late = x.late)) ∧
    (roundDue s.now x = true → groupState s.now x = 2 ∧ switchCase s.now x b ≠ .held) ∧
    (switchCase s.now x b = .held →
      let place := fun (e : Elem × Bool) => (b.coords.getD 0 0 + e.1.j) % n
      let there := (x.held.filter (fun e => e.1 / 4096 == key)).length
      (burstElems b).Pairwise (fun e f => place e ≠ place f) →
      (there + (burstElems b).length < n →
        taken (fun z => z.acc = x.acc ∧ z.folded = x.folded ∧ z.weight = x.weight ∧
          ∀ e ∈ burstElems b, e.1.x < 2 ^ 64 → getAt 0 z.held (key * 4096 + place e) % 2 ^ 64 = e.1.x)) ∧
      (gFmt x.desc = INT32 ∨ gFmt x.desc = FIX64 → (x.held.map (·.1)).Pairwise (· < ·) →
        (∀ e ∈ burstElems b, lookup x.held (key * 4096 + place e) = none) → there + (burstElems b).length = n →
        taken (fun z => (lookup z.folded key).isSome = true ∧ (∀ e ∈ z.held, e.1 / 4096 ≠ key) ∧
          (∀ e ∈ burstElems b, (getAt 0 z.acc (blk * 4096 + place e)).toNat =
            ((getAt 0 x.acc (blk * 4096 + place e)).toNat + e.1.x % 2 ^ 64) % 2 ^ fmtWidth b.fmt) ∧
          ∀ i, i / 4096 ≠ blk → getAt 0 z.acc i = getAt 0 x.acc i))))

/-- R372: a round that is due closes: what is not whole is discarded and counted in PART, and its results stand to be sent. They go to the
receivers of the descriptor, each burst with its coordinates, the round, and its block's arrived weight (at most 65535), an integer group
that does not scale with its accumulators as they stand; with the last the group is at the next round, open and empty.
R369, R390: an acknowledgement releases the retained copy it names; a retransmission keeps it. A burst of a flow with the next number is
handed to its tiles or its group and the number goes up; one ahead of it waits, and one received before is discarded. R388, R394: neither comes
from a device all whose ports retrain, or beyond the domain with feature 14 disabled.
The model's choice: a round is due as soon as every contributor is complete, whatever the weight (log entry 33). -/
def Obligations.SwitchRoundsAndDeviceFlows : Prop :=
  (
    (∀ (s : State) (g : Nat), roundDue s.now (switchGroup s g) = true →
      ∃ t, exec (.switchRoundClose g) s = .next t ∧ (switchGroup t g).st = 3 ∧ (switchGroup t g).held = [] ∧
        (switchGroup t g).part = Nat.min ((switchGroup s g).part + (switchGroup s g).heldW.length) 65535 ∧
        (switchGroup t g).acc = (switchGroup s g).acc ∧ (switchGroup t g).round = (switchGroup s g).round ∧
        (∀ h, h ≠ g → switchGroup t h = switchGroup s h) ∧ t.mem = s.mem ∧ t.transit = s.transit) ∧
    (∀ (s : State) (g : Nat), let x := switchGroup s g
      let r := descWord x.desc 4
      let fmt := gFmt x.desc
      let per := 4 * (512 / fmtWidth fmt)
      let n := blockElems fmt
      let tiles := rect (bits r 42 40) (bits r 39 34) (bits r 33 31 + 1) (bits r 30 28 + 1)
      x.armed = true → x.st = 3 → x.sent = 0 → bitOf r 63 = true → descWord x.desc 5 = 0 → descWord x.desc 6 = 0 → descWord x.desc 3 = 0 →
      (fmt = INT32 ∨ fmt = FIX64) → gFill x.desc = 0 →
      ∃ t xs, exec (.switchRoundAdvance g) s = .next t ∧ t.transit = s.transit ++ xs ∧
        xs.length = gBlocks x.desc * n / per * tiles.length ∧
        (∀ i < gBlocks x.desc * n / per, ∀ (j a : Nat), tiles[j]? = some a → ∃ y, xs[i * tiles.length + j]? = some y ∧ y.dst = a ∧ y.cls = 1 ∧
          y.b.tensor = bits (descWord x.desc 2) 31 0 ∧ y.b.fmt = fmt ∧ y.b.coords = [per * i, x.round] ∧ y.b.runlen = per ∧
          y.b.weight = Nat.min (getAt 0 x.aw (per * i / n)) 65535 ∧
          ∀ e < per, burstElem y.b (fmtWidth fmt) e =
            (getAt 0 x.acc ((per * i + e) / n * 4096 + (per * i + e) % n)).toNat % 2 ^ fmtWidth fmt) ∧
        (switchGroup t g).round = (x.round + 1) % 256 ∧ (switchGroup t g).st = 0 ∧ (switchGroup t g).acc = [] ∧
        (switchGroup t g).folded = [] ∧ (switchGroup t g).weight = 0 ∧ (switchGroup t g).desc = x.desc ∧
        (∀ h, h ≠ g → switchGroup t h = switchGroup s h) ∧ t.mem = s.mem)) ∧
  (
    (∀ (s : State) (dev cls seq : Nat) (e : Nat × DevBurst), (findFlow s.dev.flows dev cls).kept.find? (fun e => e.1 == seq) = some e →
      (linkedTo s dev = false → exec (.burstAck dev cls seq) s = .next s) ∧
      (linkedTo s dev = true → ∃ t, exec (.burstAck dev cls seq) s = .next t ∧
        (findFlow t.dev.flows dev cls).kept = (findFlow s.dev.flows dev cls).kept.filter (fun e => e.1 != seq) ∧
        t.dev.staging = s.dev.staging - (if dev / 1024 = s.dev.devid / 1024 then 0 else 64 * burstFlits e.2.b) ∧
        t.mem = s.mem ∧ t.tiles = s.tiles ∧ t.transit = s.transit)) ∧
    (∀ (s : State) (dev cls seq : Nat), exec (.burstRetransmit dev cls seq) s = .next s) ∧
    (∀ (s : State) (b : DevBurst), s.dev.stage = .up → b.seq < 2 ^ 48 → linkedTo s b.src = true →
      let f := findFlow s.dev.flows b.src b.cls
      f.recv < 2 ^ 48 →
      (b.seq = f.recv → f.wait = [] →
        ∃ t xs, exec (.deviceBurstReceive b) s = .next t ∧ t.transit = s.transit ++ xs ∧
          xs.map (·.dst) = (match b.group with | some g => if g < 65536 then [1024 + g] else [] | none => rect b.die b.tile (b.mw + 1) (b.mh + 1)) ∧
          (∀ x ∈ xs, x.b = b.b ∧ x.cls = b.cls ∧ x.ctx = b.ctx ∧ x.num = b.seq) ∧
          (findFlow t.dev.flows b.src b.cls).recv = (f.recv + 1) % 2 ^ 48 ∧ (findFlow t.dev.flows b.src b.cls).wait = [] ∧ t.mem = s.mem) ∧
      (f.recv < b.seq → b.seq < f.recv + 2 ^ 47 → f.wait = [] →
        ∃ t, exec (.deviceBurstReceive b) s = .next t ∧ t.transit = s.transit ∧ (findFlow t.dev.flows b.src b.cls).recv = f.recv ∧
          (findFlow t.dev.flows b.src b.cls).wait = [b] ∧ t.mem = s.mem) ∧
      (b.seq < f.recv → f.recv < b.seq + 2 ^ 47 → exec (.deviceBurstReceive b) s = .next s)) ∧
    (∀ (s : State) (b : DevBurst), linkedTo s b.src = false → exec (.deviceBurstReceive b) s = .next s))

/-- R140, R146, R348, R354, R361: a command word naming a tile and the context of the task it runs. RESUME of a core that has halted, or
whose trap the reeve core has forwarded, goes on at TRAPPC; END ends its task with the trap's cause, a tile whose word has begun its PHASE
or waits for a collapse first completing it; PREEMPT requests pre-emption of a gang that can be saved. A word with a reserved bit or
another context is refused, reported and changes no tile.
R312, R358, R362, R373, R395, R398, R403: EVSIZE takes 6 to 20; EVBASE takes its base and enable bit, and with no event held nothing is
written; FFPUSH puts a frame on a die's list, or discards and counts it; CTXREG registers or forgets a context, or is reported; SLUICEW and
FEATEN take their fields, FEATEN only before the lock; EVTAIL, REPLQ, QSEL and SEMPA take a whole aligned write of theirs, and a write that
only touches a trigger register is dropped and reported.
The model's choices: how END writes an ending, and cause 0 for a tile that has halted (log entry 31); the die that the event of a refused
command names (log entry 32); a register write to a die that no path reaches is dropped (log entry 40). -/
def Obligations.HostCommandsAndRegisters : Prop :=
  (
    ∀ (s : State) (w : Word) (k : Task) (u : Nat), hostOpen s = true →
      let a := 64 * bits w.toNat 59 57 + bits w.toNat 56 51
      let good := bits w.toNat 38 0 = 0 ∧ bits w.toNat 59 57 < 4 ∧ taskOf s a = some k ∧ (tile s a).task = some u ∧
        k.ctx.id = bits w.toNat 50 39 ∧ diePath s 4 (bits w.toNat 59 57) = true
      let held := (core s a).run = .reeve true ∨ (core s a).run = .halted
      (good → held → bits w.toNat 63 60 = 1 → ∃ t, exec (.cmdResume w) s = .next t ∧ (core t a).run = .running ∧ (core t a).wait = .none ∧
        (core t a).pc = (core s a).trapPc.toNat ∧ (∀ r, rdS (core t a) r = rdS (core s a) r) ∧
        ((core s a).run = .reeve true → (core t a).trapIn = false) ∧ ((core s a).run = .halted → (core t a).trapIn = (core s a).trapIn) ∧
        (tile t a).mat.parked = false ∧ (tile t a).mov.parked = none ∧ (tile t a).mat.paused = false ∧ (tile t a).mov.paused = false ∧
        (tile t a).vec.trapped = false ∧ t.mem = s.mem) ∧
      (good → held → bits w.toNat 63 60 = 2 → lookup s.tasks u = some k → ∃ t, exec (.cmdEnd w) s = .next t ∧
        lookup t.tasks u = some { k with killed := some (if (core s a).run = .halted then 0 else (core s a).trapCause.toNat, .ended) } ∧
        (a ∈ gangOf k → k.hdr.killable = false → killable (core s a).wait = true → (core t a).run = .ending) ∧
        (killable (core s a).wait = false → (core t a).run = (core s a).run ∧ (core t a).wait = (core s a).wait)) ∧
      (good → bits w.toNat 63 60 = 3 → preemptible s k = true → lookup s.tasks u = some k → ∃ t, exec (.cmdPreempt w) s = .next t ∧
        (∀ b ∈ gangOf k, (tile t b).preemptAt.isSome = true) ∧ t.tasks = s.tasks ∧ t.mem = s.mem) ∧
      (bits w.toNat 38 0 ≠ 0 ∨ (taskOf s a = some k ∧ k.ctx.id ≠ bits w.toNat 50 39 ∧ diePath s 4 (bits w.toNat 59 57) = true ∧ bits w.toNat 59 57 < 4) →
        ∀ i, i = .cmdResume w ∨ i = .cmdEnd w ∨ i = .cmdPreempt w →
          ∃ t, exec i s = .next t ∧ Recorded s t 0x09 0 (bits w.toNat 59 57) ∧ t.tiles = s.tiles ∧ t.tasks = s.tasks)) ∧
  (
    ∀ (s : State) (w : Word), hostOpen s = true →
      let x := w.toNat
      let only := fun (i : Instr) (v : Dev) => ∃ t, exec i s = .next t ∧ t.dev = v ∧ t.mem = s.mem ∧ t.tiles = s.tiles ∧ t.dies = s.dies
      (6 ≤ bits x 4 0 → bits x 4 0 ≤ 20 → only (.evsizeWrite w) { s.dev with evsize := bits x 4 0 }) ∧
      (s.dev.evheld = [] → s.dev.evlost < 65536 →
        only (.evbaseWrite w) { s.dev with evbase := BitVec.ofNat 64 (bits x 51 12 * 4096 + bits x 0 0) }) ∧
      (∀ d < 4, diePath s 4 d = false → exec (.ffpush d w) s = .next s ∧ exec (.sluicewWrite d w) s = .next s) ∧
      (∀ d < 4, diePath s 4 d = true → bits x 62 36 = 0 → bits x 15 0 = 0 → (bitOf x 63 = true → bits x 20 16 = 0) →
        (if bitOf x 63 then (die s d).free2m.length < 256 else (die s d).free64.length < 1024) →
        ∃ t, exec (.ffpush d w) s = .next t ∧ t.mem = s.mem ∧
          (die t d).free2m = (if bitOf x 63 then (die s d).free2m ++ [bits x 35 16 * 65536] else (die s d).free2m) ∧
          (die t d).free64 = (if bitOf x 63 then (die s d).free64 else (die s d).free64 ++ [bits x 35 16 * 65536])) ∧
      (∀ d < 4, diePath s 4 d = true → bits x 62 36 ≠ 0 ∨ bits x 15 0 ≠ 0 →
        ∃ t, exec (.ffpush d w) s = .next t ∧ (die t d).free2m = (die s d).free2m ∧ (die t d).free64 = (die s d).free64 ∧
          counter t d 0x02 = Nat.min (counter s d 0x02 + 1) (2 ^ 48 - 1)) ∧
      (bits x 63 52 ≠ 0 → bits x 5 1 = 0 → ∃ t, exec (.ctxreg w) s = .next t ∧ t.mem = s.mem ∧ t.tiles = s.tiles ∧
        lookup t.dev.registry (bits x 63 52) = (if bitOf x 0 then some (bits x 51 6 * 64) else none) ∧
        ∀ i, i ≠ bits x 63 52 → lookup t.dev.registry i = lookup s.dev.registry i) ∧
      (bits x 63 52 = 0 ∨ bits x 5 1 ≠ 0 → ∃ t, exec (.ctxreg w) s = .next t ∧ Recorded s t 0x09 0 4 ∧ t.dev.registry = s.dev.registry) ∧
      (∀ d < 5, diePath s 4 d = true → ∃ t, exec (.sluicewWrite d w) s = .next t ∧ t.mem = s.mem ∧ t.tiles = s.tiles ∧
        (die t d).sluicew.toNat = if d = 4 then x % 2 ^ 48 else x % 2 ^ 48 / 2 ^ 24 * 2 ^ 24) ∧
      (s.dev.featLock = true → ∀ i, exec (.featenWrite i w) s = .next s) ∧
      (s.dev.featLock = false → ∀ i < 4, ∃ t, exec (.featenWrite i w) s = .next t ∧ t.mem = s.mem ∧ t.tiles = s.tiles ∧
        (∀ n, 64 * i ≤ n → n < 64 * (i + 1) → feature t n = (decide (n < 16) && w.getLsbD n)) ∧
        ∀ n, n < 64 * i ∨ 64 * (i + 1) ≤ n → feature t n = feature s n) ∧
      (only (.bar0RegisterWrite 0x3018 (bytesOf x 8)) { s.dev with evtail := x % 2 ^ 48 } ∧
       only (.bar0RegisterWrite 0x5000 (bytesOf x 8)) { s.dev with replq := w } ∧
       only (.bar0RegisterWrite 0x10000 (bytesOf x 8)) { s.dev with qsel := BitVec.ofNat 64 (x / 2 ^ 30 * 2 ^ 30) } ∧
       only (.bar0RegisterWrite 0x200000 (bytesOf x 8)) { s.dev with sempa := bits x 51 20 * 2 ^ 20 } ∧
       ∀ d < 4, ∃ t, exec (.bar0RegisterWrite (0x1000 + 0x40 * d) (bytesOf x 8)) s = .next t ∧ Recorded s t 0x06 0 d ∧ t.tiles = s.tiles ∧ t.runs = s.runs))

/-- R358, R360, R384, R396, R397: while the device is up and in D0, the semaphore window reads, writes, adds to and compares and swaps the
eight bytes at the page SEMPA names, each answer the bytes before; BAR2 reads and writes local memory below 2^38 byte for byte, and
reads all ones beyond; otherwise a read answers zeros or ones and a write does nothing. A listed register of BAR0 read with another size or
alignment reads all ones, an offset that is not listed zeros, and one that stands on a die which no path reaches poisoned data. A FetchAdd
on the request count asks for a report, which is written to the buffer the mailbox names, with its event. R389, R392: of a die that no
path reaches, a read or an atomic answers poisoned data, and a write is dropped.
R282, R364: an access of another device to this one's memory performs at its home: a read is answered with the bytes there, a write stores
its bytes and no other, an atomic stores what R107 gives and is answered with what stood there. None comes to a device that is not up, or
has no link to the other.
The model's choices: how an access of another device comes and what is answered (log entry 15); in D3hot an access is answered as before
bring-up, and an event whose condition does not hold changes nothing (log entries 13 and 21); that the host's accesses fail at a die that
no path reaches, and that a report waits for its mailbox's die (log entry 40). -/
def Obligations.HostMemoryAccesses : Prop :=
  let poisoned := fun (s t : State) (n : Nat) => ∃ bs : List Byte, bs.length = n ∧ t.replies = (bs, true) :: s.replies ∧ t.mem = s.mem ∧ t.tiles = s.tiles
  (∀ (s : State) (off : Nat) (w v : Word), hostOpen s = true →
    let pa := s.dev.sempa + off
    let answered := fun (t : State) => ∃ bad, t.replies = (bytesOf (readN s.mem pa 8) 8, bad) :: s.replies
    let holds := fun (t : State) (x : Nat) => readN t.mem pa 8 = x % 2 ^ 64 ∧
      (∀ a, a < pa ∨ pa + 8 ≤ a → getB t.mem a = getB s.mem a) ∧ t.tiles = s.tiles
    off % 8 = 0 → off < 2 ^ 20 → pa + 8 ≤ 2 ^ 38 →
    if lostAt s hostAgent pa then exec (.semWindowWrite off w) s = .next s ∧
      ∀ i, i = .semWindowRead off ∨ i = .semWindowFetchadd off w ∨ i = .semWindowCas off w v → ∃ t, exec i s = .next t ∧ poisoned s t 8 ∧
        t.dev = s.dev
    else
    (∃ t, exec (.semWindowRead off) s = .next t ∧ answered t ∧ t.mem = s.mem ∧ t.tiles = s.tiles) ∧
    (∃ t, exec (.semWindowWrite off w) s = .next t ∧ holds t w.toNat ∧ t.replies = s.replies) ∧
    (∃ t, exec (.semWindowFetchadd off w) s = .next t ∧ holds t (readN s.mem pa 8 + w.toNat) ∧ answered t ∧
      t.dev.attest = if off = 0xFFFF8 then s.dev.attest ++ [(readN s.mem pa 8 + w.toNat) % 2 ^ 64] else s.dev.attest) ∧
    (∃ t, exec (.semWindowCas off w v) s = .next t ∧ answered t ∧
      holds t (if readN s.mem pa 8 = w.toNat then v.toNat else readN s.mem pa 8))) ∧
  (∀ (s : State) (w : Word), hostOpen s = true → s.dev.sempa + 2 ^ 20 ≤ 2 ^ 38 → lostAt s hostAgent (s.dev.sempa + 0xFFFF8) = false →
    ∃ t, exec (.attestationRequest w) s = .next t ∧
      t.dev.attest = s.dev.attest ++ [(readN s.mem (s.dev.sempa + 0xFFFF8) 8 + w.toNat) % 2 ^ 64] ∧
      readN t.mem (s.dev.sempa + 0xFFFF8) 8 = (readN s.mem (s.dev.sempa + 0xFFFF8) 8 + w.toNat) % 2 ^ 64) ∧
  (∀ (s : State) (n : Nat) (ns : List Nat), s.dev.attest = n :: ns →
    if lostAt s hostAgent (s.dev.sempa + 0xFFFC0) then exec .attestationReport s = .next s else
    let buf := readN s.mem (s.dev.sempa + 0xFFFE0) 8
    ∃ t, exec .attestationReport s = .next t ∧ t.dev.attest = ns ∧ t.tiles = s.tiles ∧
      (buf % 4096 = 0 → buf + 8192 ≤ 2 ^ 52 → s.dev.evbase.toNat % 2 = 0 →
        readN t.mem (hostBase + buf) 4 = 1 ∧ readN t.mem (hostBase + buf + 4) 4 = 7619 ∧
        readN t.mem (hostBase + buf + 16) 32 = readN s.mem (s.dev.sempa + 0xFFFC0) 32 ∧
        ∀ a, a < hostBase + buf ∨ hostBase + buf + 7619 ≤ a → getB t.mem a = getB s.mem a) ∧
      (buf % 4096 ≠ 0 ∨ 2 ^ 52 < buf + 8192 → Recorded s t 0x30 0 4)) ∧
  (∀ (s : State) (off : Nat) (data : List Byte), hostOpen s = true → off + data.length ≤ 2 ^ 38 →
    ∃ t, exec (.bar2Write off data) s = .next t ∧ (∀ i, (h : i < data.length) →
        getB t.mem (off + i) = if lostAt s hostAgent (off + i) then getB s.mem (off + i) else data[i]) ∧
      (∀ a, a < off ∨ off + data.length ≤ a → getB t.mem a = getB s.mem a) ∧ t.tiles = s.tiles) ∧
  (∀ (s : State) (off n : Nat),
    (hostOpen s = true → off + n ≤ 2 ^ 38 → (∃ p ∈ diePieces off n, lostAt s hostAgent p.1 = true) →
      ∃ t, exec (.bar2Read off n) s = .next t ∧ poisoned s t n) ∧
    (hostOpen s = true → off + n ≤ 2 ^ 38 → off < 2 ^ 38 → (∀ p ∈ diePieces off n, lostAt s hostAgent p.1 = false) → ∃ t bs bad, exec (.bar2Read off n) s = .next t ∧ t.replies = (bs, bad) :: s.replies ∧
      bs.length = n ∧ (∀ i, (h : i < bs.length) → bs[i] = getB s.mem (off + i)) ∧ t.mem = s.mem) ∧
    (hostOpen s = true → 2 ^ 38 ≤ off → ∃ t, exec (.bar2Read off n) s = .next t ∧
      t.replies = (List.replicate n 0xFF, false) :: s.replies ∧ t.mem = s.mem)) ∧
  (∀ (s : State) (off : Nat) (w v : Word) (data : List Byte), hostOpen s = false →
    exec (.semWindowWrite off w) s = .next s ∧ exec (.semWindowFetchadd off w) s = .next s ∧ exec (.semWindowCas off w v) s = .next s ∧
    exec (.bar2Write off data) s = .next s ∧ exec (.bar0RegisterWrite off data) s = .next s ∧ exec (.attestationRequest w) s = .next s ∧
    ∃ t, exec (.semWindowRead off) s = .next t ∧ t.replies = (List.replicate 8 0, false) :: s.replies ∧ t.mem = s.mem) ∧
  (∀ (s : State) (off n : Nat) (ts : List Turn), syncNow s = none → s.agenda = .readReg off n :: ts → hostOpen s = true →
    (off < 0x100000 ∨ 0x200000 ≤ off) →
    (n = 8 → off % 8 = 0 → registerLost s off = true → ∃ t, step s = .next t ∧ poisoned s t n) ∧
    ((n = 8 → off % 8 = 0 → registerLost s off = false) →
    ∃ t bs, step s = .next t ∧ t.replies = (bs, false) :: s.replies ∧ t.mem = s.mem ∧ t.tiles = s.tiles ∧
      (bar0Listed off n = true → n ≠ 8 ∨ off % 8 ≠ 0 → bs = List.replicate n 0xFF) ∧ (bar0Listed off n = false → bs = List.replicate n 0) ∧
      (n = 8 → off = 0x3010 → bs = bytesOf (s.dev.evlost * 2 ^ 48 + s.dev.evhead) 8))) ∧
  (∀ (s : State) (dev : Nat) (q : PeerAccess) (ts : List Turn), syncNow s = none → s.agenda = .peer dev q :: ts →
    let a := 65536 + dev
    let ga := q.span.1
    let n := q.span.2
    let lost := ∃ p ∈ diePieces ga n, lostAt s a p.1 = true
    let comes := s.dev.stage = .up ∧ linkedTo s dev = true ∧ ga + n ≤ 2 ^ 38 ∧ ∀ p ∈ diePieces ga n, wayOpen s a (homeDie p.1) = true
    let answers := fun (t : State) (now : List Byte → Prop) => ∃ bs bad, t.peerReplies = (dev, bs, bad) :: s.peerReplies ∧ bs.length = n ∧
      (lost → bad = true) ∧ (¬lost → now bs ∧ bad = poisonedAt s.memPoison 32 ga n)
    (¬comes → step s = .next { s with agenda := ts }) ∧
    (comes → ∃ t, step s = .next t ∧ t.tiles = s.tiles ∧ t.runs = s.runs ∧ t.replies = s.replies ∧
      (∀ x, x < ga ∨ ga + n ≤ x → getB t.mem x = getB s.mem x) ∧
      match q with
      | .read _ _ => t.mem = s.mem ∧ answers t fun bs => ∀ i, (h : i < bs.length) → bs[i] = getB s.mem (ga + i)
      | .write _ data => t.peerReplies = s.peerReplies ∧ ∀ i, (h : i < data.length) →
          getB t.mem (ga + i) = if lostAt s a (ga + i) then getB s.mem (ga + i) else data[i]
      | .atomic _ _ op v c => answers t (fun bs => bs = bytesOf (readN s.mem ga n) n ∧
            readN t.mem ga n = aopResult op (8 * n) (readN s.mem ga n) (v % 2 ^ (8 * n)) (c % 2 ^ (8 * n)) % 2 ^ (8 * n)) ∧
          (lost → t.mem = s.mem)))

/-! ## Faults, repairs, power -/

/-- R378, R379, R383 to R386: a tile whose task has stalled for 2^QUAGLIM cycles and has not reported gets an asynchronous trap of cause
0x11 and is marked; a scrub that corrects, a CRC retry and an uncorrectable error count. The last poisons the place it names: a line of
memory (R387), a granule of a scratchpad, of v registers or of dirty L1 data, an accumulator word, a payload flit; of a clean L1 line the
error is none, and the line goes. A tile out of service gives its position to a spare site, or without one is absent, and its task ends
abnormally with cause 0x16.
R364, R369, R388 to R390: a lane that fails, while its link retrains too, takes a spare of its direction of its Oluic link, or halves a
UALink port, and the link retrains until it is done; a link or port that fails is out of use. What an AMOS.CO asks of a die that no path
reaches goes with the link.
A failed Oluic link that trains again works again, and a die reached again has been reset. With the last port to a device, or to a member
that leads to it, the device has no route; a device silent for 2^32 cycles is lost, and what was retained for it is gone; a reset of both
ends establishes its flows anew.
The model's choices: an event names the place it strikes by itself (log entry 14); a failed Oluic link trains again by the event of its
retraining (log entry 32); how an abnormal end is written (log entry 31). -/
def Obligations.FaultsAndLinks : Prop :=
  (
    let counted := fun (s t : State) (d code : Nat) => counter t d code = Nat.min (counter s d code + 1) (2 ^ 48 - 1)
    let struck := fun (s : State) (d h : Nat) (p : Place) (more : State → Prop) =>
      if h < 1 ∨ 6 < h then exec (.uncorrectableError d h p) s = .next s
      else ∃ t, exec (.uncorrectableError d h p) s = .next t ∧ counted s t d 0x06 ∧ more t
    (∀ (s : State) (a : Nat) (k : Task), taskOf s a = some k → (die s (dieOf a)).quaglim ≠ 0 → (tile s a).reported = false →
      2 ^ (die s (dieOf a)).quaglim ≤ (tile s a).stalled →
      ∃ t src, exec (.quagExpiry a) s = .next t ∧ (tile t a).reported = true ∧ (core t a).async = (core s a).async ++ [⟨0x11, 0, src⟩] ∧
        (core t a).latch = true ∧ (tile t a).vec = (tile s a).vec ∧ (tile t a).pad = (tile s a).pad ∧
        ∀ b, b ≠ a → tile t b = tile s b) ∧
    (∀ (s : State) (line : Nat), exec (.scrub line false) s = .next s ∧
      ∃ t, exec (.scrub line true) s = .next t ∧ counted s t (homeDie (128 * line)) 0x05 ∧ t.tiles = s.tiles) ∧
    (∀ (s : State) (d : Nat), ∃ t, exec (.crcRetry d) s = .next t ∧ counted s t d 0x07 ∧ t.tiles = s.tiles ∧ t.transit = s.transit) ∧
    (∀ (s : State) (d h pa : Nat), struck s d h (.mem pa) fun t =>
      (∀ x, x / 128 = pa / 128 → t.memPoison.contains (x / 32) = true) ∧ t.tiles = s.tiles) ∧
    (∀ (s : State) (d h a x : Nat),
      struck s d h (.pad a x) (fun t => (tile t a).padPoison.contains (x / 8) = true ∧ (tile t a).pad = (tile s a).pad ∧
        (core t a) = (core s a)) ∧
      struck s d h (.vreg a x) (fun t => (tile t a).vec.poison.contains x = true ∧ (tile t a).vec.v = (tile s a).vec.v ∧
        (core t a) = (core s a)) ∧
      struck s d h (.acc a x) (fun t => (tile t a).mat.accPoison.contains x = true ∧ (tile t a).mat.acc = (tile s a).mat.acc ∧
        (core t a) = (core s a)) ∧
      ((∃ y, y / 32 = x / 32 ∧ (ownByte (core s a) y).isSome = true) →
        struck s d h (.l1 a x) (fun t => (core t a).ownPoison.contains (x / 32) = true ∧ t.memPoison = s.memPoison)) ∧
      ((∀ y, y / 32 = x / 32 → ownByte (core s a) y = none) →
        exec (.uncorrectableError d h (.l1 a x)) s = .next (if h < 1 ∨ 6 < h then s else dropLine s a x))) ∧
    (∀ (s : State) (d h i k : Nat) (y : Transit), s.transit[i]? = some y → struck s d h (.flit i k) fun t =>
      ∃ z, t.transit[i]? = some z ∧ z.b.poison.contains k = true ∧ z.b.flits = y.b.flits ∧ t.tiles = s.tiles) ∧
    (∀ (s : State) (d h a k : Nat) (q : Resp), (core s a).resp[k]? = some q → struck s d h (.resp a k) fun t =>
      (core t a).resp[k]? = some { q with bad := true } ∧ (tile t a).pad = (tile s a).pad ∧ t.transit = s.transit) ∧
    (∀ (s : State) (d h a k : Nat) (q : CoResp), (core s a).co[k]? = some q → struck s d h (.co a k) fun t =>
      (∃ q', (core t a).co[k]? = some q' ∧ q'.ans = q.ans.map (fun _ => none)) ∧ (tile t a).pad = (tile s a).pad ∧ t.transit = s.transit) ∧
    (∀ (s : State) (d h a k : Nat) (p : Port), (tile s a).reed.port = some p → struck s d h (.port a false k) fun t =>
      ∃ q, (tile t a).reed.port = some q ∧ q.t.b.poison.contains k = true ∧ q.t.b.flits = p.t.b.flits ∧ t.transit = s.transit) ∧
    (∀ (s : State) (d h g k : Nat), struck s d h (.red g k) fun t =>
      (switchGroup t g).accPoison.contains k = true ∧ (switchGroup t g).acc = (switchGroup s g).acc ∧ t.tiles = s.tiles) ∧
    (∀ (s : State) (a : Nat), a < 256 →
      let n := (die s (dieOf a)).spares
      ∃ t, exec (.tileOutOfService a) s = .next t ∧
        (n ≠ 0 → (die t (dieOf a)).spares = n - 1 ∧ (die t (dieOf a)).spared = (die s (dieOf a)).spared ++ [a] ∧
          (die t (dieOf a)).absent = (die s (dieOf a)).absent) ∧
        (n = 0 → (die t (dieOf a)).spares = 0 ∧ (die t (dieOf a)).absent = (die s (dieOf a)).absent ++ [a]) ∧
        (∀ u k, (tile s a).task = some u → lookup s.tasks u = some k →
          lookup t.tasks u = some { k with killed := some (0x16, .ended) }))) ∧
  (
    (∀ (s : State) (l dir : Nat), l ∉ s.dev.failedLinks → dir < 2 →
      (l < 8 → ∃ t, exec (.laneFailureRetrain ⟨l, dir⟩) s = .next t ∧ l ∈ t.dev.retraining ∧ t.dev.failedLinks = s.dev.failedLinks ∧
        t.tiles = s.tiles ∧
        getAt 2 t.dev.spareLanes (2 * l + dir) = getAt 2 s.dev.spareLanes (2 * l + dir) - 1 ∧
        (∀ i, i ≠ 2 * l + dir → getAt 2 t.dev.spareLanes i = getAt 2 s.dev.spareLanes i) ∧
        (getAt 2 s.dev.spareLanes (2 * l + dir) ≠ 0 → Recorded s t 0x25 0 4) ∧
        (getAt 2 s.dev.spareLanes (2 * l + dir) = 0 → t.mem = s.mem ∧ t.dev.evhead = s.dev.evhead ∧ t.dev.evlost = s.dev.evlost)) ∧
      (8 ≤ l → l < 24 → ∃ t, exec (.laneFailureRetrain ⟨l, dir⟩) s = .next t ∧ l ∈ t.dev.retraining ∧ l ∈ t.dev.halfWidth ∧
        Recorded s t 0x25 0 4 ∧ t.tiles = s.tiles)) ∧
    (∀ (s : State) (l : Nat),
      let works := { s with dev := { s.dev with failedLinks := s.dev.failedLinks.filter (· != l) } }
      ∃ t, exec (.linkRetrainingComplete l) s = .next t ∧ l ∉ t.dev.retraining ∧
        (∀ m, m ≠ l → (m ∈ t.dev.retraining ↔ m ∈ s.dev.retraining)) ∧ (l < 8 → l ∉ t.dev.failedLinks) ∧
        (8 ≤ l ∨ l ∉ s.dev.failedLinks → t.mem = s.mem ∧ t.tiles = s.tiles ∧ t.transit = s.transit) ∧
        (l < 8 → ∀ d < 4, unreachable s d = true → unreachable works d = false →
          (die t d).incarn = ((die s d).incarn + 1) % 2 ^ 16 ∧ cycle t d = 0)) ∧
    (∀ (s : State) (l : Nat), l < 8 → l ∉ s.dev.failedLinks → ∃ t, exec (.oluicLinkFailure l) s = .next t ∧
      t.dev.failedLinks = s.dev.failedLinks ++ [l] ∧ l ∉ t.dev.retraining ∧
      (∀ y, y ∈ t.transit ↔ y ∈ s.transit ∧ (y.b.kind = 1 → y.dst < 256 → diePath t (endDie y.src) (endDie y.dst) = true)) ∧
      ((∀ y ∈ s.transit, y.b.kind ≠ 1) → Recorded s t 0x26 0 4 ∧ t.tiles = s.tiles)) ∧
    (∀ (s : State) (p : Nat), 8 ≤ p → p < 32 → p ∉ s.dev.failedLinks → ∃ t, exec (.devicePortFailure p) s = .next t ∧
      t.dev.failedLinks = s.dev.failedLinks ++ [p] ∧ Recorded s t 0x26 0 4 ∧ t.tiles = s.tiles ∧
      let near := fun (d : Nat) => d / 1024 = s.dev.devid / 1024
      let leads := fun (d : Nat) => ∃ q, q ∉ t.dev.failedLinks ∧ (near d ∧ 8 ≤ q ∧ q < 24 ∨ ¬near d ∧ 24 ≤ q ∧ q < 32) ∧
        ((∀ e ∈ s.dev.ports, e.1 ≠ q) ∨ (q, d) ∈ s.dev.ports)
      ∀ d, d ∈ t.dev.routes ↔ d ∈ s.dev.routes ∧ (leads d ∨ (near d ∧ ∃ e, (d, e) ∈ s.dev.alternates ∧ leads e))) ∧
    (∀ (s : State) (d c : Nat) (f : Flow), d ∉ s.dev.lost → f ∈ s.dev.flows → f.dev = d → f.since = some c → c + 2 ^ 32 ≤ s.now →
      ∃ t, exec (.deviceDeclaredLost d) s = .next t ∧ d ∈ t.dev.lost ∧ (∀ g ∈ t.dev.flows, g.dev = d → g.kept = []) ∧
        (∀ e, e ≠ d → (e ∈ t.dev.lost ↔ e ∈ s.dev.lost)) ∧ t.tiles = s.tiles) ∧
    (∀ (s : State) (d : Nat), ∃ t, exec (.deviceReset d) s = .next t ∧ d ∉ t.dev.lost ∧ (∀ g ∈ t.dev.flows, g.dev ≠ d) ∧
      (∀ g ∈ s.dev.flows, g.dev ≠ d → g ∈ t.dev.flows) ∧ t.mem = s.mem ∧ t.tiles = s.tiles))

/-- R387, R392, R393: a reset of a compute die, quiesced or forced, takes the next incarnation, starts its CYCLE at 0, returns its registers
to their reset values and its tiles' engines and registers to theirs, ends its tasks and drops its queues; responses its tiles awaited are
late from then on, the dirty bytes of PRIV pages go home (R286), and a spare takes the place of each failed slice, of which a die has two
(R12). A forced one also answers the atomic bursts on their way to it with no value, abandons what other dies' tiles have loaded from it
and the SEMWAITs of theirs that it holds, each with trap 0x16 raised asynchronously at its tile, and poisons the dirty lines that cannot be read.
R392, R396, R398, R399: with every image verified bring-up ends with the device up and its id, routes and each die whose channels trained
up at incarnation 0; with one that fails it stays in bring-up. The clock steps to the next one below while its dies are hot, or the module
past its cap, and to the next one above once both have been clear for 2^30 cycles; no other change is made. D3hot is entered only with no
task and no run, keeps memory, and is left for D0.
The model's choices: a die reset leaves the scratchpads as they are (log entry 20); what an abandoned load or SEMWAIT brings (log entry
40); that a step of the clock may follow another at once (log entry 35); a flash image's signature is checked by a function that
the configuration leaves open (log entry 16). -/
def Obligations.ResetsAndPower : Prop :=
  (∀ (s : State) (d : Nat) (slices lines : List Nat), d < 4 →
      let done := fun (i : Instr) (more : State → Prop) => ∃ t, exec i s = .next t ∧ (die t d).incarn = ((die s d).incarn + 1) % 2 ^ 16 ∧
        cycle t d = 0 ∧ t.now = s.now ∧ (die t d).quaglim = 24 ∧ (die t d).pgrace = 22 ∧ (die t d).replctl = 0x0010400400000000 ∧
        (die t d).sluicew = 0x862862000000 ∧ (die t d).queues = [] ∧ (die t d).lltlb = [] ∧ (die t d).up = (die s d).up ∧
        (die t d).sliceSub = (die s d).sliceSub ++ (slices.filter (· < 64)).take (2 - (die s d).sliceSub.length) ∧
        (∀ a, a < 256 → dieOf a = d → (∃ l, (core t a) = { Core.reset with coNext := (core s a).coNext, late := l } ∧
            ∀ q ∈ (core s a).late ++ (core s a).resp ++ coLate (core s a), q ∈ l) ∧
          (tile t a).vec = Vec.reset ∧ (tile t a).mat = Mat.reset ∧ (tile t a).mov = Mov.reset ∧ (tile t a).reed.slots = [] ∧
          (tile t a).reed.well = [] ∧ (tile t a).reed.lost = 0 ∧ (tile t a).task = none ∧ (tile t a).pad = (tile s a).pad) ∧
        (∀ e ∈ t.regions, homeDie (2 ^ 21 * e.1) ≠ d) ∧ (∀ w ∈ t.waits, dieOf w.agent ≠ d) ∧
        (∀ a, a < 256 → dieOf a = d → (∀ e ∈ s.tasks, e.2.d.done = 0) → ((core s a).dirty.map (·.1)).Nodup →
          (∀ b, b ≠ a → (core s b).dirty = []) → ∀ x y, lookup (core s a).dirty x = some y → isLocal x = true → lostAt s a x = false →
            getB t.mem x = y) ∧ more t
      done (.dieReset ⟨d, slices⟩) (fun t => ∀ a, a < 256 → dieOf a = d → (tile t a).reed.port = (tile s a).reed.port) ∧
      done (.dieResetForced ⟨d, slices, lines⟩) (fun t =>
        (∀ x ∈ t.transit, x.dst < 256 → dieOf x.dst = d → x.b.kind ≠ 1) ∧
        (∀ a, a < 256 → dieOf a = d → ∀ p, (tile t a).reed.port = some p → p.t.b.kind ≠ 1) ∧
        (∀ a, a < 256 → dieOf a ≠ d → ∀ (k : Nat) (q : Resp), (core s a).resp[k]? = some q → q.home = d →
          ∃ q' : Resp, (core t a).resp[k]? = some q' ∧ q'.home = 6 ∧ q'.dst = q.dst) ∧
        (∀ w ∈ s.waits, w.agent < 256 → dieOf w.agent ≠ d → isLocal w.ga = true → homeDie w.ga = d →
          w ∉ t.waits ∧ ∃ p ∈ (core t w.agent).async, p.cause = 0x16) ∧
        (s.tasks = [] → ∀ l ∈ lines, isLocal (128 * l) = true → homeDie (128 * l) = d → ∀ i < 4, 4 * l + i ∈ t.memPoison))) ∧
  (
    (∀ (s : State) (b : BringUp), s.dev.stage = .off → ∃ t, exec (.powerOnBringUp b) s = .next t ∧ t.mem = s.mem ∧ t.tiles = s.tiles ∧
      if imagesOk s.dev b.images then t.dev.stage = .up ∧ t.dev.devid = b.devid % 2 ^ 19 ∧ t.dev.routes = b.routes ∧
        t.dev.cxl = (b.cxl && feature s 13) ∧ t.dev.firmware = b.images.map (·.bytes) ∧
        ∀ d < 5, (die t d).incarn = 0 ∧ cycle t d = 0 ∧ ((die t d).up = true ↔ ∀ u ∈ b.untrained, u.1 ≠ d)
      else t = { s with dev := { s.dev with stage := .failed } }) ∧
    (∀ (s : State) (b : BringUp), s.dev.stage ≠ .off → exec (.powerOnBringUp b) s = .next s) ∧
    (∀ (s : State) (m : Nat) (p : Bool),
      let down := clockBelow s.dev.mhz = some m ∧ if p then s.dev.cap = true else s.dev.hot ≠ []
      let up := clockAbove s.dev.mhz = some m ∧ s.dev.hot = [] ∧ s.dev.cap = false ∧ s.dev.clearAt + 2 ^ 30 ≤ s.now
      (down ∨ up → ∃ t, exec (.clockChange m p) s = .next t ∧ t.dev.mhz = m ∧ Recorded s t 0x2A 0 4 ∧ t.tiles = s.tiles ∧ t.now = s.now) ∧
      (¬down → ¬up → exec (.clockChange m p) s = .next s)) ∧
    (∀ s : State, s.dev.stage = .up → (∀ e ∈ s.tasks, e.2.state = .ended) → (∀ r ∈ s.runs, r.2.phase = .idle) →
      ∃ t, exec .d3hotEntry s = .next t ∧ t.dev.d3hot = true ∧ hostOpen t = false ∧ t.mem = s.mem ∧ t.tiles = s.tiles) ∧
    (∀ s : State, s.dev.d3hot = true → ∃ t, exec .d0Return s = .next t ∧ t.dev.d3hot = false ∧ t.mem = s.mem ∧ t.tiles = s.tiles ∧
      t.dev.registry = s.dev.registry))

/-! ## The machine as a whole -/

/-- A step is one turn: with no scheduled flit landing now, the first of the agenda, or with none left the turn in focus after a cycle, before
which a flit that falls due on the new cycle lands (R226, R296). A
turn of a control core at whose place a word decodes, with no kill due, no asynchronous trap at a boundary and no wait that an event ends, is
that word executed for it, and the task's cycles count from then on (R341); of a matrix or move engine that may accept, the record at its
place; of a vector engine, both slots of the pair, the scalar one from what the vector one leaves; and a turn that names an event is that
event, but where a write of a scheduler or reeve core in it waits for a device of a duplicate set (R376): then the event does not come
yet, and its requests go out. A scheduled flit that lands now comes first.
R75, R138: a word, pair or record that does not decode takes trap 0x01, with its opcode in TRAPINFO, and bit 8 where a reserved field or
value failed: at the core a precise trap, at the engines before any effect, with no token popped. R76: so does a unit beyond its bank.
The model's choices: the agenda that orders the turns (log entry 1), that such an event comes whole (log entry 19), that TRAPINFO beyond a
bank is a free value (log entry 5), and SCATTER with SYNC at a sequencer, which is executed to its own fault (log entry 43). -/
def Obligations.StepRunsTheDecodedUnit : Prop :=
  let next := fun (s : State) (u : Turn) (r : State) => syncNow s = none ∧ ((∃ ts, s.agenda = u :: ts ∧ r = { s with agenda := ts }) ∨
    (s.agenda = [] ∧ s.focus = u ∧ r = passCycles 1 s ∧ syncNow r = none))
  let quiet := fun (s : State) (a : Nat) => (∀ k, taskOf s a = some k → k.killed = none) ∧ (core s a).run = .running ∧
    ((core s a).async = [] ∨ atBoundary (core s a).wait = false) ∧ eventWait (core s a).wait = false
  let info := fun (e : DecodeError) => match e with | .unassigned op => BitVec.ofNat 64 op | .reserved op => BitVec.ofNat 64 (op + 256)
  (∀ (s r : State) (a : Nat), next s (.core a) r → quiet r a →
    let s' := beginTask { r with cur := a } a
    let pc := (core r a).pc
    (∀ i, pc < 8192 → decodeAt r a pc = .ok i → step s = exec i s') ∧
    (∀ e, pc < 8192 → decodeAt r a pc = .error e → TrapsBy (step s) s' s' 0x01 (info e)) ∧
    (8192 ≤ pc → TrapsBy (step s) s' s' 0x01 (draw s').1)) ∧
  (∀ (s r : State) (a : Nat) (q : RunState), next s (.matrix a) r → (tile r a).mat.push = none → (tile r a).mat.parked = false →
    (tile r a).mat.paused = false → (tile r a).mat.run = some q → q.stop = false → (tile r a).mat.busy = [] →
    atSafept (core r a).wait = false →
    let s' := { r with cur := a }
    (∀ i, q.pc < 256 → decodeM (fetchM r a q.pc) = .ok i → step s = exec i s') ∧
    (∀ e, q.pc < 256 → decodeM (fetchM r a q.pc) = .error e → MatFaultsBy (step s) s' none 0x01 (info e)) ∧
    (256 ≤ q.pc → MatFaultsBy (step s) s' none 0x01 (draw s').1)) ∧
  (∀ (s r : State) (a : Nat) (q : RunState), next s (.move a) r → (tile r a).mov.push = none → (tile r a).mov.parked = none →
    (tile r a).mov.paused = false → (tile r a).mov.run = some q → q.stop = false → (tile r a).mov.busy = none →
    atSafept (core r a).wait = false →
    let s' := { r with cur := a }
    let w := fetchX r a q.pc
    (∀ i, q.pc < 256 → decodeX w = .ok i → step s = exec i s') ∧
    (∀ e, q.pc < 256 → decodeX w = .error e → seqScatter a w = none → MovFaultsBy (step s) s' s' (bits w 499 494) none 0x01 (info e)) ∧
    (∀ e x, q.pc < 256 → decodeX w = .error e → seqScatter a w = some x → step s = exec (.scatter x) s') ∧
    (256 ≤ q.pc → MovFaultsBy (step s) s' s' 0 none 0x01 (draw s').1)) ∧
  (∀ (s r : State) (a : Nat) (q : RunState), next s (.vector a) r → (tile r a).vec.push = none → (tile r a).vec.flight = [] →
    (tile r a).vec.trapped = false → (tile r a).vec.run = some q → (tile r a).vec.draining = false → atSafept (core r a).wait = false →
    let s' := { r with cur := a }
    let w := fetchV r a q.pc
    (∀ p, q.pc < 2048 → decodeV w = .ok p → rankOf a s' (exec p.k s') = none → rankOf a s' (exec p.v s') = none →
      tokensFor (tile r a).fifo (popsOf p.tok) = true → step s = andThen (exec p.v s') (exec p.k)) ∧
    (∀ e, q.pc < 2048 → decodeV w = .error e → tokensFor (tile r a).fifo (rawPops w) = true → VecTrapsBy (step s) s' 0x01 (info e)) ∧
    (2048 ≤ q.pc → VecTrapsBy (step s) s' 0x01 (draw s').1)) ∧
  (∀ (s r : State) (i : Instr), next s (.event i) r → encode i = .event →
    ∀ t, exec i r = .next t → step s = if t.awaited = r.awaited then .next t else .next (t.awaited.foldl askAway r)) ∧
  (∀ (s : State) (k : Nat), (syncNow s = some k → step s = exec (.syncLanding k) s) ∧
    (syncNow s = none → s.agenda = [] → syncNow (passCycles 1 s) = some k →
      step s = exec (.syncLanding k) { passCycles 1 s with agenda := [s.focus] }))

/-- R58 to R74: the decoder reads from every well-formed instruction's bits that instruction, with every operand at every value its encoding
admits; of a pair, both slots, the guard standing once in it: the vector slot's, which is the scalar slot's where both have the same. And
no bit is dropped: what decodes encodes to the bits it was read from. -/
def Obligations.DecodingInvertsEncoding : Prop :=
  (∀ i : Instr, i.WellFormed →
    (∀ w, encode i = .c [w] → w < 2 ^ 64 ∧ ∀ w1 w2 w3, decodeC w w1 w2 w3 = .ok i) ∧
    (∀ w w1 w2 w3, encode i = .c [w, w1, w2, w3] → decodeC w w1 w2 w3 = .ok i) ∧
    (∀ w, encode i = .m w → w < 2 ^ 512 ∧ decodeM w = .ok i) ∧
    (∀ w, encode i = .x w → w < 2 ^ 512 ∧ decodeX w = .ok i)) ∧
  (∀ (k v : Instr) (a b : Nat), k.WellFormed → v.WellFormed → encode k = .k a → encode v = .v b →
    encodePair a b < 2 ^ 128 ∧ ∃ p, decodeV (encodePair a b) = .ok p ∧ p.v = v ∧ encode p.k = .k a ∧
      (kguard k = some p.g → p.k = k)) ∧
  (∀ (w w1 w2 w3 : Nat) (i : Instr), w < 2 ^ 64 → w1 < 2 ^ 64 → w2 < 2 ^ 64 → w3 < 2 ^ 64 → decodeC w w1 w2 w3 = .ok i →
    i.WellFormed ∧ (encode i = .c [w] ∨ encode i = .c [w, w1, w2, w3])) ∧
  (∀ (w : Nat) (p : Pair), w < 2 ^ 128 → decodeV w = .ok p → p.k.WellFormed ∧ p.v.WellFormed ∧
    ∃ a b, encode p.k = .k a ∧ encode p.v = .v b ∧ encodePair a b = w) ∧
  (∀ (w : Nat) (i : Instr), w < 2 ^ 512 → (decodeM w = .ok i → i.WellFormed ∧ encode i = .m w) ∧
    (decodeX w = .ok i → i.WellFormed ∧ encode i = .x w))

/-- Words of the spec's examples decode to what they stand for: an ADD, an ADDI under a negated guard, LI and LIH, a GBAR, a
MEND, and a pair of KLI and VNOP. -/
def Obligations.ExampleWordsDecode : Prop :=
  let g0 : Guard := ⟨false, 0⟩
  decodeC 0x0000C10800000000 0 0 0 = .ok (.add ⟨g0, 3, 1, 2⟩) ∧
  decodeC 0x20A14503FFFFFFF8 0 0 0 = .ok (.addi ⟨⟨true, 2⟩, 5, 5, 0x3FFFFFFF8⟩) ∧
  decodeC 0x2701800089ABCDEF 0 0 0 = .ok (.li ⟨g0, 6, 0x89ABCDEF⟩) ∧
  decodeC 0x2801860001234567 0 0 0 = .ok (.lih ⟨g0, 6, 6, 0x01234567⟩) ∧
  decodeC 0x5A00000000000001 0 0 0 = .ok (.gbar ⟨g0, 1⟩) ∧
  (∃ r, decodeM (0x0100 * 2 ^ 496) = .ok (.mend r)) ∧
  (∃ p k v, decodeV (0x00104000001000000000000000000000) = .ok p ∧ p.k = .kli k ∧ p.v = .vnop v ∧ k.d = 1 ∧ k.imm = 0x1000)

/-- Every step keeps the memory of the device, the host and the peers in its one canonical form, so that equal memories are equal data.
The model's choice: what an unlisted byte reads as (log entry 3). -/
def Obligations.StepKeepsMemoryCanonical : Prop :=
  ∀ s t : State, Canonical s → step s = .next t → Canonical t

/-- R20, R54, R180, R221, R319, R342, R362, R373, R378, R394, R395, R398: what reset leaves, in the values the spec gives: no tile with a task, the
generators' seeds, the planes' format and scales, FEATEN with every feature and no lock, the event ring of 64 records disabled, QUAGLIM,
PGRACE, REPLCTL and SLUICEW of each die, INCARN 0, the device not yet up; and the memory is canonical.
The spec gives the planes, the FIFOs and the stray policy at task start, not at power-on: that a tile holds them at reset, that it has no
task and that no core runs are the model's choice (log entry 2), and so is what memory lists (log entry 3). -/
def Obligations.ResetValues : Prop :=
  let s := State.reset
  Canonical s ∧ s.dev.stage = .off ∧ (∀ n, feature s n = decide (n < 16)) ∧ s.dev.featLock = false ∧ s.dev.evsize = 6 ∧
    s.dev.evbase = 0 ∧ s.dev.evlost = 0 ∧
    (∀ a, (tile s a).task = none ∧ (core s a).run = .idle ∧ (tile s a).vec.seed = 0x6C078965 ∧ (tile s a).mov.seed = 0x6C078965 ∧
      (tile s a).mat.seed = 0x89656C07 ∧ (tile s a).mat.active.fmt = 0x09 ∧ (tile s a).mat.shadow.fmt = 0x09 ∧
      (∀ k, getAt 0x7F (tile s a).mat.active.sw k = 0x7F) ∧ (tile s a).reed.policy = 2 ∧ (tile s a).fifo = ⟨0, 0, 0, 0, 0, 0⟩) ∧
    (∀ d, (die s d).quaglim = 24 ∧ (die s d).pgrace = 22 ∧ (die s d).replctl = 0x0010400400000000 ∧ (die s d).incarn = 0 ∧
      (die s d).sluicew = if d = 4 then 0x862862862862 else 0x862862000000)

/-- The part never stops for good: every step answers a next state. Across a step time does not run back, and once the feature enables are
locked they stay locked and as they are (R395).
The first clause rests on the model's choice that an event whose condition does not hold changes nothing (log entry 13). -/
def Obligations.StepsAnswerAndLocksHold : Prop :=
  (∀ s : State, GoesOn s) ∧
  (∀ s t : State, step s = .next t → s.now ≤ t.now ∧
    (s.dev.featLock = true → t.dev.featLock = true ∧ ∀ n, feature t n = feature s n))
end

