-- ==== Sys2Proof/Laws/Memory.lean ====
section
/-! SUPPORT. Finite maps and memories: a read after a write, writes elsewhere, and the canonical form that every operation on a memory keeps. -/

namespace Sys2Proof.Machine

/-! ## Finite maps -/

theorem lookup_insAt_self {α : Type} (m : SMap α) (i : Nat) (x : α) : lookup (insAt m i x) i = some x := by
  induction m with
  | nil => simp [insAt, lookup]
  | cons e m ih =>
    obtain ⟨k, v⟩ := e
    unfold insAt
    split
    · simp [lookup]
    · split
      · simp [lookup]
      · simp only [lookup, if_neg ‹¬i = k›, ih]

theorem lookup_insAt_ne {α : Type} (m : SMap α) {i j : Nat} (x : α) (h : j ≠ i) : lookup (insAt m i x) j = lookup m j := by
  induction m with
  | nil => simp [insAt, lookup, h]
  | cons e m ih =>
    obtain ⟨k, v⟩ := e
    unfold insAt
    split
    · simp [lookup, h]
    · split
      · subst k; simp [lookup, h]
      · simp only [lookup, ih]

theorem lookup_delAt_self {α : Type} (m : SMap α) (i : Nat) : lookup (delAt m i) i = none := by
  induction m with
  | nil => rfl
  | cons e m ih =>
    obtain ⟨k, v⟩ := e
    unfold delAt at ih ⊢
    by_cases h : k = i
    · subst k; simpa using ih
    · simp only [List.filter_cons, bne_iff_ne, ne_eq, h, not_false_eq_true, if_true, lookup, if_neg (Ne.symm h), ih]

theorem lookup_delAt_ne {α : Type} (m : SMap α) {i j : Nat} (h : j ≠ i) : lookup (delAt m i) j = lookup m j := by
  induction m with
  | nil => rfl
  | cons e m ih =>
    obtain ⟨k, v⟩ := e
    unfold delAt at ih ⊢
    by_cases hk : k = i
    · subst k; simp [lookup, h, ih]
    · simp only [List.filter_cons, bne_iff_ne, ne_eq, hk, not_false_eq_true, if_true, lookup, ih]

theorem getAt_insAt_self {α : Type} (d : α) (m : SMap α) (i : Nat) (x : α) : getAt d (insAt m i x) i = x := by
  simp [getAt, lookup_insAt_self]

theorem getAt_insAt_ne {α : Type} (d : α) (m : SMap α) {i j : Nat} (x : α) (h : j ≠ i) :
    getAt d (insAt m i x) j = getAt d m j := by
  simp [getAt, lookup_insAt_ne m x h]

theorem getAt_setAt_self {α : Type} [DecidableEq α] (d : α) (m : SMap α) (i : Nat) (x : α) : getAt d (setAt d m i x) i = x := by
  unfold setAt
  split
  · simp [getAt, lookup_delAt_self, *]
  · exact getAt_insAt_self d m i x

theorem getAt_setAt_ne {α : Type} [DecidableEq α] (d : α) (m : SMap α) {i j : Nat} (x : α) (h : j ≠ i) :
    getAt d (setAt d m i x) j = getAt d m j := by
  unfold setAt
  split
  · simp [getAt, lookup_delAt_ne m h]
  · exact getAt_insAt_ne d m x h

/-! ## One byte -/

theorem getB_setB_self (m : Mem) (a : Nat) (x : Byte) : getB (setB m a x) a = x := getAt_setAt_self 0 m a x

theorem getB_setB_ne (m : Mem) {a b : Nat} (x : Byte) (h : b ≠ a) : getB (setB m a x) b = getB m b := getAt_setAt_ne 0 m x h

/-! ## Several bytes -/

/-- A write of n bytes leaves every byte outside them. -/
theorem getB_writeN_outside (m : Mem) (a n x b : Nat) (h : b < a ∨ a + n ≤ b) : getB (writeN m a n x) b = getB m b := by
  induction n generalizing m a x with
  | zero => rfl
  | succ n ih =>
    rw [writeN, ih _ _ _ (by omega), getB_setB_ne _ _ (by omega)]

/-- Byte i of a stored number, lowest first (R26). -/
theorem getB_writeN_inside (m : Mem) (a n x i : Nat) (h : i < n) :
    getB (writeN m a n x) (a + i) = BitVec.ofNat 8 (x / 256 ^ i) := by
  induction n generalizing m a x i with
  | zero => omega
  | succ n ih =>
    cases i with
    | zero => rw [writeN, getB_writeN_outside _ _ _ _ _ (by omega)]; simp [getB_setB_self]
    | succ i =>
      rw [writeN, show a + (i + 1) = a + 1 + i by omega, ih _ _ _ _ (by omega), Nat.div_div_eq_div_mul, Nat.pow_succ, Nat.mul_comm]

/-- The number read back is the number stored, in n bytes. -/
theorem readN_writeN (m : Mem) (a n x : Nat) : readN (writeN m a n x) a n = x % 256 ^ n := by
  induction n generalizing m a x with
  | zero => simp [readN, Nat.mod_one]
  | succ n ih =>
    rw [readN, writeN, ih, getB_writeN_outside _ _ _ _ _ (by omega), getB_setB_self, Nat.pow_succ, Nat.mul_comm (256 ^ n) 256,
      Nat.mod_mul, BitVec.toNat_ofNat]

/-- A read of bytes that a write does not touch. -/
theorem readN_writeN_outside (m : Mem) (a n x b k : Nat) (h : b + k ≤ a ∨ a + n ≤ b) :
    readN (writeN m a n x) b k = readN m b k := by
  induction k generalizing b with
  | zero => rfl
  | succ k ih => rw [readN, readN, getB_writeN_outside _ _ _ _ _ (by omega), ih _ (by omega)]

/-! ## The canonical form -/

/-- Every key of a map is at least b. -/
def KeysFrom (b : Nat) (m : Mem) : Prop := ∀ e ∈ m, b ≤ e.1

theorem wf_nil : Memory.wf [] = true := rfl

/-- A memory is in form when its first byte is not zero, the keys after it are greater, and the rest is in form. -/
theorem wf_cons (a : Nat) (x : Byte) (m : Mem) :
    Memory.wf ((a, x) :: m) = true ↔ x ≠ 0 ∧ KeysFrom (a + 1) m ∧ Memory.wf m = true := by
  induction m generalizing a x with
  | nil => simp [Memory.wf, KeysFrom]
  | cons e m ih =>
    obtain ⟨b, y⟩ := e
    simp only [Memory.wf, Bool.and_eq_true, bne_iff_ne, decide_eq_true_eq, and_assoc]
    refine and_congr_right fun _ => ⟨fun ⟨hab, hw⟩ => ⟨?_, hw⟩, fun ⟨hk, hw⟩ => ⟨hk (b, y) (by simp), hw⟩⟩
    intro e he
    rcases List.mem_cons.mp he with rfl | he
    · exact hab
    · exact Nat.le_trans (by omega) (((ih b y).mp hw).2.1 e he)

theorem keysFrom_insAt {b i : Nat} {m : Mem} {x : Byte} (hm : KeysFrom b m) (hi : b ≤ i) : KeysFrom b (insAt m i x) := by
  induction m with
  | nil => intro e he; simp only [insAt, List.mem_singleton] at he; subst e; exact hi
  | cons c m ih =>
    obtain ⟨k, v⟩ := c
    have ht : KeysFrom b m := fun e he => hm e (List.mem_cons_of_mem _ he)
    unfold insAt
    split
    · intro e he
      rcases List.mem_cons.mp he with rfl | he
      · exact hi
      · exact hm e he
    · split
      · intro e he
        rcases List.mem_cons.mp he with rfl | he
        · exact hi
        · exact ht e he
      · intro e he
        rcases List.mem_cons.mp he with rfl | he
        · exact hm _ (List.mem_cons_self ..)
        · exact ih ht e he

theorem wf_insAt {m : Mem} (hm : Memory.wf m = true) (i : Nat) {x : Byte} (hx : x ≠ 0) : Memory.wf (insAt m i x) = true := by
  induction m with
  | nil => exact (wf_cons i x []).mpr ⟨hx, by simp [KeysFrom], rfl⟩
  | cons e m ih =>
    obtain ⟨k, v⟩ := e
    obtain ⟨hv, hk, hw⟩ := (wf_cons k v m).mp hm
    unfold insAt
    split
    · refine (wf_cons i x _).mpr ⟨hx, ?_, hm⟩
      intro e he
      rcases List.mem_cons.mp he with rfl | he
      · exact ‹i < k›
      · exact Nat.le_trans (by omega) (hk e he)
    · split
      · subst k; exact (wf_cons i x m).mpr ⟨hx, hk, hw⟩
      · exact (wf_cons k v _).mpr ⟨hv, keysFrom_insAt hk (by omega), ih hw⟩

/-- What a filter keeps of a memory in form is in form: deleting, clearing and cutting keep it. -/
theorem wf_filter {m : Mem} (hm : Memory.wf m = true) (p : Host.Cell → Bool) : Memory.wf (m.filter p) = true := by
  induction m with
  | nil => rfl
  | cons e m ih =>
    obtain ⟨k, v⟩ := e
    obtain ⟨hv, hk, hw⟩ := (wf_cons k v m).mp hm
    rw [List.filter_cons]
    split
    · exact (wf_cons k v _).mpr ⟨hv, fun e he => hk e (List.mem_filter.mp he).1, ih hw⟩
    · exact ih hw

theorem wf_setB {m : Mem} (hm : Memory.wf m = true) (a : Nat) (x : Byte) : Memory.wf (setB m a x) = true := by
  unfold setB setAt
  split
  · exact wf_filter hm _
  · exact wf_insAt hm a ‹_›

theorem wf_writeN {m : Mem} (hm : Memory.wf m = true) (a n x : Nat) : Memory.wf (writeN m a n x) = true := by
  induction n generalizing m a x with
  | zero => exact hm
  | succ n ih => exact ih (wf_setB hm a _) _ _

theorem wf_writeBytes {m : Mem} (hm : Memory.wf m = true) (a : Nat) (bs : List Byte) : Memory.wf (writeBytes m a bs) = true := by
  induction bs generalizing m a with
  | nil => exact hm
  | cons b bs ih => exact ih (wf_setB hm a b) _

/-- A fold whose every step keeps the form keeps it. -/
theorem wf_foldl {α : Type} (f : Mem → α → Mem) (hf : ∀ m x, Memory.wf m = true → Memory.wf (f m x) = true) (l : List α)
    {m : Mem} (hm : Memory.wf m = true) : Memory.wf (l.foldl f m) = true := by
  induction l generalizing m with
  | nil => exact hm
  | cons x l ih => exact ih (hf m x hm)

theorem wf_append {m k : Mem} (c : Nat) (hm : Memory.wf m = true) (hk : Memory.wf k = true) (hc : ∀ e ∈ m, e.1 < c)
    (hd : KeysFrom c k) : Memory.wf (m ++ k) = true := by
  induction m with
  | nil => exact hk
  | cons e m ih =>
    obtain ⟨a, x⟩ := e
    obtain ⟨hx, ha, hw⟩ := (wf_cons a x m).mp hm
    refine (wf_cons a x _).mpr ⟨hx, fun e he => ?_, ih hw fun e he => hc e (List.mem_cons_of_mem _ he)⟩
    rcases List.mem_append.mp he with he | he
    · exact ha e he
    · exact Nat.le_trans (hc (a, x) (List.mem_cons_self ..)) (hd e he)

/-- The pasted bytes are in form and stand in the range. -/
theorem wf_pasted (a n : Nat) (b : Mem) :
    Memory.wf (b.foldr (fun e r => if e.1 < n then setB r (e.1 + a) e.2 else r) []) = true ∧
      ∀ c ∈ b.foldr (fun e r => if e.1 < n then setB r (e.1 + a) e.2 else r) [], a ≤ c.1 ∧ c.1 < a + n := by
  induction b with
  | nil => exact ⟨rfl, by simp⟩
  | cons e b ih =>
    obtain ⟨hw, hr⟩ := ih
    rw [List.foldr_cons]
    split
    · refine ⟨wf_setB hw _ _, ?_⟩
      generalize b.foldr (fun e r => if e.1 < n then setB r (e.1 + a) e.2 else r) [] = r at hr
      intro c hc
      unfold setB setAt at hc
      split at hc
      · exact hr c (List.mem_filter.mp hc).1
      · clear hw
        induction r with
        | nil => simp only [insAt, List.mem_singleton] at hc; subst c; constructor <;> dsimp only <;> omega
        | cons d r ihr =>
          obtain ⟨k, v⟩ := d
          unfold insAt at hc
          split at hc
          · rcases List.mem_cons.mp hc with rfl | hc
            · constructor <;> dsimp only <;> omega
            · exact hr c hc
          · split at hc
            · rcases List.mem_cons.mp hc with rfl | hc
              · constructor <;> dsimp only <;> omega
              · exact hr c (List.mem_cons_of_mem _ hc)
            · rcases List.mem_cons.mp hc with rfl | hc
              · exact hr _ (List.mem_cons_self ..)
              · exact ihr (fun c hc => hr c (List.mem_cons_of_mem _ hc)) hc
    · exact ⟨hw, hr⟩

/-- Replacing a range keeps the form, whatever stands in the new bytes' list. -/
theorem wf_paste {m : Mem} (hm : Memory.wf m = true) (a n : Nat) (b : Mem) : Memory.wf (paste m a n b) = true := by
  obtain ⟨hw, hr⟩ := wf_pasted a n b
  unfold paste
  refine wf_append (a + n) (wf_append a (wf_filter hm _) hw ?_ fun e he => (hr e he).1) (wf_filter hm _) ?_ ?_
  · intro e he; simpa using (List.mem_filter.mp he).2
  · intro e he
    rcases List.mem_append.mp he with he | he
    · have h := (List.mem_filter.mp he).2
      simp only [decide_eq_true_eq] at h
      omega
    · exact (hr e he).2
  · intro e he; simpa using (List.mem_filter.mp he).2

/-! ## The operations that write global memory keep its form -/

theorem mem_answerWaits (s : State) : (answerWaits s).mem = s.mem := rfl

/-- A range's bytes become the pasted ones, and no other byte of memory changes (R293). -/
theorem mem_homePaste (s : State) (a ga n : Nat) (b : Mem) (bad : List (Nat × Nat)) :
    (homePaste s a ga n b bad).mem = paste s.mem ga n b := by
  have step : ∀ (l : List Nat) (s : State), (l.foldl (fun s l => touch (collapseLine s l) a l) s).mem = s.mem := by
    intro l
    induction l with
    | nil => intro s; rfl
    | cons x l ih =>
      intro s
      rw [List.foldl_cons, ih]
      have h1 : ∀ s : State, (touch s a x).mem = s.mem := fun s => by unfold touch; split <;> rfl
      have h2 : ∀ s : State, (collapseLine s x).mem = s.mem := fun s => by
        unfold collapseLine
        split
        · dsimp only; split <;> rfl
        · rfl
      rw [h1, h2]
  unfold homePaste
  simp only [mem_answerWaits, step]

theorem wf_homePaste {s : State} (h : Memory.wf s.mem = true) (a ga n : Nat) (b : Mem) (bad : List (Nat × Nat)) :
    Memory.wf (homePaste s a ga n b bad).mem = true := by
  rw [mem_homePaste]; exact wf_paste h ..

theorem wf_zeroRange {s : State} (h : Memory.wf s.mem = true) (d ga n : Nat) : Memory.wf (zeroRange s d ga n).mem = true :=
  wf_homePaste h ..

theorem wf_writeRecord {s : State} (h : Memory.wf s.mem = true) (g : List Nat) : Memory.wf (writeRecord s g).mem = true := by
  unfold writeRecord
  dsimp only
  split
  · exact wf_foldl _ (fun m i hm => wf_writeN hm _ _ _) _ h
  · exact h

theorem wf_event {s : State} (h : Memory.wf s.mem = true) (type cause d t ctx g1 g2 g3 g4 g6 g7 : Nat) :
    Memory.wf (event s type cause d t ctx g1 g2 g3 g4 g6 g7).mem = true := wf_writeRecord h _

theorem wf_bump {s : State} (h : Memory.wf s.mem = true) (d code : Nat) : Memory.wf (bump s d code).mem = true := by
  unfold bump
  dsimp only
  split
  · exact wf_event (by exact h) ..
  · exact h

/-! ## Tiles, dies and tasks -/

@[simp] theorem tile_putTile_self (s : State) (a : Nat) (t : Tile) : tile (putTile s a t) a = t := by
  simp [tile, putTile, lookup_insAt_self]

theorem tile_putTile_ne (s : State) {a b : Nat} (t : Tile) (h : b ≠ a) : tile (putTile s a t) b = tile s b := by
  simp [tile, putTile, lookup_insAt_ne _ _ h]

@[simp] theorem tile_modTile_self (s : State) (a : Nat) (f : Tile → Tile) : tile (modTile s a f) a = f (tile s a) :=
  tile_putTile_self s a _

theorem tile_modTile_ne (s : State) {a b : Nat} (f : Tile → Tile) (h : b ≠ a) : tile (modTile s a f) b = tile s b :=
  tile_putTile_ne s _ h

@[simp] theorem core_modCore_self (s : State) (a : Nat) (f : Core → Core) : core (modCore s a f) a = f (core s a) := by
  simp [core, modCore]

theorem core_modCore_ne (s : State) {a b : Nat} (f : Core → Core) (h : b ≠ a) : core (modCore s a f) b = core s b := by
  simp [core, modCore, tile_modTile_ne _ _ h]

@[simp] theorem die_putDie_self (s : State) (d : Nat) (x : Die) : die (putDie s d x) d = x := by
  simp [die, putDie, lookup_insAt_self]

theorem die_putDie_ne (s : State) {d e : Nat} (x : Die) (h : e ≠ d) : die (putDie s d x) e = die s e := by
  simp [die, putDie, lookup_insAt_ne _ _ h]

/-! ## Scalar registers -/

@[simp] theorem rdS_zero (c : Core) : rdS c 0 = 0 := rfl

/-- A register read after it is written; s0 reads as zero (R89). -/
theorem rdS_wrS_self (r : Nat) (x : Word) (c : Core) : rdS (wrS r x c) r = if r = 0 then 0 else x := by
  unfold rdS wrS
  split
  · rfl
  · exact getAt_setAt_self 0 c.s r x

theorem rdS_wrS_ne {r q : Nat} (x : Word) (c : Core) (h : q ≠ r) : rdS (wrS r x c) q = rdS c q := by
  unfold rdS wrS
  by_cases hr : r = 0
  · simp [hr]
  · simp only [hr, if_false, getAt_setAt_ne 0 c.s x h]

@[simp] theorem wrS_zero (x : Word) (c : Core) : wrS 0 x c = c := rfl

end Sys2Proof.Machine
end

