-- ==== Sys2Proof/Laws/State.lean ====
section
/-! SUPPORT. One lemma per field per named update of the state: what an update leaves is read off by simp, never by unfolding it. -/

namespace Sys2Proof.Machine

/-! ## Fields of the state -/

@[simp] theorem putTile_agenda (s : State) (a : Nat) (t : Tile) : (putTile s a t).agenda = s.agenda := rfl
@[simp] theorem putTile_focus (s : State) (a : Nat) (t : Tile) : (putTile s a t).focus = s.focus := rfl
@[simp] theorem putTile_cur (s : State) (a : Nat) (t : Tile) : (putTile s a t).cur = s.cur := rfl
@[simp] theorem putTile_free (s : State) (a : Nat) (t : Tile) : (putTile s a t).free = s.free := rfl
@[simp] theorem putTile_replies (s : State) (a : Nat) (t : Tile) : (putTile s a t).replies = s.replies := rfl
@[simp] theorem putTile_peerReplies (s : State) (a : Nat) (t : Tile) : (putTile s a t).peerReplies = s.peerReplies := rfl
@[simp] theorem putTile_now (s : State) (a : Nat) (t : Tile) : (putTile s a t).now = s.now := rfl
@[simp] theorem putTile_dies (s : State) (a : Nat) (t : Tile) : (putTile s a t).dies = s.dies := rfl
@[simp] theorem putTile_tasks (s : State) (a : Nat) (t : Tile) : (putTile s a t).tasks = s.tasks := rfl
@[simp] theorem putTile_nextTask (s : State) (a : Nat) (t : Tile) : (putTile s a t).nextTask = s.nextTask := rfl
@[simp] theorem putTile_parts (s : State) (a : Nat) (t : Tile) : (putTile s a t).parts = s.parts := rfl
@[simp] theorem putTile_runs (s : State) (a : Nat) (t : Tile) : (putTile s a t).runs = s.runs := rfl
@[simp] theorem putTile_mem (s : State) (a : Nat) (t : Tile) : (putTile s a t).mem = s.mem := rfl
@[simp] theorem putTile_memPoison (s : State) (a : Nat) (t : Tile) : (putTile s a t).memPoison = s.memPoison := rfl
@[simp] theorem putTile_regions (s : State) (a : Nat) (t : Tile) : (putTile s a t).regions = s.regions := rfl
@[simp] theorem putTile_replicas (s : State) (a : Nat) (t : Tile) : (putTile s a t).replicas = s.replicas := rfl
@[simp] theorem putTile_placed (s : State) (a : Nat) (t : Tile) : (putTile s a t).placed = s.placed := rfl
@[simp] theorem putTile_access (s : State) (a : Nat) (t : Tile) : (putTile s a t).access = s.access := rfl
@[simp] theorem putTile_waits (s : State) (a : Nat) (t : Tile) : (putTile s a t).waits = s.waits := rfl
@[simp] theorem putTile_dev (s : State) (a : Nat) (t : Tile) : (putTile s a t).dev = s.dev := rfl
@[simp] theorem putTile_transit (s : State) (a : Nat) (t : Tile) : (putTile s a t).transit = s.transit := rfl
@[simp] theorem putTile_sync (s : State) (a : Nat) (t : Tile) : (putTile s a t).sync = s.sync := rfl
@[simp] theorem putTile_collapses (s : State) (a : Nat) (t : Tile) : (putTile s a t).collapses = s.collapses := rfl
@[simp] theorem putTile_leaving (s : State) (a : Nat) (t : Tile) : (putTile s a t).leaving = s.leaving := rfl
@[simp] theorem putTile_awaited (s : State) (a : Nat) (t : Tile) : (putTile s a t).awaited = s.awaited := rfl

@[simp] theorem modTile_agenda (s : State) (a : Nat) (f : Tile → Tile) : (modTile s a f).agenda = s.agenda := rfl
@[simp] theorem modTile_focus (s : State) (a : Nat) (f : Tile → Tile) : (modTile s a f).focus = s.focus := rfl
@[simp] theorem modTile_cur (s : State) (a : Nat) (f : Tile → Tile) : (modTile s a f).cur = s.cur := rfl
@[simp] theorem modTile_free (s : State) (a : Nat) (f : Tile → Tile) : (modTile s a f).free = s.free := rfl
@[simp] theorem modTile_replies (s : State) (a : Nat) (f : Tile → Tile) : (modTile s a f).replies = s.replies := rfl
@[simp] theorem modTile_peerReplies (s : State) (a : Nat) (f : Tile → Tile) : (modTile s a f).peerReplies = s.peerReplies := rfl
@[simp] theorem modTile_now (s : State) (a : Nat) (f : Tile → Tile) : (modTile s a f).now = s.now := rfl
@[simp] theorem modTile_dies (s : State) (a : Nat) (f : Tile → Tile) : (modTile s a f).dies = s.dies := rfl
@[simp] theorem modTile_tasks (s : State) (a : Nat) (f : Tile → Tile) : (modTile s a f).tasks = s.tasks := rfl
@[simp] theorem modTile_nextTask (s : State) (a : Nat) (f : Tile → Tile) : (modTile s a f).nextTask = s.nextTask := rfl
@[simp] theorem modTile_parts (s : State) (a : Nat) (f : Tile → Tile) : (modTile s a f).parts = s.parts := rfl
@[simp] theorem modTile_runs (s : State) (a : Nat) (f : Tile → Tile) : (modTile s a f).runs = s.runs := rfl
@[simp] theorem modTile_mem (s : State) (a : Nat) (f : Tile → Tile) : (modTile s a f).mem = s.mem := rfl
@[simp] theorem modTile_memPoison (s : State) (a : Nat) (f : Tile → Tile) : (modTile s a f).memPoison = s.memPoison := rfl
@[simp] theorem modTile_regions (s : State) (a : Nat) (f : Tile → Tile) : (modTile s a f).regions = s.regions := rfl
@[simp] theorem modTile_replicas (s : State) (a : Nat) (f : Tile → Tile) : (modTile s a f).replicas = s.replicas := rfl
@[simp] theorem modTile_placed (s : State) (a : Nat) (f : Tile → Tile) : (modTile s a f).placed = s.placed := rfl
@[simp] theorem modTile_access (s : State) (a : Nat) (f : Tile → Tile) : (modTile s a f).access = s.access := rfl
@[simp] theorem modTile_waits (s : State) (a : Nat) (f : Tile → Tile) : (modTile s a f).waits = s.waits := rfl
@[simp] theorem modTile_dev (s : State) (a : Nat) (f : Tile → Tile) : (modTile s a f).dev = s.dev := rfl
@[simp] theorem modTile_transit (s : State) (a : Nat) (f : Tile → Tile) : (modTile s a f).transit = s.transit := rfl
@[simp] theorem modTile_sync (s : State) (a : Nat) (f : Tile → Tile) : (modTile s a f).sync = s.sync := rfl
@[simp] theorem modTile_collapses (s : State) (a : Nat) (f : Tile → Tile) : (modTile s a f).collapses = s.collapses := rfl
@[simp] theorem modTile_leaving (s : State) (a : Nat) (f : Tile → Tile) : (modTile s a f).leaving = s.leaving := rfl
@[simp] theorem modTile_awaited (s : State) (a : Nat) (f : Tile → Tile) : (modTile s a f).awaited = s.awaited := rfl

@[simp] theorem modCore_agenda (s : State) (a : Nat) (f : Core → Core) : (modCore s a f).agenda = s.agenda := rfl
@[simp] theorem modCore_focus (s : State) (a : Nat) (f : Core → Core) : (modCore s a f).focus = s.focus := rfl
@[simp] theorem modCore_cur (s : State) (a : Nat) (f : Core → Core) : (modCore s a f).cur = s.cur := rfl
@[simp] theorem modCore_free (s : State) (a : Nat) (f : Core → Core) : (modCore s a f).free = s.free := rfl
@[simp] theorem modCore_replies (s : State) (a : Nat) (f : Core → Core) : (modCore s a f).replies = s.replies := rfl
@[simp] theorem modCore_peerReplies (s : State) (a : Nat) (f : Core → Core) : (modCore s a f).peerReplies = s.peerReplies := rfl
@[simp] theorem modCore_now (s : State) (a : Nat) (f : Core → Core) : (modCore s a f).now = s.now := rfl
@[simp] theorem modCore_dies (s : State) (a : Nat) (f : Core → Core) : (modCore s a f).dies = s.dies := rfl
@[simp] theorem modCore_tasks (s : State) (a : Nat) (f : Core → Core) : (modCore s a f).tasks = s.tasks := rfl
@[simp] theorem modCore_nextTask (s : State) (a : Nat) (f : Core → Core) : (modCore s a f).nextTask = s.nextTask := rfl
@[simp] theorem modCore_parts (s : State) (a : Nat) (f : Core → Core) : (modCore s a f).parts = s.parts := rfl
@[simp] theorem modCore_runs (s : State) (a : Nat) (f : Core → Core) : (modCore s a f).runs = s.runs := rfl
@[simp] theorem modCore_mem (s : State) (a : Nat) (f : Core → Core) : (modCore s a f).mem = s.mem := rfl
@[simp] theorem modCore_memPoison (s : State) (a : Nat) (f : Core → Core) : (modCore s a f).memPoison = s.memPoison := rfl
@[simp] theorem modCore_regions (s : State) (a : Nat) (f : Core → Core) : (modCore s a f).regions = s.regions := rfl
@[simp] theorem modCore_replicas (s : State) (a : Nat) (f : Core → Core) : (modCore s a f).replicas = s.replicas := rfl
@[simp] theorem modCore_placed (s : State) (a : Nat) (f : Core → Core) : (modCore s a f).placed = s.placed := rfl
@[simp] theorem modCore_access (s : State) (a : Nat) (f : Core → Core) : (modCore s a f).access = s.access := rfl
@[simp] theorem modCore_waits (s : State) (a : Nat) (f : Core → Core) : (modCore s a f).waits = s.waits := rfl
@[simp] theorem modCore_dev (s : State) (a : Nat) (f : Core → Core) : (modCore s a f).dev = s.dev := rfl
@[simp] theorem modCore_transit (s : State) (a : Nat) (f : Core → Core) : (modCore s a f).transit = s.transit := rfl
@[simp] theorem modCore_sync (s : State) (a : Nat) (f : Core → Core) : (modCore s a f).sync = s.sync := rfl
@[simp] theorem modCore_collapses (s : State) (a : Nat) (f : Core → Core) : (modCore s a f).collapses = s.collapses := rfl
@[simp] theorem modCore_leaving (s : State) (a : Nat) (f : Core → Core) : (modCore s a f).leaving = s.leaving := rfl
@[simp] theorem modCore_awaited (s : State) (a : Nat) (f : Core → Core) : (modCore s a f).awaited = s.awaited := rfl

@[simp] theorem modVec_agenda (s : State) (a : Nat) (f : Vec → Vec) : (modVec s a f).agenda = s.agenda := rfl
@[simp] theorem modVec_focus (s : State) (a : Nat) (f : Vec → Vec) : (modVec s a f).focus = s.focus := rfl
@[simp] theorem modVec_cur (s : State) (a : Nat) (f : Vec → Vec) : (modVec s a f).cur = s.cur := rfl
@[simp] theorem modVec_free (s : State) (a : Nat) (f : Vec → Vec) : (modVec s a f).free = s.free := rfl
@[simp] theorem modVec_replies (s : State) (a : Nat) (f : Vec → Vec) : (modVec s a f).replies = s.replies := rfl
@[simp] theorem modVec_peerReplies (s : State) (a : Nat) (f : Vec → Vec) : (modVec s a f).peerReplies = s.peerReplies := rfl
@[simp] theorem modVec_now (s : State) (a : Nat) (f : Vec → Vec) : (modVec s a f).now = s.now := rfl
@[simp] theorem modVec_dies (s : State) (a : Nat) (f : Vec → Vec) : (modVec s a f).dies = s.dies := rfl
@[simp] theorem modVec_tasks (s : State) (a : Nat) (f : Vec → Vec) : (modVec s a f).tasks = s.tasks := rfl
@[simp] theorem modVec_nextTask (s : State) (a : Nat) (f : Vec → Vec) : (modVec s a f).nextTask = s.nextTask := rfl
@[simp] theorem modVec_parts (s : State) (a : Nat) (f : Vec → Vec) : (modVec s a f).parts = s.parts := rfl
@[simp] theorem modVec_runs (s : State) (a : Nat) (f : Vec → Vec) : (modVec s a f).runs = s.runs := rfl
@[simp] theorem modVec_mem (s : State) (a : Nat) (f : Vec → Vec) : (modVec s a f).mem = s.mem := rfl
@[simp] theorem modVec_memPoison (s : State) (a : Nat) (f : Vec → Vec) : (modVec s a f).memPoison = s.memPoison := rfl
@[simp] theorem modVec_regions (s : State) (a : Nat) (f : Vec → Vec) : (modVec s a f).regions = s.regions := rfl
@[simp] theorem modVec_replicas (s : State) (a : Nat) (f : Vec → Vec) : (modVec s a f).replicas = s.replicas := rfl
@[simp] theorem modVec_placed (s : State) (a : Nat) (f : Vec → Vec) : (modVec s a f).placed = s.placed := rfl
@[simp] theorem modVec_access (s : State) (a : Nat) (f : Vec → Vec) : (modVec s a f).access = s.access := rfl
@[simp] theorem modVec_waits (s : State) (a : Nat) (f : Vec → Vec) : (modVec s a f).waits = s.waits := rfl
@[simp] theorem modVec_dev (s : State) (a : Nat) (f : Vec → Vec) : (modVec s a f).dev = s.dev := rfl
@[simp] theorem modVec_transit (s : State) (a : Nat) (f : Vec → Vec) : (modVec s a f).transit = s.transit := rfl
@[simp] theorem modVec_sync (s : State) (a : Nat) (f : Vec → Vec) : (modVec s a f).sync = s.sync := rfl
@[simp] theorem modVec_collapses (s : State) (a : Nat) (f : Vec → Vec) : (modVec s a f).collapses = s.collapses := rfl
@[simp] theorem modVec_leaving (s : State) (a : Nat) (f : Vec → Vec) : (modVec s a f).leaving = s.leaving := rfl
@[simp] theorem modVec_awaited (s : State) (a : Nat) (f : Vec → Vec) : (modVec s a f).awaited = s.awaited := rfl

@[simp] theorem modMat_agenda (s : State) (a : Nat) (f : Mat → Mat) : (modMat s a f).agenda = s.agenda := rfl
@[simp] theorem modMat_focus (s : State) (a : Nat) (f : Mat → Mat) : (modMat s a f).focus = s.focus := rfl
@[simp] theorem modMat_cur (s : State) (a : Nat) (f : Mat → Mat) : (modMat s a f).cur = s.cur := rfl
@[simp] theorem modMat_free (s : State) (a : Nat) (f : Mat → Mat) : (modMat s a f).free = s.free := rfl
@[simp] theorem modMat_replies (s : State) (a : Nat) (f : Mat → Mat) : (modMat s a f).replies = s.replies := rfl
@[simp] theorem modMat_peerReplies (s : State) (a : Nat) (f : Mat → Mat) : (modMat s a f).peerReplies = s.peerReplies := rfl
@[simp] theorem modMat_now (s : State) (a : Nat) (f : Mat → Mat) : (modMat s a f).now = s.now := rfl
@[simp] theorem modMat_dies (s : State) (a : Nat) (f : Mat → Mat) : (modMat s a f).dies = s.dies := rfl
@[simp] theorem modMat_tasks (s : State) (a : Nat) (f : Mat → Mat) : (modMat s a f).tasks = s.tasks := rfl
@[simp] theorem modMat_nextTask (s : State) (a : Nat) (f : Mat → Mat) : (modMat s a f).nextTask = s.nextTask := rfl
@[simp] theorem modMat_parts (s : State) (a : Nat) (f : Mat → Mat) : (modMat s a f).parts = s.parts := rfl
@[simp] theorem modMat_runs (s : State) (a : Nat) (f : Mat → Mat) : (modMat s a f).runs = s.runs := rfl
@[simp] theorem modMat_mem (s : State) (a : Nat) (f : Mat → Mat) : (modMat s a f).mem = s.mem := rfl
@[simp] theorem modMat_memPoison (s : State) (a : Nat) (f : Mat → Mat) : (modMat s a f).memPoison = s.memPoison := rfl
@[simp] theorem modMat_regions (s : State) (a : Nat) (f : Mat → Mat) : (modMat s a f).regions = s.regions := rfl
@[simp] theorem modMat_replicas (s : State) (a : Nat) (f : Mat → Mat) : (modMat s a f).replicas = s.replicas := rfl
@[simp] theorem modMat_placed (s : State) (a : Nat) (f : Mat → Mat) : (modMat s a f).placed = s.placed := rfl
@[simp] theorem modMat_access (s : State) (a : Nat) (f : Mat → Mat) : (modMat s a f).access = s.access := rfl
@[simp] theorem modMat_waits (s : State) (a : Nat) (f : Mat → Mat) : (modMat s a f).waits = s.waits := rfl
@[simp] theorem modMat_dev (s : State) (a : Nat) (f : Mat → Mat) : (modMat s a f).dev = s.dev := rfl
@[simp] theorem modMat_transit (s : State) (a : Nat) (f : Mat → Mat) : (modMat s a f).transit = s.transit := rfl
@[simp] theorem modMat_sync (s : State) (a : Nat) (f : Mat → Mat) : (modMat s a f).sync = s.sync := rfl
@[simp] theorem modMat_collapses (s : State) (a : Nat) (f : Mat → Mat) : (modMat s a f).collapses = s.collapses := rfl
@[simp] theorem modMat_leaving (s : State) (a : Nat) (f : Mat → Mat) : (modMat s a f).leaving = s.leaving := rfl
@[simp] theorem modMat_awaited (s : State) (a : Nat) (f : Mat → Mat) : (modMat s a f).awaited = s.awaited := rfl

@[simp] theorem modMov_agenda (s : State) (a : Nat) (f : Mov → Mov) : (modMov s a f).agenda = s.agenda := rfl
@[simp] theorem modMov_focus (s : State) (a : Nat) (f : Mov → Mov) : (modMov s a f).focus = s.focus := rfl
@[simp] theorem modMov_cur (s : State) (a : Nat) (f : Mov → Mov) : (modMov s a f).cur = s.cur := rfl
@[simp] theorem modMov_free (s : State) (a : Nat) (f : Mov → Mov) : (modMov s a f).free = s.free := rfl
@[simp] theorem modMov_replies (s : State) (a : Nat) (f : Mov → Mov) : (modMov s a f).replies = s.replies := rfl
@[simp] theorem modMov_peerReplies (s : State) (a : Nat) (f : Mov → Mov) : (modMov s a f).peerReplies = s.peerReplies := rfl
@[simp] theorem modMov_now (s : State) (a : Nat) (f : Mov → Mov) : (modMov s a f).now = s.now := rfl
@[simp] theorem modMov_dies (s : State) (a : Nat) (f : Mov → Mov) : (modMov s a f).dies = s.dies := rfl
@[simp] theorem modMov_tasks (s : State) (a : Nat) (f : Mov → Mov) : (modMov s a f).tasks = s.tasks := rfl
@[simp] theorem modMov_nextTask (s : State) (a : Nat) (f : Mov → Mov) : (modMov s a f).nextTask = s.nextTask := rfl
@[simp] theorem modMov_parts (s : State) (a : Nat) (f : Mov → Mov) : (modMov s a f).parts = s.parts := rfl
@[simp] theorem modMov_runs (s : State) (a : Nat) (f : Mov → Mov) : (modMov s a f).runs = s.runs := rfl
@[simp] theorem modMov_mem (s : State) (a : Nat) (f : Mov → Mov) : (modMov s a f).mem = s.mem := rfl
@[simp] theorem modMov_memPoison (s : State) (a : Nat) (f : Mov → Mov) : (modMov s a f).memPoison = s.memPoison := rfl
@[simp] theorem modMov_regions (s : State) (a : Nat) (f : Mov → Mov) : (modMov s a f).regions = s.regions := rfl
@[simp] theorem modMov_replicas (s : State) (a : Nat) (f : Mov → Mov) : (modMov s a f).replicas = s.replicas := rfl
@[simp] theorem modMov_placed (s : State) (a : Nat) (f : Mov → Mov) : (modMov s a f).placed = s.placed := rfl
@[simp] theorem modMov_access (s : State) (a : Nat) (f : Mov → Mov) : (modMov s a f).access = s.access := rfl
@[simp] theorem modMov_waits (s : State) (a : Nat) (f : Mov → Mov) : (modMov s a f).waits = s.waits := rfl
@[simp] theorem modMov_dev (s : State) (a : Nat) (f : Mov → Mov) : (modMov s a f).dev = s.dev := rfl
@[simp] theorem modMov_transit (s : State) (a : Nat) (f : Mov → Mov) : (modMov s a f).transit = s.transit := rfl
@[simp] theorem modMov_sync (s : State) (a : Nat) (f : Mov → Mov) : (modMov s a f).sync = s.sync := rfl
@[simp] theorem modMov_collapses (s : State) (a : Nat) (f : Mov → Mov) : (modMov s a f).collapses = s.collapses := rfl
@[simp] theorem modMov_leaving (s : State) (a : Nat) (f : Mov → Mov) : (modMov s a f).leaving = s.leaving := rfl
@[simp] theorem modMov_awaited (s : State) (a : Nat) (f : Mov → Mov) : (modMov s a f).awaited = s.awaited := rfl

@[simp] theorem modReed_agenda (s : State) (a : Nat) (f : Reed → Reed) : (modReed s a f).agenda = s.agenda := rfl
@[simp] theorem modReed_focus (s : State) (a : Nat) (f : Reed → Reed) : (modReed s a f).focus = s.focus := rfl
@[simp] theorem modReed_cur (s : State) (a : Nat) (f : Reed → Reed) : (modReed s a f).cur = s.cur := rfl
@[simp] theorem modReed_free (s : State) (a : Nat) (f : Reed → Reed) : (modReed s a f).free = s.free := rfl
@[simp] theorem modReed_replies (s : State) (a : Nat) (f : Reed → Reed) : (modReed s a f).replies = s.replies := rfl
@[simp] theorem modReed_peerReplies (s : State) (a : Nat) (f : Reed → Reed) : (modReed s a f).peerReplies = s.peerReplies := rfl
@[simp] theorem modReed_now (s : State) (a : Nat) (f : Reed → Reed) : (modReed s a f).now = s.now := rfl
@[simp] theorem modReed_dies (s : State) (a : Nat) (f : Reed → Reed) : (modReed s a f).dies = s.dies := rfl
@[simp] theorem modReed_tasks (s : State) (a : Nat) (f : Reed → Reed) : (modReed s a f).tasks = s.tasks := rfl
@[simp] theorem modReed_nextTask (s : State) (a : Nat) (f : Reed → Reed) : (modReed s a f).nextTask = s.nextTask := rfl
@[simp] theorem modReed_parts (s : State) (a : Nat) (f : Reed → Reed) : (modReed s a f).parts = s.parts := rfl
@[simp] theorem modReed_runs (s : State) (a : Nat) (f : Reed → Reed) : (modReed s a f).runs = s.runs := rfl
@[simp] theorem modReed_mem (s : State) (a : Nat) (f : Reed → Reed) : (modReed s a f).mem = s.mem := rfl
@[simp] theorem modReed_memPoison (s : State) (a : Nat) (f : Reed → Reed) : (modReed s a f).memPoison = s.memPoison := rfl
@[simp] theorem modReed_regions (s : State) (a : Nat) (f : Reed → Reed) : (modReed s a f).regions = s.regions := rfl
@[simp] theorem modReed_replicas (s : State) (a : Nat) (f : Reed → Reed) : (modReed s a f).replicas = s.replicas := rfl
@[simp] theorem modReed_placed (s : State) (a : Nat) (f : Reed → Reed) : (modReed s a f).placed = s.placed := rfl
@[simp] theorem modReed_access (s : State) (a : Nat) (f : Reed → Reed) : (modReed s a f).access = s.access := rfl
@[simp] theorem modReed_waits (s : State) (a : Nat) (f : Reed → Reed) : (modReed s a f).waits = s.waits := rfl
@[simp] theorem modReed_dev (s : State) (a : Nat) (f : Reed → Reed) : (modReed s a f).dev = s.dev := rfl
@[simp] theorem modReed_transit (s : State) (a : Nat) (f : Reed → Reed) : (modReed s a f).transit = s.transit := rfl
@[simp] theorem modReed_sync (s : State) (a : Nat) (f : Reed → Reed) : (modReed s a f).sync = s.sync := rfl
@[simp] theorem modReed_collapses (s : State) (a : Nat) (f : Reed → Reed) : (modReed s a f).collapses = s.collapses := rfl
@[simp] theorem modReed_leaving (s : State) (a : Nat) (f : Reed → Reed) : (modReed s a f).leaving = s.leaving := rfl
@[simp] theorem modReed_awaited (s : State) (a : Nat) (f : Reed → Reed) : (modReed s a f).awaited = s.awaited := rfl

@[simp] theorem progress_agenda (s : State) (a : Nat) : (progress s a).agenda = s.agenda := rfl
@[simp] theorem progress_focus (s : State) (a : Nat) : (progress s a).focus = s.focus := rfl
@[simp] theorem progress_cur (s : State) (a : Nat) : (progress s a).cur = s.cur := rfl
@[simp] theorem progress_free (s : State) (a : Nat) : (progress s a).free = s.free := rfl
@[simp] theorem progress_replies (s : State) (a : Nat) : (progress s a).replies = s.replies := rfl
@[simp] theorem progress_peerReplies (s : State) (a : Nat) : (progress s a).peerReplies = s.peerReplies := rfl
@[simp] theorem progress_now (s : State) (a : Nat) : (progress s a).now = s.now := rfl
@[simp] theorem progress_dies (s : State) (a : Nat) : (progress s a).dies = s.dies := rfl
@[simp] theorem progress_tasks (s : State) (a : Nat) : (progress s a).tasks = s.tasks := rfl
@[simp] theorem progress_nextTask (s : State) (a : Nat) : (progress s a).nextTask = s.nextTask := rfl
@[simp] theorem progress_parts (s : State) (a : Nat) : (progress s a).parts = s.parts := rfl
@[simp] theorem progress_runs (s : State) (a : Nat) : (progress s a).runs = s.runs := rfl
@[simp] theorem progress_mem (s : State) (a : Nat) : (progress s a).mem = s.mem := rfl
@[simp] theorem progress_memPoison (s : State) (a : Nat) : (progress s a).memPoison = s.memPoison := rfl
@[simp] theorem progress_regions (s : State) (a : Nat) : (progress s a).regions = s.regions := rfl
@[simp] theorem progress_replicas (s : State) (a : Nat) : (progress s a).replicas = s.replicas := rfl
@[simp] theorem progress_placed (s : State) (a : Nat) : (progress s a).placed = s.placed := rfl
@[simp] theorem progress_access (s : State) (a : Nat) : (progress s a).access = s.access := rfl
@[simp] theorem progress_waits (s : State) (a : Nat) : (progress s a).waits = s.waits := rfl
@[simp] theorem progress_dev (s : State) (a : Nat) : (progress s a).dev = s.dev := rfl
@[simp] theorem progress_transit (s : State) (a : Nat) : (progress s a).transit = s.transit := rfl
@[simp] theorem progress_sync (s : State) (a : Nat) : (progress s a).sync = s.sync := rfl
@[simp] theorem progress_collapses (s : State) (a : Nat) : (progress s a).collapses = s.collapses := rfl
@[simp] theorem progress_leaving (s : State) (a : Nat) : (progress s a).leaving = s.leaving := rfl
@[simp] theorem progress_awaited (s : State) (a : Nat) : (progress s a).awaited = s.awaited := rfl

@[simp] theorem takeTrap_agenda (s : State) (a cause pc : Nat) (info src : Word) : (takeTrap s a cause pc info src).agenda = s.agenda := rfl
@[simp] theorem takeTrap_focus (s : State) (a cause pc : Nat) (info src : Word) : (takeTrap s a cause pc info src).focus = s.focus := rfl
@[simp] theorem takeTrap_cur (s : State) (a cause pc : Nat) (info src : Word) : (takeTrap s a cause pc info src).cur = s.cur := rfl
@[simp] theorem takeTrap_free (s : State) (a cause pc : Nat) (info src : Word) : (takeTrap s a cause pc info src).free = s.free := rfl
@[simp] theorem takeTrap_replies (s : State) (a cause pc : Nat) (info src : Word) : (takeTrap s a cause pc info src).replies = s.replies := rfl
@[simp] theorem takeTrap_peerReplies (s : State) (a cause pc : Nat) (info src : Word) : (takeTrap s a cause pc info src).peerReplies = s.peerReplies := rfl
@[simp] theorem takeTrap_now (s : State) (a cause pc : Nat) (info src : Word) : (takeTrap s a cause pc info src).now = s.now := rfl
@[simp] theorem takeTrap_dies (s : State) (a cause pc : Nat) (info src : Word) : (takeTrap s a cause pc info src).dies = s.dies := rfl
@[simp] theorem takeTrap_tasks (s : State) (a cause pc : Nat) (info src : Word) : (takeTrap s a cause pc info src).tasks = s.tasks := rfl
@[simp] theorem takeTrap_nextTask (s : State) (a cause pc : Nat) (info src : Word) : (takeTrap s a cause pc info src).nextTask = s.nextTask := rfl
@[simp] theorem takeTrap_parts (s : State) (a cause pc : Nat) (info src : Word) : (takeTrap s a cause pc info src).parts = s.parts := rfl
@[simp] theorem takeTrap_runs (s : State) (a cause pc : Nat) (info src : Word) : (takeTrap s a cause pc info src).runs = s.runs := rfl
@[simp] theorem takeTrap_mem (s : State) (a cause pc : Nat) (info src : Word) : (takeTrap s a cause pc info src).mem = s.mem := rfl
@[simp] theorem takeTrap_memPoison (s : State) (a cause pc : Nat) (info src : Word) : (takeTrap s a cause pc info src).memPoison = s.memPoison := rfl
@[simp] theorem takeTrap_regions (s : State) (a cause pc : Nat) (info src : Word) : (takeTrap s a cause pc info src).regions = s.regions := rfl
@[simp] theorem takeTrap_replicas (s : State) (a cause pc : Nat) (info src : Word) : (takeTrap s a cause pc info src).replicas = s.replicas := rfl
@[simp] theorem takeTrap_placed (s : State) (a cause pc : Nat) (info src : Word) : (takeTrap s a cause pc info src).placed = s.placed := rfl
@[simp] theorem takeTrap_access (s : State) (a cause pc : Nat) (info src : Word) : (takeTrap s a cause pc info src).access = s.access := rfl
@[simp] theorem takeTrap_waits (s : State) (a cause pc : Nat) (info src : Word) : (takeTrap s a cause pc info src).waits = s.waits.filter (fun w => w.agent != a) := rfl
@[simp] theorem takeTrap_dev (s : State) (a cause pc : Nat) (info src : Word) : (takeTrap s a cause pc info src).dev = s.dev := rfl
@[simp] theorem takeTrap_transit (s : State) (a cause pc : Nat) (info src : Word) : (takeTrap s a cause pc info src).transit = s.transit := rfl
@[simp] theorem takeTrap_sync (s : State) (a cause pc : Nat) (info src : Word) : (takeTrap s a cause pc info src).sync = s.sync := rfl
@[simp] theorem takeTrap_collapses (s : State) (a cause pc : Nat) (info src : Word) : (takeTrap s a cause pc info src).collapses = s.collapses := rfl
@[simp] theorem takeTrap_leaving (s : State) (a cause pc : Nat) (info src : Word) : (takeTrap s a cause pc info src).leaving = s.leaving := rfl
@[simp] theorem takeTrap_awaited (s : State) (a cause pc : Nat) (info src : Word) : (takeTrap s a cause pc info src).awaited = s.awaited := rfl

@[simp] theorem raiseAsync_agenda (s : State) (a cause : Nat) (info src : Word) : (raiseAsync s a cause info src).agenda = s.agenda := rfl
@[simp] theorem raiseAsync_focus (s : State) (a cause : Nat) (info src : Word) : (raiseAsync s a cause info src).focus = s.focus := rfl
@[simp] theorem raiseAsync_cur (s : State) (a cause : Nat) (info src : Word) : (raiseAsync s a cause info src).cur = s.cur := rfl
@[simp] theorem raiseAsync_free (s : State) (a cause : Nat) (info src : Word) : (raiseAsync s a cause info src).free = s.free := rfl
@[simp] theorem raiseAsync_replies (s : State) (a cause : Nat) (info src : Word) : (raiseAsync s a cause info src).replies = s.replies := rfl
@[simp] theorem raiseAsync_peerReplies (s : State) (a cause : Nat) (info src : Word) : (raiseAsync s a cause info src).peerReplies = s.peerReplies := rfl
@[simp] theorem raiseAsync_now (s : State) (a cause : Nat) (info src : Word) : (raiseAsync s a cause info src).now = s.now := rfl
@[simp] theorem raiseAsync_dies (s : State) (a cause : Nat) (info src : Word) : (raiseAsync s a cause info src).dies = s.dies := rfl
@[simp] theorem raiseAsync_tasks (s : State) (a cause : Nat) (info src : Word) : (raiseAsync s a cause info src).tasks = s.tasks := rfl
@[simp] theorem raiseAsync_nextTask (s : State) (a cause : Nat) (info src : Word) : (raiseAsync s a cause info src).nextTask = s.nextTask := rfl
@[simp] theorem raiseAsync_parts (s : State) (a cause : Nat) (info src : Word) : (raiseAsync s a cause info src).parts = s.parts := rfl
@[simp] theorem raiseAsync_runs (s : State) (a cause : Nat) (info src : Word) : (raiseAsync s a cause info src).runs = s.runs := rfl
@[simp] theorem raiseAsync_mem (s : State) (a cause : Nat) (info src : Word) : (raiseAsync s a cause info src).mem = s.mem := rfl
@[simp] theorem raiseAsync_memPoison (s : State) (a cause : Nat) (info src : Word) : (raiseAsync s a cause info src).memPoison = s.memPoison := rfl
@[simp] theorem raiseAsync_regions (s : State) (a cause : Nat) (info src : Word) : (raiseAsync s a cause info src).regions = s.regions := rfl
@[simp] theorem raiseAsync_replicas (s : State) (a cause : Nat) (info src : Word) : (raiseAsync s a cause info src).replicas = s.replicas := rfl
@[simp] theorem raiseAsync_placed (s : State) (a cause : Nat) (info src : Word) : (raiseAsync s a cause info src).placed = s.placed := rfl
@[simp] theorem raiseAsync_access (s : State) (a cause : Nat) (info src : Word) : (raiseAsync s a cause info src).access = s.access := rfl
@[simp] theorem raiseAsync_waits (s : State) (a cause : Nat) (info src : Word) : (raiseAsync s a cause info src).waits = s.waits := rfl
@[simp] theorem raiseAsync_dev (s : State) (a cause : Nat) (info src : Word) : (raiseAsync s a cause info src).dev = s.dev := rfl
@[simp] theorem raiseAsync_transit (s : State) (a cause : Nat) (info src : Word) : (raiseAsync s a cause info src).transit = s.transit := rfl
@[simp] theorem raiseAsync_sync (s : State) (a cause : Nat) (info src : Word) : (raiseAsync s a cause info src).sync = s.sync := rfl
@[simp] theorem raiseAsync_collapses (s : State) (a cause : Nat) (info src : Word) : (raiseAsync s a cause info src).collapses = s.collapses := rfl
@[simp] theorem raiseAsync_leaving (s : State) (a cause : Nat) (info src : Word) : (raiseAsync s a cause info src).leaving = s.leaving := rfl
@[simp] theorem raiseAsync_awaited (s : State) (a cause : Nat) (info src : Word) : (raiseAsync s a cause info src).awaited = s.awaited := rfl

@[simp] theorem goAt_agenda (a pc : Nat) (s : State) : (goAt a pc s).agenda = s.agenda := rfl
@[simp] theorem goAt_focus (a pc : Nat) (s : State) : (goAt a pc s).focus = s.focus := rfl
@[simp] theorem goAt_cur (a pc : Nat) (s : State) : (goAt a pc s).cur = s.cur := rfl
@[simp] theorem goAt_free (a pc : Nat) (s : State) : (goAt a pc s).free = s.free := rfl
@[simp] theorem goAt_replies (a pc : Nat) (s : State) : (goAt a pc s).replies = s.replies := rfl
@[simp] theorem goAt_peerReplies (a pc : Nat) (s : State) : (goAt a pc s).peerReplies = s.peerReplies := rfl
@[simp] theorem goAt_now (a pc : Nat) (s : State) : (goAt a pc s).now = s.now := rfl
@[simp] theorem goAt_dies (a pc : Nat) (s : State) : (goAt a pc s).dies = s.dies := rfl
@[simp] theorem goAt_tasks (a pc : Nat) (s : State) : (goAt a pc s).tasks = s.tasks := rfl
@[simp] theorem goAt_nextTask (a pc : Nat) (s : State) : (goAt a pc s).nextTask = s.nextTask := rfl
@[simp] theorem goAt_parts (a pc : Nat) (s : State) : (goAt a pc s).parts = s.parts := rfl
@[simp] theorem goAt_runs (a pc : Nat) (s : State) : (goAt a pc s).runs = s.runs := rfl
@[simp] theorem goAt_mem (a pc : Nat) (s : State) : (goAt a pc s).mem = s.mem := rfl
@[simp] theorem goAt_memPoison (a pc : Nat) (s : State) : (goAt a pc s).memPoison = s.memPoison := rfl
@[simp] theorem goAt_regions (a pc : Nat) (s : State) : (goAt a pc s).regions = s.regions := rfl
@[simp] theorem goAt_replicas (a pc : Nat) (s : State) : (goAt a pc s).replicas = s.replicas := rfl
@[simp] theorem goAt_placed (a pc : Nat) (s : State) : (goAt a pc s).placed = s.placed := rfl
@[simp] theorem goAt_access (a pc : Nat) (s : State) : (goAt a pc s).access = s.access := rfl
@[simp] theorem goAt_waits (a pc : Nat) (s : State) : (goAt a pc s).waits = s.waits := rfl
@[simp] theorem goAt_dev (a pc : Nat) (s : State) : (goAt a pc s).dev = s.dev := rfl
@[simp] theorem goAt_transit (a pc : Nat) (s : State) : (goAt a pc s).transit = s.transit := rfl
@[simp] theorem goAt_sync (a pc : Nat) (s : State) : (goAt a pc s).sync = s.sync := rfl
@[simp] theorem goAt_collapses (a pc : Nat) (s : State) : (goAt a pc s).collapses = s.collapses := rfl
@[simp] theorem goAt_leaving (a pc : Nat) (s : State) : (goAt a pc s).leaving = s.leaving := rfl
@[simp] theorem goAt_awaited (a pc : Nat) (s : State) : (goAt a pc s).awaited = s.awaited := rfl

@[simp] theorem goTo_agenda (pc : Nat) (s : State) : (goTo pc s).agenda = s.agenda := rfl
@[simp] theorem goTo_focus (pc : Nat) (s : State) : (goTo pc s).focus = s.focus := rfl
@[simp] theorem goTo_cur (pc : Nat) (s : State) : (goTo pc s).cur = s.cur := rfl
@[simp] theorem goTo_free (pc : Nat) (s : State) : (goTo pc s).free = s.free := rfl
@[simp] theorem goTo_replies (pc : Nat) (s : State) : (goTo pc s).replies = s.replies := rfl
@[simp] theorem goTo_peerReplies (pc : Nat) (s : State) : (goTo pc s).peerReplies = s.peerReplies := rfl
@[simp] theorem goTo_now (pc : Nat) (s : State) : (goTo pc s).now = s.now := rfl
@[simp] theorem goTo_dies (pc : Nat) (s : State) : (goTo pc s).dies = s.dies := rfl
@[simp] theorem goTo_tasks (pc : Nat) (s : State) : (goTo pc s).tasks = s.tasks := rfl
@[simp] theorem goTo_nextTask (pc : Nat) (s : State) : (goTo pc s).nextTask = s.nextTask := rfl
@[simp] theorem goTo_parts (pc : Nat) (s : State) : (goTo pc s).parts = s.parts := rfl
@[simp] theorem goTo_runs (pc : Nat) (s : State) : (goTo pc s).runs = s.runs := rfl
@[simp] theorem goTo_mem (pc : Nat) (s : State) : (goTo pc s).mem = s.mem := rfl
@[simp] theorem goTo_memPoison (pc : Nat) (s : State) : (goTo pc s).memPoison = s.memPoison := rfl
@[simp] theorem goTo_regions (pc : Nat) (s : State) : (goTo pc s).regions = s.regions := rfl
@[simp] theorem goTo_replicas (pc : Nat) (s : State) : (goTo pc s).replicas = s.replicas := rfl
@[simp] theorem goTo_placed (pc : Nat) (s : State) : (goTo pc s).placed = s.placed := rfl
@[simp] theorem goTo_access (pc : Nat) (s : State) : (goTo pc s).access = s.access := rfl
@[simp] theorem goTo_waits (pc : Nat) (s : State) : (goTo pc s).waits = s.waits := rfl
@[simp] theorem goTo_dev (pc : Nat) (s : State) : (goTo pc s).dev = s.dev := rfl
@[simp] theorem goTo_transit (pc : Nat) (s : State) : (goTo pc s).transit = s.transit := rfl
@[simp] theorem goTo_sync (pc : Nat) (s : State) : (goTo pc s).sync = s.sync := rfl
@[simp] theorem goTo_collapses (pc : Nat) (s : State) : (goTo pc s).collapses = s.collapses := rfl
@[simp] theorem goTo_leaving (pc : Nat) (s : State) : (goTo pc s).leaving = s.leaving := rfl
@[simp] theorem goTo_awaited (pc : Nat) (s : State) : (goTo pc s).awaited = s.awaited := rfl

@[simp] theorem advanceAt_agenda (a : Nat) (s : State) : (advanceAt a s).agenda = s.agenda := rfl
@[simp] theorem advanceAt_focus (a : Nat) (s : State) : (advanceAt a s).focus = s.focus := rfl
@[simp] theorem advanceAt_cur (a : Nat) (s : State) : (advanceAt a s).cur = s.cur := rfl
@[simp] theorem advanceAt_free (a : Nat) (s : State) : (advanceAt a s).free = s.free := rfl
@[simp] theorem advanceAt_replies (a : Nat) (s : State) : (advanceAt a s).replies = s.replies := rfl
@[simp] theorem advanceAt_peerReplies (a : Nat) (s : State) : (advanceAt a s).peerReplies = s.peerReplies := rfl
@[simp] theorem advanceAt_now (a : Nat) (s : State) : (advanceAt a s).now = s.now := rfl
@[simp] theorem advanceAt_dies (a : Nat) (s : State) : (advanceAt a s).dies = s.dies := rfl
@[simp] theorem advanceAt_tasks (a : Nat) (s : State) : (advanceAt a s).tasks = s.tasks := rfl
@[simp] theorem advanceAt_nextTask (a : Nat) (s : State) : (advanceAt a s).nextTask = s.nextTask := rfl
@[simp] theorem advanceAt_parts (a : Nat) (s : State) : (advanceAt a s).parts = s.parts := rfl
@[simp] theorem advanceAt_runs (a : Nat) (s : State) : (advanceAt a s).runs = s.runs := rfl
@[simp] theorem advanceAt_mem (a : Nat) (s : State) : (advanceAt a s).mem = s.mem := rfl
@[simp] theorem advanceAt_memPoison (a : Nat) (s : State) : (advanceAt a s).memPoison = s.memPoison := rfl
@[simp] theorem advanceAt_regions (a : Nat) (s : State) : (advanceAt a s).regions = s.regions := rfl
@[simp] theorem advanceAt_replicas (a : Nat) (s : State) : (advanceAt a s).replicas = s.replicas := rfl
@[simp] theorem advanceAt_placed (a : Nat) (s : State) : (advanceAt a s).placed = s.placed := rfl
@[simp] theorem advanceAt_access (a : Nat) (s : State) : (advanceAt a s).access = s.access := rfl
@[simp] theorem advanceAt_waits (a : Nat) (s : State) : (advanceAt a s).waits = s.waits := rfl
@[simp] theorem advanceAt_dev (a : Nat) (s : State) : (advanceAt a s).dev = s.dev := rfl
@[simp] theorem advanceAt_transit (a : Nat) (s : State) : (advanceAt a s).transit = s.transit := rfl
@[simp] theorem advanceAt_sync (a : Nat) (s : State) : (advanceAt a s).sync = s.sync := rfl
@[simp] theorem advanceAt_collapses (a : Nat) (s : State) : (advanceAt a s).collapses = s.collapses := rfl
@[simp] theorem advanceAt_leaving (a : Nat) (s : State) : (advanceAt a s).leaving = s.leaving := rfl
@[simp] theorem advanceAt_awaited (a : Nat) (s : State) : (advanceAt a s).awaited = s.awaited := rfl

@[simp] theorem advance_agenda (s : State) : (advance s).agenda = s.agenda := rfl
@[simp] theorem advance_focus (s : State) : (advance s).focus = s.focus := rfl
@[simp] theorem advance_cur (s : State) : (advance s).cur = s.cur := rfl
@[simp] theorem advance_free (s : State) : (advance s).free = s.free := rfl
@[simp] theorem advance_replies (s : State) : (advance s).replies = s.replies := rfl
@[simp] theorem advance_peerReplies (s : State) : (advance s).peerReplies = s.peerReplies := rfl
@[simp] theorem advance_now (s : State) : (advance s).now = s.now := rfl
@[simp] theorem advance_dies (s : State) : (advance s).dies = s.dies := rfl
@[simp] theorem advance_tasks (s : State) : (advance s).tasks = s.tasks := rfl
@[simp] theorem advance_nextTask (s : State) : (advance s).nextTask = s.nextTask := rfl
@[simp] theorem advance_parts (s : State) : (advance s).parts = s.parts := rfl
@[simp] theorem advance_runs (s : State) : (advance s).runs = s.runs := rfl
@[simp] theorem advance_mem (s : State) : (advance s).mem = s.mem := rfl
@[simp] theorem advance_memPoison (s : State) : (advance s).memPoison = s.memPoison := rfl
@[simp] theorem advance_regions (s : State) : (advance s).regions = s.regions := rfl
@[simp] theorem advance_replicas (s : State) : (advance s).replicas = s.replicas := rfl
@[simp] theorem advance_placed (s : State) : (advance s).placed = s.placed := rfl
@[simp] theorem advance_access (s : State) : (advance s).access = s.access := rfl
@[simp] theorem advance_waits (s : State) : (advance s).waits = s.waits := rfl
@[simp] theorem advance_dev (s : State) : (advance s).dev = s.dev := rfl
@[simp] theorem advance_transit (s : State) : (advance s).transit = s.transit := rfl
@[simp] theorem advance_sync (s : State) : (advance s).sync = s.sync := rfl
@[simp] theorem advance_collapses (s : State) : (advance s).collapses = s.collapses := rfl
@[simp] theorem advance_leaving (s : State) : (advance s).leaving = s.leaving := rfl
@[simp] theorem advance_awaited (s : State) : (advance s).awaited = s.awaited := rfl

@[simp] theorem restartEngines_agenda (s : State) (a : Nat) : (restartEngines s a).agenda = s.agenda := rfl
@[simp] theorem restartEngines_focus (s : State) (a : Nat) : (restartEngines s a).focus = s.focus := rfl
@[simp] theorem restartEngines_cur (s : State) (a : Nat) : (restartEngines s a).cur = s.cur := rfl
@[simp] theorem restartEngines_free (s : State) (a : Nat) : (restartEngines s a).free = s.free := rfl
@[simp] theorem restartEngines_replies (s : State) (a : Nat) : (restartEngines s a).replies = s.replies := rfl
@[simp] theorem restartEngines_peerReplies (s : State) (a : Nat) : (restartEngines s a).peerReplies = s.peerReplies := rfl
@[simp] theorem restartEngines_now (s : State) (a : Nat) : (restartEngines s a).now = s.now := rfl
@[simp] theorem restartEngines_dies (s : State) (a : Nat) : (restartEngines s a).dies = s.dies := rfl
@[simp] theorem restartEngines_tasks (s : State) (a : Nat) : (restartEngines s a).tasks = s.tasks := rfl
@[simp] theorem restartEngines_nextTask (s : State) (a : Nat) : (restartEngines s a).nextTask = s.nextTask := rfl
@[simp] theorem restartEngines_parts (s : State) (a : Nat) : (restartEngines s a).parts = s.parts := rfl
@[simp] theorem restartEngines_runs (s : State) (a : Nat) : (restartEngines s a).runs = s.runs := rfl
@[simp] theorem restartEngines_mem (s : State) (a : Nat) : (restartEngines s a).mem = s.mem := rfl
@[simp] theorem restartEngines_memPoison (s : State) (a : Nat) : (restartEngines s a).memPoison = s.memPoison := rfl
@[simp] theorem restartEngines_regions (s : State) (a : Nat) : (restartEngines s a).regions = s.regions := rfl
@[simp] theorem restartEngines_replicas (s : State) (a : Nat) : (restartEngines s a).replicas = s.replicas := rfl
@[simp] theorem restartEngines_placed (s : State) (a : Nat) : (restartEngines s a).placed = s.placed := rfl
@[simp] theorem restartEngines_access (s : State) (a : Nat) : (restartEngines s a).access = s.access := rfl
@[simp] theorem restartEngines_waits (s : State) (a : Nat) : (restartEngines s a).waits = s.waits := rfl
@[simp] theorem restartEngines_dev (s : State) (a : Nat) : (restartEngines s a).dev = s.dev := rfl
@[simp] theorem restartEngines_transit (s : State) (a : Nat) : (restartEngines s a).transit = s.transit := rfl
@[simp] theorem restartEngines_sync (s : State) (a : Nat) : (restartEngines s a).sync = s.sync := rfl
@[simp] theorem restartEngines_collapses (s : State) (a : Nat) : (restartEngines s a).collapses = s.collapses := rfl
@[simp] theorem restartEngines_leaving (s : State) (a : Nat) : (restartEngines s a).leaving = s.leaving := rfl
@[simp] theorem restartEngines_awaited (s : State) (a : Nat) : (restartEngines s a).awaited = s.awaited := rfl

@[simp] theorem returnTo_agenda (s : State) (a : Nat) (x : Bool) : (returnTo s a x).agenda = s.agenda := rfl
@[simp] theorem returnTo_focus (s : State) (a : Nat) (x : Bool) : (returnTo s a x).focus = s.focus := rfl
@[simp] theorem returnTo_cur (s : State) (a : Nat) (x : Bool) : (returnTo s a x).cur = s.cur := rfl
@[simp] theorem returnTo_free (s : State) (a : Nat) (x : Bool) : (returnTo s a x).free = s.free := rfl
@[simp] theorem returnTo_replies (s : State) (a : Nat) (x : Bool) : (returnTo s a x).replies = s.replies := rfl
@[simp] theorem returnTo_peerReplies (s : State) (a : Nat) (x : Bool) : (returnTo s a x).peerReplies = s.peerReplies := rfl
@[simp] theorem returnTo_now (s : State) (a : Nat) (x : Bool) : (returnTo s a x).now = s.now := rfl
@[simp] theorem returnTo_dies (s : State) (a : Nat) (x : Bool) : (returnTo s a x).dies = s.dies := rfl
@[simp] theorem returnTo_tasks (s : State) (a : Nat) (x : Bool) : (returnTo s a x).tasks = s.tasks := rfl
@[simp] theorem returnTo_nextTask (s : State) (a : Nat) (x : Bool) : (returnTo s a x).nextTask = s.nextTask := rfl
@[simp] theorem returnTo_parts (s : State) (a : Nat) (x : Bool) : (returnTo s a x).parts = s.parts := rfl
@[simp] theorem returnTo_runs (s : State) (a : Nat) (x : Bool) : (returnTo s a x).runs = s.runs := rfl
@[simp] theorem returnTo_mem (s : State) (a : Nat) (x : Bool) : (returnTo s a x).mem = s.mem := rfl
@[simp] theorem returnTo_memPoison (s : State) (a : Nat) (x : Bool) : (returnTo s a x).memPoison = s.memPoison := rfl
@[simp] theorem returnTo_regions (s : State) (a : Nat) (x : Bool) : (returnTo s a x).regions = s.regions := rfl
@[simp] theorem returnTo_replicas (s : State) (a : Nat) (x : Bool) : (returnTo s a x).replicas = s.replicas := rfl
@[simp] theorem returnTo_placed (s : State) (a : Nat) (x : Bool) : (returnTo s a x).placed = s.placed := rfl
@[simp] theorem returnTo_access (s : State) (a : Nat) (x : Bool) : (returnTo s a x).access = s.access := rfl
@[simp] theorem returnTo_waits (s : State) (a : Nat) (x : Bool) : (returnTo s a x).waits = s.waits := rfl
@[simp] theorem returnTo_dev (s : State) (a : Nat) (x : Bool) : (returnTo s a x).dev = s.dev := rfl
@[simp] theorem returnTo_transit (s : State) (a : Nat) (x : Bool) : (returnTo s a x).transit = s.transit := rfl
@[simp] theorem returnTo_sync (s : State) (a : Nat) (x : Bool) : (returnTo s a x).sync = s.sync := rfl
@[simp] theorem returnTo_collapses (s : State) (a : Nat) (x : Bool) : (returnTo s a x).collapses = s.collapses := rfl
@[simp] theorem returnTo_leaving (s : State) (a : Nat) (x : Bool) : (returnTo s a x).leaving = s.leaving := rfl
@[simp] theorem returnTo_awaited (s : State) (a : Nat) (x : Bool) : (returnTo s a x).awaited = s.awaited := rfl

@[simp] theorem putDie_agenda (s : State) (d : Nat) (x : Die) : (putDie s d x).agenda = s.agenda := rfl
@[simp] theorem putDie_focus (s : State) (d : Nat) (x : Die) : (putDie s d x).focus = s.focus := rfl
@[simp] theorem putDie_cur (s : State) (d : Nat) (x : Die) : (putDie s d x).cur = s.cur := rfl
@[simp] theorem putDie_free (s : State) (d : Nat) (x : Die) : (putDie s d x).free = s.free := rfl
@[simp] theorem putDie_replies (s : State) (d : Nat) (x : Die) : (putDie s d x).replies = s.replies := rfl
@[simp] theorem putDie_peerReplies (s : State) (d : Nat) (x : Die) : (putDie s d x).peerReplies = s.peerReplies := rfl
@[simp] theorem putDie_now (s : State) (d : Nat) (x : Die) : (putDie s d x).now = s.now := rfl
@[simp] theorem putDie_tiles (s : State) (d : Nat) (x : Die) : (putDie s d x).tiles = s.tiles := rfl
@[simp] theorem putDie_tasks (s : State) (d : Nat) (x : Die) : (putDie s d x).tasks = s.tasks := rfl
@[simp] theorem putDie_nextTask (s : State) (d : Nat) (x : Die) : (putDie s d x).nextTask = s.nextTask := rfl
@[simp] theorem putDie_parts (s : State) (d : Nat) (x : Die) : (putDie s d x).parts = s.parts := rfl
@[simp] theorem putDie_runs (s : State) (d : Nat) (x : Die) : (putDie s d x).runs = s.runs := rfl
@[simp] theorem putDie_mem (s : State) (d : Nat) (x : Die) : (putDie s d x).mem = s.mem := rfl
@[simp] theorem putDie_memPoison (s : State) (d : Nat) (x : Die) : (putDie s d x).memPoison = s.memPoison := rfl
@[simp] theorem putDie_regions (s : State) (d : Nat) (x : Die) : (putDie s d x).regions = s.regions := rfl
@[simp] theorem putDie_replicas (s : State) (d : Nat) (x : Die) : (putDie s d x).replicas = s.replicas := rfl
@[simp] theorem putDie_placed (s : State) (d : Nat) (x : Die) : (putDie s d x).placed = s.placed := rfl
@[simp] theorem putDie_access (s : State) (d : Nat) (x : Die) : (putDie s d x).access = s.access := rfl
@[simp] theorem putDie_waits (s : State) (d : Nat) (x : Die) : (putDie s d x).waits = s.waits := rfl
@[simp] theorem putDie_dev (s : State) (d : Nat) (x : Die) : (putDie s d x).dev = s.dev := rfl
@[simp] theorem putDie_transit (s : State) (d : Nat) (x : Die) : (putDie s d x).transit = s.transit := rfl
@[simp] theorem putDie_sync (s : State) (d : Nat) (x : Die) : (putDie s d x).sync = s.sync := rfl
@[simp] theorem putDie_collapses (s : State) (d : Nat) (x : Die) : (putDie s d x).collapses = s.collapses := rfl
@[simp] theorem putDie_leaving (s : State) (d : Nat) (x : Die) : (putDie s d x).leaving = s.leaving := rfl
@[simp] theorem putDie_awaited (s : State) (d : Nat) (x : Die) : (putDie s d x).awaited = s.awaited := rfl

@[simp] theorem modDie_agenda (s : State) (d : Nat) (f : Die → Die) : (modDie s d f).agenda = s.agenda := rfl
@[simp] theorem modDie_focus (s : State) (d : Nat) (f : Die → Die) : (modDie s d f).focus = s.focus := rfl
@[simp] theorem modDie_cur (s : State) (d : Nat) (f : Die → Die) : (modDie s d f).cur = s.cur := rfl
@[simp] theorem modDie_free (s : State) (d : Nat) (f : Die → Die) : (modDie s d f).free = s.free := rfl
@[simp] theorem modDie_replies (s : State) (d : Nat) (f : Die → Die) : (modDie s d f).replies = s.replies := rfl
@[simp] theorem modDie_peerReplies (s : State) (d : Nat) (f : Die → Die) : (modDie s d f).peerReplies = s.peerReplies := rfl
@[simp] theorem modDie_now (s : State) (d : Nat) (f : Die → Die) : (modDie s d f).now = s.now := rfl
@[simp] theorem modDie_tiles (s : State) (d : Nat) (f : Die → Die) : (modDie s d f).tiles = s.tiles := rfl
@[simp] theorem modDie_tasks (s : State) (d : Nat) (f : Die → Die) : (modDie s d f).tasks = s.tasks := rfl
@[simp] theorem modDie_nextTask (s : State) (d : Nat) (f : Die → Die) : (modDie s d f).nextTask = s.nextTask := rfl
@[simp] theorem modDie_parts (s : State) (d : Nat) (f : Die → Die) : (modDie s d f).parts = s.parts := rfl
@[simp] theorem modDie_runs (s : State) (d : Nat) (f : Die → Die) : (modDie s d f).runs = s.runs := rfl
@[simp] theorem modDie_mem (s : State) (d : Nat) (f : Die → Die) : (modDie s d f).mem = s.mem := rfl
@[simp] theorem modDie_memPoison (s : State) (d : Nat) (f : Die → Die) : (modDie s d f).memPoison = s.memPoison := rfl
@[simp] theorem modDie_regions (s : State) (d : Nat) (f : Die → Die) : (modDie s d f).regions = s.regions := rfl
@[simp] theorem modDie_replicas (s : State) (d : Nat) (f : Die → Die) : (modDie s d f).replicas = s.replicas := rfl
@[simp] theorem modDie_placed (s : State) (d : Nat) (f : Die → Die) : (modDie s d f).placed = s.placed := rfl
@[simp] theorem modDie_access (s : State) (d : Nat) (f : Die → Die) : (modDie s d f).access = s.access := rfl
@[simp] theorem modDie_waits (s : State) (d : Nat) (f : Die → Die) : (modDie s d f).waits = s.waits := rfl
@[simp] theorem modDie_dev (s : State) (d : Nat) (f : Die → Die) : (modDie s d f).dev = s.dev := rfl
@[simp] theorem modDie_transit (s : State) (d : Nat) (f : Die → Die) : (modDie s d f).transit = s.transit := rfl
@[simp] theorem modDie_sync (s : State) (d : Nat) (f : Die → Die) : (modDie s d f).sync = s.sync := rfl
@[simp] theorem modDie_collapses (s : State) (d : Nat) (f : Die → Die) : (modDie s d f).collapses = s.collapses := rfl
@[simp] theorem modDie_leaving (s : State) (d : Nat) (f : Die → Die) : (modDie s d f).leaving = s.leaving := rfl
@[simp] theorem modDie_awaited (s : State) (d : Nat) (f : Die → Die) : (modDie s d f).awaited = s.awaited := rfl

@[simp] theorem modDev_agenda (s : State) (f : Dev → Dev) : (modDev s f).agenda = s.agenda := rfl
@[simp] theorem modDev_focus (s : State) (f : Dev → Dev) : (modDev s f).focus = s.focus := rfl
@[simp] theorem modDev_cur (s : State) (f : Dev → Dev) : (modDev s f).cur = s.cur := rfl
@[simp] theorem modDev_free (s : State) (f : Dev → Dev) : (modDev s f).free = s.free := rfl
@[simp] theorem modDev_replies (s : State) (f : Dev → Dev) : (modDev s f).replies = s.replies := rfl
@[simp] theorem modDev_peerReplies (s : State) (f : Dev → Dev) : (modDev s f).peerReplies = s.peerReplies := rfl
@[simp] theorem modDev_now (s : State) (f : Dev → Dev) : (modDev s f).now = s.now := rfl
@[simp] theorem modDev_tiles (s : State) (f : Dev → Dev) : (modDev s f).tiles = s.tiles := rfl
@[simp] theorem modDev_dies (s : State) (f : Dev → Dev) : (modDev s f).dies = s.dies := rfl
@[simp] theorem modDev_tasks (s : State) (f : Dev → Dev) : (modDev s f).tasks = s.tasks := rfl
@[simp] theorem modDev_nextTask (s : State) (f : Dev → Dev) : (modDev s f).nextTask = s.nextTask := rfl
@[simp] theorem modDev_parts (s : State) (f : Dev → Dev) : (modDev s f).parts = s.parts := rfl
@[simp] theorem modDev_runs (s : State) (f : Dev → Dev) : (modDev s f).runs = s.runs := rfl
@[simp] theorem modDev_mem (s : State) (f : Dev → Dev) : (modDev s f).mem = s.mem := rfl
@[simp] theorem modDev_memPoison (s : State) (f : Dev → Dev) : (modDev s f).memPoison = s.memPoison := rfl
@[simp] theorem modDev_regions (s : State) (f : Dev → Dev) : (modDev s f).regions = s.regions := rfl
@[simp] theorem modDev_replicas (s : State) (f : Dev → Dev) : (modDev s f).replicas = s.replicas := rfl
@[simp] theorem modDev_placed (s : State) (f : Dev → Dev) : (modDev s f).placed = s.placed := rfl
@[simp] theorem modDev_access (s : State) (f : Dev → Dev) : (modDev s f).access = s.access := rfl
@[simp] theorem modDev_waits (s : State) (f : Dev → Dev) : (modDev s f).waits = s.waits := rfl
@[simp] theorem modDev_transit (s : State) (f : Dev → Dev) : (modDev s f).transit = s.transit := rfl
@[simp] theorem modDev_sync (s : State) (f : Dev → Dev) : (modDev s f).sync = s.sync := rfl
@[simp] theorem modDev_collapses (s : State) (f : Dev → Dev) : (modDev s f).collapses = s.collapses := rfl
@[simp] theorem modDev_leaving (s : State) (f : Dev → Dev) : (modDev s f).leaving = s.leaving := rfl
@[simp] theorem modDev_awaited (s : State) (f : Dev → Dev) : (modDev s f).awaited = s.awaited := rfl

@[simp] theorem putTask_agenda (s : State) (u : Nat) (t : Task) : (putTask s u t).agenda = s.agenda := rfl
@[simp] theorem putTask_focus (s : State) (u : Nat) (t : Task) : (putTask s u t).focus = s.focus := rfl
@[simp] theorem putTask_cur (s : State) (u : Nat) (t : Task) : (putTask s u t).cur = s.cur := rfl
@[simp] theorem putTask_free (s : State) (u : Nat) (t : Task) : (putTask s u t).free = s.free := rfl
@[simp] theorem putTask_replies (s : State) (u : Nat) (t : Task) : (putTask s u t).replies = s.replies := rfl
@[simp] theorem putTask_peerReplies (s : State) (u : Nat) (t : Task) : (putTask s u t).peerReplies = s.peerReplies := rfl
@[simp] theorem putTask_now (s : State) (u : Nat) (t : Task) : (putTask s u t).now = s.now := rfl
@[simp] theorem putTask_tiles (s : State) (u : Nat) (t : Task) : (putTask s u t).tiles = s.tiles := rfl
@[simp] theorem putTask_dies (s : State) (u : Nat) (t : Task) : (putTask s u t).dies = s.dies := rfl
@[simp] theorem putTask_nextTask (s : State) (u : Nat) (t : Task) : (putTask s u t).nextTask = s.nextTask := rfl
@[simp] theorem putTask_parts (s : State) (u : Nat) (t : Task) : (putTask s u t).parts = s.parts := rfl
@[simp] theorem putTask_runs (s : State) (u : Nat) (t : Task) : (putTask s u t).runs = s.runs := rfl
@[simp] theorem putTask_mem (s : State) (u : Nat) (t : Task) : (putTask s u t).mem = s.mem := rfl
@[simp] theorem putTask_memPoison (s : State) (u : Nat) (t : Task) : (putTask s u t).memPoison = s.memPoison := rfl
@[simp] theorem putTask_regions (s : State) (u : Nat) (t : Task) : (putTask s u t).regions = s.regions := rfl
@[simp] theorem putTask_replicas (s : State) (u : Nat) (t : Task) : (putTask s u t).replicas = s.replicas := rfl
@[simp] theorem putTask_placed (s : State) (u : Nat) (t : Task) : (putTask s u t).placed = s.placed := rfl
@[simp] theorem putTask_access (s : State) (u : Nat) (t : Task) : (putTask s u t).access = s.access := rfl
@[simp] theorem putTask_waits (s : State) (u : Nat) (t : Task) : (putTask s u t).waits = s.waits := rfl
@[simp] theorem putTask_dev (s : State) (u : Nat) (t : Task) : (putTask s u t).dev = s.dev := rfl
@[simp] theorem putTask_transit (s : State) (u : Nat) (t : Task) : (putTask s u t).transit = s.transit := rfl
@[simp] theorem putTask_sync (s : State) (u : Nat) (t : Task) : (putTask s u t).sync = s.sync := rfl
@[simp] theorem putTask_collapses (s : State) (u : Nat) (t : Task) : (putTask s u t).collapses = s.collapses := rfl
@[simp] theorem putTask_leaving (s : State) (u : Nat) (t : Task) : (putTask s u t).leaving = s.leaving := rfl
@[simp] theorem putTask_awaited (s : State) (u : Nat) (t : Task) : (putTask s u t).awaited = s.awaited := rfl

/-! ## Fields of a control core -/

@[simp] theorem wrS_p (r : Nat) (x : Word) (c : Core) : (wrS r x c).p = c.p := by unfold wrS; split <;> rfl
@[simp] theorem wrS_pc (r : Nat) (x : Word) (c : Core) : (wrS r x c).pc = c.pc := by unfold wrS; split <;> rfl
@[simp] theorem wrS_run (r : Nat) (x : Word) (c : Core) : (wrS r x c).run = c.run := by unfold wrS; split <;> rfl
@[simp] theorem wrS_wait (r : Nat) (x : Word) (c : Core) : (wrS r x c).wait = c.wait := by unfold wrS; split <;> rfl
@[simp] theorem wrS_tok (r : Nat) (x : Word) (c : Core) : (wrS r x c).tok = c.tok := by unfold wrS; split <;> rfl
@[simp] theorem wrS_late (r : Nat) (x : Word) (c : Core) : (wrS r x c).late = c.late := by unfold wrS; split <;> rfl
@[simp] theorem wrS_coNext (r : Nat) (x : Word) (c : Core) : (wrS r x c).coNext = c.coNext := by unfold wrS; split <;> rfl
@[simp] theorem wrS_pubAt (r : Nat) (x : Word) (c : Core) : (wrS r x c).pubAt = c.pubAt := by unfold wrS; split <;> rfl
@[simp] theorem wrS_mapTok (r : Nat) (x : Word) (c : Core) : (wrS r x c).mapTok = c.mapTok := by unfold wrS; split <;> rfl
@[simp] theorem wrS_async (r : Nat) (x : Word) (c : Core) : (wrS r x c).async = c.async := by unfold wrS; split <;> rfl
@[simp] theorem wrS_trapCause (r : Nat) (x : Word) (c : Core) : (wrS r x c).trapCause = c.trapCause := by unfold wrS; split <;> rfl
@[simp] theorem wrS_trapPc (r : Nat) (x : Word) (c : Core) : (wrS r x c).trapPc = c.trapPc := by unfold wrS; split <;> rfl
@[simp] theorem wrS_trapInfo (r : Nat) (x : Word) (c : Core) : (wrS r x c).trapInfo = c.trapInfo := by unfold wrS; split <;> rfl
@[simp] theorem wrS_trapSrc (r : Nat) (x : Word) (c : Core) : (wrS r x c).trapSrc = c.trapSrc := by unfold wrS; split <;> rfl
@[simp] theorem wrS_trapVecEn (r : Nat) (x : Word) (c : Core) : (wrS r x c).trapVecEn = c.trapVecEn := by unfold wrS; split <;> rfl
@[simp] theorem wrS_trapVec (r : Nat) (x : Word) (c : Core) : (wrS r x c).trapVec = c.trapVec := by unfold wrS; split <;> rfl
@[simp] theorem wrS_trapIn (r : Nat) (x : Word) (c : Core) : (wrS r x c).trapIn = c.trapIn := by unfold wrS; split <;> rfl
@[simp] theorem wrS_landTrap (r : Nat) (x : Word) (c : Core) : (wrS r x c).landTrap = c.landTrap := by unfold wrS; split <;> rfl
@[simp] theorem wrS_amiss (r : Nat) (x : Word) (c : Core) : (wrS r x c).amiss = c.amiss := by unfold wrS; split <;> rfl
@[simp] theorem wrS_specwr (r : Nat) (x : Word) (c : Core) : (wrS r x c).specwr = c.specwr := by unfold wrS; split <;> rfl
@[simp] theorem wrS_replva (r : Nat) (x : Word) (c : Core) : (wrS r x c).replva = c.replva := by unfold wrS; split <;> rfl
@[simp] theorem wrS_latch (r : Nat) (x : Word) (c : Core) : (wrS r x c).latch = c.latch := by unfold wrS; split <;> rfl
@[simp] theorem wrS_afterGbar (r : Nat) (x : Word) (c : Core) : (wrS r x c).afterGbar = c.afterGbar := by unfold wrS; split <;> rfl
@[simp] theorem wrS_clean (r : Nat) (x : Word) (c : Core) : (wrS r x c).clean = c.clean := by unfold wrS; split <;> rfl
@[simp] theorem wrS_dirty (r : Nat) (x : Word) (c : Core) : (wrS r x c).dirty = c.dirty := by unfold wrS; split <;> rfl
@[simp] theorem wrS_unpub (r : Nat) (x : Word) (c : Core) : (wrS r x c).unpub = c.unpub := by unfold wrS; split <;> rfl
@[simp] theorem wrS_recUnpub (r : Nat) (x : Word) (c : Core) : (wrS r x c).recUnpub = c.recUnpub := by unfold wrS; split <;> rfl
@[simp] theorem wrS_ownPoison (r : Nat) (x : Word) (c : Core) : (wrS r x c).ownPoison = c.ownPoison := by unfold wrS; split <;> rfl
@[simp] theorem wrS_ctlb (r : Nat) (x : Word) (c : Core) : (wrS r x c).ctlb = c.ctlb := by unfold wrS; split <;> rfl

@[simp] theorem wrP_s (p : Fin 8) (x : Bool) (c : Core) : (wrP p x c).s = c.s := by unfold wrP; split <;> rfl
@[simp] theorem wrP_pc (p : Fin 8) (x : Bool) (c : Core) : (wrP p x c).pc = c.pc := by unfold wrP; split <;> rfl
@[simp] theorem wrP_run (p : Fin 8) (x : Bool) (c : Core) : (wrP p x c).run = c.run := by unfold wrP; split <;> rfl
@[simp] theorem wrP_wait (p : Fin 8) (x : Bool) (c : Core) : (wrP p x c).wait = c.wait := by unfold wrP; split <;> rfl
@[simp] theorem wrP_tok (p : Fin 8) (x : Bool) (c : Core) : (wrP p x c).tok = c.tok := by unfold wrP; split <;> rfl
@[simp] theorem wrP_resp (p : Fin 8) (x : Bool) (c : Core) : (wrP p x c).resp = c.resp := by unfold wrP; split <;> rfl
@[simp] theorem wrP_late (p : Fin 8) (x : Bool) (c : Core) : (wrP p x c).late = c.late := by unfold wrP; split <;> rfl
@[simp] theorem wrP_co (p : Fin 8) (x : Bool) (c : Core) : (wrP p x c).co = c.co := by unfold wrP; split <;> rfl
@[simp] theorem wrP_coNext (p : Fin 8) (x : Bool) (c : Core) : (wrP p x c).coNext = c.coNext := by unfold wrP; split <;> rfl
@[simp] theorem wrP_pubAt (p : Fin 8) (x : Bool) (c : Core) : (wrP p x c).pubAt = c.pubAt := by unfold wrP; split <;> rfl
@[simp] theorem wrP_mapTok (p : Fin 8) (x : Bool) (c : Core) : (wrP p x c).mapTok = c.mapTok := by unfold wrP; split <;> rfl
@[simp] theorem wrP_async (p : Fin 8) (x : Bool) (c : Core) : (wrP p x c).async = c.async := by unfold wrP; split <;> rfl
@[simp] theorem wrP_trapCause (p : Fin 8) (x : Bool) (c : Core) : (wrP p x c).trapCause = c.trapCause := by unfold wrP; split <;> rfl
@[simp] theorem wrP_trapPc (p : Fin 8) (x : Bool) (c : Core) : (wrP p x c).trapPc = c.trapPc := by unfold wrP; split <;> rfl
@[simp] theorem wrP_trapInfo (p : Fin 8) (x : Bool) (c : Core) : (wrP p x c).trapInfo = c.trapInfo := by unfold wrP; split <;> rfl
@[simp] theorem wrP_trapSrc (p : Fin 8) (x : Bool) (c : Core) : (wrP p x c).trapSrc = c.trapSrc := by unfold wrP; split <;> rfl
@[simp] theorem wrP_trapVecEn (p : Fin 8) (x : Bool) (c : Core) : (wrP p x c).trapVecEn = c.trapVecEn := by unfold wrP; split <;> rfl
@[simp] theorem wrP_trapVec (p : Fin 8) (x : Bool) (c : Core) : (wrP p x c).trapVec = c.trapVec := by unfold wrP; split <;> rfl
@[simp] theorem wrP_trapIn (p : Fin 8) (x : Bool) (c : Core) : (wrP p x c).trapIn = c.trapIn := by unfold wrP; split <;> rfl
@[simp] theorem wrP_landTrap (p : Fin 8) (x : Bool) (c : Core) : (wrP p x c).landTrap = c.landTrap := by unfold wrP; split <;> rfl
@[simp] theorem wrP_amiss (p : Fin 8) (x : Bool) (c : Core) : (wrP p x c).amiss = c.amiss := by unfold wrP; split <;> rfl
@[simp] theorem wrP_specwr (p : Fin 8) (x : Bool) (c : Core) : (wrP p x c).specwr = c.specwr := by unfold wrP; split <;> rfl
@[simp] theorem wrP_replva (p : Fin 8) (x : Bool) (c : Core) : (wrP p x c).replva = c.replva := by unfold wrP; split <;> rfl
@[simp] theorem wrP_latch (p : Fin 8) (x : Bool) (c : Core) : (wrP p x c).latch = c.latch := by unfold wrP; split <;> rfl
@[simp] theorem wrP_afterGbar (p : Fin 8) (x : Bool) (c : Core) : (wrP p x c).afterGbar = c.afterGbar := by unfold wrP; split <;> rfl
@[simp] theorem wrP_clean (p : Fin 8) (x : Bool) (c : Core) : (wrP p x c).clean = c.clean := by unfold wrP; split <;> rfl
@[simp] theorem wrP_dirty (p : Fin 8) (x : Bool) (c : Core) : (wrP p x c).dirty = c.dirty := by unfold wrP; split <;> rfl
@[simp] theorem wrP_unpub (p : Fin 8) (x : Bool) (c : Core) : (wrP p x c).unpub = c.unpub := by unfold wrP; split <;> rfl
@[simp] theorem wrP_recUnpub (p : Fin 8) (x : Bool) (c : Core) : (wrP p x c).recUnpub = c.recUnpub := by unfold wrP; split <;> rfl
@[simp] theorem wrP_ownPoison (p : Fin 8) (x : Bool) (c : Core) : (wrP p x c).ownPoison = c.ownPoison := by unfold wrP; split <;> rfl
@[simp] theorem wrP_ctlb (p : Fin 8) (x : Bool) (c : Core) : (wrP p x c).ctlb = c.ctlb := by unfold wrP; split <;> rfl

@[simp] theorem markTok_s (r : Nat) (c : Core) : (markTok r c).s = c.s := by unfold markTok; split <;> rfl
@[simp] theorem clearTok_s (r : Nat) (c : Core) : (clearTok r c).s = c.s := rfl
@[simp] theorem markTok_p (r : Nat) (c : Core) : (markTok r c).p = c.p := by unfold markTok; split <;> rfl
@[simp] theorem clearTok_p (r : Nat) (c : Core) : (clearTok r c).p = c.p := rfl
@[simp] theorem markTok_pc (r : Nat) (c : Core) : (markTok r c).pc = c.pc := by unfold markTok; split <;> rfl
@[simp] theorem clearTok_pc (r : Nat) (c : Core) : (clearTok r c).pc = c.pc := rfl
@[simp] theorem markTok_run (r : Nat) (c : Core) : (markTok r c).run = c.run := by unfold markTok; split <;> rfl
@[simp] theorem clearTok_run (r : Nat) (c : Core) : (clearTok r c).run = c.run := rfl
@[simp] theorem markTok_wait (r : Nat) (c : Core) : (markTok r c).wait = c.wait := by unfold markTok; split <;> rfl
@[simp] theorem clearTok_wait (r : Nat) (c : Core) : (clearTok r c).wait = c.wait := rfl
@[simp] theorem markTok_resp (r : Nat) (c : Core) : (markTok r c).resp = c.resp := by unfold markTok; split <;> rfl
@[simp] theorem clearTok_resp (r : Nat) (c : Core) : (clearTok r c).resp = c.resp := rfl
@[simp] theorem markTok_late (r : Nat) (c : Core) : (markTok r c).late = c.late := by unfold markTok; split <;> rfl
@[simp] theorem clearTok_late (r : Nat) (c : Core) : (clearTok r c).late = c.late := rfl
@[simp] theorem markTok_co (r : Nat) (c : Core) : (markTok r c).co = c.co := by unfold markTok; split <;> rfl
@[simp] theorem clearTok_co (r : Nat) (c : Core) : (clearTok r c).co = c.co := rfl
@[simp] theorem markTok_coNext (r : Nat) (c : Core) : (markTok r c).coNext = c.coNext := by unfold markTok; split <;> rfl
@[simp] theorem markTok_pubAt (r : Nat) (c : Core) : (markTok r c).pubAt = c.pubAt := by unfold markTok; split <;> rfl
@[simp] theorem clearTok_coNext (r : Nat) (c : Core) : (clearTok r c).coNext = c.coNext := rfl
@[simp] theorem clearTok_pubAt (r : Nat) (c : Core) : (clearTok r c).pubAt = c.pubAt := rfl
@[simp] theorem markTok_mapTok (r : Nat) (c : Core) : (markTok r c).mapTok = c.mapTok := by unfold markTok; split <;> rfl
@[simp] theorem clearTok_mapTok (r : Nat) (c : Core) : (clearTok r c).mapTok = c.mapTok := rfl
@[simp] theorem markTok_async (r : Nat) (c : Core) : (markTok r c).async = c.async := by unfold markTok; split <;> rfl
@[simp] theorem clearTok_async (r : Nat) (c : Core) : (clearTok r c).async = c.async := rfl
@[simp] theorem markTok_trapCause (r : Nat) (c : Core) : (markTok r c).trapCause = c.trapCause := by unfold markTok; split <;> rfl
@[simp] theorem clearTok_trapCause (r : Nat) (c : Core) : (clearTok r c).trapCause = c.trapCause := rfl
@[simp] theorem markTok_trapPc (r : Nat) (c : Core) : (markTok r c).trapPc = c.trapPc := by unfold markTok; split <;> rfl
@[simp] theorem clearTok_trapPc (r : Nat) (c : Core) : (clearTok r c).trapPc = c.trapPc := rfl
@[simp] theorem markTok_trapInfo (r : Nat) (c : Core) : (markTok r c).trapInfo = c.trapInfo := by unfold markTok; split <;> rfl
@[simp] theorem clearTok_trapInfo (r : Nat) (c : Core) : (clearTok r c).trapInfo = c.trapInfo := rfl
@[simp] theorem markTok_trapSrc (r : Nat) (c : Core) : (markTok r c).trapSrc = c.trapSrc := by unfold markTok; split <;> rfl
@[simp] theorem clearTok_trapSrc (r : Nat) (c : Core) : (clearTok r c).trapSrc = c.trapSrc := rfl
@[simp] theorem markTok_trapVecEn (r : Nat) (c : Core) : (markTok r c).trapVecEn = c.trapVecEn := by unfold markTok; split <;> rfl
@[simp] theorem clearTok_trapVecEn (r : Nat) (c : Core) : (clearTok r c).trapVecEn = c.trapVecEn := rfl
@[simp] theorem markTok_trapVec (r : Nat) (c : Core) : (markTok r c).trapVec = c.trapVec := by unfold markTok; split <;> rfl
@[simp] theorem clearTok_trapVec (r : Nat) (c : Core) : (clearTok r c).trapVec = c.trapVec := rfl
@[simp] theorem markTok_trapIn (r : Nat) (c : Core) : (markTok r c).trapIn = c.trapIn := by unfold markTok; split <;> rfl
@[simp] theorem clearTok_trapIn (r : Nat) (c : Core) : (clearTok r c).trapIn = c.trapIn := rfl
@[simp] theorem markTok_landTrap (r : Nat) (c : Core) : (markTok r c).landTrap = c.landTrap := by unfold markTok; split <;> rfl
@[simp] theorem clearTok_landTrap (r : Nat) (c : Core) : (clearTok r c).landTrap = c.landTrap := rfl
@[simp] theorem markTok_amiss (r : Nat) (c : Core) : (markTok r c).amiss = c.amiss := by unfold markTok; split <;> rfl
@[simp] theorem clearTok_amiss (r : Nat) (c : Core) : (clearTok r c).amiss = c.amiss := rfl
@[simp] theorem markTok_specwr (r : Nat) (c : Core) : (markTok r c).specwr = c.specwr := by unfold markTok; split <;> rfl
@[simp] theorem clearTok_specwr (r : Nat) (c : Core) : (clearTok r c).specwr = c.specwr := rfl
@[simp] theorem markTok_replva (r : Nat) (c : Core) : (markTok r c).replva = c.replva := by unfold markTok; split <;> rfl
@[simp] theorem clearTok_replva (r : Nat) (c : Core) : (clearTok r c).replva = c.replva := rfl
@[simp] theorem markTok_latch (r : Nat) (c : Core) : (markTok r c).latch = c.latch := by unfold markTok; split <;> rfl
@[simp] theorem clearTok_latch (r : Nat) (c : Core) : (clearTok r c).latch = c.latch := rfl
@[simp] theorem markTok_afterGbar (r : Nat) (c : Core) : (markTok r c).afterGbar = c.afterGbar := by unfold markTok; split <;> rfl
@[simp] theorem clearTok_afterGbar (r : Nat) (c : Core) : (clearTok r c).afterGbar = c.afterGbar := rfl
@[simp] theorem markTok_clean (r : Nat) (c : Core) : (markTok r c).clean = c.clean := by unfold markTok; split <;> rfl
@[simp] theorem clearTok_clean (r : Nat) (c : Core) : (clearTok r c).clean = c.clean := rfl
@[simp] theorem markTok_dirty (r : Nat) (c : Core) : (markTok r c).dirty = c.dirty := by unfold markTok; split <;> rfl
@[simp] theorem clearTok_dirty (r : Nat) (c : Core) : (clearTok r c).dirty = c.dirty := rfl
@[simp] theorem markTok_unpub (r : Nat) (c : Core) : (markTok r c).unpub = c.unpub := by unfold markTok; split <;> rfl
@[simp] theorem clearTok_unpub (r : Nat) (c : Core) : (clearTok r c).unpub = c.unpub := rfl
@[simp] theorem markTok_recUnpub (r : Nat) (c : Core) : (markTok r c).recUnpub = c.recUnpub := by unfold markTok; split <;> rfl
@[simp] theorem clearTok_recUnpub (r : Nat) (c : Core) : (clearTok r c).recUnpub = c.recUnpub := rfl
@[simp] theorem markTok_ownPoison (r : Nat) (c : Core) : (markTok r c).ownPoison = c.ownPoison := by unfold markTok; split <;> rfl
@[simp] theorem clearTok_ownPoison (r : Nat) (c : Core) : (clearTok r c).ownPoison = c.ownPoison := rfl
@[simp] theorem markTok_ctlb (r : Nat) (c : Core) : (markTok r c).ctlb = c.ctlb := by unfold markTok; split <;> rfl
@[simp] theorem clearTok_ctlb (r : Nat) (c : Core) : (clearTok r c).ctlb = c.ctlb := rfl

end Sys2Proof.Machine
end

