-- ==== Sys2Proof/Laws/Words.lean ====
section
/-! SUPPORT. What the shared operations of a C word do once its conditions hold: cited instead of unfolding them. -/

namespace Sys2Proof.Machine

theorem beyond_none {n : Nat} {rs : List Nat} (h : ∀ r ∈ rs, r = 0 ∨ r < n) : beyond n rs = none := by
  induction rs with
  | nil => rfl
  | cons r rs ih =>
    rw [beyond, if_neg (by have := h r (List.mem_cons_self ..); omega)]
    exact ih fun q hq => h q (List.mem_cons_of_mem _ hq)

/-- A word whose features are enabled, registers declared and guard true goes on to its own checks. -/
theorem wordX_ready {s : State} {feats regs srcs : List Nat} {g : Guard} (h : Ready s feats regs srcs g) (k : State → Out) :
    wordX feats regs none g s k = k s := by
  have h1 : feats.find? (fun n => !feature s n) = none := by
    rw [List.find?_eq_none]; intro n hn; simp [h.enabled n hn]
  simp only [wordX, h1, beyond_none h.declared, h.guard, if_true]

theorem word_ready {s : State} {feats regs srcs : List Nat} {g : Guard} (h : Ready s feats regs srcs g) (k : State → Out) :
    word feats regs g s k = k s := wordX_ready h k

/-- A word whose guard is false is done, once it has passed checks 2 and 3 of R75 (R60). -/
theorem word_skipped {s : State} {feats regs : List Nat} {g : Guard} (h1 : ∀ n ∈ feats, feature s n = true)
    (h2 : ∀ r ∈ regs, r = 0 ∨ r < (hdr s s.cur).sregs) (h3 : guardHolds (core s s.cur) g = false) (k : State → Out) :
    word feats regs g s k = .next (advance s) := by
  have h4 : feats.find? (fun n => !feature s n) = none := by
    rw [List.find?_eq_none]; intro n hn; simp [h1 n hn]
  simp [word, wordX, h4, beyond_none h2, h3]

theorem needs_arrived {s : State} {srcs : List Nat} (h : ∀ r ∈ srcs, waiting (core s s.cur) r = false) (k : State → Out) :
    needs srcs s k = k s := by
  have h1 : srcs.find? (waiting (core s s.cur)) = none := by
    rw [List.find?_eq_none]; intro r hr; simp [h r hr]
  simp only [needs, h1]

theorem writes_free {s : State} {r : Nat} (h : tokPending (core s s.cur) r = false) (k : State → Out) : writes r s k = k s := by
  simp [writes, h]

theorem wordOp_ready {s : State} {srcs : List Nat} {d : Nat} {g : Guard} (h : Ready s [] (d :: srcs) srcs g)
    (hd : tokPending (core s s.cur) d = false) (f : Core → Word) :
    wordOp srcs d g s f = .next (wrote s d (f (core s s.cur))) := by
  rw [wordOp, word_ready h, writes_free hd, needs_arrived h.arrived]
  simp [done, wrote, modCore, core, modTile]

theorem wordCmp_ready {s : State} {srcs : List Nat} {d : Fin 8} {g : Guard} (h : Ready s [] srcs srcs g) (f : Core → Bool) :
    wordCmp srcs d g s f = .next (wroteP s d (f (core s s.cur))) := by
  rw [wordCmp, word_ready h, needs_arrived h.arrived]
  simp [done, wroteP, modCore, core, modTile]

/-- A word may not write a pending token register: trap 0x03 before any effect (R91). -/
theorem writes_pending {s : State} {r : Nat} (h : tokPending (core s s.cur) r = true) (k : State → Out) :
    writes r s k = trapWord 0x03 (BitVec.ofNat 64 r) s := by
  simp [writes, h]

/-- A precise trap with no load outstanding is taken at once (R92, R137). -/
theorem trapAt_now {s : State} (h : (core s s.cur).resp = []) (cause pc : Nat) (info : Word) :
    trapAt cause pc info s = .next (takeTrap (progress s s.cur) s.cur cause pc info (trapSrc 0 (core s s.cur).pc 0)) := by
  simp [trapAt, h]

/-- A control core after a word that has written a register. -/
theorem core_wrote (s : State) (d : Nat) (v : Word) :
    core (wrote s d v) s.cur =
      { wrS d v (core s s.cur) with pc := (core s s.cur).pc + 1, wait := .none, afterGbar := false } := by
  simp [wrote, advance, goTo, goAt, core, modCore]

theorem core_wroteP (s : State) (d : Fin 8) (b : Bool) :
    core (wroteP s d b) s.cur =
      { wrP d b (core s s.cur) with pc := (core s s.cur).pc + 1, wait := .none, afterGbar := false } := by
  simp [wroteP, advance, goTo, goAt, core, modCore]

/-- An update of one tile leaves the rest of the part. -/
theorem onlyTile_modTile (s : State) (a : Nat) (f : Tile → Tile) : OnlyTile a s (modTile s a f) where
  others _ h := tile_modTile_ne s f h
  mem := rfl
  dies := rfl
  tasks := rfl
  dev := rfl
  transit := rfl
  now := rfl
  agenda := rfl

theorem OnlyTile.trans {a : Nat} {s t u : State} (h : OnlyTile a s t) (k : OnlyTile a t u) : OnlyTile a s u where
  others b hb := (k.others b hb).trans (h.others b hb)
  mem := k.mem.trans h.mem
  dies := k.dies.trans h.dies
  tasks := k.tasks.trans h.tasks
  dev := k.dev.trans h.dev
  transit := k.transit.trans h.transit
  now := k.now.trans h.now
  agenda := k.agenda.trans h.agenda

/-- An update of one control core leaves the rest of its tile. -/
theorem onlyCore_modCore (s : State) (a : Nat) (f : Core → Core) : OnlyCore a s (modCore s a f) where
  toOnlyTile := onlyTile_modTile s a _
  vec := by simp [modCore]
  mat := by simp [modCore]
  mov := by simp [modCore]
  reed := by simp [modCore]
  fifo := by simp [modCore]
  pad := by simp [modCore]
  banks := by simp [modCore]

theorem OnlyCore.trans {a : Nat} {s t u : State} (h : OnlyCore a s t) (k : OnlyCore a t u) : OnlyCore a s u where
  toOnlyTile := h.toOnlyTile.trans k.toOnlyTile
  vec := k.vec.trans h.vec
  mat := k.mat.trans h.mat
  mov := k.mov.trans h.mov
  reed := k.reed.trans h.reed
  fifo := k.fifo.trans h.fifo
  pad := k.pad.trans h.pad
  banks := k.banks.trans h.banks

theorem onlyCore_goAt (a pc : Nat) (s : State) : OnlyCore a s (goAt a pc s) where
  toOnlyTile := onlyTile_modTile s a _
  vec := by simp [goAt]
  mat := by simp [goAt]
  mov := by simp [goAt]
  reed := by simp [goAt]
  fifo := by simp [goAt]
  pad := by simp [goAt]
  banks := by simp [goAt]

end Sys2Proof.Machine
end

