-- ==== Sys2Proof/Tests/Slice0.lean ====
section
/-! SUPPORT. Tests from the spec's words, and for every statement a state and operands that meet its hypotheses. -/

namespace Sys2Proof.Machine.Tests

set_option Elab.async false

/-! ## Terms -/

def g0 : Guard := ⟨false, 0⟩

def vg0 : VGuard := ⟨false, 0⟩

def vc0 : VCtl := ⟨vg0, noTok⟩

def fl0 : MFlags := ⟨false, false, false, false, false, false, false⟩

/-- A matrix record with every field zero. -/
def m0 : MRec where
  popX := false
  popV := false
  pushX := false
  pushV := false
  fmta := 0
  fmtb := 0
  acc := 0
  fl := fl0
  basea := 0
  baseb := 0
  basec := 0
  scalea := 0
  scaleb := 0
  trip := ⟨0, 0, 0, 0⟩
  stra := ⟨0, 0, 0, 0⟩
  strb := ⟨0, 0, 0, 0⟩
  strc := ⟨0, 0, 0, 0⟩
  rows := 0
  kpass := 0
  cols := 0

def xf0 : XFlags := ⟨false, false, false, false, false, false, false, false, false⟩

/-- A move record with every field zero. -/
def x0 : XRec where
  popM := false
  popV := false
  pushM := false
  pushV := false
  treg := 0
  fl := xf0
  shape := 0
  window := 0
  slot := 0
  dest := 0
  trip := ⟨0, 0, 0, 0⟩
  step := ⟨⟨0, 0⟩, ⟨0, 0⟩, ⟨0, 0⟩, ⟨0, 0⟩⟩
  second := 0
  limit := 0
  crec := 0

/-! ## Check 1 refuses each ill-formed term (R62, R63, R75, R183, R228) -/

theorem test_wf_scope_of_plain_order :
    Instr.wf (.ld ⟨g0, 1, 2, .w, false, .plain, .gang, 0⟩) = false ∧ Instr.wf (.ld ⟨g0, 1, 2, .w, false, .acq, .gang, 0⟩) = true := by decide

theorem test_wf_load_never_releases : Instr.wf (.ld ⟨g0, 1, 2, .w, false, .rel, .gang, 0⟩) = false := by decide

theorem test_wf_store_never_acquires : Instr.wf (.st ⟨g0, 1, 2, .w, .acq, .gang, 0⟩) = false := by decide

theorem test_wf_unsigned_doubleword : Instr.wf (.lds ⟨g0, 1, 2, .d, true, 0⟩) = false := by decide

theorem test_wf_field_c_is_cas_alone :
    Instr.wf (.amos ⟨g0, 1, 2, 3, .add, false, 4, 0⟩) = false ∧ Instr.wf (.amos ⟨g0, 1, 2, 3, .cas, false, 4, 0⟩) = true := by decide

theorem test_wf_fence_needs_order : Instr.wf (.fence ⟨g0, .plain, .tile⟩) = false := by decide

theorem test_wf_engine_set_not_empty : Instr.wf (.cancel ⟨g0, ⟨false, false, false⟩, 0⟩) = false := by decide

theorem test_wf_entry_of_absent_engine : Instr.wf (.fork ⟨g0, 1, 2, ⟨true, false, false⟩, 0, 5, 0, 0⟩) = false := by decide

theorem test_wf_immediate_of_16_bit_type :
    Instr.wf (.vadd ⟨vc0, .bf16, 1, 2, .imm 0x3F800000, 0⟩) = false ∧ Instr.wf (.vadd ⟨vc0, .f32, 1, 2, .imm 0x3F800000, 0⟩) = true := by decide

theorem test_wf_matrix_unused_field : Instr.wf (.mnop { m0 with rows := 1 }) = false ∧ Instr.wf (.mnop m0) = true := by decide

theorem test_wf_matrix_unused_level :
    Instr.wf (.ldstat { m0 with strb := ⟨0, 1, 0, 0⟩ }) = false ∧ Instr.wf (.ldstat { m0 with strb := ⟨1, 0, 0, 0⟩ }) = true := by decide

theorem test_wf_matrix_unused_flag : Instr.wf (.mma { m0 with fl := { fl0 with t := true } }) = false := by decide

theorem test_wf_move_unused_field : Instr.wf (.xend { x0 with slot := 1 }) = false := by decide

theorem test_wf_move_record_pointer_without_flag :
    Instr.wf (.load { x0 with crec := 64 }) = false ∧ Instr.wf (.load { x0 with crec := 64, fl := { xf0 with crec := true } }) = true := by decide

/-! ## Words of the spec's examples (R59 to R74, and the listings) -/

/-- A record from its groups, as the spec writes them. -/
def groups (l : List (Nat × Nat)) : Nat := (l.map (fun e => e.2 * 2 ^ (64 * e.1))).sum

/-- R72: ADD s3, s1, s2. -/
theorem test_decode_add : okOf (decodeC 0x0000C10800000000 0 0 0) = some (.add ⟨g0, 3, 1, 2⟩) := by decide

/-- R72: (!p2) ADDI s5, s5, -8. -/
theorem test_decode_addi : okOf (decodeC 0x20A14503FFFFFFF8 0 0 0) = some (.addi ⟨⟨true, 2⟩, 5, 5, 0x3FFFFFFF8⟩) := by decide

/-- R99: LD.W.ACQ.GANG s7, [s4+16]. -/
theorem test_decode_ld : okOf (decodeC 0x4801C40092000010 0 0 0) = some (.ld ⟨g0, 7, 4, .w, false, .acq, .gang, 0x10⟩) := by decide

/-- R111: CALL and BR. -/
theorem test_decode_call_br : okOf (decodeC 0x510FC00000000005 0 0 0) = some (.call ⟨g0, 63, 5⟩) ∧
    okOf (decodeC 0x50003FFFFFFFFFFD 0 0 0) = some (.br ⟨g0, 0x3FFFFFFFFFFD⟩) := by decide

/-- R114, R115, R116: FORK.MV, FORKS.X, RESOLVE. -/
theorem test_decode_fork : okOf (decodeC 0x60028B6302008000 0 0 0) = some (.fork ⟨g0, 10, 11, ⟨false, true, true⟩, 3, 16, 4, 0⟩) ∧
    okOf (decodeC 0x6101058200000190 0 0 0) = some (.forks ⟨g0, 4, 5, ⟨true, false, false⟩, 2, 0, 0, 12, true⟩) ∧
    okOf (decodeC 0x6200008200000010 0 0 0) = some (.resolve ⟨g0, ⟨true, false, false⟩, 2, true⟩) := by decide

/-- R124, R125, R127, R142: WAITTL.X, MAPWAIT, SEMINC, GETSYS. -/
theorem test_decode_waits : okOf (decodeC 0x6800070016000000 0 0 0) = some (.waittl ⟨g0, 7, .x, .dev⟩) ∧
    okOf (decodeC 0x6702400000000005 0 0 0) = some (.mapwait ⟨g0, 9, 5⟩) ∧
    okOf (decodeC 0x6A00020CE6000040 0 0 0) = some (.seminc ⟨g0, 2, 3, .dev, 0x40⟩) ∧
    okOf (decodeC 0x7200C00000000011 0 0 0) = some (.getsys ⟨g0, 3, 0x011⟩) := by decide

/-- R75: a reserved opcode, a predicate field of 8 and a reserved bit are refused. -/
theorem test_decode_refuses : (okOf (decodeC 0xFF00000000000000 0 0 0)).isNone = true ∧
    (okOf (decodeC 0x4000200000000000 0 0 0)).isNone = true ∧ (okOf (decodeC 0x2701810000000000 0 0 0)).isNone = true := by decide

/-- The slots of a pair. -/
def slots (w : Nat) : Option (Instr × Instr) := (okOf (decodeV w)).map (fun p => (p.k, p.v))

/-- R73: a guarded pair of KADDI and VFMA that pops from M and pushes to X. -/
theorem test_decode_pair : slots 0x390C8800000040132044400000000000 =
    some (.kaddi ⟨⟨false, 3⟩, 2, 2, 0x40⟩, .vfma ⟨⟨⟨false, 3⟩, ⟨true, false, false, true⟩⟩, .f32, 4, 1, .reg 2, 4, 0⟩) := by decide

/-- R156, R160, R161, R174: VMUL by 0.5, KEND with VST, KLI with VLD, VRED. -/
theorem test_decode_pairs : slots 0x0000000000000012104000103F000000 = some (.knop ⟨vg0⟩, .vmul ⟨vc0, .f32, 2, 1, .imm 0x3F000000, 0⟩) ∧
    slots 0x003400000000000200C0200000000000 = some (.kend ⟨vg0⟩, .vst ⟨vc0, 3, 2, 0, 0⟩) ∧
    slots 0x00108000002000010800100000000000 = some (.kli ⟨vg0, 2, 0x2000⟩, .vld ⟨vc0, 1, 1, 0, 0⟩) ∧
    slots 0x00000000000000381880000000000000 = some (.knop ⟨vg0⟩, .vred ⟨vc0, .f32, 3, 2, 0⟩) := by decide

/-- R74, R193: an MMA that pops X, pushes V, zeroes acc1 and multiplies 128 rows from 0x8000 by 64 columns. -/
theorem test_decode_mma : okOf (decodeM (groups [(7, 0x1090909480000800), (0, 0x0008001400000000)])) =
    some (.mma { m0 with popX := true, pushV := true, fmta := 9, fmtb := 9, acc := 1, fl := { fl0 with zero := true }, basea := 0x8000, rows := 128, kpass := 1, cols := 64 }) := by decide +kernel

/-- R190: LDSTAT of a 2 by 2 plane of BF16 at 0x1000. -/
theorem test_decode_ldstat : okOf (decodeM (groups [(7, 0x0800009000000000), (6, 0x0010000000000000), (3, 0x8000), (0, 0x0000200020000000)])) =
    some (.ldstat { m0 with fmtb := 9, baseb := 0x1000, strb := ⟨0x80, 0, 0, 0⟩, rows := 2, cols := 2 }) := by decide +kernel

/-- R192, R202: MSWAP and MEND. -/
theorem test_decode_mswap_mend : okOf (decodeM (groups [(7, 0x0900000000000000)])) = some (.mswap m0) ∧
    okOf (decodeM (groups [(7, 0x0100000000000000)])) = some (.mend m0) := by decide +kernel

/-- R238: the worked kernel's LOAD record; R243: a SEND with a fingerprint and a completion record. -/
theorem test_decode_move : okOf (decodeX (groups [(7, 0x0822400000000010), (6, 0x0000000002000000)])) =
      some (.load { x0 with pushM := true, treg := 9, shape := 0x1000000000, window := 0x2000 }) ∧
    okOf (decodeX (groups [(7, 0x1002700080000000), (6, 0x0000300003100031), (5, 0x8000800000780000)])) =
      some (.send { x0 with treg := 9, fl := { xf0 with fpr := true, crec := true }, shape := 0x8000000000003000, window := 0x3100, crec := 0x3180, dest := 0x8000007800000000 }) := by decide +kernel

/-- A pair keeps its shared guard and tokens once (R65, R66): encoding what was decoded gives the word back. -/
theorem test_encode_pair : (match okOf (decodeV 0x390C8800000040132044400000000000) with
    | some p => (match encode p.k, encode p.v with | .k a, .v b => some (encodePair a b) | _, _ => none)
    | none => none) = some 0x390C8800000040132044400000000000 := by decide

/-! ## Small states -/

/-- Tile 0 with a running core and no task: every declaration at its limit. -/
def onTile (t : Tile) : State := { State.reset with tiles := [(0, { t with core := { t.core with run := .running } })] }

def cpu (c : Core) : State := onTile { Tile.reset with core := c }

/-- Registers as listed. -/
def regs (l : List (Nat × Word)) : Core := { Core.reset with s := l }

/-- The state a meaning answers. -/
def out (o : Out) : State := match o with | .next s => s | _ => State.reset

/-- A scalar register of tile 0 after an instruction. -/
def sAfter (i : Instr) (s : State) (r : Nat) : Word := rdS (core (out (exec i s)) 0) r

/-! ## The control core, one step -/

def s12 (a b : Word) : State := cpu (regs [(1, a), (2, b)])

/-- R93. -/
theorem test_mulh : sAfter (.mulh ⟨g0, 3, 1, 2⟩) (s12 0xFFFFFFFFFFFFFFFF 2) 3 = 0xFFFFFFFFFFFFFFFF ∧
    sAfter (.mulhu ⟨g0, 3, 1, 2⟩) (s12 0xFFFFFFFFFFFFFFFF 2) 3 = 1 := by decide

/-- R94: the fixed results. -/
theorem test_div_fixed : sAfter (.div ⟨g0, 3, 1, 2⟩) (s12 0x8000000000000000 0xFFFFFFFFFFFFFFFF) 3 = 0x8000000000000000 ∧
    sAfter (.rem ⟨g0, 3, 1, 2⟩) (s12 7 0) 3 = 7 ∧ sAfter (.divu ⟨g0, 3, 1, 2⟩) (s12 7 0) 3 = 0xFFFFFFFFFFFFFFFF := by decide

/-- R94: -7 / 2 is -3, remainder -1. -/
theorem test_div_rounds_to_zero : sAfter (.div ⟨g0, 3, 1, 2⟩) (s12 0xFFFFFFFFFFFFFFF9 2) 3 = 0xFFFFFFFFFFFFFFFD ∧
    sAfter (.rem ⟨g0, 3, 1, 2⟩) (s12 0xFFFFFFFFFFFFFFF9 2) 3 = 0xFFFFFFFFFFFFFFFF := by decide

/-- R95: a field of 8 bits at 4; a width above 64 counts as 64. -/
theorem test_bext_bins : sAfter (.bext ⟨g0, 3, 1, 2⟩) (s12 0xABCD 0x0804) 3 = 0xBC ∧
    sAfter (.bext ⟨g0, 3, 1, 2⟩) (s12 0xABCD 0x7F00) 3 = 0xABCD ∧ sAfter (.bins ⟨g0, 2, 1, 2⟩) (s12 0xFF 0x0804) 2 = 0x0FF4 := by decide

/-- R95. -/
theorem test_sext : sAfter (.sext ⟨g0, 3, 1, 2⟩) (s12 0x80 7) 3 = 0xFFFFFFFFFFFFFF80 ∧ sAfter (.zext ⟨g0, 3, 1, 2⟩) (s12 0x180 7) 3 = 0x80 := by
  decide

/-- R93: 64 for a zero operand. -/
theorem test_clz_ctz_zero : sAfter (.clz ⟨g0, 3, 1⟩) (s12 0 0) 3 = 64 ∧ sAfter (.ctz ⟨g0, 3, 1⟩) (s12 0 0) 3 = 64 ∧
    sAfter (.popc ⟨g0, 3, 1⟩) (s12 0xF0F 0) 3 = 8 := by decide

/-- R96: LI then LIH give 0x0123_4567_89AB_CDEF. -/
theorem test_lih : sAfter (.lih ⟨g0, 6, 6, 0x01234567⟩) (out (exec (.li ⟨g0, 6, 0x89ABCDEF⟩) (cpu (regs [])))) 6 = 0x0123456789ABCDEF := by decide

/-- R97: CMPI.LTU compares with the sign-extended pattern. -/
theorem test_cmpi_ltu : rdP (core (out (exec (.cmpiLtu ⟨g0, 1, 1, 0x3FFFFFFFF⟩) (s12 5 0))) 0) 1 = true := by decide

/-- R89: a write to s0 is discarded, and the next word is reached. -/
theorem test_s0_discards : sAfter (.addi ⟨g0, 0, 1, 1⟩) (s12 5 0) 0 = 0 ∧ (core (out (exec (.addi ⟨g0, 0, 1, 1⟩) (s12 5 0))) 0).pc = 1 := by decide

/-- R91: a write to a pending token register takes trap 0x03. -/
theorem test_pending_token_traps : (core (out (exec (.add ⟨g0, 3, 1, 2⟩) (cpu { regs [] with tok := 0b1000 }))) 0).trapCause = 0x03 := by decide

/-- R112: CALLR s63, s63 jumps to the old s63. -/
theorem test_callr_reads_first : (core (out (exec (.callr ⟨g0, 63, 63⟩) (cpu (regs [(63, 100)])))) 0).pc = 100 ∧
    sAfter (.callr ⟨g0, 63, 63⟩) (cpu (regs [(63, 100)])) 63 = 1 := by decide

/-- R104: LDS.H sign-extends; STS.B writes one byte; a misaligned word traps with its address. -/
theorem test_scratchpad : sAfter (.lds ⟨g0, 3, 1, .h, false, 2⟩) (onTile { Tile.reset with pad := [(3, 0x80)], core := regs [] }) 3 = 0xFFFFFFFFFFFF8000 ∧
    (tile (out (exec (.sts ⟨g0, 1, 2, .b, 4⟩) (s12 0 0x1FF))) 0).pad = [(4, 0xFF)] ∧
    (core (out (exec (.sts ⟨g0, 1, 2, .w, 2⟩) (s12 0 0x1FF))) 0).trapInfo = 2 := by decide

/-- R106: AMOS.MIN.W compares signed and returns the old value, sign-extended. -/
theorem test_amos_min : sAfter (.amos ⟨g0, 3, 1, 2, .min, false, 0, 0⟩) (s12 0 0xFFFFFFFF) 3 = 0 ∧
    readN (tile (out (exec (.amos ⟨g0, 3, 1, 2, .min, false, 0, 0⟩) (s12 0 0xFFFFFFFF))) 0).pad 0 4 = 0xFFFFFFFF := by decide

/-- R141: TRAP 0x55 leaves TRAPPC at the next word. -/
theorem test_trap : (core (out (exec (.trap ⟨g0, 0x55⟩) (cpu (regs [])))) 0).trapPc = 1 ∧
    (core (out (exec (.trap ⟨g0, 0x55⟩) (cpu (regs [])))) 0).trapInfo = 0x55 ∧ (core (out (exec (.trap ⟨g0, 0x55⟩) (cpu (regs [])))) 0).trapCause = 0x0E := by
  decide

/-- R54: a seed of zero is replaced; R142: SETSYS of a listed number no kernel may write traps. -/
theorem test_setsys : (tile (out (exec (.setsysSeedv ⟨g0, 1⟩) (s12 0 0))) 0).vec.seed = 0x6C078965 ∧
    (core (out (exec (.setsysQuaglim ⟨g0, 1⟩) (s12 20 0))) 0).trapCause = 0x02 := by decide

/-- A word fetched and executed by a step of the whole part (R76, R93). -/
theorem test_step_add : sAfter (.nop ⟨g0⟩) (out (step ((s12 40 2).withFetchWord 64 0x0000C10800000000))) 3 = 42 := by decide +kernel

/-! ## The vector engine, one slot -/

def laneState (v : List (Nat × Lane)) : State := onTile { Tile.reset with vec := { Vec.reset with v := v, run := some ⟨⟨0, 0, 0, 0, .none⟩, 0, false⟩ } }

/-- The value a slot leaves in flight for a v word. -/
def inFlight (i : Instr) (s : State) (k : Nat) : Option Lane := ((vec (out (exec i s))).flight.head?).bind (fun f => lookup f.v k)

/-- R165: 1.5 + 2.5 = 4.0 in FP32 lane 3. -/
theorem test_vadd : inFlight (.vadd ⟨vc0, .f32, 1, 2, .reg 3, 0⟩) (laneState [(131, 0x3FC00000), (195, 0x40200000)]) 67 = some 0x40800000 := by
  decide +kernel

/-- R165, R42: 2^24 + 1 rounds to even. -/
theorem test_vadd_rounds : inFlight (.vadd ⟨vc0, .f32, 1, 2, .imm 0x3F800000, 0⟩) (laneState [(128, 0x4B800000)]) 64 = some 0x4B800000 := by decide +kernel

/-- R169: shift amounts take five bits. -/
theorem test_vshl : inFlight (.vshl ⟨vc0, 1, 2, .imm 33, 0⟩) (laneState [(128, 3)]) 64 = some 6 := by decide +kernel

/-- R171: 1.0 in FP32 is 0x3C00 in FP16. -/
theorem test_vcvt : inFlight (.vcvt ⟨vc0, .rne, 1, 2, 0x08, 0x0A, 0⟩) (laneState [(128, 0x3F800000)]) 64 = some 0x3C00 := by decide +kernel

/-- R157: KADD wraps; KLI sign-extends its 30 bits. -/
theorem test_kadd : rdK (vec (out (exec (.kadd ⟨vg0, 3, 1, 2⟩)
      (onTile { Tile.reset with vec := { Vec.reset with k := [(1, 0xFFFFFFFF), (2, 2)] } })))) 3 = 1 ∧
    rdK (vec (out (exec (.kli ⟨vg0, 3, 0x3FFFFFFF⟩) (onTile Tile.reset)))) 3 = 0xFFFFFFFF := by decide +kernel

/-! ## Records -/

/-- R48: (-8) · 7 + 3 · 2 = -50 on top of 100. -/
theorem test_int4_pass : (onePass INT4 INT4 256 2 false (fun k => if k = 0 then 0x8 else 0x3) (fun k => if k = 0 then 0x7 else 0x2) (fun _ => 0)
    (fun _ => 0) 100).1 = 50 := by decide +kernel

/-- R198: ACCZ of one row and two columns of acc1 leaves the word beside them. -/
theorem test_accz : (mat (out (exec (.accz { m0 with acc := 1, rows := 1, cols := 2 })
    (onTile { Tile.reset with mat := { Mat.reset with acc := [(8192, 5), (8193, 6), (8194, 7)], run := some ⟨⟨0, 0, 0, 0, .none⟩, 0, false⟩ } })))).acc =
      [(8194, 7)] := by decide +kernel

/-- R190: LDSTAT of two BF16 codes at 0x40, as one row. -/
theorem test_ldstat : (mat (out (exec (.ldstat { m0 with fmtb := 9, baseb := 0x40, rows := 1, cols := 2 })
    (onTile { Tile.reset with pad := [(0x41, 0x3F), (0x42, 1)], mat := { Mat.reset with run := some ⟨⟨0, 0, 0, 0, .none⟩, 0, false⟩ } })))).shadow.w =
      [(0, 0x3F00), (1, 1)] := by decide +kernel

/-! ## For each statement, states and operands that meet its hypotheses together -/

/-- Whether a meaning answers a next state. -/
def isNext (o : Out) : Bool := match o with | .next _ => true | _ => false

theorem next_of {o : Out} (h : isNext o = true) : o = .next (out o) := by
  cases o <;> simp_all [isNext, out]

theorem witness_ScalarRegisterFile : (63 : Nat) ≠ 0 ∧ (1 : Nat) ≠ 63 ∧ (7 : Fin 8) ≠ 0 ∧ (1 : Fin 8) ≠ 7 := by decide

theorem witness_IntegerWords : Ready (s12 7 2) [] [3, 1, 2] [1, 2] g0 ∧ tokPending (core (s12 7 2) 0) 3 = false ∧
    Ready (s12 7 2) [] [63, 1, 2, 62] [1, 2, 62] g0 ∧ tokPending (core (s12 7 2) 0) 63 = false ∧ Ready (s12 0 0) [] [3, 1] [1] g0 := by
  repeat' first | decide +kernel | constructor

theorem witness_DivisionWords : sreg (s12 7 0) 2 = 0 ∧ sreg (s12 0x8000000000000000 0xFFFFFFFFFFFFFFFF) 2 ≠ 0 ∧
    (sreg (s12 0x8000000000000000 0xFFFFFFFFFFFFFFFF) 1).toInt = -(2 ^ 63) ∧ (sreg (s12 0x8000000000000000 0xFFFFFFFFFFFFFFFF) 2).toInt = -1 ∧
    sreg (s12 7 2) 2 ≠ 0 ∧ ¬((sreg (s12 7 2) 1).toInt = -(2 ^ 63) ∧ (sreg (s12 7 2) 2).toInt = -1) ∧
    Ready (s12 7 0) [] [3, 1, 2] [1, 2] g0 ∧ Ready (s12 0x8000000000000000 0xFFFFFFFFFFFFFFFF) [] [3, 1, 2] [1, 2] g0 := by
  repeat' first | decide +kernel | constructor

theorem witness_BitFieldWords : Ready (s12 7 0x40) [] [3, 1, 2] [1, 2] g0 ∧ tokPending (core (s12 7 0x40) 0) 3 = false ∧
    Ready (s12 7 0x403F) [] [3, 3, 1, 2] [3, 1, 2] g0 := by
  repeat' first | decide +kernel | constructor

theorem witness_ImmediateAndPredicateWords : Ready (s12 7 2) [] [3, 1] [1] g0 ∧ Ready (s12 7 2) [] [3] [] g0 ∧ Ready (s12 7 2) [] [1, 2] [1, 2] g0 ∧
    Ready (s12 7 2) [] [1] [1] g0 ∧ Ready (s12 7 2) [] [] [] ⟨true, 1⟩ := by
  repeat' first | decide +kernel | constructor

theorem witness_RegisterWordFramesAndGuards :
    registerWord (.bins ⟨g0, 3, 1, 2⟩) = some (g0, 3, [3, 1, 2]) ∧ Ready (s12 7 2) [] [3, 3, 1, 2] [3, 1, 2] g0 ∧
    tokPending (core (s12 7 2) 0) 3 = false ∧ exec (.bins ⟨g0, 3, 1, 2⟩) (s12 7 2) = .next (out (exec (.bins ⟨g0, 3, 1, 2⟩) (s12 7 2))) ∧
    predicateWord (.cmpEq ⟨g0, 3, 1, 2⟩) = some (g0, 3, [1, 2]) ∧
    exec (.cmpEq ⟨g0, 3, 1, 2⟩) (s12 7 2) = .next (out (exec (.cmpEq ⟨g0, 3, 1, 2⟩) (s12 7 2))) ∧
    (∀ r ∈ [3, 1, 2], r = 0 ∨ r < (hdr (s12 7 2) 0).sregs) ∧ guardHolds (core (s12 7 2) 0) ⟨false, 1⟩ = false := by
  repeat' first | decide +kernel | exact next_of (by decide +kernel) | constructor

/-- A task with few declarations on tile 0. -/
def smallTask : Task := { placedTask with hdr := { Header.full with sregs := 4, vregs := 1, scratch := 64 } }

def small : State :=
  { State.reset with tiles := [(0, { Tile.reset with task := some 0, core := { Core.reset with run := .running } })], tasks := [(0, smallTask)] }

theorem witness_RegisterWordsThatDoNotIssue :
    registerWord (.bins ⟨g0, 3, 1, 2⟩) = some (g0, 3, [3, 1, 2]) ∧ Ready (cpu { regs [] with tok := 8 }) [] [3, 3, 1, 2] [] g0 ∧
    tokPending (core (cpu { regs [] with tok := 8 }) 0) 3 = true ∧ (core (cpu { regs [] with tok := 8 }) 0).resp = [] ∧
    (∃ r ∈ [(4 : Nat), 1, 2], r ≠ 0 ∧ (hdr small 0).sregs ≤ r) ∧ (core small 0).resp = [] ∧
    (∀ r ∈ [3, 1, 2], r = 0 ∨ r < (hdr (cpu { regs [] with tok := 4 }) 0).sregs) ∧ guardHolds (core (cpu { regs [] with tok := 4 }) 0) g0 = true ∧
    tokPending (core (cpu { regs [] with tok := 4 }) 0) 3 = false ∧ (∃ r ∈ [1, 2], waiting (core (cpu { regs [] with tok := 4 }) 0) r = true) := by
  repeat' first | decide +kernel | constructor

/-! ### Global memory -/

/-- A leaf for the page of 64 KiB at VA 0: LOCAL, of a class, writable, in the frame at PA 0x30000. -/
def leaf (cls : Nat) : Nat := 2 * 2 ^ 61 + cls * 2 ^ 59 + 2 ^ 53 + 3 * 2 ^ 12

def tableEntry (pa : Nat) : Nat := 6 * 2 ^ 61 + pa

/-- A page table at PA 0x10000 whose first page is the leaf. -/
def pages (e : Nat) : Mem :=
  writeN (writeN (writeN (writeN [] 0x10000 8 (tableEntry 0x12000)) 0x12000 8 (tableEntry 0x14000)) 0x14000 8 (tableEntry 0x16000)) 0x16000 8 e

def ctx1 : Ctx := { Ctx.none with pa := 0x40000, id := 1, root := 0x10000 }

/-- A task of context 1 on tile 0, with one page at VA 0. -/
def paged (cls : Nat) (c : Core) : State :=
  { State.reset with
    tiles := [(0, { Tile.reset with task := some 0, core := { c with run := .running } })]
    tasks := [(0, { placedTask with ctx := ctx1 })]
    mem := pages (leaf cls)
    nextTask := 1
    dev := { Dev.reset with stage := .up } }

/-- Where a state's translation of a VA goes. -/
def tr (s : State) (va : Nat) (wr : Bool) : Trans × State := translate s 0 false (ctxOf s 0) va wr

theorem tr_eq {s : State} {va ga e : Nat} {wr : Bool} (h : (tr s va wr).1 = .ok ga e) :
    translate s 0 false (ctxOf s 0) va wr = (.ok ga e, (tr s va wr).2) := Prod.ext h rfl

def ldw : LoadOp := ⟨g0, 3, 1, .w, false, .plain, .tile, 8⟩

theorem witness_LoadsReadWhatTheTileSees :
    Ready (paged 1 (regs [])) [] [3, 1] [1] g0 ∧ tokPending (core (paged 1 (regs [])) 0) 3 = false ∧ effective (paged 1 (regs [])) 1 (8 : BitVec 25) % 4 = 0 ∧
    translate (paged 1 (regs [])) 0 false (ctxOf (paged 1 (regs [])) 0) 8 false = (.ok 0x30008 (leaf 1), (tr (paged 1 (regs [])) 8 false).2) ∧
    poisonG (tr (paged 1 (regs [])) 8 false).2 0 0x30008 4 = false ∧
    allOwn (core (tr (paged 1 (regs [])) 8 false).2 0) 0x30008 4 = false ∧ cleanLine (core (tr (paged 1 (regs [])) 8 false).2 0) 0x30008 (leaf 1) = none ∧
    unroutedAt (tr (paged 1 (regs [])) 8 false).2 0x30008 = none ∧ allOwn { regs [] with unpub := [(0x30008, 1), (0x30009, 2), (0x3000A, 3), (0x3000B, 4)] } 0x30008 4 = true := by
  repeat' first | decide +kernel | exact tr_eq (by decide +kernel) | constructor

/-- The page at VA 0 is of device 5, in the frame at its PA 0x30000; the peer table lies in the page after it. Device 5 may be lost. -/
def peered (cls : Nat) (lost : List Nat) (c : Core) : State :=
  let s := paged cls c
  { s with
    tasks := [(0, { placedTask with ctx := { ctx1 with peers := 0x10200 } })]
    mem := writeN (writeN (pages (2 * leaf cls - cls * 2 ^ 59 - 2 ^ 53 - 3 * 2 ^ 12)) 0x16008 8 (leaf 2)) 0x30200 8 (2 ^ 63 + 5)
    dev := { s.dev with lost := lost } }

/-- The leaf of that page. -/
def peerLeaf (cls : Nat) : Nat := 2 * leaf cls - cls * 2 ^ 59 - 2 ^ 53 - 3 * 2 ^ 12

/-- Its byte 8. -/
def peerGa : Nat := peerBase 5 + 0x30008

theorem witness_LoadsReadWhatTheTileSees_unrouted :
    let s := peered 1 [] (regs [])
    Ready s [] [3, 1] [1] g0 ∧ tokPending (core s 0) 3 = false ∧
    translate s 0 false (ctxOf s 0) 8 false = (.ok peerGa (peerLeaf 1), (tr s 8 false).2) ∧ poisonG (tr s 8 false).2 0 peerGa 4 = false ∧
    allOwn (core (tr s 8 false).2 0) peerGa 4 = false ∧ cleanLine (core (tr s 8 false).2 0) peerGa (peerLeaf 1) = none ∧
    unroutedAt (tr s 8 false).2 peerGa = some 5 := by
  repeat' first | decide +kernel | exact tr_eq (by decide +kernel) | constructor

/-- A load's response from die 1. -/
def resp1 : Resp := ⟨3, 5, 0, 1, 8, 0, false⟩

theorem witness_LoadsReadWhatTheTileSees_responses :
    let s := fun (r : Resp) => cpu { regs [] with resp := [r] }
    let r := resp1
    let links := fun (s : State) (fail train : List Nat) => { s with dev := { s.dev with failedLinks := fail, retraining := train } }
    (∀ r ∈ ([resp1, { resp1 with home := 6 }, { resp1 with bad := true }] : List Resp), (core (s r) 0).resp[0]? = some r ∧ r.inc = (die (s r) 0).incarn ∧
      unanswered (s r) r = false) ∧
    brokenResp (s r) 0 r = false ∧ respWaits (s r) 0 r = false ∧ respWaits (links (s r) [] [0]) 0 r = true ∧
    brokenResp (links (s r) [] [0]) 0 r = false ∧ brokenResp (s { r with home := 6 }) 0 { r with home := 6 } = true ∧
    brokenResp (s { r with bad := true }) 0 { r with bad := true } = true ∧ (1 : Nat) ≠ (die (s { r with inc := 1 }) 0).incarn ∧
    (let q : CoResp := ⟨0, 3, true, none, 1, some (some 7)⟩
     let s := cpu { regs [] with co := [q] }
     (core s 0).co[0]? = some q ∧ diePath s q.die 0 = true ∧ pathOpen s q.die 0 = true ∧ pathOpen (links s [] [0]) q.die 0 = false ∧
      diePath (links s [0, 1, 2, 3, 4] []) q.die 0 = false) := by
  refine ⟨?_, ?_⟩
  · intro r h
    fin_cases h <;> decide +kernel
  · repeat' first | decide +kernel | constructor

/-- A clean L1 line that has the page's PHASE data, loaded plainly, and with an acquire at device scope. -/
theorem witness_LoadsReadWhatTheTileSees_clean :
    let s := paged 1 { regs [] with clean := [(0x600, (1, 0))] }
    let s1 := (tr s 8 false).2
    Ready s [] [3, 1] [1] g0 ∧ tokPending (core s 0) 3 = false ∧ translate s 0 false (ctxOf s 0) 8 false = (.ok 0x30008 (leaf 1), s1) ∧
    poisonG s1 0 0x30008 4 = false ∧ allOwn (core s1 0) 0x30008 4 = false ∧ (cleanLine (core s1 0) 0x30008 (leaf 1)).isSome = true ∧
    ¬((ldw.ord = .acq ∨ ldw.ord = .ar) ∧ ldw.scope ≠ .tile) ∧
    ((Ord.acq = .acq ∨ Ord.acq = .ar) ∧ Scope.dev ≠ .tile) ∧ (∀ b ∈ (core s1 0).dirty, unroutedAt s1 b.1 = none) := by
  repeat' first | decide +kernel | exact tr_eq (by decide +kernel) | constructor

def storeHyps (cls : Nat) : Prop :=
  let s := paged cls (regs [(2, 5)])
  let s1 := (tr s 8 true).2
  Ready s [] [1, 2] [1, 2] g0 ∧ effective s 1 (8 : BitVec 25) % 8 = 0 ∧
    translate s 0 false (ctxOf s 0) 8 true = (.ok 0x30008 (leaf cls), s1) ∧ eClass (leaf cls) ≤ 2 ∧
    (eClass (leaf cls) = 2 → (hdr s1 0).hcstores = true) ∧ lostAt s1 0 0x30008 = false ∧ unroutedAt s1 0x30008 = none ∧
    (eClass (leaf cls) = 1 → overLimit (core s1 0) 0x30008 = false)

theorem witness_StoreByPageClass_priv : storeHyps 0 := by
  repeat' first | decide +kernel | exact tr_eq (by decide +kernel) | constructor

theorem witness_StoreByPageClass_phase : storeHyps 1 := by
  repeat' first | decide +kernel | exact tr_eq (by decide +kernel) | constructor

theorem witness_StoreByPageClass_hc : storeHyps 2 := by
  repeat' first | decide +kernel | exact tr_eq (by decide +kernel) | constructor

theorem witness_ScratchpadWords :
    let s := s12 0xFFFFC 5
    Ready s [] [3, 1] [1] g0 ∧ tokPending (core s 0) 3 = false ∧ effective s 1 (0 : BitVec 25) % 4 = 0 ∧
      effective s 1 (0 : BitVec 25) + 4 ≤ (hdr s 0).scratch ∧ padPoisoned s 0 0xFFFFC 4 = false ∧ Ready s [] [1, 2] [1, 2] g0 ∧ ownCo s 0 = false ∧
      Ready s [] [3, 1, 2] [1, 2] g0 ∧ effective s 1 (0 : BitVec 18) % 4 = 0 ∧ effective s 1 (0 : BitVec 18) + 4 ≤ (hdr s 0).scratch ∧
      ownCo { s with transit := [⟨0, 0, 0, 0, 0, ⟨7, INT32, 1, 1, 1, false, false, false, 0, 0, [0], [0], 0, []⟩, 0, some 0, 0⟩] } 0 = true ∧
      Ready (s12 64 5) [12] [3, 1, 2] [1, 2] g0 ∧ effective (s12 64 5) 1 (0 : BitVec 18) % 64 = 0 ∧
      effective (s12 64 5) 1 (0 : BitVec 18) + 64 ≤ (hdr (s12 64 5) 0).scratch := by
  repeat' first | decide +kernel | constructor

/-- An AMOS.CO descriptor: one dimension, FP32 is not used by it; format INT32, tensor 7, tile 2 of die 0, response wanted. -/
def coState : State :=
  onTile { Tile.reset with core := regs [(1, 64), (2, 5)], pad := writeN (writeN [] 64 8 (7 + 0x03 * 2 ^ 32 + 1 * 2 ^ 40 + 2 * 2 ^ 44)) 72 8 (2 ^ 20) }

theorem witness_Atomics :
    (let s := s12 8 5
     Ready s [] [3, 1, 2] [1, 2] g0 ∧ tokPending (core s 0) 3 = false ∧ effective s 1 (0 : BitVec 18) % 8 = 0 ∧
      effective s 1 (0 : BitVec 18) + 8 ≤ (hdr s 0).scratch ∧ ownCo s 0 = false ∧ padPoisoned s 0 8 8 = false ∧ Ready s [] [3, 1, 2, 4] [1, 2, 4] g0) ∧
    (let s := paged 2 (regs [(2, 5)])
     let s1 := (tr s 8 true).2
     Ready s [] [3, 1, 2] [1, 2] g0 ∧ tokPending (core s 0) 3 = false ∧ effective s 1 (8 : BitVec 18) % 4 = 0 ∧
      translate s 0 false (ctxOf s 0) 8 true = (.ok 0x30008 (leaf 2), s1) ∧ (eClass (leaf 2) = 2 → (hdr s1 0).hcstores = true) ∧
      (hdr s1 0).killable = false ∧ lostAt s1 0 0x30008 = false ∧ unroutedAt s1 0x30008 = none ∧ poisonG s1 0 0x30008 4 = false) ∧
    (let s := coState
     let g0' := readN (tile s 0).pad 64 8
     let g1' := readN (tile s 0).pad 72 8
     Ready s [12] [3, 1, 2] [1, 2] g0 ∧ tokPending (core s 0) 3 = false ∧ effective s 1 (0 : BitVec 18) % 64 = 0 ∧ 64 + 64 ≤ (hdr s 0).scratch ∧
      1 ≤ g0' / 2 ^ 40 % 16 ∧ g0' / 2 ^ 40 % 16 ≤ 12 ∧ (g0' / 2 ^ 32 % 256 = 0x03 ∨ g0' / 2 ^ 32 % 256 = 0x08) ∧ g0' / 2 ^ 53 = 0 ∧
      g0' / 2 ^ 50 % 8 < 4 ∧ g1' / 2 ^ 21 = 0 ∧
      (∀ c ∈ ((List.range 12).map (fun d => readN (tile s 0).pad (64 + 16 + 4 * d) 4)).drop 1, c = 0) ∧ g1' / 2 ^ 20 % 2 = 1 ∧
      ownCo s 0 = false ∧ (∀ q ∈ (core s 0).co, q.ans ≠ none) ∧ diePath s 0 (g0' / 2 ^ 50 % 8) = true ∧
      (let far := { s with tiles := [(0, { tile s 0 with pad := writeN (tile s 0).pad 64 8 (g0' + 2 ^ 50) })], dev := { s.dev with failedLinks := [0, 1, 2, 3, 4] } }
       Ready far [12] [3, 1, 2] [1, 2] g0 ∧ readN (tile far 0).pad 64 8 / 2 ^ 50 % 8 = 1 ∧ diePath far 0 1 = false)) := by
  repeat' first | decide +kernel | exact tr_eq (by decide +kernel) | constructor

/-- Stores, atomics and SEMINC to a device that is lost, and to one without a route. -/
theorem witness_StoreByPageClass_peers :
    ∀ lost ∈ [[], [5]], ∀ cls ∈ [0, 1, 2], let s := peered cls lost (regs [(2, 5)])
      Ready s [] [3, 1, 2] [1, 2] g0 ∧ tokPending (core s 0) 3 = false ∧ (tr s 8 true).1 = .ok peerGa (peerLeaf cls) ∧ eClass (peerLeaf cls) = cls ∧
        (hdr (tr s 8 true).2 0).hcstores = true ∧ (hdr (tr s 8 true).2 0).killable = false ∧ overLimit (core (tr s 8 true).2 0) peerGa = false ∧
        lostAt (tr s 8 true).2 0 peerGa = lost.contains 5 ∧ unroutedAt (tr s 8 true).2 peerGa = (if lost = [] then some 5 else none) := by
  intro lost hl cls hc
  fin_cases hl <;> fin_cases hc <;> (repeat' first | decide +kernel | constructor)

theorem linesOf_spread (b : Byte) (k n : Nat) : linesOf ((List.range' k n).map (fun i => (128 * i, b))) = List.range' k n := by
  induction n generalizing k with
  | zero => rfl
  | succ n ih =>
    cases n with
    | zero => simp [List.range', linesOf]
    | succ n =>
      have h := ih (k + 1)
      simp only [List.range'_succ, List.map_cons, linesOf] at h ⊢
      rw [if_neg (by omega), h]
      congr 1
      omega

/-- Unpublished stores in as many lines as the limit allows, none of them that of the page at VA 0. -/
def fullUnpub : SMap Byte := (List.range' 2000 65536).map (fun i => (128 * i, (1 : Byte)))

theorem overLimit_full {c : Core} (hr : c.recUnpub = []) (hu : c.unpub = fullUnpub) : overLimit c 0x30008 = true := by
  simp [overLimit, closeRecord, hr, hu, fullUnpub, linesOf_spread]

/-- A cached translation that the tables still give. -/
theorem translate_hit {s : State} {ctx : Ctx} {va h ga : Nat} (hv : va < 2 ^ 56) (hc : tlbHit (core s 0).ctlb ctx.id va ++ tlbHit (die s (dieOf 0)).lltlb ctx.id va = [h])
    (hw : (walk s 0 ctx va true).1 = some h) (hp : eW h = true) (hd : eState h ≠ 3) (hg : gaOf s ctx va h = some ga) :
    translate s 0 false ctx va true = (.ok ga h, s) := by
  have h0 : ¬ 2 ^ 56 ≤ va := by omega
  rw [translate, if_neg h0]
  simp [entryFor, hc, hw, hp, hd, hg]

/-- A task, killable or not, whose tile has a store to make beyond the limit. -/
def overfull (kill : Bool) (u : SMap Byte) : State :=
  { paged 1 { regs [(2, 5)] with unpub := u, ctlb := [⟨1, 0, 65536, leaf 1⟩] } with
    tasks := [(0, { placedTask with ctx := ctx1, hdr := { placedTask.hdr with killable := kill } })] }

theorem witness_StoreByPageClass_overfull (kill : Bool) :
    let s := overfull kill fullUnpub
    Ready s [] [1, 2] [1, 2] g0 ∧ effective s 1 (8 : BitVec 25) % 8 = 0 ∧ translate s 0 false (ctxOf s 0) 8 true = (.ok 0x30008 (leaf 1), s) ∧
      eClass (leaf 1) = 1 ∧ overLimit (core s 0) 0x30008 = true ∧ (hdr s 0).killable = kill ∧ (core s 0).resp = [] := by
  refine ⟨?_, by cases kill <;> decide +kernel, translate_hit (by decide) ?_ ?_ (by decide +kernel) (by decide +kernel) ?_, by decide +kernel,
    overLimit_full rfl rfl, by cases kill <;> decide +kernel, rfl⟩
  · cases kill <;> (repeat' first | decide +kernel | constructor)
  all_goals cases kill <;> decide +kernel

/-- Such a store after its implicit PHASE, and a releasing store that an AMOS.CO of the core holds. -/
theorem witness_StoreByPageClass_later :
    let s := paged 1 { regs [(2, 5)] with wait := .published }
    let co := paged 1 { regs [(2, 5)] with co := [⟨0, 3, true, none, 0, none⟩] }
    Ready s [] [1, 2] [1, 2] g0 ∧ (core s 0).wait = .published ∧
      translate s 0 false (ctxOf s 0) 8 true = (.ok 0x30008 (leaf 1), (tr s 8 true).2) ∧ lostAt (tr s 8 true).2 0 0x30008 = false ∧
      unroutedAt (tr s 8 true).2 0x30008 = none ∧ Ready co [] [1, 2] [1, 2] g0 ∧
      translate co 0 false (ctxOf co 0) 8 true = (.ok 0x30008 (leaf 1), (tr co 8 true).2) ∧ overLimit (core (tr co 8 true).2 0) 0x30008 = false ∧
      ∃ q ∈ (core co 0).co, q.ans = none := by
  repeat' first | decide +kernel | exact tr_eq (by decide +kernel) | exact ⟨_, .head _, rfl⟩ | constructor

theorem witness_PrefetchAndAddressChecks :
    Ready (s12 1 5) [] [1] [1] g0 ∧ (∀ b ∈ (core (s12 1 5) 0).dirty, unroutedAt (s12 1 5) b.1 = none) ∧
    Ready (s12 1 5) [] [3, 1] [1] g0 ∧ tokPending (core (s12 1 5) 0) 3 = false ∧ (core (s12 1 5) 0).resp = [] ∧
    effective (s12 1 5) 1 (0 : BitVec 25) % sizeBytes .w ≠ 0 ∧ Ready (s12 1 5) [] [1, 2] [1, 2] g0 ∧
    effective (s12 0x100000 5) 1 (0 : BitVec 25) % sizeBytes .w = 0 ∧ (hdr (s12 0x100000 5) 0).scratch < effective (s12 0x100000 5) 1 (0 : BitVec 25) + 4 := by
  repeat' first | decide +kernel | constructor

theorem witness_BranchesAndCalls :
    Ready (s12 8191 8192) [] [] [] g0 ∧ Ready (s12 8191 8192) [] [63] [] g0 ∧ tokPending (core (s12 8191 8192) 0) 63 = false ∧
    Ready (s12 8191 8192) [] [1] [1] g0 ∧ (0 : Int) ≤ ((sreg (s12 8191 8192) 1).toNat : Int) ∧ ((sreg (s12 8191 8192) 1).toNat : Int) < 8192 ∧
    8192 ≤ ((sreg (s12 8191 8192) 2).toNat : Int) ∧ (core (s12 8191 8192) 0).resp = [] ∧ ((core (s12 8191 8192) 0).pc : Int) + (-1 : BitVec 46).toInt < 0 ∧
    Ready (s12 8191 8192) [] [3, 1] [1] g0 := by
  repeat' first | decide +kernel | constructor

/-! ### Engines, waits, barriers -/

def allE : EMask := ⟨true, true, true⟩

def entry5 : RunEntry := ⟨5, 0x100000002, 3, 1, .none⟩

theorem witness_RunsAreQueuedAndResolved_fork :
    let s := s12 7 2
    Ready s [] [1, 2] [1, 2] g0 ∧ isSeq s.cur = false ∧ (tile s 0).mov.queue.length < 8 ∧ (tile s 0).mat.queue.length < 8 ∧ (tile s 0).vec.queue.length < 8 ∧
      255 < (hdr s 0).xrecs ∧ 255 < (hdr s 0).mrecs ∧ 2047 < (hdr s 0).vpairs ∧ Ready s [6] [1, 2] [1, 2] g0 := by
  repeat' first | decide +kernel | constructor

/-- A core that stands at a FORK of word 0 for want of room that is there now. -/
def forkWaits : State :=
  onTile { Tile.reset with banks := { Banks.reset with cA := writeN [] 0 8 0x60028B6302008000 }, core := { Core.reset with wait := .fork } }

theorem witness_RunsAreQueuedAndResolved_forkWaits :
    (core forkWaits 0).wait = .fork ∧ okOf (decodeAt forkWaits 0 (core forkWaits 0).pc) = some (.fork ⟨g0, 10, 11, ⟨false, true, true⟩, 3, 16, 4, 0⟩) ∧
      Ready { forkWaits with cur := 0 } [] [10, 11] [10, 11] g0 ∧ isSeq 0 = false := by
  repeat' first | decide +kernel | constructor

theorem witness_RunsAreQueuedAndResolved_start :
    let t := tile (onTile { Tile.reset with vec := { Vec.reset with queue := [entry5] }, mat := { Mat.reset with queue := [entry5] }, mov := { Mov.reset with queue := [entry5] } }) 0
    t.vec.queue = entry5 :: [] ∧ vecBusy t.vec = false ∧ t.mat.queue = entry5 :: [] ∧ matBusy t.mat = false ∧ t.mov.queue = entry5 :: [] ∧
      movBusy t.mov = false := by decide +kernel

theorem witness_RunsAreQueuedAndResolved_resolve : Ready (s12 0 0) [6] [] [] g0 ∧ isSeq (s12 0 0).cur = false ∧ Ready (s12 0 0) [] [] [] g0 := by
  repeat' first | decide +kernel | constructor

/-- A core that stands at a FORKS of word 0, and runs of bank A, tag 1, that RESOLVE keeps or stops: the move engine's has a record in
progress. -/
theorem witness_RunsAreQueuedAndResolved_started :
    let w := onTile { Tile.reset with banks := { Banks.reset with cA := writeN [] 0 8 0x61028B6302008010 }, core := { Core.reset with wait := .fork } }
    let r : RunState := ⟨{ entry5 with bank := .a }, 5, false⟩
    let s := onTile { Tile.reset with vec := { Vec.reset with run := some r }, mat := { Mat.reset with run := some r },
                                      mov := { Mov.reset with run := some r, busy := some ⟨1, 0, 0, 0, Push.none, none, .landing, 2, false⟩ } }
    (core w 0).wait = .fork ∧ okOf (decodeAt w 0 (core w 0).pc) = some (.forks ⟨g0, 10, 11, ⟨false, true, true⟩, 3, 16, 4, 0, true⟩) ∧
      Ready { w with cur := 0 } [6] [10, 11] [10, 11] g0 ∧ Ready s [6] [] [] g0 ∧ (tile s 0).vec.run = some r ∧ (tile s 0).mat.run = some r ∧
      (tile s 0).mov.run = some r ∧ r.e.tag = 1 ∧ r.e.bank = .a ∧ (tile s 0).mov.busy.isSome = true := by
  repeat' first | decide +kernel | constructor

/-- Tile 0 at a wait. -/
def waitsAt (w : Wait) : State := cpu { regs [(1, 0), (2, 5)] with wait := w }

theorem witness_WaitsAndSemaphores_engines :
    Ready (s12 0 0) [] [] [] g0 ∧ enginesIdle (tile (s12 0 0) 0) allE = true ∧ (core (waitsAt (.rdv allE)) 0).wait = .rdv allE ∧
      enginesIdle (tile (waitsAt (.rdv allE)) 0) allE = true := by
  repeat' first | decide +kernel | constructor

theorem witness_WaitsAndSemaphores_timelines :
    Ready (s12 0 0) [] [1] [1] g0 ∧ (sreg (s12 0 0) 1).toNat ≤ (timelineAt (s12 0 0) 0 .x).toNat ∧
      (core (waitsAt (.waittl .m 0 .dev)) 0).wait = .waittl .m 0 .dev ∧ 0 ≤ (timelineAt (waitsAt (.waittl .m 0 .dev)) 0 .m).toNat ∧
      isSeq { s12 0 0 with cur := 256 }.cur = true ∧ Ready { s12 0 0 with cur := 256 } [] [1] [1] g0 := by
  repeat' first | decide +kernel | constructor

def readySlot : State :=
  onTile { Tile.reset with reed := { Reed.reset with slots := [(31, ⟨none, none, 9, true, 7, false, false, false⟩)] }, core := { Core.reset with wait := .mapwait 31 } }

theorem witness_WaitsAndSemaphores_maps :
    Ready readySlot [] [63] [] g0 ∧ (31 : Fin 32).val < (hdr readySlot 0).maps ∧ isSeq readySlot.cur = false ∧ tokPending (core readySlot 0) 63 = false ∧
      (slotOf readySlot 0 31).ready = true ∧ (core readySlot 0).wait = .mapwait 31 ∧ (core readySlot 0).mapTok = [] := by
  repeat' first | decide +kernel | constructor

theorem witness_WaitsAndSemaphores_semaphores :
    let s := paged 2 (regs [(1, 0), (2, 0)])
    Ready s [] [1, 2] [1, 2] g0 ∧ effective s 1 (8 : BitVec 25) % 8 = 0 ∧
      translate s 0 false (ctxOf s 0) 8 false = (.ok 0x30008 (leaf 2), (tr s 8 false).2) ∧
      ((hdr s 0).killable = false → eW (leaf 2) = true ∧ eClass (leaf 2) = 2) ∧ (sreg s 2).toNat ≤ readN (tr s 8 false).2.mem 0x30008 8 ∧
      (core (waitsAt (.semwait 8 0x30008 0 .dev)) 0).wait = .semwait 8 0x30008 0 .dev ∧ 0 ≤ readN (waitsAt (.semwait 8 0x30008 0 .dev)).mem 0x30008 8 ∧
      translate s 0 false (ctxOf s 0) 8 true = (.ok 0x30008 (leaf 2), (tr s 8 true).2) ∧ eClass (leaf 2) = 2 ∧ (hdr s 0).killable = false ∧
      lostAt (tr s 8 true).2 0 0x30008 = false := by
  repeat' first | decide +kernel | exact tr_eq (by decide +kernel) | constructor

theorem witness_WaitsAndSemaphores_launchq :
    let s := s12 64 255
    Ready s [] [3, 1, 2] [1, 2] g0 ∧ tokPending (core s 0) 3 = false ∧ (sreg s 2).toNat < 256 ∧ (sreg s 1).toNat % 64 = 0 ∧ (hdr s 0).killable = false ∧
      (queueOf s 3 15).entries.length < 256 ∧ 256 ≤ (List.replicate 256 (⟨64, 0, 3, 0⟩ : QEntry)).length := by
  repeat' first | decide +kernel | constructor

theorem witness_PublishingWords :
    Ready (s12 0 0) [] [] [] g0 ∧ (∀ q ∈ (core (s12 0 0) 0).co, q.ans ≠ none) ∧ (core (cpu { regs [] with latch := true }) 0).latch = true ∧ Ready (cpu { regs [] with latch := true }) [] [] [] g0 ∧
      (core (s12 0 0) 0).latch = false ∧ ((core (cpu { regs [] with unpub := [(0x30008, 1), (0x30009, 2)] }) 0).unpub.map (·.1)).Nodup ∧
      (∀ x ∈ (core (cpu { regs [] with unpub := [(0x30008, 1), (0x30009, 2)] }) 0).unpub,
        lostAt (cpu { regs [] with unpub := [(0x30008, 1), (0x30009, 2)] }) 0 x.1 = false ∧
        unroutedAt (cpu { regs [] with unpub := [(0x30008, 1), (0x30009, 2)] }) x.1 = none) ∧
      Ready (cpu { regs [] with unpub := [(0x30008, 1), (0x30009, 2)] }) [] [] [] g0 ∧ (core (waitsAt (.phase .phase)) 0).wait = .phase .phase := by
  repeat' first | decide +kernel | constructor

/-- A gang of two tiles of one task, both at barrier 3 and arrived. -/
def gangOfTwo : State :=
  let t : Tile := { Tile.reset with task := some 0, bars := [(3, 1)], core := { Core.reset with run := .running, wait := .gbar 3 } }
  { State.reset with tiles := [(0, t), (1, t)], tasks := [(0, { placedTask with gw := 2 })], nextTask := 1 }

theorem witness_BarriersStepsSafePoints_barrier :
    Ready (s12 0 0) [] [] [] g0 ∧ (3 : Fin 4).val < (hdr (s12 0 0) 0).barriers ∧ isSeq (s12 0 0).cur = false ∧ gang (s12 0 0) 0 = [0] ∧ (s12 0 0).sync = [] ∧ (∀ q ∈ (core (s12 0 0) 0).co, q.ans ≠ none) ∧
      (gang gangOfTwo 0).Nodup ∧ 1 ∈ gang gangOfTwo 0 ∧ gang gangOfTwo 1 = gang gangOfTwo 0 ∧ (core gangOfTwo 1).wait = .gbar 3 ∧ gangOfTwo.sync = [] ∧
      (∀ c ∈ gang gangOfTwo 0, hasExited gangOfTwo c = true ∨ arrivals gangOfTwo 1 3 ≤ arrivals gangOfTwo c 3) := by
  repeat' first | decide +kernel | constructor

theorem witness_BarriersStepsSafePoints_step :
    let s := cpu { regs [] with afterGbar := true }
    Ready s [7] [] [] g0 ∧ isSeq s.cur = false ∧ (core s 0).afterGbar = true ∧ s.sync = [] ∧ (tile s 0).stepOpen = none ∧
      (tile (onTile { Tile.reset with stepOpen := some ⟨0, 0, 0⟩ }) 0).stepOpen = some ⟨0, 0, 0⟩ ∧ 0 + 0 ≤ (onTile Tile.reset).now := by
  repeat' first | decide +kernel | constructor

theorem witness_BarriersStepsSafePoints_safept :
    maskBeyond (hdr (s12 0 0) 0) ⟨0xF, BitVec.allOnes 64, BitVec.allOnes 32, BitVec.allOnes 32, BitVec.allOnes 32⟩ = none ∧ killDue (s12 0 0) 0 = false ∧
      (tile (s12 0 0) 0).preemptAt = none ∧ Ready (s12 0 0) [] [] [] g0 ∧ isSeq (s12 0 0).cur = false := by
  repeat' first | decide +kernel | constructor

/-! ### Joins, exit, traps, registers -/

/-- Node 0 launches the task, node 1 is a quorum join of it, node 2 ends. -/
def graph (q : Nat) : Part where
  gid := 1
  ctx := 0x40000
  dies := 1
  nodes := [(0, ⟨.launch 0 0 0 0 0, 0, 1, 0, 0, true, 0, 0, 0, 0⟩), (1, ⟨.join 2 1 4 0 0 0, 1, 1, 1, 0, false, 0, 0, q, 0⟩),
    (2, ⟨.endNode 0, 2, 0, 1, 0, false, 0, 0, 0, 0⟩)]
  edges := [(0, 1), (0, 2)]

def nodeTask : Task := { placedTask with origin := .node 0 1 0 1, ctx := ctx1 }

/-- The task of node 0 on tile 0, its join in a state. -/
def joined (q : Nat) (c : Core) : State :=
  { State.reset with
    tiles := [(0, { Tile.reset with task := some 0, core := { c with run := .running } })]
    tasks := [(0, nodeTask)]
    parts := [(1, graph q)]
    runs := [(1, ⟨1, .going, []⟩)]
    nextTask := 1 }

theorem witness_ArrivalAndExit_qarrive :
    let s := joined 0 (regs [(1, 1), (2, 0xFFFF)])
    Ready s [8] [1, 2] [1, 2] g0 ∧ isSeq s.cur = false ∧ (sreg s 1).toNat < 2 ^ 18 ∧ (sreg s 2).toNat < 2 ^ 16 ∧
      joinNamed s 0 ((sreg s 1).toNat / 2 ^ 16, (sreg s 1).toNat % 2 ^ 16) = true ∧ killDue s 0 = false ∧ taskOf s 0 = some nodeTask ∧
      nodeTask.arrivedAt.contains (sreg s 1).toNat = false ∧ ({ nodeTask with arrivedAt := [1] } : Task).arrivedAt.contains (sreg s 1).toNat = true := by
  repeat' first | decide +kernel | constructor

theorem witness_ArrivalAndExit_answer :
    let s := joined 1 { regs [] with wait := .qask 0 1 9 false }
    let s' := joined 2 { regs [] with wait := .qask 0 1 9 false }
    (core s 0).wait = .qask 0 1 9 false ∧ (tile s 0).task = some 0 ∧ lookup s.tasks 0 = some nodeTask ∧ nodeTask.origin = .node 0 1 0 1 ∧
      nodeAt s 0 1 1 = lookup (graph 1).nodes 1 ∧ (lookup (graph 1).nodes 1).isSome = true ∧
      ((lookup (graph 1).nodes 1).map (·.qst)) = some 1 ∧ (core s' 0).wait = .qask 0 1 9 false ∧ ((nodeAt s' 0 1 1).map (·.qst)) = some 2 := by decide +kernel

theorem witness_ArrivalAndExit_exit :
    Ready (s12 0 0) [] [] [] g0 ∧ killDue (s12 0 0) 0 = false ∧ enginesIdle (tile (s12 0 0) 0) allEngines = true ∧ (core (s12 0 0) 0).resp = [] ∧
      (core (s12 0 0) 0).co = [] ∧ (∀ u, taskOf (s12 0 0) 0 = some u → nextJoin (s12 0 0) u = none) ∧ (core (waitsAt (.phase .exit)) 0).wait = .phase .exit := by
  repeat' first | decide +kernel | constructor

def inTrap : State := cpu { regs [] with trapIn := true, trapPc := 9 }

theorem witness_TrapsAndReturns :
    Ready (s12 0 0) [] [] [] g0 ∧ (core (s12 0 0) 0).resp = [] ∧ Ready inTrap [] [] [] g0 ∧ (core inTrap 0).trapIn = true ∧ (core (s12 0 0) 0).trapIn = false ∧
      (core (cpu { regs [] with trapVecEn := true }) 0).trapVecEn = true := by
  repeat' first | decide +kernel | constructor

/-- A tile whose trap of a cause has come to the reeve core, under a policy. -/
def trapped (pol : Nat) (cause : Byte) : State :=
  { State.reset with
    tiles := [(0, { Tile.reset with task := some 0, core := { Core.reset with run := .reeve false, trapCause := cause } })]
    tasks := [(0, { placedTask with ctx := { ctx1 with tpol := pol } })] }

theorem witness_AsynchronousTraps :
    (core (cpu { regs [] with async := [⟨0x13, 5, 0⟩] }) 0).async = ⟨0x13, 5, 0⟩ :: [] ∧ (core (cpu { regs [] with async := [⟨0x13, 5, 0⟩] }) 0).run = .running ∧
      (core (cpu { regs [] with async := [⟨0x13, 5, 0⟩] }) 0).wait = .none ∧
    (core (trapped 1 6) 0).run = .reeve false ∧ (tile (trapped 1 6) 0).task = some 0 ∧ (lookup (trapped 1 6).tasks 0).map (·.ctx.tpol) = some 1 ∧
      systemCause (core (trapped 1 6) 0).trapCause.toNat = false ∧ killDue (trapped 1 6) 0 = false ∧ (lookup (trapped 0 6).tasks 0).map (·.ctx.tpol) = some 0 := by
  decide +kernel

theorem witness_SystemRegistersAndTlbs_registers :
    let s := s12 7 2
    Ready s [] [3] [] g0 ∧ tokPending (core s 0) 3 = false ∧ (sysRead s 0 0x047).isSome = true ∧ sysRead s 0 0xFFF = none ∧ (core s 0).resp = [] ∧
      Ready s [] [1] [1] g0 ∧ isReeve s.cur = false := by
  repeat' first | decide +kernel | constructor

theorem witness_SystemRegistersAndTlbs_system :
    let s := { State.reset with tiles := [(272, { Tile.reset with core := regs [(1, 0xC000000000000000), (2, 40)] })], cur := 272 }
    Ready s [] [1] [1] g0 ∧ Ready s [] [2] [2] g0 ∧ isReeve s.cur = true ∧ (sreg s 1).toNat / 2 ^ 62 = 3 ∧ (sreg s 2).toNat % 64 ≤ 40 ∧
      ((core (cpu { regs [] with replva := 2 ^ 56 }) 0).replva.toNat / 2 ^ 56 ≠ 0) := by
  repeat' first | decide +kernel | constructor

theorem witness_SystemRegistersAndTlbs_tlbs :
    ∃ e : TlbEntry, e ∈ (core (tr (paged 1 (regs [])) 8 false).2 0).ctlb ∧ e.va ≤ (sreg (paged 1 (regs [])) 1).toNat ∧
      (sreg (paged 1 (regs [])) 1).toNat < e.va + e.size ∧ e ∈ (die (tr (paged 1 (regs [])) 8 false).2 0).lltlb ∧ e.ctx = (ctxOf (paged 1 (regs [])) 0).id :=
  ⟨⟨1, 0, 65536, leaf 1⟩, by decide +kernel⟩

/-! ### Vector slots -/

/-- A vector engine that runs at a pair, with scalars, lanes and a loop counter. -/
def vecAt (pc : Nat) (k v : List (Nat × Lane)) (lc : Lane) : State :=
  onTile { Tile.reset with
    fifo := ⟨0, 0, 3, 0, 3, 0⟩
    vec := { Vec.reset with k := k, v := v, lc := [(0, lc)], run := some ⟨⟨0, 0, 0, 0, .none⟩, pc, false⟩ } }

def tokAll : VTok := ⟨true, true, true, true⟩

theorem witness_ScalarSlots :
    let s := vecAt 9 [(1, 7), (2, 31)] [(5, 3)] 1
    SlotReady s [] [] vg0 noTok ∧ SlotReady s [] [31] vg0 noTok ∧ (vec s).poison = [] ∧ SlotReady s [5] [] vg0 noTok ∧ (15 : Nat) ≠ 0 ∧ (7 : Nat) < 8 ∧
      (vec s).run = some ⟨⟨0, 0, 0, 0, .none⟩, 9, false⟩ := by
  repeat' first | decide +kernel | constructor

theorem witness_VectorControlFlow :
    SlotReady (vecAt 9 [] [] 1) [] [] vg0 noTok ∧ (vec (vecAt 9 [] [] 1)).run.isSome = true ∧ (getAt 0 (vec (vecAt 9 [] [] 1)).lc 0).toNat ≤ 1 ∧
      1 < (getAt 0 (vec (vecAt 9 [] [] 2)).lc 0).toNat ∧ (0 : Int) ≤ (vecPc (vec (vecAt 9 [] [] 2)) : Int) + (0xFF7 : BitVec 12).toInt ∧
      (vecPc (vec (vecAt 9 [] [] 2)) : Int) + (0xFF7 : BitVec 12).toInt < 2048 ∧ (vecPc (vec (vecAt 9 [] [] 2)) : Int) + (0xFF6 : BitVec 12).toInt < 0 ∧
      2048 ≤ (vecPc (vec (vecAt 2047 [] [] 2)) : Int) + (1 : BitVec 12).toInt ∧ (vec (vecAt 9 [] [] 1)).flight = [] ∧ (vec (vecAt 9 [] [] 1)).push = none ∧
      (vec (out (exec (.viadd ⟨vc0, 1, 2, .imm 1, 0⟩) (vecAt 9 [] [] 1)))).flight ≠ [] := by
  repeat' first | decide +kernel | constructor

theorem witness_VectorLoads :
    let s := vecAt 0 [(1, 0xFFF00)] [(64, 0xFFFFC)] 0
    SlotReady s [] [] vg0 tokAll ∧ roomFor (popFrom (tile s 0).fifo (popsOf tokAll)) (pushesOf tokAll) = true ∧ SlotReady s [] [3] vg0 noTok ∧
      (∀ l < 64, (rdM (vec s) 0).getLsbD l = true → (((rdK (vec s) 1).toNat : Int) + (0 : BitVec 36).toInt) % 4 = 0 ∧
        0 ≤ ((rdK (vec s) 1).toNat : Int) + (0 : BitVec 36).toInt + 4 * l ∧ ((rdK (vec s) 1).toNat : Int) + (0 : BitVec 36).toInt + 4 * l + 4 ≤ (hdr s 0).scratch) ∧
      (tile s 0).padPoison = [] ∧
      (∀ l < 64, (rdM (vec s) 0).getLsbD l = true → (((rdK (vec s) 0).toNat : Int) + (0 : BitVec 36).toInt + (rdV (vec s) 1 l).toNat) % 4 = 0 ∧
        ((rdK (vec s) 0).toNat : Int) + (0 : BitVec 36).toInt + (rdV (vec s) 1 l).toNat + 4 ≤ (hdr s 0).scratch) ∧
      SlotReady s [] [3, 1] vg0 noTok ∧ (0 : Int) ≤ ((rdK (vec s) 1).toNat : Int) + (0xC0 : BitVec 36).toInt ∧
      ((rdK (vec s) 1).toNat : Int) + (0xC0 : BitVec 36).toInt + 64 ≤ (hdr s 0).scratch := by
  repeat' first | decide +kernel | constructor

theorem witness_VectorStores :
    let s := vecAt 0 [(1, 0xFFF00)] [(64, 8), (65, 8), (192, 5), (193, 6)] 0
    SlotReady s [] [3] vg0 noTok ∧ SlotReady s [] [3, 1] vg0 noTok ∧
      (∀ l < 64, (rdM (vec s) 0).getLsbD l = true → (((rdK (vec s) 1).toNat : Int) + (0 : BitVec 36).toInt) % 4 = 0 ∧
        ((rdK (vec s) 1).toNat : Int) + (0 : BitVec 36).toInt + 4 * l + 4 ≤ (hdr s 0).scratch) ∧
      (∀ l < 64, (rdM (vec s) 0).getLsbD l = true → (((rdK (vec s) 0).toNat : Int) + (0 : BitVec 36).toInt + (rdV (vec s) 1 l).toNat) % 4 = 0 ∧
        ((rdK (vec s) 0).toNat : Int) + (0 : BitVec 36).toInt + (rdV (vec s) 1 l).toNat + 4 ≤ (hdr s 0).scratch) ∧
      (rdV (vec s) 1 0) = rdV (vec s) 1 1 ∧ (rdV (vec s) 1 2) ≠ rdV (vec s) 1 1 := by
  repeat' first | decide +kernel | constructor

theorem witness_LaneMovementAndMasks :
    let s := vecAt 0 [] [] 0
    SlotReady s [] [31, 1, 2] vg0 noTok ∧ SlotReady s [] [31, 1] vg0 noTok ∧ SlotReady s [] [31] vg0 noTok ∧ SlotReady s [] [] vg0 noTok ∧
      SlotReady s [] [1, 2] vg0 noTok := by
  repeat' first | decide +kernel | constructor

theorem witness_VectorIntegers : SlotReady (vecAt 0 [] [] 0) [] (31 :: 1 :: namesB (.reg 2)) vg0 noTok ∧
    SlotReady (vecAt 0 [] [] 0) [] (31 :: 1 :: namesB (.imm 2)) vg0 noTok := by
  repeat' first | decide +kernel | constructor

theorem witness_VectorFloats :
    let o : VFloat2 := ⟨vc0, .f32, 31, 1, .imm 0x3F800000, 0⟩
    o.t = .f32 ∧ SlotReady (vecAt 0 [] [] 0) [] (o.d.val :: o.a.val :: namesB o.b) vg0 noTok ∧
      SlotReady (vecAt 0 [] [] 0) [] (31 :: 1 :: namesB (.reg 2) ++ [3]) vg0 noTok ∧ SlotReady (vecAt 0 [] [] 0) [] [31, 1] vg0 noTok ∧
      ({ o with t := .bf16, b := .imm 0x3F80 } : VFloat2).t ≠ .f32 := by
  repeat' first | decide +kernel | constructor

theorem witness_ConversionsAndReductions :
    cvtSrc FP32 = true ∧ cvtDst FP16 = true ∧ SlotReady (vecAt 0 [] [] 0) [] [31, 1] vg0 noTok ∧ SlotReady (vecAt 0 [] [] 0) [] [31, 1, 2] vg0 noTok ∧
      SlotReady (vecAt 0 [] [] 0) [3] [31, 1] vg0 noTok := by
  repeat' first | decide +kernel | constructor

def due0 : Flight := ⟨0, [(3, 7), (4, 8)], none, 1, Push.none, 0⟩

theorem witness_WritebackWritesTheActiveLanes :
    let s := onTile { Tile.reset with vec := { Vec.reset with flight := [due0] } }
    (tile s 0).vec.flight = [due0] ∧ due0.due ≤ (tile s 0).vec.slot ∧ (tile s 0).vec.push = none ∧ due0.push = Push.none ∧ due0.m = none ∧
      (due0.v.map (·.1)).Nodup := by decide +kernel

/-- Two results due together, one of them for a mask register; a result with a push, with room and without; a push that waits; a stopped run. -/
theorem witness_WritebackWritesTheActiveLanes_several :
    let vm : Push := ⟨false, false, false, false, false, true⟩
    let s := fun (fl : List Flight) (p : Option Push) (r : Option RunState) (n : Nat) =>
      onTile { Tile.reset with vec := { Vec.reset with flight := fl, push := p, run := r }, fifo := ⟨0, 0, 0, 0, 0, n⟩ }
    let x := fun (fl : List Flight) (p : Option Push) (r : Option RunState) (n : Nat) => (tile (s fl p r n) 0)
    let m : Flight := { due0 with m := some (2, 5, 4) }
    let p : Flight := { due0 with push := vm }
    (x [due0, m] none none 0).vec.push = none ∧ ([due0, m].filter (fun f => decide (f.due ≤ (x [due0, m] none none 0).vec.slot))) = [due0, m] ∧
      (∀ f ∈ [due0, m], f.push = Push.none) ∧ (x [p] none none 0).vec.flight = [p] ∧ roomFor (x [p] none none 0).fifo p.push = true ∧
      roomFor (x [p, m] none none 16).fifo p.push = false ∧ (x [due0] (some vm) none 16).vec.push ≠ none ∧
      (x [p] none (some ⟨⟨0, 0, 0, 0, .none⟩, 0, true⟩) 0).vec.run = some ⟨⟨0, 0, 0, 0, .none⟩, 0, true⟩ := by decide +kernel

/-! ### Matrix records -/

def aRun (pc : Nat) : RunState := ⟨⟨0, 0, 0, 0, .none⟩, pc, false⟩

/-- A matrix engine at the first record of its run, free. -/
def matState (m : Mat) : State := onTile { Tile.reset with mat := { m with run := some (aRun 0) }, banks := { Banks.reset with mA := [(127, 0x10)] } }

theorem witness_MatrixNopEndAndRepeat :
    MatReady (matState Mat.reset) [] none false m0 ∧ (mat (matState Mat.reset)).busy = [] ∧ (mat (matState Mat.reset)).ahead = [] ∧
      (mat (matState Mat.reset)).accepted = (mat (matState Mat.reset)).tl ∧ (mat (matState Mat.reset)).rep = none ∧
      roomFor (popFrom (tile (matState Mat.reset) 0).fifo (matPops m0)) (matPushes m0) = true ∧
    (let s := out (exec (.mend m0) (matState Mat.reset))
     (tile s 0).mat.busy = [⟨1, 0, matPushes m0, true, true⟩] ∧ (tile s 0).mat.push = none ∧ (tile s 0).mat.ahead = [] ∧
       1 = ((tile s 0).mat.tl + 1).toNat ∧ roomFor (tile s 0).fifo (matPushes m0) = true ∧ (tile s 0).mat.rep = none) ∧
    (mat (matState Mat.reset)).run = some (aRun 0) ∧ (aRun 0).stop = false ∧ (aRun 0).pc + 1 < 256 ∧
    2 < fetchM (matState Mat.reset) 0 ((aRun 0).pc + 1) / 2 ^ 504 % 2 ^ 8 := by
  repeat' first | decide +kernel | constructor

def isOk (c : Check4) : Bool := match c with | .ok => true | _ => false

theorem ok_of {c : Check4} (h : isOk c = true) : c = .ok := by cases c <;> simp_all [isOk]

def stat : MRec := { m0 with fmtb := 9, baseb := 0x40, rows := 2, cols := 2, strb := ⟨0x40, 0, 0, 0⟩ }

theorem witness_PlaneRecords :
    MatReady (matState Mat.reset) (matFeats stat false true []) (matCheck3 (matState Mat.reset) stat false false true true) true stat ∧
      statCheck stat (matState Mat.reset) = .ok ∧ MatReady (matState Mat.reset) [] none false m0 := by
  repeat' first | decide +kernel | exact ok_of (by decide +kernel) | constructor


/-- A multiply of two rows by 64 columns of a format, from 0x80. -/
def mulRec (f : Byte) : MRec := { m0 with fmta := f, fmtb := f, acc := 3, basea := 0x80, scalea := 0x40, rows := 2, kpass := 1, cols := 64, basec := 126 }

/-- Both planes hold weights of a format. -/
def planes (f : Nat) : State := matState { Mat.reset with active := { Plane.reset with fmt := f, ext := 32 }, shadow := { Plane.reset with fmt := f } }

theorem witness_MultiplyRecords :
    MatReady (planes BF16) (matFeats (mulRec 0x09) true true []) (matCheck3 (planes BF16) (mulRec 0x09) true true true true) false (mulRec 0x09) ∧
      mulCheck (mulRec 0x09) false (fun f => !isMX f) (planes BF16) = .ok ∧ (mulRec 0x09).kpass.toNat ≤ 1 ∧ (mulRec 0x09).trip.l0.toNat ≤ 1 ∧
      (mat (planes BF16)).rep = none ∧ (mulRec 0x09).fl.zero = false ∧ (mulRec 0x09).fl.swap = false ∧
    MatReady (planes BF16) (matFeats (mulRec 0x09) true true [4]) (matCheck3 (planes BF16) (mulRec 0x09) true true true true) false (mulRec 0x09) ∧
      mulCheck (mulRec 0x09) false (fun f => [BF16, FP16, E4M3, E5M2].contains f) (planes BF16) = .ok := by
  repeat' first | decide +kernel | exact ok_of (by decide +kernel) | constructor

theorem witness_MultiplyRecords_mx :
    let r := mulRec (BitVec.ofNat 8 MXFP4)
    MatReady (planes MXFP4) (matFeats r true true [2]) (matCheck3 (planes MXFP4) r true true true true) false r ∧ mulCheck r true isMX (planes MXFP4) = .ok ∧
      (15 : Nat) < 2 ^ 32 := by
  repeat' first | decide +kernel | exact ok_of (by decide +kernel) | constructor

def rankRec : MRec := { m0 with fmta := BitVec.ofNat 8 FP32, baseb := 0x40, rows := 2, kpass := 4, cols := 64 }

def accRec (f : Nat) : MRec := { m0 with fmta := BitVec.ofNat 8 FP32, fmtb := BitVec.ofNat 8 f, baseb := 0x40, rows := 2, cols := 64, strb := ⟨0x100, 0, 0, 0⟩ }

theorem witness_AccumulatorAndRankRecords :
    let s := matState Mat.reset
    MatReady s (matFeats rankRec true false [4]) (matCheck3 s rankRec true true false false) false rankRec ∧ topkCheck rankRec s = .ok ∧
      MatReady s [] (matCheck3 s { m0 with rows := 128, cols := 64 } true false false false) false { m0 with rows := 128, cols := 64 } ∧
      acczCheck { m0 with rows := 128, cols := 64 } s = .ok ∧
      MatReady s (matFeats (accRec BF16) true true []) (matCheck3 s (accRec BF16) true true true false) false (accRec BF16) ∧ accldCheck (accRec BF16) s = .ok ∧
      MatReady s (matFeats (accRec FP32) true true []) (matCheck3 s (accRec FP32) true true true false) false (accRec FP32) ∧ accrdCheck (accRec FP32) s = .ok ∧
      (accRec FP32).fmta = (accRec FP32).fmtb ∧ (accRec FP32).fl.bs = false ∧ (4 * (accRec FP32).cols.toNat : Int) ≤ (accRec FP32).strb.l0.toInt := by
  repeat' first | decide +kernel | exact ok_of (by decide +kernel) | constructor

/-! ### Move records -/

/-- A shape record at 0x2000 of the scratchpad: tensor 7, a format, one dimension of 16 elements of n bytes from 0x4000; and a window
record at 0x2100 over all of them. -/
def recPad (fmt n : Nat) : Mem :=
  writeN (writeN (writeN (writeN (writeN [] 0x2000 8 (7 + fmt * 2 ^ 32 + 2 ^ 40)) 0x2008 8 (2 ^ 63 + 0x4000)) 0x2040 4 16) 0x2080 8 n) 0x2140 4 16

/-- A move engine at the first record of its run, free, over a scratchpad. -/
def movState (pad : Mem) : State := onTile { Tile.reset with pad := pad, mov := { Mov.reset with run := some (aRun 0) } }

def shaped : XRec := { x0 with shape := 0x8000000000002000, window := 0x2100 }

/-- What a record fetches there. -/
def fetched (fmt n : Nat) : XFetch := ⟨⟨7, fmt, 1, false, 2 ^ 63 + 0x4000, 0, [16], [n]⟩, [0], [16], none, false⟩

def plainHyps (k : XKind) (r : XRec) (feats : List Nat) (ofmt : Bool) (s : State) (f : XFetch) : Prop :=
  PlainRecord s k r f ∧ MovReady s (movFeats r feats) (movCheck3 s r false ofmt) r

theorem witness_TransfersSendTheirElements_load :
    plainHyps .load shaped [] true (movState (recPad FP32 4)) (fetched FP32 4) ∧
      (∀ q ∈ traverse shaped none 0 0 (fetched FP32 4) (recPerm .load shaped 1), q.n ≤ burstMax 32 false) := by
  repeat' first | decide +kernel | constructor

/-- To tile 9 of this device's die 1. -/
def sent : XRec := { shaped with dest := BitVec.ofNat 64 (2 ^ 63 + 1 * 2 ^ 40 + 9 * 2 ^ 34) }

theorem witness_TransfersSendTheirElements_send :
    plainHyps .send sent [] true (movState (recPad FP32 4)) (fetched FP32 4) ∧
      (∀ q ∈ traverse sent none 0 0 (fetched FP32 4) (recPerm .send sent 1), q.n ≤ burstMax 32 false) ∧ (destOf sent.dest).here = true ∧
      sent.fl.sync = false := by
  repeat' first | decide +kernel | constructor

/-- A list of one entry at 0x2200: element 0. -/
def listed (dest : Word) : XRec := { shaped with second := 0x8000000000002200, limit := 0x00010000, dest := dest }

def listRuns (src dst : List Int) (f : XFetch) : List XRun := boxRuns [] src dst f.ext (List.range f.sh.ndim)

theorem witness_TransfersSendTheirElements_gather :
    let s := movState (recPad FP32 4)
    let f := fetched FP32 4
    let r := listed 0
    let gathered := (List.range (entryCount r)).flatMap (fun j => listRuns [0] (blockOrigin r f [0] j) f)
    plainHyps .gather r [] true s f ∧ isPad r.second = true ∧ entryCount r = 1 ∧ (∀ q ∈ gathered, q.n ≤ burstMax 32 false) ∧
      (∀ q ∈ gathered, ∀ e < q.n, inExt f.sh (srcAt q e) = true ∧ 0 ≤ (ptrAddr f.sh.base : Int) + (elemOff f.sh (srcAt q e)).1 ∧
        (ptrAddr f.sh.base : Int) + (elemOff f.sh (srcAt q e)).1 + (elemOff f.sh (srcAt q e)).2.2 ≤ (hdr s 0).scratch) := by
  repeat' first | decide +kernel | constructor

theorem witness_TransfersSendTheirElements_scatter :
    let r := listed sent.dest
    plainHyps .scatter r [] true (movState (recPad FP32 4)) (fetched FP32 4) ∧ isPad r.second = true ∧ (destOf r.dest).here = true ∧ r.fl.sync = false := by
  repeat' first | decide +kernel | constructor

theorem witness_TransfersSendTheirElements_coll :
    let r := { shaped with dest := 0x8000000000000000 }
    plainHyps .coll r [] true (movState (recPad FP32 4)) (fetched FP32 4) ∧ (destOf r.dest).space = 0 ∧
      (∀ q ∈ traverse r none 0 0 (fetched FP32 4) (List.range 1), q.n ≤ burstMax 32 false) := by
  repeat' first | decide +kernel | constructor

/-- A whole block of FP32: 1,024 elements. -/
def blockPad : Mem :=
  writeN (writeN (writeN (writeN (writeN [] 0x2000 8 (7 + FP32 * 2 ^ 32 + 2 ^ 40)) 0x2008 8 (2 ^ 63 + 0x4000)) 0x2040 4 1024) 0x2080 8 4) 0x2140 4 1024

theorem witness_TransfersSendTheirElements_reds :
    let r := { shaped with dest := BitVec.ofNat 64 (2 ^ 63 + 5) }
    plainHyps .reds r [9] true (movState blockPad) ⟨⟨7, FP32, 1, false, 2 ^ 63 + 0x4000, 0, [1024], [4]⟩, [0], [1024], none, false⟩ ∧ bitOf r.dest.toNat 63 = true := by
  repeat' first | decide +kernel | constructor

theorem witness_MoveRecordsAcceptAndComplete_data :
    let s := movState (recPad INT8 1)
    MovReady s (movFeats shaped []) (movCheck3 s shaped false true) shaped ∧
      (dataChecks .load shaped (popsMade s shaped)).1 = .ok (some (fetched INT8 1)) ∧ (dataChecks .copy { shaped with second := 0x8000000000002000 }
        (popsMade s { shaped with second := 0x8000000000002000 })).1 = .ok (some { fetched INT8 1 with dst := some (fetched INT8 1).sh }) := by
  repeat' first | decide +kernel | constructor

theorem witness_MoveRecordsAcceptAndComplete_ends :
    let s := movState []
    MovReady s [] (movCheck3 s x0 false false) x0 ∧ (mov s).run = some (aRun 0) ∧ (aRun 0).stop = false ∧ (mov s).rep = none ∧
      roomFor (popFrom (tile s 0).fifo (movPops x0)) (movPushes x0) = true ∧
      (xrepChecks x0 (popsMade (onTile { Tile.reset with banks := { Banks.reset with xA := [(127, 8)] }, mov := { Mov.reset with run := some (aRun 0) } }) x0)).1 =
        .ok none := by
  repeat' first | decide +kernel | constructor

def endedRec : MovDone := ⟨1, 24, 2, 5, Push.none, some (0x100, [1, 2, 3, 4]), .nothing, 0, true⟩

theorem witness_MoveRecordsAcceptAndComplete_complete :
    let t : Tile := { Tile.reset with mov := { Mov.reset with run := some (aRun 3), busy := some endedRec } }
    let s := onTile t
    (tile s 0).mov.busy = some endedRec ∧ (tile s 0).mov.push = none ∧ (tile s 0).mov.parked = none ∧ movReady s 0 endedRec = some endedRec ∧
      endedRec.treg < 64 ∧ roomFor (tile s 0).fifo endedRec.push = true ∧ endedRec.treg ≠ 0 ∧ (tile s 0).mov.run = some (aRun 3) ∧
      heldPush { Tile.reset with mov := { Mov.reset with push := some ⟨true, false, false, false, false, false⟩ } } .x =
        some ⟨true, false, false, false, false, false⟩ ∧ roomFor Tile.reset.fifo ⟨true, false, false, false, false, false⟩ = true := by decide +kernel

theorem witness_WritingRecords_fill :
    plainHyps .fill shaped [] false (movState (recPad INT8 1)) (fetched INT8 1) ∧ fmtWidth (fetched INT8 1).sh.fmt = 8 := by
  repeat' first | decide +kernel | constructor

/-- A dense run of 6-bit elements, filled, and its last element, which no other shares a byte with. -/
theorem witness_WritingRecords_dense :
    let f := fetched E3M2 0
    let at_ := fun (p : XRun × Nat) => 8 * (padPlace f.sh (srcAt p.1 p.2)).1 + (padPlace f.sh (srcAt p.1 p.2)).2.1
    plainHyps .fill shaped [] false (movState (recPad E3M2 0)) f ∧ fmtWidth f.sh.fmt = 6 ∧
      (let els := (allEls (traverse shaped none 0 0 f (List.range 1))).filter (fun p => inExt f.sh (srcAt p.1 p.2))
       els.length = 16 ∧ els.all (fun p => els.all (fun q => at_ q == at_ p || decide (at_ p + 6 ≤ at_ q ∨ at_ q + 6 ≤ at_ p))) = true) := by
  repeat' first | decide +kernel | constructor

/-- A second shape record at 0x2300, its elements from 0x5000. -/
def copyPad : Mem :=
  writeN (writeN (writeN (writeN (recPad INT8 1) 0x2300 8 (8 + INT8 * 2 ^ 32 + 2 ^ 40)) 0x2308 8 (2 ^ 63 + 0x5000)) 0x2340 4 16) 0x2380 8 1

def copied : XFetch := { fetched INT8 1 with dst := some ⟨8, INT8, 1, false, 2 ^ 63 + 0x5000, 0, [16], [1]⟩ }

theorem witness_WritingRecords_copy :
    let r := { shaped with second := 0x8000000000002300 }
    plainHyps .copy r [] false (movState copyPad) copied ∧ fmtWidth copied.sh.fmt = 8 ∧
      (copied.dst.all (fun g => bitOf g.base 63 && (allEls (traverse r none 0 0 copied (recPerm .copy r 1))).all (fun p =>
        (allEls (traverse r none 0 0 copied (recPerm .copy r 1))).all (fun q =>
          (padPlace copied.sh (srcAt p.1 p.2)).1 != (padPlace g (dstAt q.1 q.2)).1)))) = true := by
  repeat' first | decide +kernel | constructor

/-- One element of FP32 to store. -/
def onePad : Mem :=
  writeN (writeN (writeN (writeN (writeN [] 0x2000 8 (7 + FP32 * 2 ^ 32 + 2 ^ 40)) 0x2008 8 (2 ^ 63 + 0x4000)) 0x2040 4 1) 0x2080 8 4) 0x2140 4 1

def onePaged (cls : Nat) : State :=
  let s := paged cls (regs [])
  { s with tiles := [(0, { tile s 0 with pad := onePad, mov := { Mov.reset with run := some (aRun 0) } })] }

def one : XFetch := ⟨⟨7, FP32, 1, false, 2 ^ 63 + 0x4000, 0, [1], [4]⟩, [0], [1], none, false⟩

theorem trx_eq {s : State} {va ga e : Nat} (h : (translate s 0 true (ctxOf s 0) va true).1 = .ok ga e) :
    translate s 0 true (ctxOf s 0) va true = (.ok ga e, (translate s 0 true (ctxOf s 0) va true).2) := Prod.ext h rfl

theorem witness_WritingRecords_store :
    let r := { shaped with dest := 0xFFFC }
    let s := onePaged 1
    plainHyps .store r [] false s one ∧ (traverse r none 0 0 one (List.range 1)).map (·.n) = [1] ∧ isDense one.sh.fmt = false ∧ inExt one.sh [0] = true ∧
      (0 : Int) ≤ r.dest.toNat + (elemOff one.sh [0]).1 ∧ 0xFFFC % 128 + 4 ≤ 128 ∧
      translate s 0 true (ctxOf s 0) 0xFFFC true = (.ok 0x3FFFC (leaf 1), (translate s 0 true (ctxOf s 0) 0xFFFC true).2) ∧
      lostAt s 0 0x3FFFC = false ∧ unroutedAt s 0x3FFFC = none ∧ (eClass (leaf 1) = 2 → (hdr s 0).killable = false ∧ (hdr s 0).hcstores = true) ∧
      (eClass (leaf 1) = 1 → overLimit (core s 0) 0x3FFFC = false) ∧ (∀ i < 4, ownByte (core s 0) (0x3FFFC + i) = none) := by
  repeat' first | decide +kernel | exact trx_eq (by decide +kernel) | constructor

/-- Two elements to store on a PHASE page whose translation the move engine holds. -/
def twoPaged : State :=
  let s := onePaged 1
  { s with tiles := [(0, { tile s 0 with pad := writeN (writeN onePad 0x2040 4 2) 0x2140 4 2, mov := { Mov.reset with run := some (aRun 0), xtlb := [⟨1, 0, 65536, leaf 1⟩] } })] }

theorem witness_WritingRecords_several :
    let r := { shaped with dest := 0xFF8 }
    let s := twoPaged
    let f : XFetch := { one with sh := { one.sh with ext := [2] }, ext := [2] }
    let els := (allEls (traverse r none 0 0 f (List.range 1))).filter (fun p => inExt f.sh (srcAt p.1 p.2))
    plainHyps .store r [] false s f ∧ els.length = 2 ∧
      (∀ p ∈ els, 0 ≤ r.dest.toNat + (elemOff f.sh (srcAt p.1 p.2)).1 ∧ ∀ j < 4,
        let va := (r.dest.toNat + (elemOff f.sh (srcAt p.1 p.2)).1).toNat + j
        lostAt s 0 (0x30000 + va) = false ∧ unroutedAt s (0x30000 + va) = none ∧ translate s 0 true (ctxOf s 0) va true = (.ok (0x30000 + va) (leaf 1), s)) ∧
      (linesOf (closeRecord (core s 0)).unpub).length + 2 * els.length < 65536 := by
  repeat' first | decide +kernel | constructor

theorem witness_SignalMapAndWellRecords_signal :
    let r := { x0 with dest := 8, second := 3, limit := 4 }
    let s := onePaged 2
    MovReady s [] (movCheck3 s r false false) r ∧ r.limit.toNat ≤ 4 ∧ r.dest.toNat % 8 = 0 ∧
      translate s 0 true (ctxOf s 0) 8 true = (.ok 0x30008 (leaf 2), (translate s 0 true (ctxOf s 0) 8 true).2) ∧ eClass (leaf 2) = 2 ∧
      (hdr s 0).killable = false ∧ lostAt s 0 0x30008 = false ∧ unroutedAt s 0x30008 = none := by
  repeat' first | decide +kernel | exact trx_eq (by decide +kernel) | constructor

/-- A PLACE map record at 0x2400: tensor 7, INT8, one dimension 0 to 63 with byte stride 1, from 0x8000, ready at 64 elements. -/
def mapPad : Mem :=
  writeN (writeN (writeN (writeN (writeN [] 0x2400 8 (7 * 2 ^ 32 + INT8 * 2 ^ 24 + 1 * 2 ^ 19 + 3 * 2 ^ 10 + 2 * 2 ^ 8)) 0x2408 8 (0x8000 * 2 ^ 44)) 0x2410 8 (64 * 2 ^ 16))
    0x2440 8 (63 * 2 ^ 32)) 0x2448 8 (2 ^ 39)

theorem witness_SignalMapAndWellRecords_maps :
    let r := { x0 with shape := 0x8000000000002400, slot := 31 }
    let s := movState mapPad
    MovReady s [] (movCheck3 s r true false) r ∧ (mapChecks r (popsMade s r)).1 = .ok none ∧ isSeq s.cur = false ∧
      MovReady s [] (movCheck3 s r false false) r ∧ (wellChecks { x0 with shape := 0x8000000000002400, limit := 32 } (popsMade s x0)).1 = .ok none := by
  repeat' first | decide +kernel | constructor


/-! ### The Reedbed and the memory system -/

theorem pair_eq {α β : Type} {p : α × β} {b : β} (h : p.2 = b) : p = (p.1, b) := Prod.ext rfl h

theorem fst_eq {α β : Type} {p : α × β} {a : α} (h : p.1 = a) : p = (a, p.2) := Prod.ext h rfl

/-- Four INT8 elements of tensor 7 at coordinate 2. -/
def aBurst : Burst := ⟨7, INT8, 1, 0, 4, false, false, false, 0, 0, [2], [0x04030201], 0, []⟩

def aTransit : Transit := ⟨1, 0, 0, 0, 0, aBurst, 0, none, 0⟩

/-- A map of tensor 7, INT8, coordinates 0 to 63 at consecutive bytes. -/
def aMap (mode base : Nat) : MapRec := ⟨7, INT8, mode, false, false, false, false, 3, 0, base, 0, 0, 64, false, 0, 0, [⟨0, 63, 63, 1, 0⟩]⟩

def aSlot (m : MapRec) : Slot := ⟨some m, some m, 5, false, 0, false, true, false⟩

/-- A tile of context 0 with one map and a burst at its port. -/
def landed (m : MapRec) (held : Bool) : State :=
  { State.reset with
    tiles := [(0, { Tile.reset with
      task := some 0
      reed := { Reed.reset with slots := [(4, aSlot m)], port := some ⟨aTransit, 0, 0, 0, 1, held, 0⟩, change := some (.swap 4) } })]
    tasks := [(0, placedTask)] }

theorem witness_HeadersReadyPushesAndMapChanges :
    let s := { State.reset with transit := [aTransit] }
    let s' := landed (aMap 0 0x8000) false
    transitTo 0 s.transit 0 0 = some (0, aTransit) ∧ (tile s 0).reed.port = none ∧ aTransit.due ≤ s.now ∧ overtakes s.transit 0 aTransit = false ∧
      portHolds s 0 aTransit = false ∧ stale s aTransit.src aTransit.inc 0 0 = false ∧
      reaches s aTransit.src 0 = true ∧ aBurst.kind = 0 ∧ malformed aBurst = false ∧
      lookup (tile s' 0).reed.slots 4 = some (aSlot (aMap 0 0x8000)) ∧ (aSlot (aMap 0 0x8000)).map = some (aMap 0 0x8000) ∧
      (aSlot (aMap 0 0x8000)).push = true ∧ roomFor (tile s' 0).fifo (readyTokens (aMap 0 0x8000)) = true ∧
      (∀ p, (tile s' 0).reed.port = some p → p.held = false) ∧ (tile s' 0).reed.change = some (.swap 4) ∧
      (tile (onTile { Tile.reset with reed := { Reed.reset with change := some (.set 3 (aMap 0 0)) } }) 0).reed.change = some (.set 3 (aMap 0 0)) ∧
      (tile (onTile { Tile.reset with reed := { Reed.reset with change := some (.clear 3) } }) 0).reed.change = some (.clear 3) := by
  decide +kernel

theorem witness_MigrationAndReplication :
    let s := { State.reset with access := [(5, (63, 4))], now := 2 ^ 16, regions := [(0, ⟨0, 0, 4, [(1, 100)], 1, 0⟩)] }
    lookup s.access 5 = some (63, 4) ∧ dieOf 63 = homeDie (128 * 5) ∧ 3 ≤ hops (sliceOf s 5) (63 % 64) ∧
      (die s 0).epochAt + 2 ^ bits (die s 0).replctl.toNat 52 48 ≤ s.now ∧ (s.regions.map (·.1)).Pairwise (· < ·) ∧
      (die s 0).replNext = none ∧ lookup s.regions 0 = some ⟨0, 0, 4, [(1, 100)], 1, 0⟩ ∧ homeDie (2 ^ 21 * 0) = 0 := by
  decide +kernel

/-- The leaf of a READDUP page. -/
def dupLeaf : Nat := 3 * 2 ^ 61 + 1 * 2 ^ 59 + 2 ^ 53 + 3 * 2 ^ 12

def dupCtx : Ctx := { ctx1 with peers := 0x200, dsets := 0x100 }

/-- A store of tile 0 waits for the collapse of the page at VA 0, which devices 0 and 1 hold. -/
def duplicated (cs : List Collapse) : State :=
  let s := paged 1 { regs [] with wait := .collapse 8 false }
  { s with
    mem := writeN (writeN (writeN (writeN (pages dupLeaf) 0x30100 4 2) 0x30104 8 (2 ^ 32)) 0x30200 8 (2 ^ 63 + 1))
      0x40000 8 (2 ^ 52 + 0x10000)
    tasks := [(0, { placedTask with ctx := dupCtx })]
    collapses := cs
    dev := { s.dev with routes := [1] } }

def aCollapse (done : Bool) : Collapse := ⟨0, false, 1, 8, [1], false, done, none⟩

theorem witness_ReaddupCollapses_asks :
    (core (duplicated []) 0).wait = .collapse 8 false ∧ dupEntry (duplicated []) dupCtx 8 = some (dupLeaf, 0x16000) ∧
      ctxOf (duplicated []) 0 = dupCtx ∧ (duplicated []).collapses.find? (fun c => c.agent == 0 && (c.x == false && c.left.isNone)) = none ∧
      (let s := duplicated []
       let reads := entryReads s dupCtx 8 ++ tableReads s dupCtx dupCtx.dsets (dupCtx.dsets + 64 * eXref dupLeaf) 64
       reachesAll s (eOwner dupLeaf) reads = true ∧
         reachesAll { s with dev := { s.dev with failedLinks := [0, 1, 2] } } 1 reads = false) ∧
      dupSet (duplicated []) dupCtx (eXref dupLeaf) (duplicated []).dev.devid = some (false, [0, 1]) ∧
      (∀ d ∈ [0, 1], d ≠ (duplicated []).dev.devid → (duplicated []).dev.lost.contains d = true ∨ (routed (duplicated []) d = true ∧ linkedTo (duplicated []) d = true)) ∧
      (let s := { duplicated [] with mem := [] }; dupEntry s (ctxOf s 0) 8 = none) ∧
      (let s := { duplicated [] with tasks := [(0, { placedTask with ctx := { dupCtx with dsets := 0 } })] }
       (dupEntry s (ctxOf s 0) 8).map (·.1) = some dupLeaf ∧ dupSet s (ctxOf s 0) (eXref dupLeaf) s.dev.devid = none) ∧
      (let s0 := duplicated []
       let b : MovDone := ⟨1, 0, 0, 0, Push.none, none, .collapse 8 false, 0, false⟩
       let s := { s0 with tiles := [(0, { tile s0 0 with core := { core s0 0 with wait := .none }, mov := { Mov.reset with busy := some b } })] }
       (tile s 0).mov.busy = some b ∧ b.wait = .collapse 8 false ∧ (core s 0).wait = .none ∧ dupEntry s (ctxOf s 0) 8 = some (dupLeaf, 0x16000)) := by
  decide +kernel

theorem witness_ReaddupCollapses_answers :
    let s := duplicated [aCollapse false]
    let s' := duplicated [aCollapse true]
    s.collapses.find? (fun c => c.agent == 0 && (c.x == false && c.left.isNone)) = some (aCollapse false) ∧ (core s 0).wait = .collapse 8 false ∧ (aCollapse false).done = false ∧
      (∀ d ∈ (aCollapse false).others, s.dev.lost.contains d = true ∨ (routed s d = true ∧ linkedTo s d = true)) ∧ (tile s 0).mov.busy = none ∧
      (∀ q ∈ s.collapses, q.agent = 0 → q.left = none) ∧
      s'.collapses.find? (fun c => c.agent == 0 && (c.x == false && c.left.isNone)) = some (aCollapse true) ∧ (core s' 0).wait = .collapse 8 false ∧
      dupEntry s (ctxOf s 0) 8 = some (dupLeaf, 0x16000) ∧ (aCollapse false).split = false ∧
      s.collapses.find? (fun c => c.agent == 0 && (!c.done && c.others.contains 1)) = some (aCollapse false) ∧ s.dev.lost.contains 1 = false ∧
      routed s 1 = true ∧ linkedTo s 1 = true ∧ ({ s with dev := { s.dev with lost := [1] } } : State).dev.lost.contains 1 = true ∧ routed s 2 = false ∧
      findCollapse s' 0 (fun c => c.done && othersReached s' c) = some (aCollapse true) ∧ dupEntry s' (ctxOf s' 0) (aCollapse true).va = some (dupLeaf, 0x16000) := by
  decide +kernel

theorem witness_ReaddupCollapses_request :
    let s := { duplicated [] with dev := { (duplicated []).dev with registry := [(1, 0x40000)] },
                                  mem := writeN (writeN (duplicated []).mem 0x40008 8 0x200) 0x40010 8 0x100 }
    let q : CollapseReq := ⟨1, 8, 1, false, 77⟩
    let base := groupBase (eSize dupLeaf) 0x16000
    let frame := eFrame dupLeaf * 2 ^ 16
    let c := (ctxAt s 0x40000).getD ctx1
    linkedTo s q.writer = true ∧ lookup s.dev.registry q.ctx = some 0x40000 ∧ ctxAt s 0x40000 = some c ∧ diePath s 4 (homeDie 0x40000) = true ∧
      dupEntry s c q.va = some (dupLeaf, 0x16000) ∧ peerIndex s c q.writer = some 0 ∧
      reachesAll s (eOwner dupLeaf) (entryReads s c q.va ++ tableReads s c c.peers c.peers (8 * (0 + 1))) = true ∧ recordsInProgress s = [] ∧ q.split = false ∧ eSize dupLeaf < 2 ∧
      (base + 8 * groupSize (eSize dupLeaf) ≤ frame ∨ frame + pageBytes (eSize dupLeaf) ≤ base) ∧ s.leaving = [] ∧
      recordsInProgress { s with tiles := [(3, { Tile.reset with mov := { Mov.reset with busy := some ⟨1, 0, 0, 0, Push.none, none, .port, 0, false⟩ } })] } = [(3, 1)] ∧
      (die s (eOwner dupLeaf)).free2m.length < 256 ∧ (die s (eOwner dupLeaf)).free64.length < 1024 := by
  decide +kernel

/-! ### Graphs and schedulers -/

/-- The device after bring-up, the feature enables locked, with the context of `ctx1` at PA 0x40000 and one page at VA 0. -/
def opened (e : Nat) : State :=
  { State.reset with
    mem := writeN (pages e) 0x40000 8 (2 ^ 52 + 0x10000)
    dies := [(0, { Die.reset 0 with up := true })]
    dev := { Dev.reset with stage := .up, featLock := true } }

/-- A page of class HC from which code may be read. -/
def leafK : Nat := leaf 2 + 2 ^ 52

theorem err_of {ε α : Type} {r : Except ε α} (h : r.toOption.isSome = false) : ∃ e, r = .error e := by
  cases r <;> simp_all [Except.toOption]

theorem some_of {ε α : Type} {r : Except ε α} (h : r.toOption.isSome = true) : ∃ a, r = .ok a := by
  cases r <;> simp_all [Except.toOption]

/-- An upload of graph 2: one node, END. -/
def upload : List Word := [2 ^ 48 + 2 ^ 48 + 2 ^ 13, 0x40000, 1, 0, 0, 0, 0, 0, 0, 0, 0, 0, 0, 0, 0, 0]

def word (l : List Word) (i : Nat) : Nat := (l.getD i 0).toNat

def endPart : Part := ⟨2, 0x40000, 1, [(0, ⟨.endNode 0, 0, 0, 0, 0, false, 0, 0, 0, 0⟩)], []⟩

theorem witness_UploadAndTrigger_upload :
    let s := opened leafK
    hostOpen s = true ∧ (die s 0).up = true ∧ s.dev.featLock = true ∧ ctxAt s 0x40000 = some ctx1 ∧
      (uploadPart s 0 (word upload)).toOption = some (endPart, ctx1, 128) ∧ partsOf s endPart.gid = [] ∧
      diePath s 4 0 = true ∧ endPart.dies = 2 ^ 0 ∧
      (checkParts (ctxRead s 0 0x40000).2 ctx1 [(0, endPart)] false false 0 endPart).1 = none ∧
      (let s1 := (checkParts (ctxRead s 0 0x40000).2 ctx1 [(0, endPart)] false false 0 endPart).2
       (checkParts s1 ctx1 [(0, endPart)] true true 0 endPart).1 = none) ∧
      diePath { s with dev := { s.dev with failedLinks := [0, 4] } } 4 0 = false := by
  decide +kernel

theorem witness_UploadAndTrigger_refused : ∃ e, uploadPart (opened leafK) 0 (word (1 :: upload)) = .error e := err_of (by decide +kernel)

/-- A trigger of graph 1. -/
def trigger : List Word := [2 ^ 48, 0, 0, 0, 0, 0, 0, 0]

/-- The graph of three nodes and its run, in a state. -/
def graphed (p : Part) (r : GraphRun) (ts : SMap Task) (e : Nat) : State :=
  { opened e with
    parts := [(1, p)]
    runs := [(1, r)]
    tasks := ts
    nextTask := 9
    tiles := [(0, { Tile.reset with task := some 0, core := { Core.reset with run := .running } })]
    now := 4 }

theorem witness_UploadAndTrigger_trigger :
    let s := graphed (graph 0) ⟨0, .idle, [trigger ++ [0]]⟩ [] leafK
    trigger.length = 8 ∧ bits (word trigger 0) 63 48 = 1 ∧ (part s 0 1).isSome = true ∧ graphWhole s 1 = true ∧ triggerBad (word trigger) = false ∧
      (runOf s 1).pending.length < 4 ∧ (runOf s 1).pending = [trigger ++ [0]] ∧ (runOf s 1).phase = .idle ∧
      ((trigger ++ [(0 : Word)]).getD 8 0).toNat = 0 ∧ bits ((trigger ++ [(0 : Word)]).getD 0 0).toNat 47 44 = 0 := by
  decide +kernel

/-- Node 0 of a kind, that may fire, before the end. -/
def fires (k : NodeKind) : Part :=
  ⟨1, 0x40000, 1, [(0, ⟨k, 0, 1, 0, 0, false, 0, 0, 0, 0⟩), (2, ⟨.endNode 0, 1, 0, 1, 0, false, 0, 0, 0, 0⟩)], [(0, 2)]⟩

def mayFire (k : NodeKind) : Bool :=
  let s := graphed (fires k) ⟨1, .going, []⟩ [] leafK
  decide (part s 0 1 = some (fires k)) && decide (ctxAt s (fires k).ctx = some ctx1) &&
    decide (lookup (fires k).nodes 0 = some ⟨k, 0, 1, 0, 0, false, 0, 0, 0, 0⟩) && !isQuorum k && decide ((runOf s 1).phase = .going)

theorem witness_NodesFire_launch :
    let s0 := graphed (fires (.launch 0 1 2 0 3)) ⟨1, .going, []⟩ [] leafK
    let s := { s0 with mem := writeN s0.mem 0x30008 8 0x40000 }
    mayFire (.launch 0 1 2 0 3) = true ∧ (((readDesc (markFired s 0 1 0) 0 ctx1 0).2.toOption).map (fun e => decide (e.dinc < 2 ^ 32) && e.ctx == ctx1.pa)) = some true ∧
      ctxAt (readDesc (markFired s 0 1 0) 0 ctx1 0).1 ctx1.pa = some ctx1 := by
  decide +kernel

def semAt (k : NodeKind) (marked wr : Bool) : Access × State :=
  let s := graphed (fires k) ⟨1, .going, []⟩ [] leafK
  semCheck (if marked then markFired s 0 1 0 else s) 0 ctx1 8 wr

theorem witness_NodesFire_others :
    mayFire (.join 0 0 0 0 0 0) = true ∧
      mayFire (.signal 8 5 4) = true ∧ semAt (.signal 8 5 4) true true = (.ok 0x30008 leafK, (semAt (.signal 8 5 4) true true).2) ∧
      mayFire (.wait 8 0) = true ∧ semAt (.wait 8 0) false false = (.ok 0x30008 leafK, (semAt (.wait 8 0) false false).2) ∧
      mayFire (.endNode 8) = true ∧ semAt (.endNode 8) true true = (.ok 0x30008 leafK, (semAt (.endNode 8) true true).2) ∧
      runTasks (graphed (fires (.endNode 8)) ⟨1, .going, []⟩ [] leafK) 1 = [] := by
  decide +kernel

/-- The join of `graph`, in its state and with its arrivals. -/
def quorumGraph (q qset : Nat) (tgt n : Nat) : Part :=
  { graph q with nodes := [(0, ⟨.launch 0 0 0 0 0, 0, 1, 0, 0, true, 0, 0, 0, 0⟩),
    (1, ⟨.join 2 1 4 0 tgt n, 1, 1, 1, 0, false, qset, qset, q, 0⟩), (2, ⟨.endNode 0, 2, 0, 1, 0, false, 0, 0, 0, 0⟩)] }

def closing (q qset : Nat) (ts : SMap Task) (ph : RunPhase) (n : Nat) : State := graphed (quorumGraph q qset 0 n) ⟨1, ph, []⟩ ts leafK

def stragglers (s : State) (qset : Nat) : List (Nat × Nat) :=
  (List.range (preds s 1 0 1).length).filterMap (fun i => if bitOf qset i then none else (preds s 1 0 1)[i]?)

theorem witness_QuorumJoins_close :
    let s := closing 1 0 [(0, nodeTask)] .going 0
    let r := closing 1 0 [(0, { nodeTask with state := .ready })] .going 0
    let whole := closing 1 1 [] .going 0
    (nodeAt s 0 1 1 = some ⟨.join 2 1 4 0 0 0, 1, 1, 1, 0, false, 0, 0, 1, 0⟩) ∧ isQuorum (.join 2 1 4 0 0 0) = true ∧ 0 + 4 ≤ s.now ∧
      stragglers s 0 = [(0, 0)] ∧ taskAtNode s 0 1 0 = some (0, nodeTask) ∧ nodeTask.state = .running ∧ (∀ a ∈ gangOf nodeTask, (core s a).run ≠ .reeve true) ∧
      taskAtNode r 0 1 0 = some (0, { nodeTask with state := .ready }) ∧ nodeTask.d.done = 0 ∧ lookup r.tasks 0 = some { nodeTask with state := .ready } ∧
      stragglers whole 1 = [] ∧ nodeAt whole 0 1 1 = some ⟨.join 2 1 4 0 0 0, 1, 1, 1, 0, false, 1, 1, 1, 0⟩ := by
  decide +kernel

/-- Without a target every fill succeeds; a target whose partials lie beyond the page fails. -/
theorem witness_QuorumJoins_fill :
    let s := closing 2 1 [] .going 0
    let f0 := closing 2 1 [] .going 1
    let f := { f0 with mem := writeN (writeN f0.mem 0x30008 8 0x10000) 0x30020 8 (1 * 2 ^ 32 + FP32 * 2 ^ 24) }
    part s 0 1 = some (quorumGraph 2 1 0 0) ∧ ctxAt s 0x40000 = some ctx1 ∧ (∀ q ∈ stragglers s 1, contributorOver s 1 q = true) ∧
      (∀ q ∈ preds s 1 0 1, publishing s 1 (0, 1) q = false) ∧ fillTargets s 0 ctx1 0 0 = (s, some []) ∧ (runOf s 1).phase = .going ∧
      ([] : List FillTarget).foldl (fillOne 0 ctx1 0 2 1 [0]) (s, true) = (s, true) ∧
      fillTargets f 0 ctx1 0 1 = ((fillTargets f 0 ctx1 0 1).1, some [⟨0, 0x10000, 0, 0, 1, FP32⟩]) ∧
      [(⟨0, 0x10000, 0, 0, 1, FP32⟩ : FillTarget)].foldl (fillOne 0 ctx1 0 2 1 [0]) ((fillTargets f 0 ctx1 0 1).1, true) =
        (([(⟨0, 0x10000, 0, 0, 1, FP32⟩ : FillTarget)].foldl (fillOne 0 ctx1 0 2 1 [0]) ((fillTargets f 0 ctx1 0 1).1, true)).1, false) := by
  decide +kernel

theorem witness_QuorumJoins_stranded :
    let s := closing 0 0 [] .going 0
    let t := closing 0 0 [] .stranded 0
    (runOf s 1).phase = .going ∧ quorumLost s 1 = true ∧ (part s 0 1).isSome = true ∧ (runOf t 1).phase = .stranded ∧ runTasks t 1 = [] := by
  decide +kernel

def queued : State :=
  let s := opened leafK
  let y := { Die.reset 0 with up := true, queues := [(2, ⟨[⟨0, 0x40000, 1, 5⟩], 6, true⟩)] }
  { s with mem := writeN s.mem 0x30008 8 0x40000, dies := [(0, y)] }

/-- A task that is ready, two tiles wide, in class 2 since cycle 0. -/
def readyTask : Task := { placedTask with state := .ready, gw := 2, cls := 2, ctx := ctx1, d := { placedTask.d with image := 0x1000 } }

def waiting1 : State := { opened leafK with tasks := [(3, readyTask)], now := 2 ^ 20, nextTask := 4 }

theorem witness_ReadyTasksArePlaced :
    (queueOf queued 0 2).entries = [⟨0, 0x40000, 1, 5⟩] ∧ (queueOf queued 0 2).clear = true ∧ ctxAt queued 0x40000 = some ctx1 ∧
      (let s0 := putQueue queued 0 2 { queueOf queued 0 2 with entries := [], clear := false }
       (((readDesc s0 0 ctx1 0).2.toOption).map (fun e => decide (e.dinc < 2 ^ 32) && e.ctx == ctx1.pa)) = some true ∧
         ctxAt (readDesc s0 0 ctx1 0).1 ctx1.pa = some ctx1) ∧
      lookup waiting1.tasks 3 = some readyTask ∧ readyTask.state = .ready ∧ 0 < readyTask.cls ∧ readyTask.since + 2 ^ 20 ≤ waiting1.now ∧
      (∀ e ∈ waiting1.tasks, e.2.state = .ready → e.2.die = readyTask.die → comesBefore e (3, readyTask) = true →
        lowestFit waiting1 e.2 (tileFree waiting1) = none) ∧
      lowestFit waiting1 readyTask (tileFree waiting1) = some 0 := by
  decide +kernel

/-- An image at VA 0x1000: every register, no code but one word, EXIT. -/
def imaged (s : State) : State :=
  { s with mem := writeN (writeN (writeN s.mem 0x31000 8 (2 ^ 63 + 2 ^ 56)) 0x31018 8 (2 ^ 50)) 0x31040 8 0x5C00000000000000 }

def starts : State := imaged { opened leafK with tasks := [(3, { readyTask with state := .placed })] }

/-- The CSTART descriptor at PA 0x50000: the image, the context. -/
def cstarts : State :=
  let s := imaged (opened leafK)
  { s with mem := writeN (writeN s.mem 0x50000 8 0x1000) 0x50008 8 0x40000 }

theorem witness_TasksStartAndEnd_start :
    let k : Task := { readyTask with state := .placed }
    lookup starts.tasks 3 = some k ∧ (∀ a ∈ gangOf k, (tile starts a).task = none ∧ (tile starts a).preload = none) ∧
      k.origin = .queue 0 0 0 ∧ (gangOf k).Nodup ∧ gangOf k ≠ [] ∧
      (((readImage starts k.die k.ctx k.d.image).2.toOption).map (fun im => (im.hdr.killable, im.hdr.cwords, readN im.c 0 8, im.secs.length))) =
        some (k.d.kill, 1, 0x5C00000000000000, 0) ∧ k.d.plist = 0 := by
  decide +kernel

theorem witness_TasksStartAndEnd_cstart :
    let s := cstarts
    let g := fun (i : Nat) => readN s.mem (0x50000 + 8 * i) 8
    hostOpen s = true ∧ s.dev.featLock = true ∧ (tile s (256 + 5)).task = none ∧ (tile s (256 + 5)).preload = none ∧ bits (g 5) 63 57 = 0 ∧
      bits (g 5) 55 32 = 0 ∧ g 7 = 0 ∧ ctxAt s (g 1) = some ctx1 ∧ (((readImage s 4 ctx1 (g 0)).2.toOption).map (fun im => seqHeader im.hdr)) = some true ∧
      (((readImage s 4 ctx1 (g 0)).2.toOption).map (fun im => (writeGlobals (readImage s 4 ctx1 (g 0)).1 4 ctx1 im.secs).2)) = some none := by
  decide +kernel

/-- A task whose one tile has exited. -/
def exited (k : Task) : State :=
  { graphed (graph 0) ⟨1, .going, []⟩ [(0, k)] leafK with
    tiles := [(0, { Tile.reset with task := some 0, core := { Core.reset with run := .exited, dirty := [(0x30000, 7)] } })] }

theorem witness_TasksStartAndEnd_end :
    let s := exited nodeTask
    lookup s.tasks 0 = some nodeTask ∧ nodeTask.state = .running ∧ (∀ a ∈ gangOf nodeTask, tileDone s a = true) ∧ nodeTask.origin = .node 0 1 0 1 ∧
      nodeTask.killed = none ∧ nodeTask.d.done = 0 ∧ (part s 0 1).isSome = true ∧ gangOf nodeTask = [0] ∧ (core s 0).run = .exited ∧
      ((core s 0).dirty.map (·.1)).Nodup ∧
      (let k : Task := { nodeTask with killed := some (0x0F, .kill), d := { nodeTask.d with restart := true }, hdr := { Header.full with killable := true } }
       k.killed = some (0x0F, .kill) ∧ k.d.restart = true ∧ k.hdr.killable = true ∧ (∀ a ∈ gangOf k, tileDone (exited k) a = true) ∧
         (runOf (exited k) 1).phase ≠ .stranded) := by
  decide +kernel

theorem witness_PreloadsKillsAndSaves_preload :
    let s := imaged { opened leafK with
      tasks := [(0, placedTask), (3, { readyTask with gw := 1 })]
      tiles := [(0, { Tile.reset with task := some 0, core := { Core.reset with run := .running } })] }
    let k : Task := { readyTask with gw := 1 }
    lookup s.tasks 3 = some k ∧ k.state = .ready ∧ lowestFit s k (fun a => (taskOf s a).isSome && (tile s a).preload.isNone) = some 0 ∧
      ((readImage s k.die k.ctx k.d.image).2.toOption).isSome = true ∧ k.d.plist = 0 ∧ (rect k.die 0 k.gw k.gh).Nodup ∧ rect k.die 0 k.gw k.gh = [0] ∧
      (tile s 0).reed.slots = [] ∧ taskOf (readImage s k.die k.ctx k.d.image).1 0 = some placedTask ∧ placedTask.d.image ≠ k.d.image := by
  decide +kernel

/-- A task with a budget of 10, all counted, whose context has save slots. -/
def spent (kill : Bool) (st : TaskState) : Task :=
  { nodeTask with state := st, counted := 10, d := { nodeTask.d with budget := 10 }, hdr := { Header.full with killable := kill }
                  ctx := { ctx1 with nslot := 2, savesz := 255 } }

def spentState (kill : Bool) : State :=
  { State.reset with
    tasks := [(0, spent kill .running)]
    tiles := [(0, { Tile.reset with task := some 0, killAt := some 0, preemptAt := some 0, core := { Core.reset with run := .running } })]
    now := 2 ^ 22 }

theorem witness_PreloadsKillsAndSaves_kill :
    ∀ kill, let s := spentState kill
      let k := spent kill .running
      lookup s.tasks 0 = some k ∧ k.state = .running ∧ k.killed = none ∧ k.overrun = false ∧ k.d.budget ≠ 0 ∧ k.d.budget ≤ k.counted ∧
        k.hdr.killable = kill ∧ (∀ a ∈ gangOf k, killable (core s a).wait = true) ∧ 0 ∈ gangOf k ∧ (tile s 0).killAt = some 0 ∧
        0 + 2 ^ (die s k.die).pgrace ≤ s.now ∧ preemptible s k = true ∧ (gangOf k).Nodup ∧ (tile s 0).preemptAt = some 0 ∧
        (∀ b ∈ gangOf k, stopped s b = false ∧ killable (core s b).wait = true) ∧ syncPending s (gangOf k) = false ∧
        (freeSlots s k.ctx (gangOf k).length).length = (gangOf k).length := by
  decide +kernel

theorem witness_PreloadsKillsAndSaves_resume :
    let k : Task := { spent false .suspended with saved := [(0, Tile.reset)], slots := [0] }
    let s := { State.reset with tasks := [(0, k)] }
    lookup s.tasks 0 = some k ∧ k.state = .suspended ∧ k.killed = none ∧ k.ovf = [] ∧ k.ovfLost = [] ∧ (gangOf k).Nodup ∧
      (∀ a ∈ gangOf k, (tile s a).task = none ∧ placedOn s a = none) ∧ lookup k.saved 0 = some Tile.reset := by
  decide +kernel

/-! ### The collective die and the host -/

/-- A group: a format, one block, two contributors, need 1, its results to tile 5 of die 0. -/
def groupWords (f : Nat) : List Word :=
  [BitVec.ofNat 64 (2 ^ 63 + f * 2 ^ 52 + 2 ^ 30 + 2), BitVec.ofNat 64 (2 * 2 ^ 32 + 1), 77, 0, BitVec.ofNat 64 (2 ^ 63 + 5 * 2 ^ 34), 0, 0, 0]

/-- 32 elements of FIX64 for the end of block 0, from contributor c in round r. -/
def lastBurst (c r : Nat) : Burst := ⟨77, FIX64, 2, 0, 32, false, false, false, c, 1, [480, r], [1, 2, 3, 4], 0, []⟩

def grouped (x : Group) (b : Burst) : State :=
  { State.reset with dev := { Dev.reset with stage := .up, groups := [(3, x)] }, transit := [⟨64, 1027, 1, 0, 0, b, 0, none, 0⟩]
                     dies := [(1, { Die.reset 1 with up := true }), (4, { Die.reset 4 with up := true })] }

/-- The group armed, with the first 480 elements of contributor 0's block. -/
def holding : Group := { Group.empty with desc := groupWords FIX64, armed := true, held := (List.range 480).map (fun j => (j, heldMark + j)) }

theorem witness_SwitchGroupsFold_arm :
    let s := { State.reset with dev := { Dev.reset with stage := .up } }
    s.dev.d3hot = false ∧ (groupWords FIX64).length = 8 ∧ ((groupWords FIX64).getD 0 0).getLsbD 63 = true ∧ (switchGroup s 3).armed = false ∧
      descOk (groupWords FIX64) = true ∧ memoryTaken s 3 (groupWords FIX64) = false ∧ feature s 9 = true ∧
      (switchGroup (grouped holding (lastBurst 0 0)) 3).armed = true ∧ ((0 :: (groupWords FIX64).drop 1).getD 0 0).getLsbD 63 = false := by
  decide +kernel

theorem witness_SwitchGroupsFold_cases :
    let s := grouped holding (lastBurst 0 0)
    let y : Transit := ⟨64, 1027, 1, 0, 0, lastBurst 0 0, 0, none, 0⟩
    s.transit[0]? = some y ∧ y.dst = 1024 + 3 ∧ y.due ≤ s.now ∧ overtakes s.transit 0 y = false ∧ diePath s (dieOf 64) 4 = true ∧
      switchCase 0 holding (lastBurst 2 0) = .dup ∧ switchCase 0 holding (lastBurst 0 255) = .late ∧ switchCase 0 holding (lastBurst 0 1) = .early ∧
      switchCase 0 holding (lastBurst 0 0) = .held ∧ switchCase 0 holding (lastBurst 1 0) = .held ∧ gFmt holding.desc = FIX64 ∧
      (holding.held.filter (fun e => e.1 / 4096 == 0)).length + (burstElems (lastBurst 0 0)).length = 512 ∧
      (holding.held.filter (fun e => e.1 / 4096 == 65536)).length + (burstElems (lastBurst 1 0)).length < 512 := by
  decide +kernel

theorem witness_SwitchGroupsFold_whole :
    (holding.held.map (·.1)).Pairwise (· < ·) ∧
      (∀ e ∈ burstElems (lastBurst 0 0), lookup holding.held (0 * 4096 + ((lastBurst 0 0).coords.getD 0 0 + e.1.j) % 512) = none) ∧
      (burstElems (lastBurst 0 0)).Pairwise (fun e f => (480 + e.1.j) % 512 ≠ (480 + f.1.j) % 512) := by
  decide +kernel

theorem witness_SwitchRoundsAndDeviceFlows_rounds :
    let x := { holding with weight := 1, st := 1 }
    let m := { holding with st := 3 }
    let r := descWord m.desc 4
    roundDue (grouped x (lastBurst 0 0)).now (switchGroup (grouped x (lastBurst 0 0)) 3) = true ∧ m.armed = true ∧ m.st = 3 ∧ m.sent = 0 ∧ bitOf r 63 = true ∧
      descWord m.desc 5 = 0 ∧ descWord m.desc 6 = 0 ∧ descWord m.desc 3 = 0 ∧ gFmt m.desc = FIX64 ∧ gFill m.desc = 0 ∧
      rect (bits r 42 40) (bits r 39 34) (bits r 33 31 + 1) (bits r 30 28 + 1) = [5] := by
  decide +kernel

def aDevBurst (seq : Nat) : DevBurst := ⟨9, 1, seq, 1, 0, 0, 0, 0, none, lastBurst 0 0⟩

theorem witness_SwitchRoundsAndDeviceFlows_flows :
    let s := { State.reset with dev := { Dev.reset with stage := .up, flows := [⟨9, 1, 4, 2, [(3, aDevBurst 3)], [], none⟩] } }
    let f := findFlow s.dev.flows 9 1
    f.kept.find? (fun e => e.1 == 3) = some (3, aDevBurst 3) ∧ f.recv < 2 ^ 48 ∧ f.wait = [] ∧ (aDevBurst 2).seq = f.recv ∧
      f.recv < (aDevBurst 3).seq ∧ (aDevBurst 3).seq < f.recv + 2 ^ 47 ∧ (aDevBurst 1).seq < f.recv ∧ f.recv < (aDevBurst 1).seq + 2 ^ 47 := by
  decide +kernel

/-- A command word for tile 0 of die 0 in context 1. -/
def command (op : Nat) : Word := BitVec.ofNat 64 (op * 2 ^ 60 + 2 ^ 39)

/-- A device that is up, tile 0 in a state of running. -/
def commanded (r : Run) : State :=
  { opened leafK with
    tasks := [(0, spent false .running)]
    tiles := [(0, { Tile.reset with task := some 0, core := { Core.reset with run := r } })] }

theorem witness_HostCommandsAndRegisters_commands :
    ∀ r ∈ [Run.reeve true, Run.halted], let s := commanded r
      let k := spent false .running
      hostOpen s = true ∧ bits (command 1).toNat 38 0 = 0 ∧ bits (command 1).toNat 59 57 < 4 ∧ 64 * bits (command 1).toNat 59 57 + bits (command 1).toNat 56 51 = 0 ∧
        taskOf s 0 = some k ∧ (tile s 0).task = some 0 ∧ k.ctx.id = bits (command 1).toNat 50 39 ∧
        ((core s 0).run = .reeve true ∨ (core s 0).run = .halted) ∧ bits (command 1).toNat 63 60 = 1 ∧ bits (command 2).toNat 63 60 = 2 ∧
        bits (command 3).toNat 63 60 = 3 ∧ lookup s.tasks 0 = some k ∧ preemptible s k = true ∧ 0 ∈ gangOf k ∧ k.hdr.killable = false ∧
        killable (core s 0).wait = true ∧ killable (.phase .phase) = false ∧ bits (command 1 + 1).toNat 38 0 ≠ 0 ∧ k.ctx.id ≠ bits (command 1 + 2 ^ 39).toNat 50 39 := by
  decide +kernel

theorem witness_HostCommandsAndRegisters_registers :
    let s := opened leafK
    let big : Nat := 2 ^ 63 + 2 ^ 21
    hostOpen s = true ∧ 6 ≤ bits 6 4 0 ∧ bits 20 4 0 ≤ 20 ∧ s.dev.evheld = [] ∧ s.dev.evlost < 65536 ∧ bits big 62 36 = 0 ∧ bits big 15 0 = 0 ∧
      bits big 20 16 = 0 ∧ (die s 0).free2m.length < 256 ∧ (die s 0).free64.length < 1024 ∧ bits (2 ^ 36) 62 36 ≠ 0 ∧ bits 1 15 0 ≠ 0 ∧
      bits (2 ^ 52 + 0x10001) 63 52 ≠ 0 ∧ bits (2 ^ 52 + 0x10001) 5 1 = 0 ∧ bits 0x10001 63 52 = 0 ∧ s.dev.featLock = true ∧ State.reset.dev.featLock = false ∧
      hostOpen { State.reset with dev := { Dev.reset with stage := .up } } = true := by
  decide +kernel

theorem witness_HostMemoryAccesses :
    let s0 := opened leafK
    let s := { s0 with dev := { s0.dev with sempa := 2 ^ 20, attest := [1] }, mem := writeN s0.mem (2 ^ 20 + 0xFFFE0) 8 0x3000 }
    let odd := { s with mem := writeN s.mem (2 ^ 20 + 0xFFFE0) 8 0x3001 }
    let buf := readN s.mem (s.dev.sempa + 0xFFFE0) 8
    hostOpen s = true ∧ 0xFFFF8 % 8 = 0 ∧ 0xFFFF8 < 2 ^ 20 ∧ s.dev.sempa + 0xFFFF8 + 8 ≤ 2 ^ 38 ∧ s.dev.sempa + 2 ^ 20 ≤ 2 ^ 38 ∧ s.dev.attest = 1 :: [] ∧
      buf % 4096 = 0 ∧ buf + 8192 < 2 ^ 52 ∧ s.dev.evbase.toNat % 2 = 0 ∧ readN odd.mem (odd.dev.sempa + 0xFFFE0) 8 % 4096 ≠ 0 ∧
      2 ^ 38 - 4 + ([1, 2, 3, 4] : List Byte).length ≤ 2 ^ 38 ∧ hostOpen State.reset = false := by
  decide +kernel

/-! ### Faults, repairs, power -/

theorem witness_FaultsAndLinks :
    let s := { spentState false with tiles := [(0, { Tile.reset with task := some 0, stalled := 2 ^ 24 })] }
    taskOf s 0 = some (spent false .running) ∧ (die s (dieOf 0)).quaglim ≠ 0 ∧ (tile s 0).reported = false ∧ 2 ^ (die s (dieOf 0)).quaglim ≤ (tile s 0).stalled ∧
      (die s (dieOf 0)).spares ≠ 0 ∧ (die { s with dies := [(0, { Die.reset 0 with spares := 0 })] } 0).spares = 0 ∧ (tile s 0).task = some 0 ∧
      lookup s.tasks 0 = some (spent false .running) ∧ 7 ∉ s.dev.failedLinks ∧ getAt 2 s.dev.spareLanes 7 ≠ 0 ∧
      8 ∉ s.dev.failedLinks ∧ 31 ∉ s.dev.failedLinks ∧
      (let v := { Dev.reset with routes := [5], flows := [⟨5, 0, 1, 0, [], [], some 0⟩] }
       5 ∉ v.lost ∧ (⟨5, 0, 1, 0, [], [], some 0⟩ : Flow) ∈ v.flows ∧ 0 + 2 ^ 32 ≤ ({ s with now := 2 ^ 32, dev := v } : State).now ∧ 5 ∈ v.routes) := by
  decide +kernel

theorem witness_ResetsAndPower :
    State.reset.dev.stage = .off ∧ (opened leafK).dev.stage ≠ .off ∧
      1800 ∈ [3600, 3000, 2400, 1800] ∧ 1800 ≠ (opened leafK).dev.mhz ∧ (opened leafK).dev.stage = .up ∧
      (∀ e ∈ (opened leafK).tasks, e.2.state = .ended) ∧ (∀ r ∈ (opened leafK).runs, r.2.phase = .idle) ∧
      ({ State.reset with dev := { Dev.reset with d3hot := true } } : State).dev.d3hot = true := by
  decide +kernel

/-! ### The machine as a whole -/

theorem ok_is {α : Type} {r : Except DecodeError α} {a : α} (h : okOf r = some a) : r = .ok a := by
  cases r <;> simp_all [okOf]

/-- Tile 0 with an ADD, an MNOP, an XNOP and a pair of no-operations to come. -/
def allUnits (agenda : List Turn) : State :=
  { onTile { Tile.reset with
      banks := { Banks.reset with cA := writeN [] 0 8 0x0000C10800000000 }
      mat := { Mat.reset with run := some (aRun 0) }
      mov := { Mov.reset with run := some (aRun 0) }
      vec := { Vec.reset with run := some (aRun 0) } } with agenda := agenda }

theorem witness_StepRunsTheDecodedUnit :
    let s := allUnits []
    syncNow s = none ∧ (∀ k, taskOf s 0 = some k → k.killed = none) ∧ (core s 0).run = .running ∧ (core s 0).async = [] ∧ eventWait (core s 0).wait = false ∧
      (core s 0).pc < 8192 ∧ decodeAt s 0 0 = .ok (.add ⟨g0, 3, 1, 2⟩) ∧ s.focus = .core 0 ∧ (tile s 0).mat.push = none ∧ (tile s 0).mat.parked = false ∧
      (tile s 0).mat.run = some (aRun 0) ∧ (aRun 0).stop = false ∧ (tile s 0).mat.busy = [] ∧ atSafept (core s 0).wait = false ∧
      decodeM (fetchM s 0 0) = .ok (.mnop m0) ∧ (tile s 0).mov.push = none ∧ (tile s 0).mov.parked = none ∧ (tile s 0).mov.busy = none ∧
      decodeX (fetchX s 0 0) = .ok (.xnop x0) := by
  decide +kernel

def noPair : Pair := ⟨.knop ⟨vg0⟩, .vnop ⟨vc0⟩, vg0, noTok⟩

theorem witness_StepRunsTheDecodedUnit_vector :
    let s := allUnits [.vector 0]
    let s' := { s with agenda := [], cur := 0 }
    (tile s 0).vec.push = none ∧ (tile s 0).vec.flight = [] ∧ (tile s 0).vec.trapped = false ∧ (tile s 0).vec.run = some (aRun 0) ∧
      (tile s 0).vec.draining = false ∧ decodeV (fetchV s 0 0) = .ok noPair ∧ rankOf 0 s' (exec noPair.k s') = none ∧ rankOf 0 s' (exec noPair.v s') = none ∧
      tokensFor (tile s 0).fifo (popsOf noPair.tok) = true ∧ encode (.scrub 0 false) = .event ∧
      syncNow ({ s with sync := [⟨1, 0, 0, 0, aBurst, 0, 0, 0, [(0, 0)]⟩] } : State) = some 0 := by
  decide +kernel

theorem witness_DecodingInvertsEncoding :
    (Instr.add ⟨g0, 3, 1, 2⟩).WellFormed ∧ encode (.add ⟨g0, 3, 1, 2⟩) = .c [0x0000C10800000000] ∧ (Instr.mnop m0).WellFormed ∧
      (encode (.mnop m0)) = .m 0 ∧ (Instr.xnop x0).WellFormed ∧ encode (.xnop x0) = .x 0 ∧ (Instr.knop ⟨vg0⟩).WellFormed ∧ (Instr.vnop ⟨vc0⟩).WellFormed ∧
      kguard (.knop ⟨vg0⟩) = some noPair.g ∧ encode (.knop ⟨vg0⟩) = .k 0 ∧ encode (.vnop ⟨vc0⟩) = .v 0 ∧ decodeC 0x0000C10800000000 0 0 0 = .ok (.add ⟨g0, 3, 1, 2⟩) ∧
      decodeM 0 = .ok (.mnop m0) ∧ decodeX 0 = .ok (.xnop x0) ∧ decodeV 0 = .ok noPair := by
  decide +kernel

theorem witness_DecodingInvertsEncoding_safept :
    ∃ o w w1 w2 w3, encode (.safept o) = .c [w, w1, w2, w3] ∧ (Instr.safept o).WellFormed ∧ decodeC w w1 w2 w3 = .ok (.safept o) :=
  ⟨⟨0xF, 5, 6, 7, 1⟩, _, _, _, _, rfl, by decide +kernel, ok_is (by decide +kernel)⟩

theorem witness_StepKeepsMemoryCanonical :
    Canonical State.reset ∧ step (allUnits [.core 0]) = .next (out (step (allUnits [.core 0]))) ∧ Canonical (allUnits [.core 0]) := by
  repeat' first | exact next_of (by decide +kernel) | exact (by decide +kernel : Memory.wf _ = true) | constructor

theorem witness_StepsAnswerAndLocksHold :
    step (opened leafK) = .next (out (step (opened leafK))) ∧ (opened leafK).dev.featLock = true :=
  ⟨next_of (by decide +kernel), by decide⟩

/-! ## Further cases: one for each clause whose hypotheses the witnesses above do not meet -/

theorem witness_PrefetchAndAddressChecks_atomics :
    ∀ x ∈ [1, 0x100000], let s := s12 x 5
      Ready s [] [3, 1, 2] [1, 2] g0 ∧ Ready s [12] [3, 1, 2] [1, 2] g0 ∧ tokPending (core s 0) 3 = false ∧ (core s 0).resp = [] ∧
        (if x = 1 then effective s 1 (0 : BitVec 18) % 64 ≠ 0 ∧ effective s 1 (0 : BitVec 18) % 4 ≠ 0
         else effective s 1 (0 : BitVec 18) % 64 = 0 ∧ (hdr s 0).scratch < effective s 1 (0 : BitVec 18) + 4) := by
  intro x h
  fin_cases h <;> (repeat' first | decide +kernel | constructor)

theorem witness_WaitsAndSemaphores_pending :
    let s := onTile { Tile.reset with core := regs [] }
    let t := onTile { Tile.reset with reed := { Reed.reset with slots := [(31, ⟨none, none, 9, true, 7, false, false, false⟩)] }, core := { regs [] with mapTok := [(5, 31)], tok := 32 } }
    Ready s [] [0] [] g0 ∧ Ready s [] [63] [] g0 ∧ (31 : Fin 32).val < (hdr s 0).maps ∧ isSeq s.cur = false ∧ tokPending (core s 0) 63 = false ∧
      tokPending (core s 0) 0 = false ∧ (slotOf s 0 31).ready = false ∧
      (core t 0).mapTok = [(5, 31)] ∧ (slotOf t 0 31).ready = true ∧ (core t 0).wait ≠ .mapwait 31 := by
  repeat' first | decide +kernel | constructor

theorem witness_WaitsAndSemaphores_home :
    let s := paged 2 (regs [(1, 0), (2, 5)])
    Ready s [] [1, 2] [1, 2] g0 ∧ effective s 1 (8 : BitVec 25) % 8 = 0 ∧
      translate s 0 false (ctxOf s 0) 8 false = (.ok 0x30008 (leaf 2), (tr s 8 false).2) ∧ ((hdr s 0).killable = false → eW (leaf 2) = true ∧ eClass (leaf 2) = 2) ∧
      SemReadable (tr s 8 false).2 0 0x30008 ∧ readN (tr s 8 false).2.mem 0x30008 8 < (sreg s 2).toNat ∧
      SemReadable (waitsAt (.semwait 8 0x30008 0 .dev)) 0 0x30008 ∧ unroutedAt (tr s 8 true).2 0x30008 = none ∧ (∀ q ∈ (core s 0).co, q.ans ≠ none) := by
  repeat' first | decide +kernel | exact tr_eq (by decide +kernel) | constructor

/-- Tile 1 of the gang waits at barrier 3; tile 0 stands at its GBAR. -/
def lastToCome : State :=
  let t : Tile := { Tile.reset with task := some 0, bars := [(3, 1)], arrived := [0], core := { Core.reset with run := .running, wait := .gbar 3 } }
  { gangOfTwo with tiles := [(0, { Tile.reset with task := some 0, core := { Core.reset with run := .running } }), (1, t)] }

theorem witness_BarriersStepsSafePoints_last :
    let s := lastToCome
    Ready s [] [] [] g0 ∧ (3 : Fin 4).val < (hdr s 0).barriers ∧ isSeq s.cur = false ∧ s.sync = [] ∧ (gang s 0).Nodup ∧ s.cur ∈ gang s 0 ∧
      (tile s 0).arrived.contains (core s 0).pc = false ∧ (∀ q ∈ (core s 0).co, q.ans ≠ none) ∧
      (∀ b ∈ gang s 0, stepGoing s b = false ∧ (b ≠ 0 → gang s b = gang s 0 ∧ (core s b).wait = .gbar 3 ∧ arrivals s b 3 = arrivals s 0 3 + 1)) ∧
      stepGoing (s12 0 0) 0 = false ∧ (∀ b ∈ gang gangOfTwo 0, gang gangOfTwo b = gang gangOfTwo 0 ∧ (hasExited gangOfTwo b = true ∨ stepGoing gangOfTwo b = false)) := by
  repeat' first | decide +kernel | constructor

theorem witness_BarriersStepsSafePoints_going :
    let s := onTile { Tile.reset with core := { regs [] with afterGbar := true }, stepOpen := some ⟨0, 4, 0⟩ }
    Ready s [7] [] [] g0 ∧ isSeq s.cur = false ∧ (core s 0).afterGbar = true ∧ s.sync = [] ∧ stepGoing s 0 = true ∧
      stepGoing (cpu { regs [] with afterGbar := true }) 0 = false := by
  repeat' first | decide +kernel | constructor

def isClosed (s : State) (gid jd jn : Nat) (n : Node) : Bool := match n.kind with
  | .join _ _ grace _ _ _ => decide (n.graceAt + grace ≤ s.now) || n.qset == 2 ^ (preds s gid jd jn).length - 1
  | _ => false

theorem witness_ArrivalAndExit_closed :
    let s := joined 1 { regs [] with wait := .qask 0 1 9 false }
    let late := { s with now := 4 }
    let again := { s with tasks := [(0, { nodeTask with arrivedAt := [1] })] }
    nodeTask.arrivedAt.contains (0 * 65536 + 1) = false ∧ (nodeAt s 0 1 1).map (isClosed s 1 0 1) = some false ∧
      (nodeAt late 0 1 1).map (isClosed late 1 0 1) = some true ∧ ((nodeAt late 0 1 1).map (·.qst)) = some 1 ∧ (core again 0).wait = .qask 0 1 9 false ∧
      (tile again 0).task = some 0 ∧ (lookup again.tasks 0).map (·.arrivedAt.contains (0 * 65536 + 1)) = some true ∧
      (lookup again.tasks 0).map (·.origin) = some (.node 0 1 0 1) := by decide +kernel

theorem witness_AsynchronousTraps_policies :
    (lookup (trapped 1 6).tasks 0).map (·.killed) = some none ∧
      (let s := trapped 0 0x10; (core s 0).run = .reeve false ∧ (core s 0).trapCause.toNat = 0x10 ∧ killDue s 0 = false) ∧
      (let c := (core (trapped 0 6) 0).trapCause.toNat; c ≠ 0x10 ∧ c ≠ 0x14 ∧ c ≠ 0x0F) := by decide +kernel

theorem witness_SystemRegistersAndTlbs_readOnly :
    let s := lastToCome
    (tile s 1).task = some 0 ∧ (lookup s.tasks 0).isSome = true ∧ (lookup s.tasks 0).map (fun k => (gangOf k)[1]?) = some (some 1) ∧
      (lookup s.tasks 0).map (fun k => decide (gangOf k).Nodup) = some true ∧
      ((tile readySlot 0).reed.slots.map (·.1)).Pairwise (· < ·) ∧ (sysRead readySlot 0 0x061).isSome = true := by decide +kernel

theorem witness_SystemRegistersAndTlbs_unlisted :
    let u := s12 7 2
    let y := { State.reset with tiles := [(272, { Tile.reset with core := regs [(1, 5)] })], cur := 272 }
    Ready u [] [1] [1] g0 ∧ (core u 0).resp = [] ∧ isReeve u.cur = false ∧ (0x000 : BitVec 12).toNat = 0 ∧ (0xFFF : BitVec 12).toNat = 0xFFF ∧
      Ready y [] [1] [1] g0 ∧ isReeve y.cur = true ∧ (core y 272).resp = [] := by
  repeat' first | decide +kernel | constructor

theorem witness_SystemRegistersAndTlbs_replst :
    let s := fun (va : Word) => paged 1 { regs [] with replva := va }
    (∀ va ∈ [(0x20000 : Word), 8, 2 ^ 56], Ready (s va) [] [3] [] g0 ∧ tokPending (core (s va) 0) 3 = false ∧ (core (s va) 0).replva = va) ∧
      (walk (s 0x20000) 0 (ctxOf (s 0x20000) 0) 0x20000 true).1 = none ∧ (walk (s 8) 0 (ctxOf (s 8) 0) 8 true).1 = some (leaf 1) ∧
      eState (leaf 1) = 2 ∧ (region (s 8) ((eFrame (leaf 1) * 2 ^ 16 + 8 % pageBytes (eSize (leaf 1))) / 2 ^ 21)).deg < 4 ∧
      (let p := { s 8 with mem := pages (5 * 2 ^ 61 + 2 ^ 59 + 2 ^ 53 + 3 * 2 ^ 12) }
       ((walk p 0 (ctxOf p 0) 8 true).1.map eState) = some 5) := by
  refine ⟨?_, ?_⟩
  · intro va h
    fin_cases h <;> (repeat' first | decide +kernel | constructor)
  · decide +kernel

theorem witness_SystemRegistersAndTlbs_kind2 :
    let y := { State.reset with tiles := [(272, { Tile.reset with core := regs [(1, 5)] })], cur := 272 }
    Ready y [] [1] [1] g0 ∧ isReeve y.cur = true ∧ Ready (s12 7 2) [] [1] [1] g0 ∧ isReeve (s12 7 2).cur = false ∧ (core (s12 7 2) 0).resp = [] := by
  repeat' first | decide +kernel | constructor

theorem witness_VectorControlFlow_traps :
    ∀ k ∈ [Bank.none, .a], ∀ pc ∈ [9, 2047],
      let s := onTile { Tile.reset with vec := { Vec.reset with lc := [(0, 2)], run := some ⟨⟨0, 0, 0, 0, k⟩, pc, false⟩ } }
      SlotReady s [] [] vg0 noTok ∧ (vec s).run.isSome = true ∧ 1 < (getAt 0 (vec s).lc 0).toNat ∧
        (if pc = 9 then (vecPc (vec s) : Int) + (0xFF6 : BitVec 12).toInt < 0 else 2048 ≤ (vecPc (vec s) : Int) + (1 : BitVec 12).toInt) ∧
        (vec s).run = some ⟨⟨0, 0, 0, 0, k⟩, pc, false⟩ := by
  intro k hk pc hp
  fin_cases hk <;> fin_cases hp <;> (repeat' first | decide +kernel | constructor)

theorem witness_VectorFloats_halves :
    ∀ t ∈ [VType.bf16, .f16], t ≠ .f32 ∧ SlotReady (vecAt 0 [] [] 0) [] (31 :: 1 :: namesB (.reg 2)) vg0 noTok ∧
      SlotReady (vecAt 0 [] [] 0) [] (31 :: 1 :: namesB (.imm 0x3F80) ++ [3]) vg0 noTok := by
  intro t h
  fin_cases h <;> (repeat' first | decide +kernel | constructor)

theorem witness_ConversionsAndReductions_modes :
    ∀ r ∈ [RMode.rne, .rtz, .sr], SlotReady (vecAt 0 [] [] 0) (if r = .sr then [5] else []) [31, 1] vg0 noTok ∧
      SlotReady (vecAt 0 [] [] 0) (if r = .sr then [5] else []) [31, 1, 2] vg0 noTok ∧
      SlotReady (vecAt 0 [] [] 0) (3 :: if r = .sr then [5] else []) [31, 1] vg0 noTok ∧ VType.bf16 ≠ .f32 := by
  intro r h
  fin_cases h <;> (repeat' first | decide +kernel | constructor)

/-- A multiply of a number of passes and of trips, under way at a step, row and pass. -/
def going (kpass : Nat) (swap : Bool) (step : Quad Nat) (row pass : Nat) : State :=
  let r := { mulRec 0x09 with kpass := BitVec.ofNat _ kpass, trip := ⟨2, 2, 0, 0⟩, fl := { fl0 with swap := swap } }
  { matState { Mat.reset with accepted := 1, busy := [⟨1, 0, Push.none, false, false⟩], going := some ⟨1, r, false, step, row, pass, 0x80, 120, 0x40, 0⟩ } with
    agenda := [.matrix 0] }

theorem witness_MultiplyRecords_step :
    ∀ x ∈ [(2, false, (⟨0, 0, 0, 0⟩ : Quad Nat), 0, 0), (1, false, ⟨0, 0, 0, 0⟩, 0, 0), (2, false, ⟨0, 0, 0, 0⟩, 1, 1), (1, false, ⟨1, 0, 0, 0⟩, 1, 0),
        (1, true, ⟨1, 1, 0, 0⟩, 1, 0)],
      let s := going x.1 x.2.1 x.2.2.1 x.2.2.2.1 x.2.2.2.2
      syncNow s = none ∧ s.agenda = .matrix 0 :: [] ∧ (mat s).push = none ∧ (mat s).parked = false ∧ (mat s).run = some (aRun 0) ∧ (mat s).busy ≠ [] ∧
        (mat s).going.isSome = true ∧ nextIsLoad 0 { s with agenda := [], cur := 0 } = false ∧
        (mat s).going.map (fun g => (g.r.rows.toNat, g.r.trip.l0.toNat, g.r.trip.l1.toNat, g.r.trip.l2.toNat, g.r.trip.l3.toNat)) = some (2, 2, 2, 0, 0) := by
  intro x h
  fin_cases h <;> decide +kernel

theorem witness_MultiplyRecords_zero :
    let r := { mulRec 0x09 with fl := { fl0 with zero := true } }
    MatReady (planes BF16) (matFeats r true true []) (matCheck3 (planes BF16) r true true true true) false r ∧
      mulCheck r false (fun f => !isMX f) (planes BF16) = .ok ∧ r.trip.l0.toNat ≤ 1 ∧ r.trip.l1.toNat ≤ 1 ∧ r.trip.l2.toNat ≤ 1 ∧ r.trip.l3.toNat ≤ 1 ∧
      (mat (out (exec (.mend m0) (matState Mat.reset)))).going = none := by
  repeat' first | decide +kernel | exact ok_of (by decide +kernel) | constructor

/-- A burst of four elements to a tile. -/
def transitOf (src dst : Nat) : Transit := ⟨src, dst, 0, 0, 0, aBurst, 0, none, 0⟩

theorem witness_HeadersReadyPushesAndMapChanges_behind :
    let p : Port := ⟨aTransit, 0, 0, 0, 1, false, 0⟩
    let s := { onTile { Tile.reset with reed := { Reed.reset with port := some p } } with transit := [aTransit], now := 1 }
    transitTo 0 s.transit 0 0 = some (0, aTransit) ∧ aTransit.due ≤ s.now ∧ overtakes s.transit 0 aTransit = false ∧ reaches s aTransit.src 0 = true ∧
      portHolds s 0 aTransit = false ∧ stale s aTransit.src aTransit.inc 0 0 = false ∧ aTransit.b.kind = 0 ∧ malformed aTransit.b = false ∧ (tile s 0).reed.port = some p ∧ (tile s 0).reed.portNext = none ∧ p.held = false ∧ p.upto ≤ s.now := by
  decide +kernel

theorem witness_HeadersReadyPushesAndMapChanges_order :
    (let s := { State.reset with transit := [transitOf 1 0, transitOf 1 0] }
     transitTo 0 s.transit 1 0 = some (1, transitOf 1 0) ∧ s.transit[0]? = some (transitOf 1 0)) ∧
    (let s := { State.reset with transit := [transitOf 64 5, transitOf 65 0] }
     transitTo 0 s.transit 0 0 = some (1, transitOf 65 0) ∧ s.transit[0]? = some (transitOf 64 5) ∧ endDie 65 ≠ endDie 0 ∧ endDie 64 = endDie 65 ∧
       endDie 5 = endDie 0) ∧
    (let y := { transitOf 65541 5 with num := 1 }
     let s := { State.reset with transit := [y, transitOf 65541 0] }
     transitTo 0 s.transit 0 0 = some (1, transitOf 65541 0) ∧ s.transit[0]? = some y ∧ y.num ≠ (transitOf 65541 0).num) ∧
    (let s := { State.reset with transit := [transitOf 64 0], dev := { Dev.reset with failedLinks := [0, 1, 2, 3, 4] } }
     transitTo 0 s.transit 0 0 = some (0, transitOf 64 0) ∧ (transitOf 64 0).due ≤ s.now ∧ reaches s 64 0 = false) := by decide +kernel

/-- A device's burst behind one that another tile's port still holds, and bursts of an earlier incarnation of their sender, on their way,
at a port, and scheduled. -/
theorem witness_HeadersReadyPushesAndMapChanges_stale :
    let q : Transit := { transitOf 65541 5 with num := 1 }
    let o : Transit := { aTransit with inc := 3 }
    let p : Port := ⟨o, 0, 0, 0, 1, false, 0⟩
    let s := { State.reset with tiles := [(5, { Tile.reset with reed := { Reed.reset with port := some ⟨q, 0, 0, 0, 1, false, 0⟩ } })], transit := [transitOf 65541 0] }
    let r := { State.reset with transit := [o] }
    let w := onTile { Tile.reset with reed := { Reed.reset with port := some p } }
    transitTo 0 s.transit 0 0 = some (0, transitOf 65541 0) ∧ (transitOf 65541 0).due ≤ s.now ∧ portHolds s 0 (transitOf 65541 0) = true ∧
      transitTo 0 r.transit 0 0 = some (0, o) ∧ o.due ≤ r.now ∧ overtakes r.transit 0 o = false ∧ portHolds r 0 o = false ∧ reaches r o.src 0 = true ∧
      (tile r 0).reed.port = none ∧ o.src < 277 ∧ o.inc ≠ (die r (dieOf o.src)).incarn ∧ endDie o.src = endDie 0 ∧
      (tile w 0).reed.port = some p ∧ p.held = false ∧ p.due ≤ w.now ∧ syncDueAt w 0 = false ∧ codeHeld w 0 p.t.ctx p.t.b p.flit = false ∧
      p.t.inc ≠ (die w (dieOf p.t.src)).incarn := by decide +kernel

theorem witness_ReaddupCollapses_leaving :
    let l : Leaving := ⟨0, 0x30000, 0, [(3, 1)], 5, 1⟩
    let s := { duplicated [] with leaving := [l] }
    lookup s.dev.registry 9 = none ∧ s.leaving = [l] ∧ (∀ r ∈ l.recs, r ∉ recordsInProgress s) ∧ l.size < 2 ∧ (die s l.die).free2m.length < 256 ∧
      (die s l.die).free64.length < 1024 := by decide +kernel

theorem witness_NodesFire_registry :
    let s0 := graphed (fires (.endNode 8)) ⟨1, .going, []⟩ [] leafK
    let s := { s0 with dev := { s0.dev with registry := [(1, 0x40000)] } }
    part s 0 1 = some (fires (.endNode 8)) ∧ ctxAt s (fires (.endNode 8)).ctx = some ctx1 ∧ (runOf s 1).phase = .going ∧ runTasks s 1 = [] ∧
      (lookup s.dev.registry ctx1.id).isSome = true ∧
      semCheck (markFired s 0 1 0) 0 ctx1 8 true = (.ok 0x30008 leafK, (semCheck (markFired s 0 1 0) 0 ctx1 8 true).2) ∧
      lookup s0.dev.registry ctx1.id = none := by decide +kernel

/-- A queue's descriptor names its context by a VA, in the page at VA 0. -/
theorem witness_ReadyTasksArePlaced_named :
    let s0 := { queued with mem := writeN (writeN (writeN queued.mem 0x30008 8 0x100) 0x30100 8 (2 ^ 52 + 0x10000)) 0x40000 8 (2 ^ 52 + 0x10000) }
    let s := putQueue s0 0 2 { queueOf s0 0 2 with entries := [], clear := false }
    (queueOf s0 0 2).entries = [⟨0, 0x40000, 1, 5⟩] ∧ (queueOf s0 0 2).clear = true ∧ ctxAt s0 0x40000 = some ctx1 ∧
      ((readDesc s 0 ctx1 0).2.toOption).map (·.ctx) = some 0x100 ∧
      ((namedCtx (readDesc s 0 ctx1 0).1 0 ctx1 0x100 false).2.toOption) = some { ctx1 with pa := 0x30100 } := by decide +kernel

theorem witness_TasksStartAndEnd_globals :
    let k : Task := { readyTask with state := .placed }
    let s := starts
    (((readImage s k.die k.ctx k.d.image).2.toOption).map (fun im =>
      (writeGlobals ((gangOf k).foldl (fun s a => modTile s a (loadTile 3 im none)) (readImage s k.die k.ctx k.d.image).1) k.die k.ctx im.secs).2)) = some none ∧
    (let s := cstarts
     (((readImage s 4 ctx1 0x1000).2.toOption).map (fun im =>
       (writeGlobals (modTile (readImage s 4 ctx1 0x1000).1 (256 + 5) (loadTile s.nextTask im none)) 4 ctx1 im.secs).2)) = some none) ∧
    (let e : Task := { nodeTask with killed := some (6, .ended) }
     e.killed = some (6, .ended) ∧ e.state = .running ∧ (∀ a ∈ gangOf e, tileDone (exited e) a = true) ∧ lookup (exited e).tasks 0 = some e) := by
  decide +kernel

theorem witness_PreloadsKillsAndSaves_kinds :
    ∀ kill, let s := spentState kill
      (∀ a ∈ gangOf (spent kill .running), (core s a).run ≠ .exited ∧ (core s a).run ≠ .ending ∧ (core s a).run ≠ .reeve false ∧
        killable (core s a).wait = true ∧ (core s a).run = .running) := by decide +kernel

/-- A task late for its join, placed or suspended, and a killable task with a kill pending that stands at a PHASE. -/
theorem witness_TasksStartAndEnd_late :
    ∀ st ∈ [TaskState.placed, .suspended], let k : Task := { nodeTask with state := st }
      let s := { joined 2 (regs []) with tasks := [(0, k)] }
      lookup s.tasks 0 = some k ∧ k.origin = .node 0 1 0 1 ∧ (0, 1) ∈ joinsOf s k ∧ k.arrivedAt.contains (0 * 65536 + 1) = false ∧
        accepts s 1 (0, 1) = false ∧ joinsOf { joined 0 (regs []) with tasks := [(0, k)] } { k with origin := .queue 0 0 0 } = [] := by decide +kernel

theorem witness_SwitchRoundsAndDeviceFlows_linked :
    let s := fun (train : List Nat) => ({ State.reset with dev := { Dev.reset with stage := .up, retraining := train } } : State)
    linkedTo (s [8]) 9 = true ∧ linkedTo (s (List.range' 8 16)) 9 = false := by decide +kernel

theorem witness_SwitchGroupsFold_closing :
    let x := { holding with complete := 2 }
    let s := grouped x (lastBurst 0 0)
    (switchGroup s 3).armed = true ∧ roundDue s.now (switchGroup s 3) = true ∧ reaches s 64 1027 = true ∧
      portHolds s 1027 ⟨64, 1027, 1, 0, 0, lastBurst 0 0, 0, none, 0⟩ = false ∧ overtakes s.transit 0 ⟨64, 1027, 1, 0, 0, lastBurst 0 0, 0, none, 0⟩ = false := by
  decide +kernel

theorem witness_HostMemoryAccesses_report :
    let s0 := opened leafK
    let at_ := fun (buf : Nat) => ({ s0 with dev := { s0.dev with sempa := 2 ^ 20, attest := [1] }, mem := writeN s0.mem (2 ^ 20 + 0xFFFE0) 8 buf } : State)
    let buf := fun (s : State) => readN s.mem (s.dev.sempa + 0xFFFE0) 8
    buf (at_ (2 ^ 52 - 8192)) % 4096 = 0 ∧ buf (at_ (2 ^ 52 - 8192)) + 8192 ≤ 2 ^ 52 ∧ 2 ^ 52 < buf (at_ (2 ^ 52 - 4096)) + 8192 := by decide +kernel

/-- Die 1 is out of reach: accesses of the host to it, and a report whose mailbox lies there. -/
theorem witness_HostMemoryAccesses_lost :
    let s0 := opened leafK
    let s := { s0 with dev := { s0.dev with sempa := 2 ^ 36, attest := [1], failedLinks := [0, 1, 5] } }
    hostOpen s = true ∧ s.dev.sempa + 8 ≤ 2 ^ 38 ∧ lostAt s hostAgent (s.dev.sempa + 8) = true ∧ lostAt s hostAgent (s.dev.sempa + 0xFFFC0) = true ∧
      lostAt s0 hostAgent (s0.dev.sempa + 8) = false ∧ lostAt s0 hostAgent (s0.dev.sempa + 0xFFFF8) = false ∧
      (diePieces (2 ^ 36 - 4) 8).any (fun p => lostAt s hostAgent p.1) = true ∧ (diePieces (2 ^ 36 - 4) 8).all (fun p => !lostAt s0 hostAgent p.1) = true ∧
      s.dev.attest = 1 :: [] := by decide +kernel

theorem witness_HostMemoryAccesses_registers :
    ∀ off ∈ [0x3010, 0x3001, 0x100, 0x400001], let s := { opened leafK with agenda := [.readReg off 8] }
      syncNow s = none ∧ s.agenda = .readReg off 8 :: [] ∧ hostOpen s = true ∧ (off < 0x100000 ∨ 0x200000 ≤ off) ∧
        bar0Listed off 8 = (off != 0x100) ∧ (off % 8 ≠ 0 ↔ off = 0x3001 ∨ off = 0x400001) := by decide +kernel

theorem witness_FaultsAndLinks_places :
    let own := cpu { regs [] with dirty := [(0x30000, 7)] }
    (∃ y, y / 32 = 0x30008 / 32 ∧ (ownByte (core own 0) y).isSome = true) ∧
      (∀ y, y / 32 = 0x30008 / 32 → ownByte (core (cpu (regs [])) 0) y = none) ∧
      ({ State.reset with transit := [aTransit] } : State).transit[0]? = some aTransit ∧ (0 : Nat) < 256 := by
  refine ⟨⟨0x30000, by decide +kernel⟩, fun y _ => rfl, by decide +kernel, by decide⟩

/-- An outstanding load, an AMOS.CO without an answer, a burst at a port: places that a hand-over of 1 to 6 strikes. -/
theorem witness_FaultsAndLinks_flits :
    let q : CoResp := ⟨0, 3, true, none, 1, some (some 7)⟩
    ¬((1 : Nat) < 1 ∨ 6 < 1) ∧ ((7 : Nat) < 1 ∨ 6 < 7) ∧ (core (cpu { regs [] with resp := [resp1] }) 0).resp[0]? = some resp1 ∧
      (core (cpu { regs [] with co := [q] }) 0).co[0]? = some q ∧
      (tile (landed (aMap 0 0x8000) false) 0).reed.port = some ⟨aTransit, 0, 0, 0, 1, false, 0⟩ := by decide +kernel

theorem witness_FaultsAndLinks_links :
    let s := { State.reset with dev := { Dev.reset with failedLinks := [0, 3, 4], spareLanes := [(3, 0)], routes := [5], ports := [(8, 5)], alternates := [(5, 6)] } }
    1 ∉ s.dev.failedLinks ∧ getAt 2 s.dev.spareLanes (2 * 1 + 1) = 0 ∧ getAt 2 s.dev.spareLanes (2 * 1 + 0) ≠ 0 ∧
      unreachable s 0 = true ∧
      unreachable { s with dev := { s.dev with failedLinks := s.dev.failedLinks.filter (· != 0) } } 0 = false ∧
      (∀ y ∈ s.transit, y.b.kind ≠ 1) ∧ 8 ∉ s.dev.failedLinks ∧ 31 ∉ s.dev.failedLinks ∧
      (8, 5) ∈ s.dev.ports ∧ (5, 6) ∈ s.dev.alternates := by decide +kernel

theorem witness_ResetsAndPower_forced :
    let q : Resp := ⟨3, 5, 0, 1, 8, 0, false⟩
    let s := cpu { regs [] with resp := [q] }
    (core s 0).resp[0]? = some q ∧ dieOf 0 ≠ 1 ∧ q.home = 1 ∧ s.tasks = [] ∧ isLocal (128 * 2 ^ 29) = true ∧ homeDie (128 * 2 ^ 29) = 1 ∧ dieOf 64 = 1 := by
  decide +kernel

theorem witness_ResetsAndPower_clock :
    let hot := { State.reset with dev := { Dev.reset with stage := .up, hot := [2] } }
    let capped := { State.reset with dev := { Dev.reset with stage := .up, cap := true } }
    let clear := { State.reset with dev := { Dev.reset with stage := .up, mhz := 1800 }, now := 2 ^ 30 }
    clockBelow hot.dev.mhz = some 3000 ∧ hot.dev.hot ≠ [] ∧ clockBelow capped.dev.mhz = some 3000 ∧ capped.dev.cap = true ∧
      clockAbove clear.dev.mhz = some 2400 ∧ clear.dev.hot = [] ∧ clear.dev.cap = false ∧ clear.dev.clearAt + 2 ^ 30 ≤ clear.now ∧
      clockBelow clear.dev.mhz = none ∧ clockAbove hot.dev.mhz = none := by decide +kernel

theorem witness_StepRunsTheDecodedUnit_boundary :
    let s := { cpu { regs [] with async := [⟨0x13, 5, 0⟩], wait := .wfe } with agenda := [.core 0] }
    syncNow s = none ∧ s.agenda = .core 0 :: [] ∧ (core s 0).run = .running ∧ atBoundary (core s 0).wait = false ∧ eventWait (core s 0).wait = false := by
  decide +kernel

/-! ## Cases of waiting, of dies out of reach, and of each way a flit lands -/

/-- Die 1 is out of reach of every other: its links have failed. -/
def cut (s : State) : State := { s with dev := { s.dev with failedLinks := [0, 1, 2, 3, 4, 5] } }

/-- An AMOS.CO of a core without an answer. -/
def unanswered1 : CoResp := ⟨0, 9, true, none, 1, none⟩

theorem witness_LoadsReadWhatTheTileSees_ports :
    let s := cpu { regs [] with resp := [{ resp1 with home := 8 + 9 }] }
    let t := { s with dev := { s.dev with retraining := List.range' 8 16, routes := [9] } }
    let p := { s with dev := { s.dev with routes := [9] } }
    respWaits t 0 { resp1 with home := 8 + 9 } = true ∧ respWaits p 0 { resp1 with home := 8 + 9 } = false ∧
      unanswered t { resp1 with home := 8 + 9 } = false ∧
      respWaits { cpu { regs [] with resp := [{ resp1 with bad := true }] } with dev := { Dev.reset with retraining := [0] } } 0 { resp1 with bad := true } = true := by
  decide +kernel

theorem witness_RunsAreQueuedAndResolved_pending :
    let s := cpu { regs [] with co := [unanswered1] }
    Ready s [] [1, 2] [1, 2] g0 ∧ Ready s [6] [1, 2] [1, 2] g0 ∧ coPending s 0 = true ∧ isSeq s.cur = false ∧ 255 < (hdr s 0).xrecs ∧
      coPending (s12 7 2) 0 = false ∧ coPending forkWaits 0 = false := by
  repeat' first | decide +kernel | constructor

/-- A stopped run whose record is parked by a fault, and one that a budget overrun holds. -/
theorem witness_RunsAreQueuedAndResolved_paused :
    let r : RunState := ⟨{ entry5 with bank := .a }, 5, false⟩
    let s := onTile { Tile.reset with mat := { Mat.reset with run := some r, paused := true, rep := some m0, ml0 := 2, o0 := 1 }, mov := { Mov.reset with run := some r, paused := true } }
    Ready s [6] [] [] g0 ∧ (tile s 0).mat.run = some r ∧ (tile s 0).mat.busy = [] ∧ repeating (tile s 0).mat = true ∧ (tile s 0).mat.parked = false ∧
      (tile s 0).mov.run = some r ∧ (tile s 0).mov.busy = none ∧ (tile s 0).mov.parked = none := by
  repeat' first | decide +kernel | constructor

theorem witness_WaitsAndSemaphores_launchqWaits :
    let s := cpu { regs [(1, 64), (2, 1)] with co := [unanswered1] }
    Ready s [] [3, 1, 2] [1, 2] g0 ∧ tokPending (core s 0) 3 = false ∧ (sreg s 2).toNat < 256 ∧ (sreg s 1).toNat % 64 = 0 ∧ (hdr s 0).killable = false ∧
      coPending s 0 = true ∧ coPending (s12 64 255) 0 = false ∧ diePath (s12 64 255) 0 3 = true ∧ Ready (cut (s12 64 1)) [] [3, 1, 2] [1, 2] g0 ∧
      coPending (cut (s12 64 1)) 0 = false ∧ diePath (cut (s12 64 1)) 0 1 = false := by
  repeat' first | decide +kernel | constructor

/-- Tile 0 of the gang has exited in a step it opened; tile 1 waits alone. -/
theorem witness_BarriersStepsSafePoints_exited :
    let s := { gangOfTwo with tiles := [(0, { Tile.reset with task := some 0, stepOpen := some ⟨0, 9, 0⟩, core := { Core.reset with run := .exited } }), (1, tile gangOfTwo 1)] }
    (gang s 1).Nodup ∧ s.sync = [] ∧ (∀ b ∈ gang s 1, gang s b = gang s 1 ∧ (hasExited s b = true ∨ stepGoing s b = false)) ∧ stepGoing s 0 = true ∧
      1 ∈ gang s 1 ∧ (core s 1).wait = .gbar 3 ∧ (∀ c ∈ gang s 1, hasExited s c = true ∨ arrivals s 1 3 ≤ arrivals s c 3) := by
  decide +kernel

theorem witness_ArrivalAndExit_unreachable :
    let s := joined 1 { regs [] with wait := .qask 1 1 9 false }
    diePath s (dieOf 0) 0 = true ∧ (core (cut s) 0).wait = .qask 1 1 9 false ∧ (tile (cut s) 0).task = some 0 ∧ lookup (cut s).tasks 0 = some nodeTask ∧
      nodeTask.arrivedAt.contains (1 * 65536 + 1) = false ∧ diePath (cut s) (dieOf 0) 1 = false := by
  decide +kernel

theorem witness_TrapsAndReturns_buffer :
    let s := onTile { Tile.reset with core := { regs [] with trapIn := true, trapPc := 9 }, vec := { Vec.reset with trapped := true, slot := 40, buffer := [{ due0 with due := 3 }] } }
    Ready s [] [] [] g0 ∧ (core s 0).trapIn = true ∧ (tile s 0).vec.buffer = [{ due0 with due := 3 }] := by
  repeat' first | decide +kernel | constructor

/-- A multiply of two trips on every level at its last row. -/
theorem witness_MultiplyRecords_levels :
    ∀ i ∈ [(⟨1, 1, 0, 0⟩ : Quad Nat), ⟨1, 1, 1, 0⟩, ⟨1, 1, 1, 1⟩], let s0 := going 1 false i 1 0
      let g : MatGoing := { (mat s0).going.getD ⟨0, m0, false, i, 0, 0, 0, 0, 0, 0⟩ with r := { mulRec 0x09 with trip := ⟨2, 2, 2, 2⟩ } }
      let s := { s0 with tiles := [(0, { tile s0 0 with mat := { mat s0 with going := some g } })] }
      syncNow s = none ∧ s.agenda = .matrix 0 :: [] ∧ (mat s).push = none ∧ (mat s).parked = false ∧ (mat s).paused = false ∧ (mat s).run = some (aRun 0) ∧ (mat s).busy ≠ [] ∧
        (mat s).going = some g ∧ nextIsLoad 0 { s with agenda := [], cur := 0 } = false ∧ g.r.rows.toNat ≤ g.row + 1 ∧ Nat.max g.r.kpass.toNat 1 ≤ g.pass + 1 ∧
        g.r.trip.l1.toNat ≤ i.l1 + 1 ∧ g.step = i := by
  intro i h
  fin_cases h <;> decide +kernel

theorem witness_MoveRecordsAcceptAndComplete_paused :
    (tile (onTile { Tile.reset with mov := { Mov.reset with run := some (aRun 3), busy := some endedRec } }) 0).mov.paused = false := by decide +kernel

theorem witness_SignalMapAndWellRecords_misaligned :
    let r := { x0 with dest := 9, second := 3, limit := 4 }
    let s := onePaged 2
    MovReady s [] (movCheck3 s r false false) r ∧ r.limit.toNat ≤ 4 ∧ r.dest.toNat % 8 ≠ 0 ∧ (mov s).run = some (aRun 0) ∧ (aRun 0).e.bank = .none ∧
      (aRun 0).stop = false := by
  repeat' first | decide +kernel | constructor

/-! ### Each way a flit lands -/

/-- A map of tensor 7, one dimension of 0 to 63, elements n bytes apart. -/
def mapOf (mode fmt n : Nat) : MapRec := ⟨7, fmt, mode, false, false, false, false, 3, 0, if mode = 4 then 0x40000 else 0x8000, 0, 0, 4, false, 0, 0, [⟨0, 63, 63, n, 0⟩]⟩

/-- Elements of a format from coordinate 2 on, in one payload flit. -/
def burstOf (fmt n : Nat) : Burst := { aBurst with fmt := fmt, runlen := n, flits := [0x3F8000003F800000] }

/-- An AMOS.CO's burst for INT32 (ADD 5). -/
def coBurst : Burst := { burstOf INT32 1 with kind := 1, flits := [5] }

def portWith (b : Burst) (held : Bool) (co : Option Nat) : Port := ⟨{ aTransit with b := b, co := co }, 0, 0, 0, 1, held, 0⟩

/-- Context 0 on tile 0, maps in slots, a policy, and a burst at the port. -/
def arriving (ms : List (Nat × MapRec)) (policy : Nat) (p : Port) : State :=
  { State.reset with
    tiles := [(0, { Tile.reset with task := some 0, reed := { Reed.reset with slots := ms.map (fun e => (e.1, aSlot e.2)), policy := policy, port := some p } })]
    tasks := [(0, placedTask)] }

/-- Whether the port's flit lands on its cycle. -/
def landsNow (s : State) (p : Port) : Bool :=
  (tile s 0).reed.port == some p && decide (p.due ≤ s.now) && decide ((tile s 0).reed.taken ≤ s.now) && (p.held || !syncDueAt s 0) &&
    decide (((tile s 0).reed.slots.map (·.1)).Pairwise (· < ·)) && runsCtx s 0 p.t.ctx && !codeHeld s 0 p.t.ctx p.t.b p.flit &&
    !stale s p.t.src p.t.inc 0 p.t.b.kind

/-- Whether one map receives a flit whole. -/
def whole (s : State) (b : Burst) (m : MapRec) : Bool :=
  runsCtx s 0 0 && !b.bscl && candidates (tile s 0).reed b == [(4, m)] && lookup (tile s 0).reed.slots 4 == some (aSlot m) && compat m.mode m.fmt b.fmt &&
    !(flitElems b 0).isEmpty && (flitElems b 0).all (fun e => inBox m.dims e.cs)

theorem witness_PayloadFlitsLand_modes :
    ∀ x ∈ [(0, INT8, 1, INT8), (0, FP32, 4, FP32), (1, FP32, 8, FP32), (1, FIX64, 8, FIX64), (2, FP32, 4, FP32), (2, FP32, 4, BF16), (3, INT32, 4, INT32), (4, INT8, 1, INT8),
        (5, FP32, 4, INT8)],
      ∀ held ∈ [false, true], let m := mapOf x.1 x.2.1 x.2.2.1
        let b := burstOf x.2.2.2 1
        let s := arriving [(4, m)] 2 (portWith b held none)
        landsNow s (portWith b held none) = true ∧ whole s b m = true ∧ isDense m.fmt = false ∧ (flitElems b 0).length = 1 ∧
          (x.1 = 4 → codeStandby m = false ∧ codeEngine m = 1 ∧ enginesIdle (tile s 0) ⟨false, false, true⟩ = true) := by
  decide +kernel

/-- Four bytes for a map at consecutive bytes lie apart. -/
theorem witness_PayloadFlitsLand_apart :
    (flitElems aBurst 0).Pairwise (fun e f =>
      let o := fun (e : Elem) => 8 * (landBase (aMap 0 0x8000) + (((aMap 0 0x8000).dims.zip e.cs).map (fun p => (p.2 - p.1.lo) / 2 ^ p.1.logb * p.1.S + (p.2 - p.1.lo) % 2 ^ p.1.logb * p.1.s)).sum)
      o e + 8 ≤ o f ∨ o f + 8 ≤ o e) := by decide +kernel

theorem witness_PayloadFlitsLand_atomic :
    let m := mapOf 3 INT32 4
    ∀ held ∈ [false, true], let p := portWith coBurst held (some 6)
      let s := arriving [(4, m)] 2 p
      landsNow s p = true ∧ whole s coBurst m = true ∧ p.t.co = some 6 ∧ p.t.inc = (die s (dieOf p.t.src)).incarn ∧ coBurst.kind = 1 ∧ coBurst.flits = [5] ∧
        (flitElems coBurst 0).length = 1 ∧ (tile s 0).padPoison = [] ∧ 5 / 2 ^ 128 % 16 = 0 := by
  decide +kernel

/-- Two receivers with and without EXCL; a QUORUM map and one in bytes; another format; no map at all under each policy, with a full well. -/
theorem witness_PayloadFlitsLand_fates :
    let m := mapOf 0 INT8 1
    let b := burstOf INT8 4
    let p := portWith b false none
    let x := { m with excl := true, base := 0x9000 }
    (∀ ms ∈ [[(4, m), (5, x)], [(4, { m with quorum := true })], [(4, { m with cunit := true })], [(4, mapOf 0 FP32 4)], [(4, m), (5, mapOf 0 FP32 4)], []], ∀ policy ∈ [1, 2, 3],
      landsNow (arriving ms policy p) p = true) ∧
      (let s := arriving [] 2 p
       let t := { s with tiles := [(0, { tile s 0 with reed := { (tile s 0).reed with well := List.replicate 32 0 } })] }
       landsNow t p = true ∧ (tile t 0).reed.well.length = 32) ∧
      (core (arriving [] 3 p) 0).landTrap = false := by
  decide +kernel

/-- A port that has taken a flit on the present cycle. -/
theorem witness_PayloadFlitsLand_taken :
    let s := onTile { Tile.reset with reed := { Reed.reset with taken := 1 } }
    s.now < (tile s 0).reed.taken := by decide +kernel

/-- A flit of an earlier incarnation of its sender, whose die is the tile's own. -/
theorem witness_PayloadFlitsLand_stale :
    let p : Port := { portWith aBurst false none with t := { aTransit with inc := 3 } }
    let s := arriving [] 2 p
    (tile s 0).reed.port = some p ∧ p.held = false ∧ p.due ≤ s.now ∧ (tile s 0).reed.taken ≤ s.now ∧ syncDueAt s 0 = false ∧
      codeHeld s 0 p.t.ctx p.t.b p.flit = false ∧ p.t.src < 277 ∧ p.t.inc ≠ (die s (dieOf p.t.src)).incarn ∧ endDie p.t.src = endDie 0 := by
  decide +kernel

/-- Scheduled flits: one in time, one late, a malformed one; and those that wait: for their cycle, for the port, behind another, and for a
busy engine. -/
theorem witness_PayloadFlitsLand_scheduled :
    let m := mapOf 0 INT8 1
    let f : SyncFlit := ⟨1, 0, 0, 0, aBurst, 0, 0, 0, [(0, 0)]⟩
    let s := fun (ms : List (Nat × MapRec)) (fs : List SyncFlit) => ({ arriving ms 2 (portWith aBurst false none) with sync := fs } : State)
    let turn := fun (s : State) (f : SyncFlit) => decide (s.sync[0]? = some f) && decide ((tile s 0).reed.taken ≤ s.now) && !syncBefore s 0 (0, 0) &&
      !codeHeld s 0 f.ctx f.b f.flit && decide (f.inc = (die s (dieOf f.src)).incarn) && runsCtx s 0 f.ctx
    turn (s [(4, m)] [f]) f = true ∧ malformed aBurst = false ∧ whole (s [(4, m)] [f]) aBurst m = true ∧
      f.sched < ({ s [(4, m)] [f] with now := 3 } : State).now ∧ turn { s [(4, m)] [f] with now := 3 } f = true ∧
      (let b : Burst := { aBurst with bscl := true }
       malformed b = true ∧ turn (s [] [{ f with b := b }]) { f with b := b } = true) ∧
      (s [] [{ f with dsts := [(0, 5)] }]).now < 5 ∧ syncBefore (s [] [f, f]) 1 (0, 0) = true ∧
      (let c := mapOf 4 INT8 1
       let t := s [(4, c)] [f]
       codeHeld { t with tiles := [(0, { tile t 0 with vec := { Vec.reset with run := some (aRun 0) } })] } 0 f.ctx f.b f.flit = true) := by
  decide +kernel

/-- A slot that has reached expect, as a cycle passes: with room for its tokens, and without. -/
theorem witness_PayloadFlitsLand_rising :
    ∀ x ∈ [0, 16], let m := mapOf 0 INT8 1
      let sl : Slot := { aSlot m with push := false, rising := true }
      let s := { onTile { Tile.reset with reed := { Reed.reset with slots := [(4, sl)] }, fifo := ⟨x, 0, 0, 0, 0, 0⟩ } with agenda := [.pass 1] }
      syncNow s = none ∧ s.agenda = .pass 1 :: [] ∧ nextDue s = none ∧ lookup (tile s 0).reed.slots 4 = some sl ∧ sl.map = some m ∧ sl.rising = true ∧
        roomFor (tile s 0).fifo (readyTokens m) = (x == 0) := by
  decide +kernel

/-! ### Collapses and graphs, further -/

/-- A collapse whose access has been saved with its task goes on: its page is still to be split, or its answers are all there. -/
theorem witness_ReaddupCollapses_left :
    ∀ done ∈ [false, true], let c : Collapse := { aCollapse done with left := some dupCtx }
      let s0 := duplicated [c]
      let s := { s0 with tiles := [(0, { tile s0 0 with core := { core s0 0 with wait := .none } })] }
      (core s 0).wait = .none ∧ (tile s 0).mov.busy = none ∧ c.left = some dupCtx ∧ dupEntry s dupCtx c.va = some (dupLeaf, 0x16000) ∧
        (if done then findCollapse s 0 (fun c => c.done && othersReached s c) = some c
         else s.collapses.find? (fun q => q.agent == 0 && (q.left.isSome && !q.done && othersReached s q)) = some c) := by
  decide +kernel

/-- The ports to the other device retrain; a collapse whose page is READDUP no more. -/
theorem witness_ReaddupCollapses_retraining :
    let s0 := duplicated [aCollapse false]
    let s := { s0 with dev := { s0.dev with retraining := List.range' 8 16 } }
    let gone := { duplicated [aCollapse true] with mem := [] }
    linkedTo s 1 = false ∧ (∃ d ∈ (aCollapse false).others, ¬(s.dev.lost.contains d = true ∨ (routed s d = true ∧ linkedTo s d = true))) ∧ s.leaving = [] ∧
      findCollapse gone 0 (fun c => c.done && othersReached gone c) = some (aCollapse true) ∧ (aCollapse true).left = none ∧
      dupEntry gone (ctxOf gone 0) 8 = none := by
  decide +kernel

/-- A graph on a die that no path reaches: its upload, its trigger, and its context's descriptor. -/
theorem witness_UploadAndTrigger_unreachable :
    diePath (cut (opened leafK)) 4 1 = false ∧
      (let s := graphed (graph 0) ⟨0, .idle, [trigger ++ [0]]⟩ [] leafK
       (∀ q ∈ partsOf s 1, diePath s 0 q.1 = true) ∧ diePath s 4 0 = true) := by
  decide +kernel

/-- The scheduler has read the graph's context descriptor before a node fires. -/
theorem witness_NodesFire_read :
    let rd := fun (k : NodeKind) => unitReads (graphed (fires k) ⟨1, .going, []⟩ [] leafK) 0 [0x40000]
    let at_ := fun (k : NodeKind) (marked wr : Bool) => semCheck (if marked then markFired (rd k) 0 1 0 else rd k) 0 ctx1 8 wr
    diePath (graphed (fires (.wait 8 0)) ⟨1, .going, []⟩ [] leafK) 0 (homeDie 0x40000) = true ∧ (at_ (.signal 8 5 4) true true).1 = .ok 0x30008 leafK ∧
      (at_ (.wait 8 0) false false).1 = .ok 0x30008 leafK ∧ 0 ≤ readN (at_ (.wait 8 0) false false).2.mem 0x30008 8 ∧
      (at_ (.endNode 8) true true).1 = .ok 0x30008 leafK ∧
      (let s0 := graphed (fires (.launch 0 1 2 0 3)) ⟨1, .going, []⟩ [] leafK
       let s := { s0 with mem := writeN s0.mem 0x30008 8 0x40000 }
       ((readDesc (markFired (unitReads s 0 [0x40000]) 0 1 0) 0 ctx1 0).2.toOption).map (fun e => decide (e.dinc < 2 ^ 32) && e.ctx == ctx1.pa)) = some true := by
  decide +kernel

theorem witness_QuorumJoins_read :
    let s := closing 2 1 [] .going 0
    let f0 := closing 2 1 [] .going 1
    let f := { f0 with mem := writeN (writeN f0.mem 0x30008 8 0x10000) 0x30020 8 (1 * 2 ^ 32 + FP32 * 2 ^ 24) }
    diePath s 0 (homeDie 0x40000) = true ∧ (fillTargets (unitReads s 0 [0x40000]) 0 ctx1 0 0).2 = some [] ∧
      (fillTargets (unitReads f 0 [0x40000]) 0 ctx1 0 1).2 = some [⟨0, 0x10000, 0, 0, 1, FP32⟩] ∧
      ([(⟨0, 0x10000, 0, 0, 1, FP32⟩ : FillTarget)].foldl (fillOne 0 ctx1 0 2 1 [0]) ((fillTargets (unitReads f 0 [0x40000]) 0 ctx1 0 1).1, true)).2 = false := by
  decide +kernel

theorem witness_ReadyTasksArePlaced_read :
    let s0 := { queued with mem := writeN (writeN (writeN queued.mem 0x30008 8 0x100) 0x30100 8 (2 ^ 52 + 0x10000)) 0x40000 8 (2 ^ 52 + 0x10000) }
    let s := putQueue (unitReads s0 0 [0x40000]) 0 2 { queueOf s0 0 2 with entries := [], clear := false }
    diePath s0 0 (homeDie 0x40000) = true ∧ (((readDesc s 0 ctx1 0).2.toOption).map (fun e => decide (e.dinc < 2 ^ 32) && e.ctx == 0x100)) = some true ∧
      ((namedCtx (readDesc s 0 ctx1 0).1 0 ctx1 0x100 false).2.toOption) = some { ctx1 with pa := 0x30100 } := by
  decide +kernel

/-- CSTART's reads of its descriptors, and a task that restarts, late for its join or not. -/
theorem witness_TasksStartAndEnd_read :
    let s := cstarts
    let s' := unitReads (unitReads s 4 [0x50000]) 4 [0x40000]
    diePath s 4 (homeDie 0x50000) = true ∧ diePath s 4 (homeDie 0x40000) = true ∧ 0x50000 % 64 = 0 ∧
      (((readImage s' 4 ctx1 0x1000).2.toOption).map (fun im => seqHeader im.hdr &&
        decide ((writeGlobals (modTile (readImage s' 4 ctx1 0x1000).1 (256 + 5) (loadTile s.nextTask im none)) 4 ctx1 im.secs).2 = none))) = some true ∧
      (∀ q ∈ [0, 2], let k : Task := { nodeTask with killed := some (0x10, .kill), d := { nodeTask.d with restart := true }, hdr := { Header.full with killable := true } }
        let t := { exited k with parts := [(1, graph q)] }
        k.killed = some (0x10, .kill) ∧ k.d.restart = true ∧ k.hdr.killable = true ∧ (∀ a ∈ gangOf k, tileDone t a = true) ∧ (runOf t 1).phase ≠ .stranded ∧
          (0, 1) ∈ joinsOf t k ∧ k.arrivedAt.contains (0 * 65536 + 1) = false ∧ accepts t 1 (0, 1) = (q == 0)) := by
  decide +kernel

/-! ### The host, links and power, further -/

theorem witness_HostCommandsAndRegisters_unreachable :
    let s := cut (opened leafK)
    hostOpen s = true ∧ diePath s 4 1 = false ∧ diePath s 4 0 = false ∧ diePath (opened leafK) 4 1 = true ∧ registerLost s 0x20008 = true ∧
      registerLost (opened leafK) 0x20008 = false ∧ 0x20008 % 8 = 0 := by decide +kernel

/-- A tile of a compute die with dirty PRIV bytes of local memory, alone. -/
theorem witness_ResetsAndPower_dirty :
    let s := onTile { Tile.reset with core := { regs [] with dirty := [(0x30000, 7)] } }
    (∀ e ∈ s.tasks, e.2.d.done = 0) ∧ ((core s 0).dirty.map (·.1)).Nodup ∧ lookup (core s 0).dirty 0x30000 = some 7 ∧ isLocal 0x30000 = true ∧
      lostAt s 0 0x30000 = false := by decide +kernel

theorem others_clean : ∀ b, b ≠ 0 → (core (onTile { Tile.reset with core := { regs [] with dirty := [(0x30000, 7)] } }) b).dirty = [] := by
  intro b h
  simp [core, tile, onTile, lookup, h, State.reset, Tile.reset, Core.reset]

theorem witness_StepRunsTheDecodedUnit_paused :
    (tile (allUnits []) 0).mat.paused = false ∧ (tile (allUnits []) 0).mov.paused = false ∧
      exec (.scrub 0 false) (allUnits []) = .next (out (exec (.scrub 0 false) (allUnits []))) := by
  refine ⟨by decide +kernel, by decide +kernel, next_of (by decide +kernel)⟩

/-! ## Cases of the widened statements -/

/-- A PRIV store whose set of the L1 is full of dirty lines: one of them goes home. -/
theorem witness_StoreByPageClass_evicts :
    let s := paged 0 { regs [(2, 5)] with dirty := (List.range' 1 4).map (fun k => (128 * (0x600 + 256 * k), 7)) }
    let s1 := (tr s 8 true).2
    Ready s [] [1, 2] [1, 2] g0 ∧ translate s 0 false (ctxOf s 0) 8 true = (.ok 0x30008 (leaf 0), s1) ∧ lostAt s1 0 0x30008 = false ∧
      unroutedAt s1 0x30008 = none ∧ (∀ b ∈ (core s1 0).dirty, unroutedAt s1 b.1 = none) ∧ ((core s1 0).dirty.map (·.1)).Nodup ∧
      lookup (core s1 0).dirty (128 * 0x700) = some 7 ∧ arrives s1 0 (128 * 0x700) = true ∧
      (core (out (exec (.st ⟨g0, 1, 2, .d, .plain, .tile, 8⟩) s)) 0).dirty.length = 11 := by
  repeat' first | decide +kernel | exact tr_eq (by decide +kernel) | constructor

/-- What the implicit publication of a store writes: each byte listed once, none of them out of reach. -/
theorem witness_StoreByPageClass_published :
    (fullUnpub.map (·.1)).Nodup ∧ ∀ e ∈ fullUnpub, arrives (overfull false fullUnpub) 0 e.1 = true := by
  refine ⟨?_, fun e he => ?_⟩
  · rw [fullUnpub, List.map_map]
    exact List.Nodup.map (fun a b h => by simpa using h) (List.nodup_range' ..)
  · obtain ⟨k, hk, rfl⟩ := List.mem_map.1 he
    have hk : k < 67536 := by have := (List.mem_range'_1.1 hk).2; omega
    have h1 : peerOf (128 * k) = none := by simp [peerOf]; omega
    have h2 : homeDie (128 * k) = 0 := by simp [homeDie, bits]; omega
    have h3 : diePath (overfull false fullUnpub) (endDie 0) 0 = true := rfl
    simp [arrives, lostAt, unroutedAt, h1, h2, h3]

/-- An AMOS.CO to device 5 of this domain: with a route, without one, lost, cut off, and to device 1024 beyond a full staging memory. -/
def coFar (dev : Nat) (v : Dev) : State :=
  { coState with tiles := [(0, { tile coState 0 with pad := writeN (tile coState 0).pad 72 8 dev })], dev := v }

theorem witness_Atomics_devices :
    (∀ v ∈ [Dev.reset, { Dev.reset with routes := [5] }, { Dev.reset with lost := [5] }], let s := coFar 5 v
      Ready s [12] [3, 1, 2] [1, 2] g0 ∧ tokPending (core s 0) 3 = false ∧ readN (tile s 0).pad 72 8 / 2 ^ 20 % 2 = 0 ∧
        readN (tile s 0).pad 72 8 % 2 ^ 20 = 5 ∧ s.dev.devid = 0 ∧ readN (tile s 0).pad 64 8 = readN (tile coState 0).pad 64 8 ∧
        ownCo s 0 = false ∧ diePath s 0 4 = true ∧ (∀ b, noRoom s 5 b = false) ∧
        (5 ∈ s.dev.lost ↔ v = { Dev.reset with lost := [5] }) ∧ routed s 5 = (v == { Dev.reset with routes := [5] })) ∧
    diePath (cut (coFar 5 Dev.reset)) 0 4 = false ∧
    (let s := coFar 1024 { Dev.reset with routes := [1024], staging := 2 ^ 24 }
     Ready s [12] [3, 1, 2] [1, 2] g0 ∧ readN (tile s 0).pad 72 8 % 2 ^ 20 = 1024 ∧ diePath s 0 4 = true ∧
      noRoom s 1024 { coBurst with flits := [5], coords := [0] } = true ∧ coBurst.kind = 1 ∧ coBurst.flits = [5] ∧ coBurst.fmt = 3) := by
  refine ⟨fun v hv => ?_, by decide +kernel, ?_⟩
  · have hn : ∀ b, noRoom (coFar 5 v) 5 b = false := by
      intro b
      have h1 : sameDomain (coFar 5 v) 5 = true := by fin_cases hv <;> decide +kernel
      have h2 : retryHeld (coFar 5 v) = 0 := by fin_cases hv <;> decide +kernel
      simp [noRoom, stagingFull, h1, h2]
    refine ⟨?_, ?_, ?_, ?_, ?_, ?_, ?_, ?_, hn, ?_, ?_⟩ <;> fin_cases hv <;> (repeat' first | decide +kernel | constructor)
  · repeat' first | decide +kernel | constructor

theorem tr_is {s : State} {va : Nat} {wr : Bool} {r : Trans} (h : (tr s va wr).1 = r) :
    translate s 0 false (ctxOf s 0) va wr = (r, (tr s va wr).2) := Prod.ext h rfl

/-- A task, killable or not and with or without hcstores, with one page at VA 0 whose entry is e. -/
def checked (e : Nat) (hcst kill : Bool) : State :=
  { paged 2 (regs []) with
    tasks := [(0, { placedTask with ctx := ctx1, hdr := { placedTask.hdr with hcstores := hcst, killable := kill } })], mem := pages e }

/-- No page at VA 1 MiB; a page without write permission; a READDUP page before its collapse and after it was declined; an HC page of a task
without hcstores, and of a killable one; and a page that is no HC page. -/
theorem witness_PrefetchAndAddressChecks_pages :
    (let s := paged 2 (regs [(1, 0x100000)])
     Ready s [] [3, 1] [1] g0 ∧ Ready s [] [1, 2] [1, 2] g0 ∧ Ready s [] [3, 1, 2] [1, 2] g0 ∧ tokPending (core s 0) 3 = false ∧
      effective s 1 (0 : BitVec 25) % 8 = 0 ∧ (core s 0).resp = [] ∧
      translate s 0 false (ctxOf s 0) 0x100000 false = (.fail, (tr s 0x100000 false).2) ∧
      translate s 0 false (ctxOf s 0) 0x100000 true = (.fail, (tr s 0x100000 true).2)) ∧
    (let s := checked (leaf 2 - 2 ^ 53) true false
     Ready s [] [1, 2] [1, 2] g0 ∧ translate s 0 false (ctxOf s 0) 8 true = (.wprot, (tr s 8 true).2) ∧ (hdr s 0).killable = false ∧
      translate s 0 false (ctxOf s 0) 8 false = (.ok 0x30008 (leaf 2 - 2 ^ 53), (tr s 8 false).2) ∧ eW (leaf 2 - 2 ^ 53) = false) ∧
    (∀ d ∈ [false, true], let s := { duplicated [] with tiles := [(0, { tile (duplicated []) 0 with core := { core (duplicated []) 0 with wait := .collapse 8 d } })] }
      Ready s [] [1, 2] [1, 2] g0 ∧ translate s 0 false (ctxOf s 0) 8 true = (.collapse dupLeaf, (tr s 8 true).2) ∧
        (core (tr s 8 true).2 0).wait = .collapse 8 d) ∧
    (∀ e ∈ [(2, false, false), (2, true, true), (1, true, false)], let s := checked (leaf e.1) e.2.1 e.2.2
      Ready s [] [1, 2] [1, 2] g0 ∧ translate s 0 false (ctxOf s 0) 8 true = (.ok 0x30008 (leaf e.1), (tr s 8 true).2) ∧
        translate s 0 false (ctxOf s 0) 8 false = (.ok 0x30008 (leaf e.1), (tr s 8 false).2) ∧ eClass (leaf e.1) = e.1 ∧ eW (leaf e.1) = true ∧
        (hdr (tr s 8 true).2 0).hcstores = e.2.1 ∧ (hdr (tr s 8 true).2 0).killable = e.2.2 ∧ (hdr s 0).killable = e.2.2) := by
  refine ⟨?_, ?_, ?_, ?_⟩
  · repeat' first | decide +kernel | exact tr_is (by decide +kernel) | constructor
  · repeat' first | decide +kernel | exact tr_is (by decide +kernel) | constructor
  · intro d hd
    fin_cases hd <;> (repeat' first | decide +kernel | exact tr_is (by decide +kernel) | constructor)
  · intro e he
    fin_cases he <;> (repeat' first | decide +kernel | exact tr_is (by decide +kernel) | constructor)

/-- A semaphore whose home holds the wait, answered or not, with the ways open and while a link to it retrains; one that a SEMINC reaches; and a
queue whose link retrains. -/
theorem witness_WaitsAndSemaphores_held :
    (∀ met ∈ [false, true], let s := { paged 2 (regs [(1, 0), (2, 5)]) with waits := [⟨0, 0x30008, 5, met⟩] }
      Ready s [] [1, 2] [1, 2] g0 ∧ translate s 0 false (ctxOf s 0) 8 false = (.ok 0x30008 (leaf 2), (tr s 8 false).2) ∧
        SemReadable (tr s 8 false).2 0 0x30008 ∧ semHeld (tr s 8 false).2 0 0x30008 5 = true ∧ wayOpen (tr s 8 false).2 0 (servedBy 0x30008) = true ∧
        ((⟨0, 0x30008, 5, true⟩ : HeldWait) ∈ (tr s 8 false).2.waits ↔ met = true)) ∧
    (let s := paged 2 (regs [(1, 0), (2, 5)])
     let far := { waitsAt (.semwait 8 (2 ^ 36) 0 .dev) with dev := { Dev.reset with retraining := [0] }, waits := [⟨0, 2 ^ 36, 0, true⟩] }
     semHeld (tr s 8 false).2 0 0x30008 5 = false ∧ wayOpen far 0 (servedBy (2 ^ 36)) = false ∧
      (let s := { waitsAt (.semwait 8 0x30008 0 .dev) with waits := [⟨0, 0x30008, 0, true⟩] }
       (core s 0).wait = .semwait 8 0x30008 0 .dev ∧ lostAt s 0 0x30008 = false ∧ unroutedAt s 0x30008 = none ∧ wayOpen s 0 (servedBy 0x30008) = true) ∧
      (let s := { s with waits := [⟨3, 0x30008, 5, false⟩, ⟨4, 0x30008, 9, true⟩] }
       Ready s [] [1, 2] [1, 2] g0 ∧ (∀ q ∈ (core s 0).co, q.ans ≠ none) ∧ lostAt (tr s 8 true).2 0 0x30008 = false ∧
        unroutedAt (tr s 8 true).2 0x30008 = none ∧ (tr s 8 true).2.waits = s.waits ∧ (sreg s 2).toNat = 5 ∧
        readN (tr s 8 true).2.mem 0x30008 8 = 0 ∧ poisonedAt (out (exec (.seminc ⟨g0, 1, 2, .dev, 8⟩) s)).memPoison 32 0x30008 8 = false)) ∧
    (let s := { s12 64 1 with dev := { Dev.reset with retraining := [0] } }
     Ready s [] [3, 1, 2] [1, 2] g0 ∧ (sreg s 2).toNat < 256 ∧ (sreg s 1).toNat % 64 = 0 ∧ coPending s 0 = false ∧ diePath s 0 1 = true ∧ pathOpen s 0 1 = false) := by
  refine ⟨?_, ?_, ?_⟩
  · intro e he
    fin_cases he <;> (repeat' first | decide +kernel | exact tr_is (by decide +kernel) | constructor)
  all_goals repeat' first | decide +kernel | exact tr_is (by decide +kernel) | constructor
/-- Publications whose answers wait for a link that retrains, and one that has performed. -/
theorem witness_PublishingWords_answers :
    ∀ k ∈ [PhaseFor.phase, .exit], let s := cpu { regs [] with wait := .phase k, pubAt := [0, 1] }
      let r := { s with dev := { s.dev with retraining := [0] } }
      (core s 0).wait = .phase k ∧ (∀ n ∈ (core s 0).pubAt, wayOpen s 0 n = true) ∧ (core r 0).wait = .phase k ∧
        ∃ n ∈ (core r 0).pubAt, wayOpen r 0 n = false := by
  intro k hk
  fin_cases hk <;> exact ⟨rfl, by decide +kernel, rfl, 1, by decide +kernel, by decide +kernel⟩

theorem witness_PublishingWords_bytes :
    let s := cpu { regs [] with unpub := [(0x30008, 1), (0x30009, 2)] }
    (∀ e ∈ (core s 0).unpub, arrives s 0 e.1 = true) ∧ (∃ e ∈ (core s 0).unpub, servedBy e.1 = 0) ∧ servedBy (2 ^ 36) = 1 := by decide +kernel

/-- A QARRIVE's ask towards a die with its links open, and while one of them retrains. -/
theorem witness_ArrivalAndExit_retraining :
    let s := joined 1 { regs [] with wait := .qask 0 1 9 false }
    let r := { joined 1 { regs [] with wait := .qask 1 1 9 false } with dev := { Dev.reset with retraining := [0] } }
    pathOpen s (dieOf 0) 0 = true ∧ (core r 0).wait = .qask 1 1 9 false ∧ (tile r 0).task = some 0 ∧ lookup r.tasks 0 = some nodeTask ∧
      nodeTask.arrivedAt.contains (1 * 65536 + 1) = false ∧ diePath r (dieOf 0) 1 = true ∧ pathOpen r (dieOf 0) 1 = false := by decide +kernel

/-- REPLST of a line on a die that no path reaches; what the present cycle has counted. -/
theorem witness_SystemRegistersAndTlbs_apart :
    (let s := cut { paged 1 { regs [] with replva := 8 } with mem := pages (leaf 1 + 2 ^ 50 + 2 ^ 32) }
     Ready s [] [3] [] g0 ∧ tokPending (core s 0) 3 = false ∧ (core s 0).replva.toNat < 2 ^ 56 ∧
      (walk s 0 (ctxOf s 0) 8 true).1 = some (leaf 1 + 2 ^ 50 + 2 ^ 32) ∧ eState (leaf 1 + 2 ^ 50 + 2 ^ 32) = 2 ∧
      lostAt (walk s 0 (ctxOf s 0) 8 true).2 0 (eFrame (leaf 1 + 2 ^ 50 + 2 ^ 32) * 2 ^ 16 + 8) = true ∧
      lostAt (walk (paged 1 (regs [])) 0 (ctxOf (paged 1 (regs [])) 0) 8 true).2 0 0x30008 = false) ∧
    (let s := onTile { Tile.reset with core := regs [(1, 5)], reed := { Reed.reset with fresh := ⟨true, 3, [2]⟩ } }
     Ready s [] [1] [1] g0 ∧ (tile s 0).reed.fresh = ⟨true, 3, [2]⟩ ∧ (0x060 : BitVec 12) ≠ 0x062) := by
  repeat' first | decide +kernel | constructor
/-- A slot of a disabled feature, one that names an undeclared register, and VCVTs of format codes that no VCVT takes. -/
theorem witness_VectorControlFlow_checks :
    let cvt : VCvtOp := ⟨vc0, .rne, 1, 2, 0x08, 0x0A, 0⟩
    vectorWord (.vrns ⟨vc0, 31, 1, 0⟩) = some ([3], [31, 1], noTok) ∧
      (∃ n ∈ [3], feature { small with dev := { small.dev with featen := [] } } n = false) ∧ (∀ n ∈ [3], feature small n = true) ∧
      (∃ r ∈ [31, 1], (hdr small small.cur).vregs ≤ r) ∧ tokensFor (tile small small.cur).fifo (popsOf noTok) = true ∧
      (let s := vecAt 9 [] [] 1
       (vec s).run.isSome = true ∧ (∀ n ∈ roundFeat cvt.r, feature s n = true) ∧ cvt.d.val < (hdr s 0).vregs ∧ cvt.a.val < (hdr s 0).vregs ∧
        tokensFor (tile s 0).fifo (popsOf noTok) = true) ∧
      (let taken : List Nat := [0x00, 0x01, 0x02, 0x03, 0x04, 0x08, 0x09, 0x0A, 0x0B, 0x0C, 0x0D, 0x0E, 0x0F]
       0x05 ∉ taken ∧ 0x10 ∉ taken ∧ 0x08 ∈ taken ∧ (0x05 : Nat) ≠ 0x10) := by decide +kernel

/-- Lanes whose addresses are misaligned, or lie beyond the scratchpad, each behind one that passes. -/
theorem witness_VectorLoads_lanes :
    let s := vecAt 0 [(1, 0xFFFFC)] [(64, 8), (65, 6), (128, 8), (129, 0xFFFFFC)] 0
    let addr := fun (r l : Nat) => ((rdV (vec s) r l).toNat : Int)
    (let m := fun (l : Nat) => decide (addr 1 l % 4 ≠ 0)
     (∀ l < 64, (3 : Word).getLsbD l = true → l = 0 ∨ l = 1) ∧ m 0 = false ∧ m 1 = true) ∧
    (let m := fun (l : Nat) => decide (addr 2 l < 0) || decide (((hdr s 0).scratch : Int) < addr 2 l + 4)
     NoLane 3 (fun l => decide (addr 2 l % 4 ≠ 0)) ∧ m 0 = false ∧ m 1 = true) ∧
    FirstLane (rdM (vec s) 0) (fun l => decide (((hdr s 0).scratch : Int) < ((rdK (vec s) 1).toNat : Int) + 4 * l + 4)) 1 ∧
    SlotReady s [] [3] vg0 noTok ∧ SlotReady s [] [3, 1] vg0 noTok ∧ (vec s).run.isSome = true := by
  refine ⟨by decide +kernel, ⟨by unfold NoLane; decide +kernel, by decide +kernel, by decide +kernel⟩, by unfold FirstLane; decide +kernel, ?_⟩
  repeat' first | decide +kernel | constructor

/-- Rounding to FP32: an exact value, an inexact one, one below the least normal number, and one beyond the largest. -/
theorem witness_VectorFloats_rounding :
    let q : ℚ → ℚ := fun a => 2 ^ (max (Int.log 2 a) ((1 : ℤ) - 127) - 23)
    ¬Inexact (3 / 2 : ℚ) (q (3 / 2)) ∧ Inexact (1 / 3 : ℚ) (q (1 / 3)) ∧ Inexact (1 / 3 * 2 ^ (-127 : ℤ) : ℚ) (q (1 / 3 * 2 ^ (-127 : ℤ))) ∧
      (1 / 3 * 2 ^ (-127 : ℤ) : ℚ) < 2 ^ (-126 : ℤ) ∧ ((2 ^ 24 - 1) * 2 ^ 104 : ℚ) < rounded .rne 0 (2 ^ 130) (q (2 ^ 130)) * q (2 ^ 130) ∧
      (rounded .rne 0 (3 / 2) (q (3 / 2)) * q (3 / 2) : ℚ) ≤ (2 ^ 24 - 1) * 2 ^ 104 := by
  unfold Inexact
  decide +kernel

/-- Rounding to INT8: within its range, below it, and above it. -/
theorem witness_VectorFloats_integers :
    (rounded .rne 0 (5 / 2) 1 : ℤ) = 2 ∧ (127 : ℤ) < rounded .rne 0 128 1 ∧ -(rounded .rtz 0 (300 / 2) 1 : ℤ) < -128 ∧ Inexact (5 / 2) 1 ∧ ¬Inexact 128 1 := by
  unfold Inexact
  decide +kernel

/-- Finite values. -/
theorem witness_VectorFloats_values :
    Means (.num false 3 2 0) (3 / 2) ∧ Means (.num true 3 2 0) (-(3 / 2)) ∧ (3 / 2 : ℚ) + -(3 / 2) = 0 ∧ Stands (.num true 0 1 0) true 0 := by
  refine ⟨⟨false, 3 / 2, ⟨3, 2, 0, rfl, by decide, by norm_num⟩, by norm_num⟩, ⟨true, 3 / 2, ⟨3, 2, 0, rfl, by decide, by norm_num⟩, by norm_num⟩,
    by norm_num, ⟨0, 1, 0, rfl, by decide, by norm_num⟩⟩
/-- A matrix engine under a task that declares two accumulators. -/
def limited : State :=
  { matState Mat.reset with
    tiles := [(0, { tile (matState Mat.reset) 0 with task := some 0 })]
    tasks := [(0, { placedTask with hdr := { placedTask.hdr with accs := 2 } })] }

/-- A record of a disabled feature; one whose accumulator is not declared; and ones whose codes are reserved, or no operands. -/
theorem witness_MatrixNopEndAndRepeat_checks :
    let u := fun (r : MRec) => (⟨r, true, true, true, true, [], true, false⟩ : MatUse)
    (∀ f ∈ [0x09, 0x05, 0x08], matrixWord (.mma (mulRec f)) = some (u (mulRec f))) ∧ mayAccept (mat limited) false = true ∧
      (u (mulRec 0x0B)).Needs 0 ∧ feature { limited with dev := { limited.dev with featen := [] } } 0 = false ∧ (∀ n < 64, n < 16 ↔ feature limited n = true) ∧
      (hdr limited 0).accs ≤ (mulRec 0x09).acc.val ∧ ¬((hdr limited 0).accs ≤ ({ mulRec 0x05 with acc := 1 } : MRec).acc.val) ∧
      (∀ f ∈ [0x05, 0x08], f ∉ ([0x00, 0x04, 0x09, 0x0A, 0x0B, 0x0C, 0x0D, 0x0E, 0x0F, 0x20, 0x21, 0x22, 0x23, 0x24, 0x25] : List Nat)) ∧
      (0x05 : Nat) ∉ ([0x01, 0x02, 0x03, 0x08, 0x10, 0x18, 0x19] : List Nat) := by
  refine ⟨fun f _ => rfl, by decide +kernel, .inl ⟨rfl, .inl ⟨rfl, by decide +kernel⟩⟩, ?_⟩
  decide +kernel

/-- MREP at the bank's end, and before a record it may not repeat. -/
theorem witness_MatrixNopEndAndRepeat_repeat :
    ∀ pc ∈ [255, 0], let s := onTile { Tile.reset with mat := { Mat.reset with run := some (aRun pc) } }
      MatReady s [] none false m0 ∧ (mat s).run = some (aRun pc) ∧ (256 ≤ (aRun pc).pc + 1 ∨ fetchM s 0 ((aRun pc).pc + 1) / 2 ^ 504 % 2 ^ 8 ≤ 2) := by
  intro pc h
  fin_cases h <;> (repeat' first | decide +kernel | constructor)

/-- LDSTATs whose rows, columns or scale flag fail, and one whose fields pass. -/
theorem witness_PlaneRecords_fields :
    ∀ r ∈ [{ stat with rows := 0 }, { stat with rows := 129 }, { stat with cols := 65 }, { stat with fl := { fl0 with bs := true } }, stat],
      MatReady (matState Mat.reset) (matFeats r false true []) (matCheck3 (matState Mat.reset) r false false true true) true r ∧
        ((r.rows.toNat = 0 ∨ passK r.fmtb.toNat < r.rows.toNat) ↔ r.rows ≠ 2) ∧ (64 < r.cols.toNat ↔ r.cols = 65) ∧
        (r.fl.bs = isMX r.fmtb.toNat ↔ r.fl = fl0) := by
  intro r h
  fin_cases h <;> (repeat' first | decide +kernel | constructor)

/-- Of runs at 0x41 and 0x81, the least misaligned start; of runs at 0xFFFC0 and 0x100000, the least byte beyond the scratchpad. -/
theorem witness_PlaneRecords_addresses :
    Least (fun a => (16 : Nat) = 16 ∧ ∃ k < 2, a = (0x41 : Int) + (k : Nat) * 0x40 ∧ a % 2 ≠ 0) 0x41 ∧
      Least (fun x => (∃ k < 2, (0xFFFC0 : Int) + (k : Nat) * 0x40 ≤ x ∧ x < 0xFFFC0 + (k : Nat) * 0x40 + 4) ∧ (x < 0 ∨ ((hdr (matState Mat.reset) 0).scratch : Int) ≤ x)) 0x100000 := by
  have h : ((hdr (matState Mat.reset) 0).scratch : Int) = 0x100000 := by decide +kernel
  rw [h]
  refine ⟨⟨⟨rfl, 0, by decide, by decide, by decide⟩, ?_⟩, ⟨⟨⟨1, by decide, by decide, by decide⟩, by decide⟩, ?_⟩⟩
  · rintro b ⟨-, k, hk, rfl, -⟩
    omega
  · rintro b ⟨⟨k, hk, h1, -⟩, hb⟩
    omega

/-- Multiplies whose fields fail one by one, and one whose fields pass; pairs, planes and strides. -/
theorem witness_MultiplyRecords_faults :
    let r := mulRec 0x09
    (∀ x ∈ [{ r with rows := 0 }, { r with rows := 129 }, { r with kpass := 3 }, { r with cols := 0 }, { r with basec := 127 }, { r with fmtb := 0x0A }, r],
      MatReady (planes BF16) (matFeats x true true []) (matCheck3 (planes BF16) x true true true true) false x ∧
      MatReady (planes BF16) (matFeats x true true [4]) (matCheck3 (planes BF16) x true true true true) false x) ∧
    (127 : Int) < ((basesOf (mat (planes BF16)) { r with basec := 127 }).c : Int) + 1 ∧ pairClass 0x09 ≠ pairClass 0x0A ∧
    (mat (planes FP16)).active.fmt ≠ BF16 ∧ (mat (planes BF16)).active.fmt = BF16 ∧
    MatReady (planes FP16) (matFeats r true true []) (matCheck3 (planes FP16) r true true true true) false r ∧
    (let x := { mulRec (BitVec.ofNat 8 MXFP4) with stra := ⟨1, 0, 0, 0⟩ }
     MatReady (planes MXFP4) (matFeats x true true [2]) (matCheck3 (planes MXFP4) x true true true true) false x ∧
      x.stra.l0.toInt * passBlocks x.fmta.toNat % passBytes x.fmta.toNat ≠ 0 ∧ (0 : Int) * passBlocks x.fmta.toNat % passBytes x.fmta.toNat = 0) := by
  refine ⟨?_, by decide +kernel, by decide +kernel, by decide +kernel, by decide +kernel, ?_, ?_⟩
  · intro x h
    fin_cases h <;> (repeat' first | decide +kernel | constructor)
  all_goals repeat' first | decide +kernel | constructor

/-- Operands of an FP32 pass: numbers, one that is none, and infinities. -/
theorem witness_MultiplyRecords_pass :
    Means (value BF16 0x3F80) 1 ∧ Means (value BF16 0xBFC0) (-(3 / 2)) ∧ (value BF16 0x7FC0).isNan = true ∧ value BF16 0x7F80 = .inf false ∧
      (valMul (value BF16 0x7F80) (value BF16 0)).1 = .nan ∧ (valMul (value BF16 0x7F80) (value BF16 0x3F80)).1 = .inf false ∧
      (valMul (value BF16 0x7F80) (value BF16 0xBF80)).1 = .inf true ∧ BF16 ≠ INT8 ∧ BF16 ≠ INT4 ∧ isMX MXFP4 = true := by
  refine ⟨⟨false, 1, ⟨128, 1, -7, by decide +kernel, by decide, by norm_num⟩, by norm_num⟩,
    ⟨true, 3 / 2, ⟨192, 1, -7, by decide +kernel, by decide, by norm_num⟩, by norm_num⟩, ?_⟩
  decide +kernel

/-- A converting ACCRD with a scale vector that its rows do not overwrite. -/
theorem witness_AccumulatorAndRankRecords_converts :
    let s := matState Mat.reset
    ∀ sr ∈ [false, true], ∀ bs ∈ [false, true], let r := { accRec BF16 with scalea := 0x800, fl := { fl0 with bs := bs, sr := sr } }
      MatReady s (matFeats r true true []) (matCheck3 s r true true true false) false r ∧ accrdCheck r s = .ok ∧ r.fmta ≠ r.fmtb ∧
        (fmtWidth r.fmtb.toNat / 8 * r.cols.toNat : Int) ≤ r.strb.l0.toInt ∧
        ∀ q < r.rows.toNat, (basesOf (mat s) r).b + q * r.strb.l0.toInt.toNat + fmtWidth r.fmtb.toNat / 8 * r.cols.toNat ≤ (basesOf (mat s) r).sa := by
  intro s sr h1 bs h2
  fin_cases h1 <;> fin_cases h2 <;> (repeat' first | decide +kernel | exact ok_of (by decide +kernel) | constructor)

/-- Accumulator and rank records whose fields fail one by one. -/
theorem witness_AccumulatorAndRankRecords_faults :
    let s := matState Mat.reset
    (∀ r ∈ [{ rankRec with rows := 0 }, { rankRec with cols := 65 }, { rankRec with basec := 127 }, { rankRec with kpass := 0 },
        { rankRec with fmta := BitVec.ofNat 8 BF16 }, rankRec],
      MatReady s (matFeats r true false [4]) (matCheck3 s r true true false false) false r) ∧
    128 < (basesOf (mat s) { rankRec with basec := 127 }).c + 2 ∧
    (∀ r ∈ [{ m0 with rows := 0 }, { m0 with rows := 2, cols := 65 }, { m0 with rows := 2, cols := 2, basec := 127 }],
      MatReady s [] (matCheck3 s r true false false false) false r) ∧
    (∀ r ∈ [{ accRec FP32 with rows := 129 }, accRec INT32, { accRec FP32 with strb := ⟨2, 0, 0, 0⟩ }, { accRec FP32 with baseb := 0x41 }, accRec BF16,
        { accRec FP32 with fmta := BitVec.ofNat 8 BF16 }, accRec E2M1, { accRec FP32 with fl := { fl0 with sr := true } },
        { accRec BF16 with scalea := 2, fl := { fl0 with bs := true } }],
      MatReady s (matFeats r true true []) (matCheck3 s r true true true false) false r) ∧
    Least (fun a => (2 : Nat) ≤ 4 ∧ ∃ q < 2, a = (0x41 : Int) + (q : Nat) * 0x100 ∧ a % 4 ≠ 0) 0x41 := by
  refine ⟨?_, by decide +kernel, ?_, ?_, ⟨⟨by decide, 0, by decide, by decide, by decide⟩, ?_⟩⟩
  · intro r h
    fin_cases h <;> (repeat' first | decide +kernel | constructor)
  · intro r h
    fin_cases h <;> (repeat' first | decide +kernel | constructor)
  · intro r h
    fin_cases h <;> (repeat' first | decide +kernel | constructor)
  · rintro b ⟨-, q, hq, rfl, -⟩
    omega
/-- One dimension of n elements of a format at 0x4000, a stride apart, its scales at 0x6000; a window over all of them. -/
def wide (fmt n str : Nat) : Mem :=
  writeN (writeN (writeN (writeN (writeN (writeN [] 0x2000 8 (7 + fmt * 2 ^ 32 + 2 ^ 40)) 0x2008 8 (2 ^ 63 + 0x4000)) 0x2010 8 (if isMX fmt then 2 ^ 63 + 0x6000 else 0)) 0x2040 4 n)
    0x2080 8 str) 0x2140 4 n

def wideFetch (fmt n : Nat) (str : Int) : XFetch := ⟨⟨7, fmt, 1, false, 2 ^ 63 + 0x4000, if isMX fmt then 2 ^ 63 + 0x6000 else 0, [n], [str]⟩, [0], [n], none, false⟩

def padHyps (k : XKind) (r : XRec) (feats : List Nat) (ofmt : Bool) (s : State) (f : XFetch) : Prop :=
  PadRecord s k r f ∧ MovReady s (movFeats r feats) (movCheck3 s r false ofmt) r

/-- Runs of several bursts; MX blocks with their scales; elements converted, with stochastic rounding. -/
theorem witness_TransfersSendTheirElements_pieces :
    padHyps .load shaped [] true (movState (wide INT8 600 1)) (wideFetch INT8 600 1) ∧
      (cutPieces 256 (traverse shaped none 0 0 (wideFetch INT8 600 1) [0]) 0).map (fun p => (p.start, p.len)) = [(0, 256), (256, 256), (512, 88)] ∧
      (let r := { sent with fl := { xf0 with bscl := true } }
       padHyps .send r [] true (movState (wide MXE4M3 512 0)) (wideFetch MXE4M3 512 0) ∧ (destOf r.dest).here = true ∧ r.fl.sync = false) ∧
      (let r := { shaped with limit := BitVec.ofNat 32 BF16, fl := { xf0 with cvt := true, sr := true } }
       padHyps .load r [] true (movState (recPad FP32 4)) (fetched FP32 4) ∧ r.fl.cvt = true ∧ r.fl.sr = true) := by
  repeat' first | decide +kernel | constructor

/-- A SYNC SEND in a step that is open, of one piece. -/
theorem witness_TransfersSendTheirElements_sync :
    let r := { shaped with dest := BitVec.ofNat 64 (2 ^ 63), fl := { xf0 with sync := true } }
    let s := { onTile { Tile.reset with task := some 0, pad := recPad FP32 4, mov := { Mov.reset with run := some (aRun 0) }, stepOpen := some ⟨0, 100, 0⟩ } with
      tasks := [(0, placedTask)] }
    padHyps .send r [] true s (fetched FP32 4) ∧ r.fl.sync = true ∧
      (cutPieces (mostElems 32 false) (traverse r none 0 0 (fetched FP32 4) (recPerm .send r 1)) 0).length = 1 ∧ (tile s 0).stepOpen = some ⟨0, 100, 0⟩ ∧
      Nat.max (leaveAt s 0) 0 < 0 + 100 := by
  repeat' first | decide +kernel | constructor

/-- One element of FP32 at a VA, its shape record in the scratchpad. -/
def globalPad (va : Nat) : Mem :=
  writeN (writeN (writeN (writeN (writeN [] 0x2000 8 (7 + FP32 * 2 ^ 32 + 2 ^ 40)) 0x2008 8 va) 0x2040 4 1) 0x2080 8 4) 0x2140 4 1

def globalOne (va : Nat) : XFetch := ⟨⟨7, FP32, 1, false, va, 0, [1], [4]⟩, [0], [1], none, false⟩

/-- The same over one page of global memory, whose entry is e. -/
def globalState (e va : Nat) : State :=
  let s := checked e true false
  { s with tiles := [(0, { tile s 0 with pad := globalPad va, mov := { Mov.reset with run := some (aRun 0) } })] }

/-- Where the state after acceptance translates the element's address. -/
def accepted (k : XKind) (r : XRec) (f : XFetch) (s : State) (va : Nat) (wr : Bool) : Trans × State :=
  let s1 := movAccept r (some f) (dataChecks k r (popsMade s r)).2
  translate s1 0 true (ctxOf s1 0) va wr

theorem accepted_is {k : XKind} {r : XRec} {f : XFetch} {s : State} {va : Nat} {wr : Bool} {x : Trans} (h : (accepted k r f s va wr).1 = x) :
    let s1 := movAccept r (some f) (dataChecks k r (popsMade s r)).2
    translate s1 0 true (ctxOf s1 0) va wr = (x, (accepted k r f s va wr).2) := Prod.ext h rfl

/-- A LOAD whose element lies on a page with K, and one whose VA has no page. -/
theorem witness_TransfersSendTheirElements_global :
    let e := leaf 1 + 2 ^ 52
    let s := globalState e 8
    let s2 := (accepted .load shaped (globalOne 8) s 8 false).2
    dataWord (.load shaped) = some (.load, shaped, [], true) ∧ (dataChecks .load shaped (popsMade s shaped)).1 = .ok (some (globalOne 8)) ∧ (mov s).rep = none ∧
      MovReady s (movFeats shaped []) (movCheck3 s shaped false true) shaped ∧
      (allEls (traverse shaped none 0 0 (globalOne 8) (recPerm .load shaped 1))).map (fun p => srcAt p.1 p.2) = [[0]] ∧ inExt (globalOne 8).sh [0] = true ∧
      bitOf (globalOne 8).sh.base 63 = false ∧ (accepted .load shaped (globalOne 8) s 8 false).1 = .ok 0x30008 e ∧ unroutedAt s2 0x30008 = none ∧
      lostAt s2 0 0x30008 = false ∧ cleanLine (core s2 0) 0x30008 e = none ∧ isMX FP32 = false ∧ eK e = true ∧
      (let far := globalState e 0x100000
       (dataChecks .load shaped (popsMade far shaped)).1 = .ok (some (globalOne 0x100000)) ∧
        (accepted .load shaped (globalOne 0x100000) far 0x100000 false).1 = .fail) := by
  repeat' first | decide +kernel | constructor

/-- The checks, before the elements, of a record that writes. -/
def writerHyps (k : XKind) (r : XRec) (i : Instr) (s : State) (f : XFetch) : Prop :=
  dataWord i = some (k, r, [], false) ∧ (dataChecks k r (popsMade s r)).1 = .ok (some f) ∧ (mov s).rep = none ∧
    MovReady s (movFeats r []) (movCheck3 s r false false) r ∧
    (allEls (traverse r none 0 0 f (recPerm k r f.sh.ndim))).map (fun p => (srcAt p.1 p.2, dstAt p.1 p.2)) = [([0], [0])] ∧ inExt f.sh [0] = true

/-- A state with one element to write. -/
def writing (s : State) (pad : Mem) : State := { s with tiles := [(0, { tile s 0 with pad := pad, mov := { Mov.reset with run := some (aRun 0) } })] }

/-- A shape record in the scratchpad, and one at 0x2300 of one element at a VA. -/
def copyOut (va : Nat) : Mem :=
  writeN (writeN (writeN (writeN onePad 0x2300 8 (7 + FP32 * 2 ^ 32 + 2 ^ 40)) 0x2308 8 va) 0x2340 4 1) 0x2380 8 4

/-- STORE, FILL and COPY of one element to a VA: whether the page is absent, read-only, READDUP, an HC page of a task that may not write it, or
takes the element. -/
theorem witness_WritingRecords_global :
    ∀ x ∈ [(checked (leaf 2) true false, 0x100000, Trans.fail), (checked (leaf 2 - 2 ^ 53) true false, 8, .wprot), (duplicated [], 8, .collapse dupLeaf),
        (checked (leaf 2) false false, 8, .ok 0x30008 (leaf 2)), (checked (leaf 2) true false, 8, .ok 0x30008 (leaf 2))],
      (let r := { shaped with dest := BitVec.ofNat 64 x.2.1 }
       let s := writing x.1 onePad
       writerHyps .store r (.store r) s one ∧ bitOf one.sh.base 63 = true ∧ (accepted .store r one s x.2.1 true).1 = x.2.2) ∧
      (let s := writing x.1 (globalPad x.2.1)
       writerHyps .fill shaped (.fill shaped) s (globalOne x.2.1) ∧ bitOf x.2.1 63 = false ∧ (accepted .fill shaped (globalOne x.2.1) s x.2.1 true).1 = x.2.2) ∧
      (let r := { shaped with second := 0x8000000000002300 }
       let s := writing x.1 (copyOut x.2.1)
       let f := { one with dst := some (globalOne x.2.1).sh }
       writerHyps .copy r (.copy r) s f ∧ (accepted .copy r f s x.2.1 true).1 = x.2.2) := by
  intro x hx
  fin_cases hx <;> (repeat' first | decide +kernel | exact rfl | constructor)

/-- What the element that is taken finds. -/
theorem witness_WritingRecords_taken :
    let r := { shaped with dest := 8 }
    let s := writing (checked (leaf 2) true false) onePad
    let s2 := (accepted .store r one s 8 true).2
    (hdr s 0).killable = false ∧ (hdr s 0).hcstores = true ∧ isDense FP32 = false ∧ lostAt s2 0 0x30008 = false ∧ unroutedAt s2 0x30008 = none ∧
      (hdr (writing (checked (leaf 2) false false) onePad) 0).hcstores = false := by decide +kernel

/-- A translation that the move engine holds and the tables still give. -/
theorem translate_held {s : State} {ctx : Ctx} {va h ga : Nat} (hv : va < 2 ^ 56) (hc : tlbHit (tile s 0).mov.xtlb ctx.id va ++ tlbHit (die s (dieOf 0)).lltlb ctx.id va = [h])
    (hw : (walk s 0 ctx va true).1 = some h) (hp : eW h = true) (hd : eState h ≠ 3) (hg : gaOf s ctx va h = some ga) :
    translate s 0 true ctx va true = (.ok ga h, s) := by
  have h0 : ¬ 2 ^ 56 ≤ va := by omega
  rw [translate, if_neg h0]
  simp [entryFor, hc, hw, hp, hd, hg]

/-- A killable task's tile with unpublished stores and a STORE to make. -/
def fullMove (u : SMap Byte) : State :=
  let s := writing (checked (leaf 1) true true) onePad
  { s with tiles := [(0, { tile s 0 with core := { core s 0 with unpub := u }, mov := { mov s with xtlb := [⟨1, 0, 65536, leaf 1⟩] } })] }

/-- That state once the STORE is accepted. -/
def fullTaken (u : SMap Byte) : State :=
  let r := { shaped with dest := 8 }
  movAccept r (some one) (dataChecks .store r (popsMade (fullMove u) r)).2

theorem fullTaken_is (u : SMap Byte) : accepted .store { shaped with dest := 8 } one (fullMove u) 8 true = translate (fullTaken u) 0 true (ctxOf (fullTaken u) 0) 8 true := rfl

/-- The checks of a STORE whose shape record lies in the scratchpad leave the state as it is. -/
theorem dataChecks_still {r : XRec} {s : State} (h : isPad r.shape = true) : (dataChecks .store r s).2 = s := by
  unfold dataChecks fetchRecords fetchAt
  simp only [h, if_true]
  repeat' first | rfl | split
  all_goals simp_all

theorem fullTaken_core (u : SMap Byte) : (core (fullTaken u) 0).recUnpub = [] ∧ (core (fullTaken u) 0).unpub = u := by
  simp only [fullTaken]
  rw [dataChecks_still (by decide)]
  exact ⟨rfl, rfl⟩

/-- A killable task's STORE beyond the limit of unpublished lines. -/
theorem witness_WritingRecords_overfull :
    let r := { shaped with dest := 8 }
    let s := fullMove fullUnpub
    writerHyps .store r (.store r) s one ∧ (accepted .store r one s 8 true).1 = .ok 0x30008 (leaf 1) ∧
      overLimit (core (accepted .store r one s 8 true).2 0) 0x30008 = true ∧ (hdr s 0).killable = true := by
  have h : accepted .store { shaped with dest := 8 } one (fullMove fullUnpub) 8 true = (.ok 0x30008 (leaf 1), fullTaken fullUnpub) := by
    rw [fullTaken_is]
    exact translate_held (by decide) (by decide +kernel) (by decide +kernel) (by decide +kernel) (by decide +kernel) (by decide +kernel)
  refine ⟨?_, by rw [h], by rw [h]; exact overLimit_full (fullTaken_core _).1 (fullTaken_core _).2, by decide +kernel⟩
  repeat' first | decide +kernel | constructor

/-- A COPY from global memory, whose element can be read, and whose VA has no page. -/
theorem witness_WritingRecords_source :
    ∀ x ∈ [(8, Trans.ok 0x30008 (leaf 1)), (0x100000, .fail)],
      let r := { shaped with second := 0x8000000000002300 }
      let s := writing (checked (leaf 1) true false) (writeN (writeN (writeN (writeN (globalPad x.1) 0x2300 8 (7 + FP32 * 2 ^ 32 + 2 ^ 40)) 0x2308 8 (2 ^ 63 + 0x5000)) 0x2340 4 1) 0x2380 8 4)
      let f := { globalOne x.1 with dst := some ⟨7, FP32, 1, false, 2 ^ 63 + 0x5000, 0, [1], [4]⟩ }
      writerHyps .copy r (.copy r) s f ∧ bitOf f.sh.base 63 = false ∧ (accepted .copy r f s x.1 false).1 = x.2 ∧
        (x.1 = 8 → unroutedAt (accepted .copy r f s 8 false).2 0x30008 = none ∧ lostAt (accepted .copy r f s 8 false).2 0 0x30008 = false ∧
          cleanLine (core (accepted .copy r f s 8 false).2 0) 0x30008 (leaf 1) = none) := by
  intro x hx
  fin_cases hx <;> (repeat' first | decide +kernel | exact rfl | constructor)

/-- A COPY that converts, and one over its own bytes whose permutation moves elements. -/
theorem witness_WritingRecords_fold :
    (let r := { shaped with second := 0x8000000000002300, fl := { xf0 with cvt := true } }
     let g : Shape := ⟨8, INT16, 1, false, 2 ^ 63 + 0x5000, 0, [16], [2]⟩
     padHyps .copy r [] false (movState (writeN (writeN copyPad 0x2300 8 (8 + INT16 * 2 ^ 32 + 2 ^ 40)) 0x2380 8 2)) { copied with dst := some g } ∧
       bitOf g.base 63 = true ∧ isMX copied.sh.fmt = false) ∧
    (let sh : Shape := ⟨7, INT8, 2, false, 2 ^ 63 + 0x4000, 0, [4, 4], [1, 4]⟩
     let pad := writeN (writeN (writeN (writeN (writeN (writeN [] 0x2000 8 (7 + INT8 * 2 ^ 32 + 2 * 2 ^ 40)) 0x2008 8 (2 ^ 63 + 0x4000)) 0x2040 8 (4 + 4 * 2 ^ 32)) 0x2080 8 1) 0x2088 8 4)
       0x2140 8 (4 + 4 * 2 ^ 32)
     let r := { shaped with second := 0x8000000000002000, fl := { xf0 with trn := true } }
     padHyps .copy r [] false (movState pad) ⟨sh, [0, 0], [4, 4], some sh, false⟩ ∧ permOf r 2 ≠ List.range 2) := by
  repeat' first | decide +kernel | constructor

/-- MX elements with their block's scale, to a PHASE page whose translation the move engine holds. -/
theorem witness_WritingRecords_scaled :
    let r := { shaped with dest := 0x1000, second := 0x2000 }
    let s := { twoPaged with tiles := [(0, { tile twoPaged 0 with pad := wide MXE4M3 32 0 })] }
    let f := wideFetch MXE4M3 32 0
    let els := (allEls (traverse r none 0 0 f (List.range 1))).filter (fun p => inExt f.sh (srcAt p.1 p.2))
    padHyps .store r [] false s f ∧ els.length = 32 ∧ (els.map (fun p => (elemOff f.sh (srcAt p.1 p.2)).1)) = (List.range 32).map (fun i => (i : Int)) ∧
      (∀ va ∈ [0x1000, 0x101F, 0x2000], lostAt s 0 (0x30000 + va) = false ∧ unroutedAt s (0x30000 + va) = none ∧
        translate s 0 true (ctxOf s 0) va true = (.ok (0x30000 + va) (leaf 1), s)) ∧
      (linesOf (closeRecord (core s 0)).unpub).length + 3 * els.length < 65536 := by
  repeat' first | decide +kernel | constructor

/-- The move engine of a task that declares one scalar register pair and one map slot, free, on a tile or a sequencer. -/
def movLimited (a : Nat) (pad : Mem) : State :=
  { State.reset with
    cur := a
    tiles := [(a, { Tile.reset with task := some 0, pad := pad, core := { Core.reset with run := .running }, mov := { Mov.reset with run := some (aRun 0) } })]
    tasks := [(0, { placedTask with hdr := { placedTask.hdr with sregs := 2, maps := 1 } })] }

/-- A record of a disabled feature; one whose token register, whose map slot and whose output format is not there. -/
theorem witness_MoveRecordsAcceptAndComplete_declared :
    let s := movLimited 0 []
    MovFree s ∧ moveWord (.reds x0) = some ⟨x0, true, [9], false, true⟩ ∧ (⟨x0, true, [9], false, true⟩ : MovUse).Needs 9 ∧
      (∀ n < 9, ¬(⟨x0, true, [9], false, true⟩ : MovUse).Needs n) ∧ feature { s with dev := { s.dev with featen := [] } } 9 = false ∧
      MovFree { s with dev := { s.dev with featen := [] } } ∧ (∀ n < 10, feature s n = true) ∧ (hdr s 0).sregs = 2 ∧ (hdr s 0).maps = 1 ∧
      moveWord (.mapset { x0 with slot := 1 }) = some ⟨{ x0 with slot := 1 }, false, [], true, false⟩ ∧
      (let r := { x0 with limit := 0x05, fl := { xf0 with cvt := true } }
       moveWord (.load r) = some ⟨r, true, [], false, true⟩ ∧ fmtWidth (r.limit.toNat % 256) = 0) := by
  refine ⟨?_, rfl, .inl (by decide), ?_, ?_⟩
  · constructor <;> decide +kernel
  · simp [MovUse.Needs, x0, xf0]; omega
  · repeat' first | decide +kernel | constructor

/-- Records whose bits break a limit. -/
theorem witness_MoveRecordsAcceptAndComplete_bits :
    (∀ x ∈ ([({ xf0 with sr := true }, 0, 0), ({ xf0 with fpr := true }, 0, 0), ({ xf0 with bscl := true, cvt := true }, 0, 0),
        ({ xf0 with trn := true }, 0x100, 0), (xf0, 0, 1), (xf0, 1, 0), ({ xf0 with cvt := true }, 0x08, 0), ({ xf0 with cvt := true }, 0x0B, 0)] : List (XFlags × BitVec 32 × BitVec 12)),
      let r : XRec := { shaped with fl := x.1, limit := x.2.1, step := ⟨⟨0, 0⟩, ⟨0, x.2.2⟩, ⟨0, 0⟩, ⟨0, 0⟩⟩ }
      MovReady (movState []) (movFeats r []) (movCheck3 (movState []) r false true) r ∧
        ((levels r).map (fun l => decide (l.2.1.toNat ≤ 1) && l.2.2 != ⟨0, 0⟩)) = [false, x.2.2 != 0, false, false]) ∧
    (isSeq (movLimited 256 []).cur = true ∧ MovReady (movLimited 256 []) (movFeats shaped []) (movCheck3 (movLimited 256 []) shaped false true) shaped) ∧
    (∀ r ∈ [{ shaped with limit := 1 }, { shaped with second := 2 ^ 56 }, { shaped with dest := 2 ^ 56 }],
      MovReady (movState []) (movFeats r []) (movCheck3 (movState []) r false false) r) := by
  refine ⟨fun x h => ?_, ?_, fun r h => ?_⟩
  · fin_cases h <;> (repeat' first | decide +kernel | constructor)
  · repeat' first | decide +kernel | constructor
  · fin_cases h <;> (repeat' first | decide +kernel | constructor)

/-- A record with two misaligned pointers; one whose window ends beyond the scratchpad; a GATHER's list beyond it. -/
theorem witness_MoveRecordsAcceptAndComplete_pointers :
    (let r := { x0 with shape := 0x8000000000002010, window := 0x2108 }
     bitsBad .store (movState []) r = none ∧ MovReady (movState []) (movFeats r []) (movCheck3 (movState []) r false false) r ∧
       Least (fun x => (x = pointerAddr r.shape ∧ x % 64 ≠ 0) ∨ (x = r.window.toNat ∧ x % 64 ≠ 0) ∨
         (r.fl.crec = true ∧ x = r.crec.toNat ∧ x % 64 ≠ 0) ∨ (XKind.store = .copy ∧ x = pointerAddr r.second ∧ x % 64 ≠ 0) ∨
         (listKind .store = true ∧ x = pointerAddr r.second ∧ x % 4 ≠ 0)) 0x2010) ∧
    (let r := { shaped with window := 0xFFFC0 }
     bitsBad .store (movState []) r = none ∧ pointersAligned .store r = none ∧ (hdr (movState []) 0).scratch = 0x100000 ∧ (0xFFFC0 : Nat) + 128 = 0x100040) ∧
    (let r := { shaped with second := 0x80000000000FFFFC, limit := 0x20000 }
     bitsBad .gather (movState []) r = none ∧ pointersAligned .gather r = none ∧ listKind .gather = true ∧ isPad r.second = true ∧ padPtr r.second + 4 * entryCount r = 0x100004) := by
  refine ⟨⟨by decide +kernel, by (repeat' first | decide +kernel | constructor), .inl (by decide), ?_⟩, by decide +kernel, by decide +kernel⟩
  rintro b (⟨rfl, -⟩ | ⟨rfl, -⟩ | ⟨h, -⟩ | ⟨h, -⟩ | ⟨h, -⟩)
  all_goals first | decide | simp_all [x0, xf0, listKind]

/-- A shape record at a VA without a page, and at one of a device that has no route. -/
theorem witness_MoveRecordsAcceptAndComplete_fetch :
    (let r := { shaped with shape := 0x100000 }
     let s := writing (checked (leaf 2) true false) onePad
     bitsBad .load s r = none ∧ pointersAligned .load r = none ∧ pointersInside .load (hdr s 0).scratch r = none ∧ (mov s).rep = none ∧ isPad r.shape = false ∧
       MovReady s (movFeats r []) (movCheck3 s r false true) r ∧ (translate (popsMade s r) 0 true (ctxOf (popsMade s r) 0) 0x100000 false).1 = .fail) ∧
    (let r := { shaped with shape := 0x40 }
     let s := writing (peered 1 [] (regs [])) onePad
     MovReady s (movFeats r []) (movCheck3 s r false true) r ∧ (dataChecks .load r (popsMade s r)).1 = .error .hold) := by
  repeat' first | decide +kernel | exact rfl | constructor

/-- A level that moves in a dimension beyond the shape's; a shape that is not valid; elements outside the scratchpad. -/
theorem witness_MoveRecordsAcceptAndComplete_shape :
    (let r := { shaped with trip := ⟨0, 2, 0, 0⟩, step := ⟨⟨0, 0⟩, ⟨1, 1⟩, ⟨0, 0⟩, ⟨0, 0⟩⟩ }
     let s := movState (recPad INT8 1)
     MovReady s (movFeats r []) (movCheck3 s r false true) r ∧ bitsBad .load (popsMade s r) r = none ∧ pointersAligned .load r = none ∧
       pointersInside .load (hdr s 0).scratch r = none ∧ (fetchRecords .load r (popsMade s r)).1.toOption.map (fun w => (fetchedOf w).sh.ndim) = some 1 ∧
       (levels r).map (fun l => decide (1 < l.2.1.toNat) && decide (1 ≤ l.2.2.dim.val)) = [false, true, false, false]) ∧
    (let s := movState (writeN (recPad INT8 1) 0x2000 8 (7 + INT8 * 2 ^ 32 + 17 * 2 ^ 40))
     MovReady s (movFeats shaped []) (movCheck3 s shaped false true) shaped ∧ bitsBad .load (popsMade s shaped) shaped = none ∧
       (fetchRecords .load shaped (popsMade s shaped)).1.toOption.map (fun w => (shapeOk w.sh, fetchedBad .load (popsMade s shaped) shaped (fetchedOf w))) = some (false, none)) ∧
    (let s := movState (writeN (recPad INT8 1) 0x2008 8 (2 ^ 63 + 0xFFFF8))
     MovReady s (movFeats shaped []) (movCheck3 s shaped false true) shaped ∧ bitsBad .load (popsMade s shaped) shaped = none ∧
       pointersAligned .load shaped = none ∧ pointersInside .load (hdr s 0).scratch shaped = none ∧
       (fetchRecords .load shaped (popsMade s shaped)).1.toOption.map (fun w =>
         let f := fetchedOf w
         (shapeOk w.sh, fetchedBad .load (popsMade s shaped) shaped f, invalidBad (mov (popsMade s shaped)) shaped w f (knownRuns .load (mov (popsMade s shaped)) shaped f),
           (allEls (knownRuns .load (mov (popsMade s shaped)) shaped f)).map (fun q => ptrAddr f.sh.base + (elemOff f.sh (srcAt q.1 q.2)).1))) =
         some (true, none, none, (List.range 16).map (fun i => 0xFFFF8 + (i : Int)))) := by
  repeat' first | decide +kernel | constructor

/-- An XREP at the bank's end, one before a record it may not repeat, and one whose level run once has a step. -/
theorem witness_MoveRecordsAcceptAndComplete_repeat :
    (∀ pc ∈ [255, 0], let s := onTile { Tile.reset with mov := { Mov.reset with run := some (aRun pc) } }
      MovReady s [] (movCheck3 s x0 false false) x0 ∧ (mov s).run = some (aRun pc) ∧
        (256 ≤ (aRun pc).pc + 1 ∨ bits (fetchX s 0 ((aRun pc).pc + 1)) 511 504 ∈ [0x00, 0x01, 0x02, 0x15, 0x18, 0x19, 0x1A, 0x1B, 0x1C]) ∧
        (levels x0).all (fun l => l.2.2 == ⟨0, 0⟩) = true) ∧
    (let r := { x0 with step := ⟨⟨0, 0⟩, ⟨0, 1⟩, ⟨0, 0⟩, ⟨0, 0⟩⟩ }
     MovReady (movState []) [] (movCheck3 (movState []) r false false) r) := by
  refine ⟨fun pc h => ?_, ?_⟩
  · fin_cases h <;> (repeat' first | decide +kernel | constructor)
  · repeat' first | decide +kernel | constructor

/-- SIGNALs of a code above 4, to no page, to a page without write permission, to a page that is no HC page and from a killable task; WELLRDs of
33 records, of a sequencer, to a place outside the scratchpad and to one whose end is. -/
theorem witness_MoveRecordsAcceptAndComplete_signal :
    (∀ x ∈ [(checked (leaf 2) true false, 0x100000, Trans.fail), (checked (leaf 2 - 2 ^ 53) true false, 8, .wprot), (checked (leaf 1) true false, 8, .ok 0x30008 (leaf 1)),
        (checked (leaf 2) true true, 8, .ok 0x30008 (leaf 2))],
      let r := { x0 with dest := BitVec.ofNat 64 x.2.1, second := 3, limit := 4 }
      let s := writing x.1 []
      MovReady s [] (movCheck3 s r false false) r ∧ (translate (popsMade s r) 0 true (ctxOf (popsMade s r) 0) x.2.1 true).1 = x.2.2) ∧
    eClass (leaf 1) ≠ 2 ∧ (hdr (writing (checked (leaf 2) true true) []) 0).killable = true ∧
    (∀ r ∈ [{ x0 with limit := 5 }, { x0 with limit := 33 }, x0, { x0 with shape := 0x80000000000FFFC0 }],
      MovReady (movState []) [] (movCheck3 (movState []) r false false) r) ∧
    (let s := movLimited 256 []
     MovReady s [] (movCheck3 s x0 false false) x0 ∧ isSeq s.cur = true) ∧
    (let r := { x0 with shape := 0x80000000000FFFC0 }
     let s := onTile { Tile.reset with reed := { Reed.reset with well := [7] }, mov := { Mov.reset with run := some (aRun 0) } }
     MovReady s [] (movCheck3 s r false false) r ∧ isPad r.shape = true ∧ bits r.shape.toNat 62 20 = 0 ∧ 256 * wellCount r s = 256 ∧
       (hdr s 0).scratch < padPtr r.shape + 256) := by
  refine ⟨fun x h => ?_, by decide +kernel, by decide +kernel, fun r h => ?_, ?_, ?_⟩
  · fin_cases h <;> (repeat' first | decide +kernel | exact rfl | constructor)
  · fin_cases h <;> (repeat' first | decide +kernel | constructor)
  all_goals repeat' first | decide +kernel | constructor

/-- MAPSETs of a sequencer, and of a map record that is not in the scratchpad, misaligned, at its end, beyond it with its dimensions, and not
valid. -/
theorem witness_MoveRecordsAcceptAndComplete_map :
    (let s := movLimited 256 []
     MovReady s [] (movCheck3 s x0 true false) x0 ∧ isSeq s.cur = true) ∧
    (∀ p ∈ ([0, 0x8000000000002010, 0x8000000000100000, 0x80000000000FFFC0, 0x8000000000002000] : List Word),
      let r := { x0 with shape := p }
      let s := movState (writeN [] 0xFFFC8 8 1)
      MovReady s [] (movCheck3 s r true false) r ∧ isSeq s.cur = false ∧ (isPad r.shape = true ↔ p ≠ 0) ∧ (padPtr r.shape % 64 = 0 ↔ p ≠ 0x8000000000002010)) ∧
    mapOk (hdr (movState []) 0).scratch (feature (movState []) 7) (tile (movState []) 0).pad 0x2000 = false := by
  refine ⟨?_, fun p h => ?_, by decide +kernel⟩
  · repeat' first | decide +kernel | constructor
  · fin_cases h <;> (repeat' first | decide +kernel | constructor)

/-- A record completes under XREP with an inner repetition left, with an outer one left, and with none. -/
theorem witness_MoveRecordsAcceptAndComplete_left :
    ∀ o ∈ [(0, 0), (1, 0), (1, 1)],
      let m : Mov := { Mov.reset with run := some (aRun 3), busy := some { endedRec with last := false }, rep := some x0, xl0 := 2, xl1 := 2, o0 := o.1, o1 := o.2 }
      let s := onTile { Tile.reset with mov := m }
      (tile s 0).mov.busy = some { endedRec with last := false } ∧ movReady s 0 { endedRec with last := false } = some { endedRec with last := false } ∧
        (tile s 0).mov.parked = none ∧ (tile s 0).mov.paused = false ∧ roomFor (tile s 0).fifo endedRec.push = true := by decide +kernel

/-- Features that a word needs, disabled; and words of each. -/
theorem witness_RegisterWordsThatDoNotIssue_features :
    ∀ n ∈ [6, 7, 8, 12], feature { small with dev := { small.dev with featen := [(0, BitVec.ofNat 64 (0xFFFF - 2 ^ n))] } } n = false ∧ feature small n = true := by decide +kernel

/-- A budget overrun that waits at a word boundary. -/
theorem witness_AsynchronousTraps_overrun :
    (core (cpu { regs [] with async := [⟨0x0F, 0, 0⟩] }) 0).async = [⟨0x0F, 0, 0⟩] ∧ (core (cpu { regs [] with async := [⟨0x0F, 0, 0⟩] }) 0).run = .running ∧
      (core (cpu { regs [] with async := [⟨0x0F, 0, 0⟩] }) 0).wait = .none := by decide +kernel

/-- A scheduled CODE flit that waits for a busy vector engine, with a burst on its way, one at the port and a change to make. -/
theorem witness_HeadersReadyPushesAndMapChanges_blocked :
    let f : SyncFlit := ⟨1, 0, 0, 0, aBurst, 0, 0, 0, [(0, 0)]⟩
    let s0 := arriving [(4, mapOf 4 INT8 1)] 2 (portWith aBurst false none)
    let s := { s0 with sync := [f], transit := [aTransit], tiles := [(0, { tile s0 0 with vec := { Vec.reset with run := some (aRun 0) } })] }
    s.sync[0]? = some f ∧ (0, 0) ∈ f.dsts ∧ 0 ≤ s.now ∧ syncBefore s 0 (0, 0) = false ∧ codeHeld s 0 f.ctx f.b f.flit = true ∧
      transitTo 0 s.transit 0 0 = some (0, aTransit) ∧ aTransit.due ≤ s.now := by decide +kernel

/-- A malformed burst at a tile of its context, whose port is free. -/
theorem witness_HeadersReadyPushesAndMapChanges_malformed :
    let x : Transit := { aTransit with b := { aBurst with bscl := true } }
    let s := { State.reset with transit := [x], tiles := [(0, { Tile.reset with task := some 0 })], tasks := [(0, placedTask)] }
    transitTo 0 s.transit 0 0 = some (0, x) ∧ x.due ≤ s.now ∧ overtakes s.transit 0 x = false ∧ portHolds s 0 x = false ∧ reaches s x.src 0 = true ∧
      s.sync = [] ∧ (tile s 0).reed.port = none ∧ stale s x.src x.inc 0 x.b.kind = false ∧ malformed x.b = true ∧ x.co = none ∧ runsCtx s 0 x.ctx = true := by
  decide +kernel

/-- A scheduled flit of a context that the tile does not run; a burst of which an earlier flit has counted at a slot. -/
theorem witness_PayloadFlitsLand_strangers :
    let f : SyncFlit := ⟨1, 0, 5, 0, aBurst, 0, 0, 0, [(0, 0)]⟩
    let s := { arriving [] 2 (portWith aBurst false none) with sync := [f] }
    s.sync[0]? = some f ∧ (tile s 0).reed.taken ≤ s.now ∧ syncBefore s 0 (0, 0) = false ∧ codeHeld s 0 f.ctx f.b f.flit = false ∧
      f.inc = (die s (dieOf f.src)).incarn ∧ malformed f.b = false ∧ runsCtx s 0 f.ctx = false ∧
      (let b := { burstOf INT8 64 with flits := [1, 2] }
       let p := { portWith b false none with flit := 1 }
       let t0 := arriving [(4, mapOf 0 INT8 1)] 2 p
       let t := { t0 with tiles := [(0, { tile t0 0 with reed := { (tile t0 0).reed with counted := [(p.no, 4)] } })] }
       landsNow t p = true ∧ countedOf (tile t 0).reed p.no = [4] ∧ b.flits.length ≤ p.flit + 1) := by
  decide +kernel

/-! ### Collapses, graphs and schedulers -/

/-- A set with a device beyond the domain, whose staging memory is full, or has room. -/
def farSet (full : Bool) : State :=
  let s := duplicated []
  { s with mem := writeN (writeN s.mem 0x30104 8 (1024 * 2 ^ 32)) 0x30200 8 (2 ^ 63 + 1024), dev := { s.dev with routes := [1024], staging := if full then 2 ^ 24 else 0 } }

/-- No room for the request; an owner die that no link reaches. -/
theorem witness_ReaddupCollapses_room :
    (∀ full, let s := farSet full
      (core s 0).wait = .collapse 8 false ∧ dupEntry s (ctxOf s 0) 8 = some (dupLeaf, 0x16000) ∧
        dupSet s (ctxOf s 0) (eXref dupLeaf) s.dev.devid = some (false, [0, 1024]) ∧ diePath s 0 (eOwner dupLeaf) = true ∧
        reachesAll s (eOwner dupLeaf) (entryReads s (ctxOf s 0) 8 ++ tableReads s (ctxOf s 0) (ctxOf s 0).dsets ((ctxOf s 0).dsets + 64 * eXref dupLeaf) 64) = true ∧
        noRoom s 1024 collapseNote = full ∧ (s.dev.lost.contains 1024 = false ∧ routed s 1024 = true)) ∧
    (let e := dupLeaf + 2 ^ 50 + 2 ^ 32
     ∀ cs ∈ [[], [aCollapse false], [aCollapse true]], let s0 := duplicated cs
       let s := cut { s0 with mem := writeN s0.mem 0x16000 8 e }
       (core s 0).wait = .collapse 8 false ∧ (dupEntry s (ctxOf s 0) 8).map (fun p => (diePath s 0 (eOwner p.1), eOwner p.1)) = some (false, 1)) := by
  decide +kernel

/-- A device asked to redirect without an entry for the context; a frame whose records have completed, its writer routed; one without room
for the acknowledgement. -/
theorem witness_ReaddupCollapses_notes :
    (let s := duplicated []
     let q : CollapseReq := ⟨1, 8, 1, false, 77⟩
     linkedTo s q.writer = true ∧ noRoom s q.writer collapseNote = false ∧ routed s q.writer = true ∧ s.leaving = [] ∧ lookup s.dev.registry q.ctx = none) ∧
    (let l : Leaving := ⟨0, 0x30000, 0, [(3, 1)], 1, 1⟩
     let s := { duplicated [] with leaving := [l] }
     s.leaving = [l] ∧ (∀ r ∈ l.recs, r ∉ recordsInProgress s) ∧ noRoom s l.writer collapseNote = false ∧ routed s l.writer = true ∧ l.size < 2) ∧
    (let s0 := farSet false
     let s := { s0 with dev := { s0.dev with staging := 2 ^ 24 - 100 } }
     noRoom s 1024 collapseNote = false ∧ noRoom (sendNote s 1024 1) 1024 collapseNote = true) := by
  refine ⟨⟨by decide +kernel, ?_, by decide +kernel⟩, ⟨rfl, by decide +kernel, ?_, by decide +kernel⟩, by decide +kernel⟩
  all_goals
    have h : sameDomain (duplicated []) 1 = true := by decide +kernel
    have h2 : retryHeld (duplicated []) = 0 := by decide +kernel
  · simp [noRoom, stagingFull, h, h2]
  · simp only [noRoom, stagingFull]
    have h3 : sameDomain { duplicated [] with leaving := [⟨0, 0x30000, 0, [(3, 1)], 1, 1⟩] } 1 = true := by decide +kernel
    have h4 : retryHeld { duplicated [] with leaving := [⟨0, 0x30000, 0, [(3, 1)], 1, 1⟩] } = 0 := by decide +kernel
    simp [h3, h4]

/-- A graph whose context descriptor is refused as its node fires. -/
theorem witness_NodesFire_refused :
    ∀ k ∈ [NodeKind.launch 0 1 2 0 3, .signal 8 5 4, .endNode 8],
      let s0 := graphed (fires k) ⟨1, .going, []⟩ [] leafK
      let s := { s0 with mem := writeN s0.mem 0x40000 8 0 }
      part s 0 1 = some (fires k) ∧ diePath s 0 (homeDie (fires k).ctx) = true ∧ ctxAt s (fires k).ctx = none ∧ (runOf s 1).phase = .going ∧ runTasks s 1 = [] ∧
        lookup (fires k).nodes 0 = some ⟨k, 0, 1, 0, 0, false, 0, 0, 0, 0⟩ := by
  decide +kernel

/-- A straggler's node on a die that no path reaches. -/
theorem witness_QuorumJoins_unreachable :
    let p := { quorumGraph 1 0 0 0 with nodes := (quorumGraph 1 0 0 0).nodes.filter (fun e => e.1 != 0), dies := 3 }
    let s0 := graphed p ⟨1, .going, []⟩ [] leafK
    let s := cut { s0 with parts := [(1, p), (65536 + 1, { graph 1 with dies := 3, nodes := [(0, ⟨.launch 0 0 0 0 0, 0, 1, 0, 0, true, 0, 0, 0, 0⟩)] })] }
    preds s 1 0 1 = [(1, 0)] ∧ stragglers s 0 = [(1, 0)] ∧ diePath s 0 1 = false ∧ (nodeAt s 0 1 1).map (fun x => (x.qst, x.qset, x.graceAt)) = some (1, 0, 0) ∧ 4 ≤ s.now := by
  decide +kernel

/-- A ready task whose image lies on a page without K, and one whose image header is not valid; tiles that are halted or at the reeve core as their task's budget is used. -/
theorem witness_PreloadsKillsAndSaves_stopped :
    (∀ x ∈ [(leaf 2, 0x08), (leafK, 0x03)],
      let k : Task := { readyTask with gw := 1 }
      let s := { opened x.1 with tasks := [(0, placedTask), (3, k)], tiles := [(0, { Tile.reset with task := some 0, core := { Core.reset with run := .running } })] }
      lookup s.tasks 3 = some k ∧ k.state = .ready ∧ lowestFit s k (fun a => (taskOf s a).isSome && (tile s a).preload.isNone) = some 0 ∧
        ((readImage s k.die k.ctx k.d.image).2.toOption).isSome = false ∧
        (match (readImage s k.die k.ctx k.d.image).2 with | .error e => (e.1 == 0x08) == (x.2 == 0x08) | .ok _ => false) = true) ∧
    (∀ run ∈ [Run.halted, .reeve false], let s0 := spentState false
      let s := { s0 with tiles := [(0, { tile s0 0 with core := { core s0 0 with run := run } })] }
      lookup s.tasks 0 = some (spent false .running) ∧ (∀ a ∈ gangOf (spent false .running), killable (core s a).wait = true) ∧ (core s 0).run = run ∧
        (gangOf (spent false .running)).Nodup) := by
  decide +kernel

/-! ### Outside, resets, and words that do not decode -/

/-- A read, a write and an atomic of device 9, of a device that is up, linked; one whose ports retrain; one whose home is out of reach. -/
theorem witness_HostMemoryAccesses_peers :
    (∀ q ∈ [PeerAccess.read 0x30000 8, .write 0x30000 [1, 2], .atomic 0x30000 true .add 5 0, .write (2 ^ 38 - 2) [1, 2]],
      let s0 := opened leafK
      let s := { s0 with agenda := [.peer 9 q] }
      syncNow s = none ∧ s.agenda = .peer 9 q :: [] ∧ s.dev.stage = .up ∧ linkedTo s 9 = true ∧ q.span.1 + q.span.2 ≤ 2 ^ 38 ∧
        (diePieces q.span.1 q.span.2).all (fun p => wayOpen s (65536 + 9) (homeDie p.1) && !lostAt s (65536 + 9) p.1) = true ∧
        (let t := { s with dev := { s.dev with retraining := List.range' 8 16 } }; linkedTo t 9 = false) ∧
        (let t := cut s; (diePieces (2 ^ 36) 8).any (fun p => lostAt t (65536 + 9) p.1) = true ∧ wayOpen t (65536 + 9) 1 = true)) := by
  decide +kernel

/-- A SEMWAIT of die 0 that the die to reset holds. -/
theorem witness_ResetsAndPower_waits :
    let w : HeldWait := ⟨0, 2 ^ 36, 5, false⟩
    let s := { cpu (regs []) with waits := [w] }
    w ∈ s.waits ∧ w.agent < 256 ∧ dieOf w.agent ≠ 1 ∧ isLocal w.ga = true ∧ homeDie w.ga = 1 := by
  decide +kernel

/-- The word that each engine finds at its place: one that does not decode, and a place beyond its bank; the turn in focus after a cycle. -/
theorem witness_StepRunsTheDecodedUnit_undecodable :
    let un := fun (r : Except DecodeError Instr) => match r with | .error (.unassigned _) => 1 | .error (.reserved _) => 2 | .ok _ => 0
    let at_ := fun (c m x : Nat) (pc : Nat) => ({ onTile { Tile.reset with
      banks := { Banks.reset with cA := writeN [] 0 8 c, mA := writeN [] 0 64 m, xA := writeN [] 0 64 x, vA := writeN [] 0 16 (7) }
      mat := { Mat.reset with run := some (aRun pc) }, mov := { Mov.reset with run := some (aRun pc) }, vec := { Vec.reset with run := some (aRun (8 * pc)) },
      core := { Core.reset with pc := 32 * pc } } with focus := .matrix 0 } : State)
    let s := at_ (0xFE * 2 ^ 56) (0xFF * 2 ^ 504) (0xFF * 2 ^ 504) 0
    let r := at_ (2 ^ 63 - 2 ^ 56) (2 ^ 493) 1 0
    let e := at_ 0 0 0 256
    (s.agenda = [] ∧ s.focus = .matrix 0 ∧ syncNow s = none ∧ syncNow (passCycles 1 s) = none ∧ (tile (passCycles 1 s) 0).mat.run = some (aRun 0) ∧
      un (decodeM (fetchM (passCycles 1 s) 0 0)) = 1) ∧
    un (decodeAt s 0 0) = 1 ∧ un (decodeM (fetchM s 0 0)) = 1 ∧ un (decodeX (fetchX s 0 0)) = 1 ∧ seqScatter 0 (fetchX s 0 0) = none ∧
    un (decodeM (fetchM r 0 0)) = 2 ∧ un (decodeX (fetchX r 0 0)) = 2 ∧
    (match decodeV (fetchV s 0 0) with | .error _ => tokensFor (tile s 0).fifo (rawPops (fetchV s 0 0)) | .ok _ => false) = true ∧
    (core e 0).pc = 8192 ∧ (tile e 0).mat.run = some (aRun 256) ∧ (tile e 0).mov.run = some (aRun 256) ∧ (tile e 0).vec.run = some (aRun 2048) := by
  decide +kernel

/-- A SCATTER with SYNC at a sequencer's move engine. -/
theorem witness_StepRunsTheDecodedUnit_scatter :
    let w := 0x12 * 2 ^ 504 + 2 ^ 485
    (match decodeX w with | .error _ => seqScatter 256 w | .ok _ => none) = some { x0 with fl := { xf0 with sync := true } } := by
  decide +kernel

/-- A scheduled flit that falls due as the cycle passes. -/
theorem witness_StepRunsTheDecodedUnit_due :
    let s := { allUnits [] with sync := [⟨1, 0, 0, 0, aBurst, 0, 1, 0, [(0, 1)]⟩] }
    syncNow s = none ∧ s.agenda = [] ∧ syncNow (passCycles 1 s) = some 0 := by
  decide +kernel

end Sys2Proof.Machine.Tests
end

section
/-! PROOFS. Laws of traps and faults: what a precise trap of the control core and a fault of an engine leave (R75, R137, R138). -/

namespace Sys2Proof.Machine

/-! ## Traps of the control core, and faults of the engines -/

/-- A free value drawn leaves the part as it is (log entry 5). -/
theorem onlyTile_draw (s : State) (a : Nat) : OnlyTile a s (draw s).2 := ⟨fun _ _ => rfl, rfl, rfl, rfl, rfl, rfl, rfl, rfl⟩

theorem onlyCore_draw (s : State) (a : Nat) : OnlyCore a s (draw s).2 := ⟨onlyTile_draw s a, rfl, rfl, rfl, rfl, rfl, rfl, rfl⟩

theorem onlyTile_refl (s : State) (a : Nat) : OnlyTile a s s := ⟨fun _ _ => rfl, rfl, rfl, rfl, rfl, rfl, rfl, rfl⟩

theorem onlyCore_refl (s : State) (a : Nat) : OnlyCore a s s := ⟨onlyTile_refl s a, rfl, rfl, rfl, rfl, rfl, rfl, rfl⟩

theorem tile_progress (s : State) (a : Nat) : tile (progress s a) a = { tile s a with progress := true } :=
  tile_modTile_self s a _

theorem core_progress (s : State) (a : Nat) : core (progress s a) a = core s a := by
  rw [core, tile_progress]; rfl

theorem onlyCore_progress (s : State) (a : Nat) : OnlyCore a s (progress s a) where
  toOnlyTile := onlyTile_modTile s a _
  vec := by simp [progress]
  mat := by simp [progress]
  mov := by simp [progress]
  reed := by simp [progress]
  fifo := by simp [progress]
  pad := by simp [progress]
  banks := by simp [progress]

/-- A hold of the quag count is no business of the engines. -/
theorem holdCount_eq (t : Tile) : ∃ p st rep, holdCount t = { t with progress := p, stalled := st, reported := rep } := by
  unfold holdCount
  split
  · exact ⟨_, _, _, rfl⟩
  · exact ⟨_, _, _, rfl⟩

/-- What taking a trap leaves of the tile (R137, R378). -/
theorem tile_takeTrap (s : State) (a cause pc : Nat) (info src : Word) :
    ∃ p st rep run pc', tile (takeTrap s a cause pc info src) a =
      { tile s a with
        progress := p, stalled := st, reported := rep
        core := { core s a with
          trapCause := BitVec.ofNat 8 cause, trapPc := BitVec.ofNat 64 pc, trapInfo := info, trapSrc := src, trapIn := true
          wait := .none, afterGbar := false, pc := pc', run := run } } := by
  obtain ⟨p, st, rep, h⟩ := holdCount_eq (tile s a)
  rw [takeTrap, tile_modTile_self, show tile (withdraw s a) a = tile s a from rfl]
  by_cases hm : toHandler (tile s a).core cause = true
  · exact ⟨_, _, _, _, _, by simp only [hm, if_true]; rfl⟩
  · exact ⟨p, st, rep, _, _, by simp only [hm, h]; rfl⟩

theorem onlyCore_takeTrap (s : State) (a cause pc : Nat) (info src : Word) : OnlyCore a s (takeTrap s a cause pc info src) := by
  obtain ⟨p, st, rep, run, pc', h⟩ := tile_takeTrap s a cause pc info src
  exact
    { others := fun b hb => tile_modTile_ne _ _ hb
      mem := rfl, dies := rfl, tasks := rfl, dev := rfl, transit := rfl, now := rfl, agenda := rfl
      vec := by rw [h], mat := by rw [h], mov := by rw [h], reed := by rw [h], fifo := by rw [h], pad := by rw [h], banks := by rw [h] }

/-- A trap at the word at the core's place is precise: `u` is what has happened before it, such as a free value drawn. -/
theorem trapsBy_trapAt {s u : State} (hcur : u.cur = s.cur) (hcore : core u s.cur = core s s.cur) (hu : OnlyCore s.cur s u) (cause : Nat)
    (info : Word) : TrapsBy (trapAt cause (core s s.cur).pc info u) s s cause info := by
  intro hresp
  rw [trapAt_now (by rw [hcur, hcore, hresp]), hcur]
  obtain ⟨p, st, rep, run, pc', h⟩ :=
    tile_takeTrap (progress u s.cur) s.cur cause (core s s.cur).pc info (trapSrc 0 (core u s.cur).pc 0)
  rw [core_progress, hcore] at h
  refine ⟨_, rfl, ?_⟩
  rw [core, hcore, h]
  refine ⟨rfl, rfl, rfl, rfl, fun _ => rfl, fun _ => rfl, ?_⟩
  exact hu.trans ((onlyCore_progress u s.cur).trans (onlyCore_takeTrap ..))

/-! ## The fault of an engine: an asynchronous trap, or held while its run is speculative (R137, R269) -/

theorem tile_modVec_self (s : State) (a : Nat) (f : Vec → Vec) : tile (modVec s a f) a = { tile s a with vec := f (tile s a).vec } :=
  tile_modTile_self s a _

theorem tile_modMat_self (s : State) (a : Nat) (f : Mat → Mat) : tile (modMat s a f) a = { tile s a with mat := f (tile s a).mat } :=
  tile_modTile_self s a _

theorem tile_modMov_self (s : State) (a : Nat) (f : Mov → Mov) : tile (modMov s a f) a = { tile s a with mov := f (tile s a).mov } :=
  tile_modTile_self s a _

theorem tile_raiseAsync_self (s : State) (a cause : Nat) (info src : Word) : tile (raiseAsync s a cause info src) a =
    { tile s a with core := { core s a with async := (core s a).async ++ [⟨cause, info, src⟩], latch := true } } :=
  tile_modTile_self s a _

theorem onlyTile_raiseAsync (s : State) (a cause : Nat) (info src : Word) : OnlyTile a s (raiseAsync s a cause info src) :=
  (onlyCore_modCore ..).toOnlyTile

theorem onlyTile_engineFault (s : State) (a : Nat) (e : Engine) (cause : Nat) (info src : Word) :
    OnlyTile a s (engineFault s a e cause info src) := by
  have hold (f : Tile → Tile) : OnlyTile a s (modTile s a f) := onlyTile_modTile s a f
  cases e <;> (simp only [engineFault]; split; exacts [hold _, onlyTile_raiseAsync ..])

theorem engineFault_cur (s : State) (a : Nat) (e : Engine) (cause : Nat) (info src : Word) :
    (engineFault s a e cause info src).cur = s.cur := by
  cases e <;> (simp only [engineFault]; split) <;> rfl

theorem tile_engineFault_m {s : State} {a : Nat} {q : RunState} (h : (tile s a).mat.run = some q) (cause : Nat) (info src : Word) :
    tile (engineFault s a .m cause info src) a =
      if q.e.bank = .none then
        { tile s a with core := { core s a with async := (core s a).async ++ [⟨cause, info, src⟩], latch := true } }
      else { tile s a with mat := { (tile s a).mat with held := some ⟨cause, info, src⟩ } } := by
  simp only [engineFault, h, bne_iff_ne, ne_eq, ite_not]
  split
  · exact tile_raiseAsync_self ..
  · rw [tile_modMat_self, h]

theorem tile_engineFault_v {s : State} {a : Nat} {q : RunState} (h : (tile s a).vec.run = some q) (cause : Nat) (info src : Word) :
    tile (engineFault s a .v cause info src) a =
      if q.e.bank = .none then
        { tile s a with core := { core s a with async := (core s a).async ++ [⟨cause, info, src⟩], latch := true } }
      else { tile s a with vec := { (tile s a).vec with held := some ⟨cause, info, src⟩ } } := by
  simp only [engineFault, h, bne_iff_ne, ne_eq, ite_not]
  split
  · exact tile_raiseAsync_self ..
  · rw [tile_modVec_self, h]

theorem tile_engineFault_x {s : State} {a : Nat} {q : RunState} (h : (tile s a).mov.run = some q) (cause : Nat) (info src : Word) :
    tile (engineFault s a .x cause info src) a =
      if q.e.bank = .none then
        { tile s a with core := { core s a with async := (core s a).async ++ [⟨cause, info, src⟩], latch := true } }
      else { tile s a with mov := { (tile s a).mov with held := some ⟨cause, info, src⟩ } } := by
  simp only [engineFault, h, bne_iff_ne, ne_eq, ite_not]
  split
  · exact tile_raiseAsync_self ..
  · rw [tile_modMov_self, h]

/-! ## TRAPSRC of an engine's unit that has no number (R138) -/

theorem trapSrc_vector (pc : Nat) : trapSrc 1 pc 0 = BitVec.ofNat 64 (2 ^ 61 + pc % 2 ^ 13 * 2 ^ 48) := by simp [trapSrc]

theorem trapSrc_matrix (pc : Nat) : trapSrc 2 pc 0 = BitVec.ofNat 64 (2 ^ 62 + pc % 2 ^ 13 * 2 ^ 48) := by simp [trapSrc]

theorem trapSrc_move (pc : Nat) : trapSrc 3 pc 0 = BitVec.ofNat 64 (3 * 2 ^ 61 + pc % 2 ^ 13 * 2 ^ 48 + 0 % 2 ^ 48) := by simp [trapSrc]

/-- The vector engine stopped before a pair: what was in flight stands in the flight buffer (R178). -/
def vecStopped (v : Vec) : Vec :=
  { v with trapped := true, buffer := v.buffer ++ v.flight.map (fun f => { f with due := f.due - v.slot }), flight := [] }

/-- The matrix engine parked at a record (R186). -/
def matParked (m : Mat) : Mat := { m with parked := true }

/-- The move engine parked at a record with a token register (R256). -/
def movParked (treg cause : Nat) (m : Mov) : Mov := { m with parked := some (cause, treg) }

/-- A record the matrix engine stands at faults: `u` is what has happened before, such as a free value drawn. -/
theorem matFaultsBy_matFault {s u : State} (hcur : u.cur = s.cur) (htile : tile u s.cur = tile s s.cur) (hu : OnlyTile s.cur s u)
    (cause : Nat) (info : Word) : MatFaultsBy (.next (matFault cause info u)) s none cause info := by
  intro q hq hstop
  change (tile s s.cur).mat.run = some q at hq
  have hp : tile (modMat (progress u s.cur) s.cur matParked) s.cur =
      { tile s s.cur with progress := true, mat := matParked (tile s s.cur).mat } := by
    rw [tile_modMat_self, tile_progress, htile]
  have hf : matFault cause info u = engineFault (modMat (progress u s.cur) s.cur matParked) s.cur .m cause info
      (trapSrc 2 q.pc 0) := by
    simp only [matFault, hcur, htile, hq, hstop]; rfl
  have ho : OnlyTile s.cur s (matFault cause info u) := by
    rw [hf]
    exact hu.trans ((onlyTile_modTile ..).trans ((onlyTile_modTile ..).trans (onlyTile_engineFault ..)))
  have hc : (matFault cause info u).cur = s.cur := by rw [hf, engineFault_cur]; exact hcur
  have ht := tile_engineFault_m (by rw [hp]; exact hq) cause info (trapSrc 2 q.pc 0)
  rw [← hf, core, hp, trapSrc_matrix] at ht
  refine ⟨_, rfl, ?_⟩
  simp only [mat, core, hc]
  generalize matFault cause info u = t at ht ho
  by_cases hb : q.e.bank = .none
  · rw [if_pos hb] at ht
    rw [ht]
    exact ⟨rfl, rfl, rfl, rfl, rfl, rfl, rfl, rfl, hq, rfl, rfl, ho, fun _ => ⟨rfl, rfl⟩, fun h => absurd hb h⟩
  · rw [if_neg hb] at ht
    rw [ht]
    exact ⟨rfl, rfl, rfl, rfl, rfl, rfl, rfl, rfl, hq, rfl, rfl, ho, fun h => absurd h hb, fun _ => ⟨rfl, rfl⟩⟩

/-- A pair the vector engine stands at traps. -/
theorem vecTrapsBy_vecTrap {s u : State} (hcur : u.cur = s.cur) (htile : tile u s.cur = tile s s.cur) (hu : OnlyTile s.cur s u)
    (cause : Nat) (info : Word) : VecTrapsBy (vecTrap cause info u) s cause info := by
  intro q hq
  change (tile s s.cur).vec.run = some q at hq
  have hpc : vecPc (vec s) = q.pc := by simp only [vecPc, vec, hq]
  have hp : tile (modVec (progress u s.cur) s.cur vecStopped) s.cur =
      { tile s s.cur with progress := true, vec := vecStopped (tile s s.cur).vec } := by
    rw [tile_modVec_self, tile_progress, htile]
  obtain ⟨t, hf, htf⟩ : ∃ t, vecTrap cause info u = .next t ∧
      t = engineFault (modVec (progress u s.cur) s.cur vecStopped) s.cur .v cause info (trapSrc 1 q.pc 0) :=
    ⟨_, by simp only [vecTrap, hcur, htile, vecPc, hq]; rfl, rfl⟩
  have ho : OnlyTile s.cur s t := by
    rw [htf]
    exact hu.trans ((onlyTile_modTile ..).trans ((onlyTile_modTile ..).trans (onlyTile_engineFault ..)))
  have hc : t.cur = s.cur := by rw [htf, engineFault_cur]; exact hcur
  have ht := tile_engineFault_v (by rw [hp]; exact hq) cause info (trapSrc 1 q.pc 0)
  rw [← htf, core, hp, trapSrc_vector] at ht
  refine ⟨t, hf, ?_⟩
  rw [hpc]
  simp only [vec, core, hc]
  have kept : RegistersKept (tile s s.cur).vec (vecStopped (tile s s.cur).vec) := ⟨rfl, rfl, rfl, rfl, rfl, rfl, rfl, rfl⟩
  by_cases hb : q.e.bank = .none
  · rw [if_pos hb] at ht
    rw [ht]
    exact ⟨rfl, rfl, rfl, kept, rfl, rfl, fun _ => rfl, ho, fun _ => ⟨rfl, rfl⟩, fun h => absurd hb h⟩
  · rw [if_neg hb] at ht
    rw [ht]
    exact ⟨rfl, rfl, rfl, ⟨rfl, rfl, rfl, rfl, rfl, rfl, rfl, rfl⟩, rfl, rfl, fun _ => rfl, ho, fun h => absurd h hb, fun _ => ⟨rfl, rfl⟩⟩

/-- A record that the move engine has not accepted faults. -/
theorem movFaultsBy_movFault {s u : State} (hcur : u.cur = s.cur) (htile : tile u s.cur = tile s s.cur) (hu : OnlyTile s.cur s u)
    (hbusy : (mov s).busy = none) (hstop : movStopped (mov s) = false) (treg cause : Nat) (info : Word) :
    MovFaultsBy (.next (movFault treg cause info u)) s s treg none cause info := by
  intro q hq
  change (tile s s.cur).mov.run = some q at hq
  change (tile s s.cur).mov.busy = none at hbusy
  change movStopped (tile s s.cur).mov = false at hstop
  have hp : tile (modMov (progress u s.cur) s.cur (movParked treg cause)) s.cur =
      { tile s s.cur with progress := true, mov := movParked treg cause (tile s s.cur).mov } := by
    rw [tile_modMov_self, tile_progress, htile]
  have hf : movFault treg cause info u =
      engineFault (modMov (progress u s.cur) s.cur (movParked treg cause)) s.cur .x cause info (trapSrc 3 q.pc 0) := by
    simp only [movFault, hcur, htile, hstop, movPc, hq, hbusy]; rfl
  have ho : OnlyTile s.cur s (movFault treg cause info u) := by
    rw [hf]
    exact hu.trans ((onlyTile_modTile ..).trans ((onlyTile_modTile ..).trans (onlyTile_engineFault ..)))
  have hc : (movFault treg cause info u).cur = s.cur := by rw [hf, engineFault_cur]; exact hcur
  have ht := tile_engineFault_x (by rw [hp]; exact hq) cause info (trapSrc 3 q.pc 0)
  rw [← hf, core, hp, trapSrc_move] at ht
  refine ⟨_, rfl, ?_⟩
  simp only [MovTrap, mov, core, hc]
  generalize movFault treg cause info u = t at ht ho
  by_cases hb : q.e.bank = .none
  · rw [if_pos hb] at ht
    rw [ht]
    exact ⟨rfl, hbusy, rfl, rfl, rfl, hq, rfl, rfl, rfl, fun _ => rfl, ⟨fun _ => ⟨rfl, rfl⟩, fun h => absurd hb h⟩, ho⟩
  · rw [if_neg hb] at ht
    rw [ht]
    exact ⟨rfl, hbusy, rfl, rfl, rfl, hq, rfl, rfl, rfl, fun _ => rfl, ⟨fun h => absurd h hb, fun _ => ⟨rfl, rfl⟩⟩, ho⟩

end Sys2Proof.Machine
end

section
/-! PROOFS. What a turn does: the unit at the place of a core or an engine is decoded and executed, or traps (R75, R76, R226). -/

namespace Sys2Proof.Machine

/-! ## Turns -/

/-- The turn a step takes, and the state it is taken in, where no scheduled flit lands (R226, R296; log entry 1). -/
def TakesTurn (s : State) (u : Turn) (r : State) : Prop :=
  syncNow s = none ∧ ((∃ ts, s.agenda = u :: ts ∧ r = { s with agenda := ts }) ∨
    (s.agenda = [] ∧ s.focus = u ∧ r = passCycles 1 s ∧ syncNow r = none))

theorem step_of_takesTurn {s r : State} {u : Turn} (h : TakesTurn s u r) : step s = turn u r := by
  obtain ⟨hsync, ⟨ts, hag, rfl⟩ | ⟨hag, rfl, rfl, hdue⟩⟩ := h
  · simp only [step, takeTurn, hsync, hag]
  · simp only [step, takeTurn, hsync, hag, hdue]; rfl

/-- A scheduled flit that lands now comes first (R226). -/
theorem step_of_syncNow {s : State} {k : Nat} (h : syncNow s = some k) : step s = exec (.syncLanding k) s := by
  simp only [step, takeTurn, h]

/-- A flit that falls due on the new cycle lands before the turn in focus (R296). -/
theorem step_of_syncNow_passCycles {s : State} {k : Nat} (h : syncNow s = none) (hag : s.agenda = [])
    (hdue : syncNow (passCycles 1 s) = some k) : step s = exec (.syncLanding k) { passCycles 1 s with agenda := [s.focus] } := by
  simp only [step, takeTurn, h, hag, hdue]; rfl

/-! ### The control core -/

theorem tile_modTask (s : State) (u : Nat) (f : Task → Task) (b : Nat) : tile (modTask s u f) b = tile s b := by
  unfold modTask; split <;> rfl

theorem modTask_cur (s : State) (u : Nat) (f : Task → Task) : (modTask s u f).cur = s.cur := by
  unfold modTask; split <;> rfl

/-- At most the task is marked as begun. -/
theorem beginTask_cases (s : State) (a : Nat) : beginTask s a = s ∨ ∃ u f, beginTask s a = modTask s u f := by
  unfold beginTask
  cases (tile s a).task with
  | none => exact .inl rfl
  | some u =>
    dsimp only
    split_ifs
    · exact .inl rfl
    · exact .inr ⟨_, _, rfl⟩

theorem tile_beginTask (s : State) (a b : Nat) : tile (beginTask s a) b = tile s b := by
  obtain h | ⟨u, f, h⟩ := beginTask_cases s a
  · rw [h]
  · rw [h, tile_modTask]

theorem beginTask_cur (s : State) (a : Nat) : (beginTask s a).cur = s.cur := by
  obtain h | ⟨u, f, h⟩ := beginTask_cases s a
  · rw [h]
  · rw [h, modTask_cur]

theorem core_beginTask (s : State) (a b : Nat) : core (beginTask s a) b = core s b := by rw [core, tile_beginTask]; rfl

theorem decodeAt_beginTask (s : State) (a b pc : Nat) : decodeAt (beginTask s a) b pc = decodeAt s b pc := by
  simp only [decodeAt, fetchC, tile_beginTask]

/-- No kill is due, no asynchronous trap at a boundary, and the core waits for no event. -/
theorem coreTurn_quiet {r : State} {a : Nat} (hkill : ∀ k, taskOf r a = some k → k.killed = none) (hrun : (core r a).run = .running)
    (hasync : (core r a).async = [] ∨ atBoundary (core r a).wait = false) (hwait : eventWait (core r a).wait = false) :
    coreTurn a r = issueC a (beginTask (actFor a r) a) := by
  have hcore : core (actFor a r) a = core r a := rfl
  have hk : isKilled (actFor a r) a = false := by
    change (match taskOf r a with | some t => t.killed.isSome | none => false) = false
    cases h : taskOf r a with
    | none => rfl
    | some k => simp [hkill k h]
  have ha : ¬((!(core r a).async.isEmpty) = true ∧ atBoundary (core r a).wait = true) := by
    rintro ⟨h1, h2⟩
    obtain h | h := hasync
    · simp [h] at h1
    · simp [h] at h2
  simp only [coreTurn, hcore, hk, hrun, hwait, if_neg ha]
  simp

/-- A word that decodes is executed. -/
theorem issueC_ok {s : State} {a : Nat} {i : Instr} (hpc : (core s a).pc < 8192) (hd : decodeAt s a (core s a).pc = .ok i) :
    issueC a s = exec i s := by
  simp only [issueC, if_neg (Nat.not_le.2 hpc), hd]

theorem issueC_error {s : State} {a : Nat} {e : DecodeError} (hcur : s.cur = a) (hpc : (core s a).pc < 8192)
    (hd : decodeAt s a (core s a).pc = .error e) : TrapsBy (issueC a s) s s 0x01 (decodeInfo e) := by
  subst hcur
  simp only [issueC, if_neg (Nat.not_le.2 hpc), hd, trapWord]
  exact trapsBy_trapAt rfl rfl (onlyCore_refl ..) _ _

theorem issueC_beyond {s : State} {a : Nat} (hcur : s.cur = a) (hpc : 8192 ≤ (core s a).pc) :
    TrapsBy (issueC a s) s s 0x01 (draw s).1 := by
  subst hcur
  simp only [issueC, if_pos hpc]
  exact trapsBy_trapAt (s := s) (u := (draw s).2) rfl rfl (onlyCore_draw ..) _ _

/-! ### The matrix engine -/

/-- The engine is free to be offered the record at its place. -/
theorem matrixTurn_offers {r : State} {a : Nat} {q : RunState} (hpush : (tile r a).mat.push = none) (hpark : (tile r a).mat.parked = false)
    (hpause : (tile r a).mat.paused = false) (hrun : (tile r a).mat.run = some q) (hstop : q.stop = false) (hbusy : (tile r a).mat.busy = [])
    (hsafe : atSafept (core r a).wait = false) : matrixTurn a r = offerM a (actFor a r) := by
  have htile : tile (actFor a r) a = tile r a := rfl
  have hcore : core (actFor a r) a = core r a := rfl
  simp [matrixTurn, htile, hcore, hpush, hpark, hpause, hrun, hstop, hbusy, hsafe]

theorem offerM_ok {s : State} {a : Nat} {q : RunState} {i : Instr} (hrun : (tile s a).mat.run = some q) (hpc : q.pc < 256)
    (hd : decodeM (fetchM s a q.pc) = .ok i) : offerM a s = exec i s := by
  simp only [offerM, hrun, if_neg (Nat.not_le.2 hpc), hd]

theorem offerM_error {s : State} {a : Nat} {q : RunState} {e : DecodeError} (hcur : s.cur = a) (hrun : (tile s a).mat.run = some q)
    (hpc : q.pc < 256) (hd : decodeM (fetchM s a q.pc) = .error e) : MatFaultsBy (offerM a s) s none 0x01 (decodeInfo e) := by
  subst hcur
  simp only [offerM, hrun, if_neg (Nat.not_le.2 hpc), hd]
  exact matFaultsBy_matFault rfl rfl (onlyTile_refl ..) _ _

theorem offerM_beyond {s : State} {a : Nat} {q : RunState} (hcur : s.cur = a) (hrun : (tile s a).mat.run = some q) (hpc : 256 ≤ q.pc) :
    MatFaultsBy (offerM a s) s none 0x01 (draw s).1 := by
  subst hcur
  simp only [offerM, hrun, if_pos hpc]
  exact matFaultsBy_matFault (s := s) (u := (draw s).2) rfl rfl (onlyTile_draw ..) _ _

/-! ### The move engine -/

theorem moveTurn_offers {r : State} {a : Nat} {q : RunState} (hpush : (tile r a).mov.push = none) (hpark : (tile r a).mov.parked = none)
    (hpause : (tile r a).mov.paused = false) (hrun : (tile r a).mov.run = some q) (hstop : q.stop = false) (hbusy : (tile r a).mov.busy = none)
    (hsafe : atSafept (core r a).wait = false) : moveTurn a r = offerX a (actFor a r) := by
  have htile : tile (actFor a r) a = tile r a := rfl
  have hcore : core (actFor a r) a = core r a := rfl
  simp [moveTurn, htile, hcore, hpush, hpark, hpause, hrun, hstop, hbusy, hsafe]

section
variable {s : State} {a : Nat} {q : RunState} (hrun : (tile s a).mov.run = some q)
include hrun

theorem movPc_of_run : movPc (tile s a).mov = q.pc := by simp only [movPc, hrun]

theorem offerX_ok {i : Instr} (hpc : q.pc < 256) (hd : decodeX (fetchX s a q.pc) = .ok i) : offerX a s = exec i s := by
  simp only [offerX, movPc_of_run hrun, if_neg (Nat.not_le.2 hpc), hd]

/-- SCATTER with SYNC at a sequencer is executed to its own fault (R367; log entry 43). -/
theorem offerX_seqScatter {e : DecodeError} {x : XRec} (hpc : q.pc < 256) (hd : decodeX (fetchX s a q.pc) = .error e)
    (hs : seqScatter a (fetchX s a q.pc) = some x) : offerX a s = exec (.scatter x) s := by
  simp only [offerX, movPc_of_run hrun, if_neg (Nat.not_le.2 hpc), hd, hs]

variable (hcur : s.cur = a) (hstop : q.stop = false) (hbusy : (tile s a).mov.busy = none)
include hcur hstop hbusy

theorem offerX_error {e : DecodeError} (hpc : q.pc < 256) (hd : decodeX (fetchX s a q.pc) = .error e)
    (hs : seqScatter a (fetchX s a q.pc) = none) :
    MovFaultsBy (offerX a s) s s (bits (fetchX s a q.pc) 499 494) none 0x01 (decodeInfo e) := by
  subst hcur
  simp only [offerX, movPc_of_run hrun, if_neg (Nat.not_le.2 hpc), hd, hs, if_pos hpc]
  exact movFaultsBy_movFault rfl rfl (onlyTile_refl ..) hbusy (by simp only [movStopped, mov, hrun, hstop]) _ _ _

theorem offerX_beyond (hpc : 256 ≤ q.pc) : MovFaultsBy (offerX a s) s s 0 none 0x01 (draw s).1 := by
  subst hcur
  simp only [offerX, movPc_of_run hrun, if_pos hpc, if_neg (Nat.not_lt.2 hpc)]
  exact movFaultsBy_movFault (s := s) (u := (draw s).2) rfl rfl (onlyTile_draw ..) hbusy (by simp only [movStopped, mov, hrun, hstop]) _ _ _

end

/-! ### The vector engine -/

/-- The token bits of a pair that decodes are those its bits ask for (R65). -/
theorem popsOf_decodeV {w : Nat} {p : Pair} (h : decodeV w = .ok p) : popsOf p.tok = rawPops w := by
  unfold decodeV at h
  split at h
  · split at h
    · split at h
      · cases h; rfl
      · cases h
      · cases h
    · cases h
  · cases h

/-- A vector engine that looks at the pair at its place: no push waits, nothing is in flight, it neither drains nor stands still. -/
structure VecFetches (r : State) (a : Nat) (q : RunState) : Prop where
  push : (tile r a).vec.push = none
  flight : (tile r a).vec.flight = []
  trapped : (tile r a).vec.trapped = false
  run : (tile r a).vec.run = some q
  draining : (tile r a).vec.draining = false
  safept : atSafept (core r a).wait = false

section
variable {r : State} {a : Nat} {q : RunState} (h : VecFetches r a q)
include h

theorem vecPc_of_fetches : vecPc (tile r a).vec = q.pc := by simp only [vecPc, h.run]

theorem vectorTurn_beyond (hpc : 2048 ≤ q.pc) : VecTrapsBy (vectorTurn a r) (actFor a r) 0x01 (draw (actFor a r)).1 := by
  have htile : tile (actFor a r) a = tile r a := rfl
  have hcore : core (actFor a r) a = core r a := rfl
  have hv : vectorTurn a r = vecTrap 0x01 (draw (actFor a r)).1 (draw (actFor a r)).2 := by
    simp [vectorTurn, htile, hcore, h.push, h.flight, h.trapped, h.run, h.draining, h.safept, landDue, vecPc_of_fetches h, hpc]
  rw [hv]
  exact vecTrapsBy_vecTrap (s := actFor a r) (u := (draw (actFor a r)).2) rfl rfl (onlyTile_draw ..) _ _

variable (hpc : q.pc < 2048) (ht : tokensFor (tile r a).fifo (rawPops (fetchV r a q.pc)) = true)
include hpc ht

theorem vectorTurn_ok {p : Pair} (hd : decodeV (fetchV r a q.pc) = .ok p) : vectorTurn a r = issuePair a p (actFor a r) := by
  have htile : tile (actFor a r) a = tile r a := rfl
  have hcore : core (actFor a r) a = core r a := rfl
  have hfetch : fetchV (actFor a r) a q.pc = fetchV r a q.pc := rfl
  simp [vectorTurn, htile, hcore, h.push, h.flight, h.trapped, h.run, h.draining, h.safept, landDue, vecPc_of_fetches h, Nat.not_le.2 hpc,
    hfetch, ht, hd]

theorem vectorTurn_error {e : DecodeError} (hd : decodeV (fetchV r a q.pc) = .error e) :
    VecTrapsBy (vectorTurn a r) (actFor a r) 0x01 (decodeInfo e) := by
  have htile : tile (actFor a r) a = tile r a := rfl
  have hcore : core (actFor a r) a = core r a := rfl
  have hfetch : fetchV (actFor a r) a q.pc = fetchV r a q.pc := rfl
  have hv : vectorTurn a r = vecTrap 0x01 (decodeInfo e) (actFor a r) := by
    simp [vectorTurn, htile, hcore, h.push, h.flight, h.trapped, h.run, h.draining, h.safept, landDue, vecPc_of_fetches h, Nat.not_le.2 hpc,
      hfetch, ht, hd]
  rw [hv]
  exact vecTrapsBy_vecTrap (s := actFor a r) rfl rfl (onlyTile_refl ..) _ _

end

theorem issuePair_passes {s : State} {a : Nat} {p : Pair} (hk : rankOf a s (exec p.k s) = none) (hv : rankOf a s (exec p.v s) = none)
    (ht : tokensFor (tile s a).fifo (popsOf p.tok) = true) : issuePair a p s = andThen (exec p.v s) (exec p.k) := by
  simp only [issuePair, hk, hv, if_pos ht]

/-! ### Events -/

theorem eventTurn_next {r t : State} {i : Instr} (he : encode i = .event) (h : exec i r = .next t) :
    eventTurn i r = if t.awaited = r.awaited then .next t else .next (t.awaited.foldl askAway r) := by
  simp only [eventTurn, he, afterAwaited, h]

/-- Settles O55: the turn that a step takes is fixed by the agenda and the focus, and each kind of turn issues the unit at its place. -/
theorem stepRunsTheDecodedUnit : Obligations.StepRunsTheDecodedUnit := by
  unfold Obligations.StepRunsTheDecodedUnit
  dsimp only
  refine ⟨?core, ?matrix, ?move, ?vector, ?event, fun s k => ⟨step_of_syncNow, step_of_syncNow_passCycles⟩⟩
  case core =>
    rintro s r a hturn ⟨hkill, hrun, hasync, hwait⟩
    have hcur : (beginTask (actFor a r) a).cur = a := beginTask_cur ..
    have hcore : core (beginTask (actFor a r) a) a = core r a := core_beginTask ..
    have hdec (pc : Nat) : decodeAt (beginTask (actFor a r) a) a pc = decodeAt r a pc := decodeAt_beginTask ..
    rw [step_of_takesTurn hturn, show turn (.core a) r = coreTurn a r from rfl, coreTurn_quiet hkill hrun hasync hwait]
    refine ⟨fun i hpc hd => ?_, fun e hpc hd => ?_, fun hpc => ?_⟩
    · exact issueC_ok (by rwa [hcore]) (by rwa [hcore, hdec])
    · have h := issueC_error (e := e) hcur (by rwa [hcore]) (by rwa [hcore, hdec])
      cases e <;> exact h
    · exact issueC_beyond hcur (by rwa [hcore])
  case matrix =>
    intro s r a q hturn hpush hpark hpause hrun hstop hbusy hsafe
    rw [step_of_takesTurn hturn, show turn (.matrix a) r = matrixTurn a r from rfl,
      matrixTurn_offers hpush hpark hpause hrun hstop hbusy hsafe]
    refine ⟨fun i hpc hd => offerM_ok (s := actFor a r) hrun hpc hd, fun e hpc hd => ?_, fun hpc => offerM_beyond (s := actFor a r) rfl hrun hpc⟩
    have h := offerM_error (s := actFor a r) rfl hrun hpc hd
    cases e <;> exact h
  case move =>
    intro s r a q hturn hpush hpark hpause hrun hstop hbusy hsafe
    rw [step_of_takesTurn hturn, show turn (.move a) r = moveTurn a r from rfl,
      moveTurn_offers hpush hpark hpause hrun hstop hbusy hsafe]
    refine ⟨fun i hpc hd => offerX_ok (s := actFor a r) hrun hpc hd, fun e hpc hd hs => ?_,
      fun e x hpc hd hs => offerX_seqScatter (s := actFor a r) hrun hpc hd hs,
      fun hpc => offerX_beyond (s := actFor a r) hrun rfl hstop hbusy hpc⟩
    have h := offerX_error (s := actFor a r) hrun rfl hstop hbusy hpc hd hs
    cases e <;> exact h
  case vector =>
    intro s r a q hturn hpush hflight htrap hrun hdrain hsafe
    rw [step_of_takesTurn hturn, show turn (.vector a) r = vectorTurn a r from rfl]
    have hv : VecFetches r a q := ⟨hpush, hflight, htrap, hrun, hdrain, hsafe⟩
    refine ⟨fun p hpc hd hk hv' ht => ?_, fun e hpc hd ht => ?_, fun hpc => vectorTurn_beyond hv hpc⟩
    · rw [vectorTurn_ok hv hpc (by rwa [← popsOf_decodeV hd]) hd]
      exact issuePair_passes hk hv' ht
    · have h := vectorTurn_error hv hpc ht hd
      cases e <;> exact h
  case event =>
    intro s r i hturn he t h
    rw [step_of_takesTurn hturn]
    exact eventTurn_next he h

end Sys2Proof.Machine
end

section
/-! PROOFS. What reset leaves: tiles and dies that are not listed stand at their reset values. -/

namespace Sys2Proof.Machine

theorem tile_reset (a : Nat) : tile State.reset a = Tile.reset := rfl

theorem core_reset (a : Nat) : core State.reset a = Core.reset := rfl

theorem die_reset (d : Nat) : die State.reset d = Die.reset d := rfl

/-- FEATEN enables every feature of FEAT0's low half, and no other (R394). -/
theorem feature_reset (n : Nat) : feature State.reset n = decide (n < 16) := by
  by_cases h : n < 64
  · have key : ∀ k < 64, feature State.reset k = decide (k < 16) := by decide
    exact key n h
  · have hi : n / 64 ≠ 0 := by omega
    have hz : getAt (0 : Word) State.reset.dev.featen (n / 64) = 0 := by
      simp [getAt, lookup, State.reset, Dev.reset, hi]
    have hn : ¬ n < 16 := by omega
    rw [feature, hz]
    simp [bitOf, hn]

/-- Settles O59: nothing is listed, so every tile and die reads as its reset value; FEAT0 enables the features below 16. -/
theorem resetValues : Obligations.ResetValues := by
  unfold Obligations.ResetValues
  refine ⟨rfl, rfl, feature_reset, rfl, rfl, rfl, rfl, fun a => ?_, fun d => ⟨rfl, rfl, rfl, rfl, rfl⟩⟩
  rw [tile_reset, core_reset]
  exact ⟨rfl, rfl, rfl, rfl, rfl, rfl, rfl, fun _ => rfl, rfl, rfl⟩

end Sys2Proof.Machine
end

section
/-! PROOFS. The Reedbed between the flits: headers, ready pushes, map changes at flit boundaries (R213, R220, R225). -/

namespace Sys2Proof.Machine

/-! ## A scheduled flit held for a busy engine (R218, R226) -/

/-- A scheduled CODE flit whose turn has come at an agent's port waits there for a busy engine. -/
def FlitHeldAt (s : State) (a : Nat) : Prop :=
  ∃ k f c, s.sync[k]? = some f ∧ (a, c) ∈ f.dsts ∧ c ≤ s.now ∧ syncBefore s k (a, c) = false ∧ codeHeld s a f.ctx f.b f.flit = true

theorem mem_zip_range_iff {α : Type} (l : List α) (k : Nat) (x : α) : (k, x) ∈ (List.range l.length).zip l ↔ l[k]? = some x := by
  have hlt {n : Nat} {y : α} (h : l[n]? = some y) : (List.range l.length)[n]? = some n :=
    List.getElem?_range (List.getElem?_eq_some_iff.1 h).1
  rw [List.mem_iff_getElem?]
  constructor
  · rintro ⟨n, hn⟩
    obtain ⟨hk, hx⟩ := List.getElem?_zip_eq_some.1 hn
    rw [hlt hx] at hk
    obtain rfl : n = k := Option.some.inj hk
    exact hx
  · exact fun h => ⟨k, List.getElem?_zip_eq_some.2 ⟨hlt h, h⟩⟩

theorem syncHeld_iff (s : State) (a : Nat) : syncHeld s a = true ↔ FlitHeldAt s a := by
  simp only [syncHeld, List.any_eq_true, Bool.and_eq_true, beq_iff_eq, decide_eq_true_eq, Bool.not_eq_true']
  constructor
  · rintro ⟨⟨k, f⟩, hk, ⟨b, c⟩, hd, ⟨⟨rfl, hc⟩, hb⟩, hh⟩
    exact ⟨k, f, c, (mem_zip_range_iff ..).1 hk, hd, hc, hb, hh⟩
  · rintro ⟨k, f, c, hk, hd, hc, hb, hh⟩
    exact ⟨(k, f), (mem_zip_range_iff ..).2 hk, (a, c), hd, ⟨⟨rfl, hc⟩, hb⟩, hh⟩

theorem syncHeld_false {s : State} {a : Nat} (h : ¬FlitHeldAt s a) : syncHeld s a = false := by
  rwa [← syncHeld_iff, Bool.not_eq_true] at h

/-! ## Counters: a counter of a die counts one more, and nothing of the tiles nor on its way changes (R382) -/

theorem writeRecord_tiles (s : State) (g : List Nat) : (writeRecord s g).tiles = s.tiles := by
  unfold writeRecord; dsimp only; split <;> rfl

theorem writeRecord_transit (s : State) (g : List Nat) : (writeRecord s g).transit = s.transit := by
  unfold writeRecord; dsimp only; split <;> rfl

theorem writeRecord_dies (s : State) (g : List Nat) : (writeRecord s g).dies = s.dies := by
  unfold writeRecord; dsimp only; split <;> rfl

theorem bump_tiles (s : State) (d code : Nat) : (bump s d code).tiles = s.tiles := by
  unfold bump; dsimp only; split
  · exact writeRecord_tiles ..
  · rfl

theorem bump_transit (s : State) (d code : Nat) : (bump s d code).transit = s.transit := by
  unfold bump; dsimp only; split
  · exact writeRecord_transit ..
  · rfl

theorem counter_bump (s : State) (d code : Nat) : counter (bump s d code) d code = Nat.min (counter s d code + 1) (2 ^ 48 - 1) := by
  have hdies (t : State) (g : List Nat) : die (writeRecord t g) d = die t d := by rw [die, writeRecord_dies]; rfl
  have hmod : counter (modDie s d (fun x => { x with counters := insAt x.counters code (satAdd 48 (counter s d code) 1) })) d code =
      satAdd 48 (counter s d code) 1 := by
    rw [counter, modDie, die_putDie_self, getAt_insAt_self]
  unfold bump; dsimp only; split
  · rw [counter, event, hdies]
    exact hmod
  · exact hmod

/-! ## Headers (R213) -/

/-- A header that may not be taken stays on its way. -/
theorem headerFlitArrives_stays {s : State} {a k i : Nat} {x : Transit} (hx : transitTo a s.transit k 0 = some (i, x))
    (h : syncHeld s a = true ∨ overtakes s.transit i x = true ∨ portHolds s a x = true ∨ reaches s x.src a = false) :
    exec (.headerFlitArrives a k) s = .next s := by
  change execHeaderFlitArrives a k s = _
  simp only [execHeaderFlitArrives, hx]
  apply if_pos
  obtain h | h | h | h := h <;> simp [h]

/-- An earlier burst of its sender and receiver, of its dies, or of its device's agent goes first (R11, R14, R369). -/
theorem overtakes_of_earlier {ts : List Transit} {i j : Nat} {x y : Transit} (hj : j < i) (hy : ts[j]? = some y) (h : sameOrder y x = true) :
    overtakes ts i x = true :=
  List.any_eq_true.2 ⟨y, List.mem_iff_getElem?.2 ⟨j, by rw [List.getElem?_take_of_lt hj, hy]⟩, h⟩

/-- The header at the k-th place of a tile's arrivals may be taken now. -/
structure HeaderArrives (s : State) (a k i : Nat) (x : Transit) : Prop where
  first : transitTo a s.transit k 0 = some (i, x)
  due : x.due ≤ s.now
  ordered : overtakes s.transit i x = false
  unheld : portHolds s a x = false
  reached : reaches s x.src a = true
  unblocked : ¬FlitHeldAt s a
  portOpen : portOpen s.now (tile s a).reed = true

/-- The burst is no longer on its way. -/
def withoutTransit (s : State) (i : Nat) : State := { s with transit := s.transit.eraseIdx i }

theorem headerFlitArrives_comes {s : State} {a k i : Nat} {x : Transit} (h : HeaderArrives s a k i x) :
    exec (.headerFlitArrives a k) s =
      if stale s x.src x.inc a x.b.kind then .next (bump (withoutTransit s i) (dieOf a) 0x09)
      else if malformed x.b then .next (answerCo (loseBurst (withoutTransit s i) a x.ctx x.b) x.src x.inc x.co none)
      else .next (modReed (withoutTransit s i) a (takeHeader x s.now)) := by
  change execHeaderFlitArrives a k s = _
  simp only [execHeaderFlitArrives, h.first]
  rw [if_neg (by simp [h.portOpen, syncHeld_false h.unblocked, Nat.not_lt.2 h.due, h.ordered, h.unheld, h.reached])]
  rfl

/-! ## Ready pushes (R220) -/

theorem setSlot_of_lookup {t : Tile} {i : Nat} {sl : Slot} (h : lookup t.reed.slots i = some sl) (f : Slot → Slot) :
    setSlot i f t = { t with reed := { t.reed with slots := insAt t.reed.slots i (f sl) } } := by
  simp only [setSlot, h]

/-- What a ready push that has room leaves of its tile. -/
def pushed (t : Tile) (i : Nat) (sl : Slot) (m : MapRec) : Tile :=
  { t with
    fifo := pushInto t.fifo (readyTokens m), progress := true
    reed := { t.reed with slots := insAt t.reed.slots i { sl with push := false } } }

theorem readyPush_made {s : State} {a i : Nat} {sl : Slot} {m : MapRec} (hsl : lookup (tile s a).reed.slots i = some sl)
    (hm : sl.map = some m) (hpush : sl.push = true) (hroom : roomFor (tile s a).fifo (readyTokens m) = true) :
    exec (.readyPush a i) s = .next (putTile s a (pushed (tile s a) i sl m)) := by
  change execReadyPush a i s = _
  simp only [execReadyPush, hsl, hm, hpush, hroom, and_self, if_true]
  rw [setSlot_of_lookup (by exact hsl)]
  rfl

theorem onlyTile_modMov (s : State) (a : Nat) (f : Mov → Mov) : OnlyTile a s (modMov s a f) := onlyTile_modTile ..

theorem onlyTile_modReed (s : State) (a : Nat) (f : Reed → Reed) : OnlyTile a s (modReed s a f) := onlyTile_modTile ..

theorem onlyTile_putTile (s : State) (a : Nat) (t : Tile) : OnlyTile a s (putTile s a t) :=
  ⟨fun _ h => tile_putTile_ne s t h, rfl, rfl, rfl, rfl, rfl, rfl, rfl⟩

theorem slotOf_eq {s : State} {a i : Nat} {sl : Slot} (h : lookup (tile s a).reed.slots i = some sl) : slotOf s a i = sl := by
  simp only [slotOf, h, Option.getD_some]

/-! ## Map changes (R213, R225) -/

/-- No change comes while a flit stands resolved and waits for a busy engine (R218). -/
theorem mapChange_waits {s : State} {a : Nat} (h : FlitHeldAt s a ∨ ∃ p, (tile s a).reed.port = some p ∧ p.held = true) :
    exec (.mapChangeAtBoundary a) s = .next s := by
  change execMapChangeAtBoundary a s = _
  unfold execMapChangeAtBoundary
  dsimp only
  split
  · rfl
  · apply if_pos
    obtain h | ⟨p, hp, hh⟩ := h
    · simp [(syncHeld_iff s a).2 h]
    · simp [hp, hh]

/-- The Reedbed as a change of a slot finds it: no change waits any more, and nothing of the slot counts as set on this cycle. -/
def changing (i : Nat) (r : Reed) : Reed :=
  { r with
    change := none
    counted := r.counted.filter (fun c => c.2 != i)
    fresh := { r.fresh with ovf := r.fresh.ovf.filter (· != i) } }

/-- The record that waits for the boundary goes on; a swap's counts what the counter held. -/
def boundaryPassed (old : Option Nat) (m : Mov) : Mov :=
  { m with busy := m.busy.map (fun b =>
      { b with wait := if b.wait = .boundary then .nothing else b.wait, bits := match old with | some n => 8 * n | none => b.bits }) }

/-- The part after a change at the boundary: `r` is the Reedbed that the change leaves, with the old counter. -/
def mapChanged (s : State) (a : Nat) (r : Reed × Option Nat) : State :=
  modMov (progress (modReed s a (fun _ => r.1)) a) a (boundaryPassed r.2)

theorem tile_mapChanged (s : State) (a : Nat) (r : Reed × Option Nat) : tile (mapChanged s a r) a =
    { tile s a with reed := r.1, progress := true, mov := boundaryPassed r.2 (tile s a).mov } := by
  rw [mapChanged, tile_modMov_self, tile_progress, modReed, tile_modTile_self]

theorem onlyTile_mapChanged (s : State) (a : Nat) (r : Reed × Option Nat) : OnlyTile a s (mapChanged s a r) :=
  (onlyTile_modReed ..).trans ((onlyCore_progress ..).toOnlyTile.trans (onlyTile_modMov ..))

theorem mapChange_made {s : State} {a : Nat} {c : MapChange} (hc : (tile s a).reed.change = some c) (hb : ¬FlitHeldAt s a)
    (hp : ∀ p, (tile s a).reed.port = some p → p.held = false) :
    exec (.mapChangeAtBoundary a) s = .next (mapChanged s a (applyChange c (changing (changedSlot c) (tile s a).reed))) := by
  have hport : ¬((match (tile s a).reed.port with | some p => p.held | none => false) || syncHeld s a) = true := by
    rw [syncHeld_false hb, Bool.or_false]
    cases h : (tile s a).reed.port with
    | none => exact Bool.false_ne_true
    | some p => simp [hp p h]
  change execMapChangeAtBoundary a s = _
  unfold execMapChangeAtBoundary
  simp only [hc]
  exact if_neg hport

/-- The stray policy once a slot has a map, or none (R221). -/
def policyWith (m : Option MapRec) (policy : Nat) : Nat :=
  match m with | some m => if m.policy = 0 then policy else m.policy | none => policy

/-- What the record's count is of, in bits: eight times the old counter of a swap. -/
def bitsWith (old : Option Nat) (n : Nat) : Nat := match old with | some k => 8 * k | none => n

/-- A change that gives a slot a map, or none, starts the slot afresh: `old` is the counter a swap replaced. -/
structure ChangesTo (c : MapChange) (r : Reed) (i : Nat) (m shadow : Option MapRec) (old : Option Nat) : Prop where
  slots : (applyChange c r).1.slots = insAt r.slots i ⟨m, shadow, 0, false, 0, false, false, false⟩
  policy : (applyChange c r).1.policy = policyWith m r.policy
  change : (applyChange c r).1.change = r.change
  well : (applyChange c r).1.well = r.well
  old : (applyChange c r).2 = old

theorem keepPolicy_slots (m : MapRec) (r : Reed) : (keepPolicy m r).slots = r.slots := by unfold keepPolicy; split <;> rfl
theorem keepPolicy_change (m : MapRec) (r : Reed) : (keepPolicy m r).change = r.change := by unfold keepPolicy; split <;> rfl
theorem keepPolicy_well (m : MapRec) (r : Reed) : (keepPolicy m r).well = r.well := by unfold keepPolicy; split <;> rfl
theorem keepPolicy_policy (m : MapRec) (r : Reed) : (keepPolicy m r).policy = if m.policy = 0 then r.policy else m.policy := by
  unfold keepPolicy; split <;> rfl

/-- A slot's shadow, none where no slot is listed. -/
def shadowAt (r : Reed) (i : Nat) : Option MapRec := match lookup r.slots i with | some sl => sl.shadow | none => none

theorem shadowAt_reed (s : State) (a i : Nat) : shadowAt (tile s a).reed i = (slotOf s a i).shadow := by
  unfold slotOf shadowAt
  cases lookup (tile s a).reed.slots i <;> rfl

theorem changesTo_set (r : Reed) (i : Nat) (m : MapRec) : ChangesTo (.set i m) r i (some m) (shadowAt r i) none where
  slots := keepPolicy_slots ..
  policy := keepPolicy_policy ..
  change := keepPolicy_change ..
  well := keepPolicy_well ..
  old := rfl

theorem changesTo_clear (r : Reed) (i : Nat) : ChangesTo (.clear i) r i none (shadowAt r i) none := ⟨rfl, rfl, rfl, rfl, rfl⟩

theorem changesTo_swap {r : Reed} {i : Nat} {sl : Slot} (h : lookup r.slots i = some sl) :
    ChangesTo (.swap i) r i sl.shadow none (some sl.count) := by
  cases hm : sl.shadow with
  | none => constructor <;> simp [applyChange, h, hm, Slot.clear, policyWith]
  | some m => constructor <;> simp [applyChange, h, hm, Slot.clear, policyWith, keepPolicy_slots, keepPolicy_policy, keepPolicy_change, keepPolicy_well]

section
variable {s : State} {a i : Nat} {c : MapChange} {m shadow : Option MapRec} {old : Option Nat}
  (h : ChangesTo c (changing i (tile s a).reed) i m shadow old)
include h

theorem slots_mapChanged : (tile (mapChanged s a (applyChange c (changing i (tile s a).reed))) a).reed.slots =
    insAt (tile s a).reed.slots i ⟨m, shadow, 0, false, 0, false, false, false⟩ := by
  rw [tile_mapChanged]; exact h.slots

theorem slotOf_mapChanged_self : slotOf (mapChanged s a (applyChange c (changing i (tile s a).reed))) a i =
    ⟨m, shadow, 0, false, 0, false, false, false⟩ := by
  simp only [slotOf, slots_mapChanged h, lookup_insAt_self, Option.getD_some]

theorem slotOf_mapChanged_ne {j : Nat} (hj : j ≠ i) :
    slotOf (mapChanged s a (applyChange c (changing i (tile s a).reed))) a j = slotOf s a j := by
  simp only [slotOf, slots_mapChanged h, lookup_insAt_ne _ _ hj]

end

/-- The record that waits for the boundary goes on, with eight times the old counter's count. -/
theorem boundaryPassed_busy {x : Mov} {b : MovDone} (hb : x.busy = some b) (hw : b.wait = .boundary) (old : Option Nat) :
    (boundaryPassed old x).busy = some { b with wait := .nothing, bits := bitsWith old b.bits } := by
  simp only [boundaryPassed, hb, hw, Option.map_some, if_true]
  rfl

/-- What a change at a flit boundary leaves, and what it leaves unchanged. -/
theorem mapChange_effect {s : State} {a i : Nat} {c : MapChange} {m shadow : Option MapRec} {old : Option Nat}
    (hc : (tile s a).reed.change = some c) (hb : ¬FlitHeldAt s a) (hp : ∀ p, (tile s a).reed.port = some p → p.held = false)
    (hi : changedSlot c = i) (h : ChangesTo c (changing i (tile s a).reed) i m shadow old) :
    ∃ t, exec (.mapChangeAtBoundary a) s = .next t ∧ slotOf t a i = ⟨m, shadow, 0, false, 0, false, false, false⟩ ∧
      (∀ j, j ≠ i → slotOf t a j = slotOf s a j) ∧ (tile t a).reed.change = none ∧
      (tile t a).reed.policy = policyWith m (tile s a).reed.policy ∧
      (tile t a).reed.well = (tile s a).reed.well ∧ (tile t a).pad = (tile s a).pad ∧
      (∀ b, (tile s a).mov.busy = some b → b.wait = .boundary →
        (tile t a).mov.busy = some { b with wait := .nothing, bits := bitsWith old b.bits }) ∧
      (core t a) = (core s a) ∧ (∀ b, b ≠ a → tile t b = tile s b) ∧ t.mem = s.mem ∧ t.transit = s.transit := by
  subst hi
  have only := onlyTile_mapChanged s a (applyChange c (changing (changedSlot c) (tile s a).reed))
  refine ⟨_, mapChange_made hc hb hp, slotOf_mapChanged_self h, fun j => slotOf_mapChanged_ne h, ?_⟩
  rw [core, tile_mapChanged]
  exact ⟨h.change, h.policy, h.well, rfl, fun b hbusy hw => h.old ▸ boundaryPassed_busy hbusy hw _, rfl, only.others, only.mem, only.transit⟩

theorem takeHeader_free {r : Reed} (h : r.port = none) (x : Transit) (now : Nat) :
    takeHeader x now r = { r with heads := r.heads + 1, port := some (portOf x now (r.heads + 1)) } := by
  simp [takeHeader, h]

theorem takeHeader_behind {r : Reed} {q : Port} (h : r.port = some q) (x : Transit) (now : Nat) :
    takeHeader x now r = { r with heads := r.heads + 1, portNext := some (portOf x now (r.heads + 1)) } := by
  simp [takeHeader, h]

/-- The header is taken by a port that is free, or whose burst has arrived whole. -/
theorem headerFlitArrives_taken {s : State} {a k i : Nat} {x : Transit} (h : HeaderArrives s a k i x)
    (hstale : stale s x.src x.inc a x.b.kind = false) (hok : malformed x.b = false) :
    exec (.headerFlitArrives a k) s = .next (modReed (withoutTransit s i) a (takeHeader x s.now)) := by
  rw [headerFlitArrives_comes h, if_neg (by simp [hstale]), if_neg (by simp [hok])]

/-- A malformed burst is lost: its elements are counted (R207). -/
theorem headerFlitArrives_lost {s : State} {a k i : Nat} {x : Transit} (h : HeaderArrives s a k i x)
    (hstale : stale s x.src x.inc a x.b.kind = false) (hbad : malformed x.b = true) (hco : x.co = none) (hruns : runsCtx s a x.ctx = true) :
    exec (.headerFlitArrives a k) s = .next (modReed (withoutTransit s i) a (lose (Nat.min x.b.runlen 512))) := by
  have hctx : runsCtx (withoutTransit s i) a x.ctx = true := hruns
  rw [headerFlitArrives_comes h, if_neg (by simp [hstale]), if_pos hbad, hco]
  simp only [answerCo, loseBurst, hctx, if_true]

/-- A burst of an earlier incarnation is dropped and counted (R393). -/
theorem headerFlitArrives_stale {s : State} {a k i : Nat} {x : Transit} (h : HeaderArrives s a k i x)
    (hstale : stale s x.src x.inc a x.b.kind = true) :
    exec (.headerFlitArrives a k) s = .next (bump (withoutTransit s i) (dieOf a) 0x09) := by
  rw [headerFlitArrives_comes h]
  exact if_pos hstale

theorem portOpen_of_none {r : Reed} (h : r.port = none) (now : Nat) : portOpen now r = true := by simp only [portOpen, h]

/-- Two bursts of a class keep their order: one sender and receiver, one agent of another device, or one pair of dies (R11, R14, R369). -/
theorem sameOrder_of {x y : Transit} (hcls : y.cls = x.cls)
    (h : (y.src = x.src ∧ (y.dst = x.dst ∨ (65536 ≤ x.src ∧ y.num ≠ x.num))) ∨
      (endDie x.src ≠ endDie x.dst ∧ endDie y.src = endDie x.src ∧ endDie y.dst = endDie x.dst)) : sameOrder y x = true := by
  obtain ⟨hsrc, hdst | ⟨hdev, hnum⟩⟩ | ⟨hne, hsd, hdd⟩ := h
  · simp [sameOrder, hcls, hsrc, hdst]
  · simp [sameOrder, hcls, hsrc, hdev, hnum]
  · simp [sameOrder, hcls, hsd, hdd, hne]

/-- Settles O39: each event is taken apart by its guard (a header that stays, or comes; a push with room; a change that waits, or is made). -/
theorem headersReadyPushesAndMapChanges : Obligations.HeadersReadyPushesAndMapChanges := by
  unfold Obligations.HeadersReadyPushesAndMapChanges
  dsimp only
  refine ⟨⟨?header, ?push⟩, fun s a => mapChange_waits, ?change⟩
  case header =>
    intro s a k i x hx hdue
    refine ⟨?taken, ?earlier, ?stays, ?malformed, ?stale⟩
    case taken =>
      intro hord hheld hreach hb hstale hkind hok
      have taken (hopen : portOpen s.now (tile s a).reed = true) :
          exec (.headerFlitArrives a k) s = .next (modReed (withoutTransit s i) a (takeHeader x s.now)) :=
        headerFlitArrives_taken ⟨hx, hdue, hord, hheld, hreach, hb, hopen⟩ (by rwa [hkind]) hok
      have htile : tile (modReed (withoutTransit s i) a (takeHeader x s.now)) a =
          { tile s a with reed := takeHeader x s.now (tile s a).reed } := tile_modTile_self ..
      have hdue' : s.now + 1 + natOf x.b.ext + 2 = s.now + 3 + natOf x.b.ext := by omega
      refine ⟨fun hport => ⟨_, portOf x s.now ((tile s a).reed.heads + 1), ⟨taken ?_, ?_⟩, ?_⟩,
        fun q hport hnext hq hupto => ⟨_, portOf x s.now ((tile s a).reed.heads + 1), ⟨taken ?_, ?_⟩, ?_⟩⟩
      · exact portOpen_of_none hport _
      · rw [htile, takeHeader_free hport]
        exact ⟨rfl, rfl, rfl, rfl, rfl, rfl, hdue', rfl, rfl, rfl, rfl⟩
      · rw [htile, takeHeader_free hport]
      · simp only [portOpen, hport, hnext, hq]; simpa using hupto
      · rw [htile, takeHeader_behind hport]
        exact ⟨rfl, rfl, rfl, rfl, rfl, rfl, hdue', rfl, rfl, rfl, rfl⟩
      · rw [htile, takeHeader_behind hport]
        exact ⟨hport, rfl⟩
    case earlier =>
      rintro j y hj hy hcls horder
      exact headerFlitArrives_stays hx (.inr (.inl (overtakes_of_earlier hj hy (sameOrder_of hcls horder))))
    case stays =>
      rintro (h | h | h)
      · exact headerFlitArrives_stays hx (.inr (.inr (.inr h)))
      · exact headerFlitArrives_stays hx (.inr (.inr (.inl h)))
      · exact headerFlitArrives_stays hx (.inl ((syncHeld_iff s a).2 h))
    case malformed =>
      intro hord hheld hreach hb hport hstale hbad hco hruns
      refine ⟨_, headerFlitArrives_lost ⟨hx, hdue, hord, hheld, hreach, hb, portOpen_of_none hport _⟩ hstale hbad hco hruns, ?_⟩
      rw [show tile (modReed (withoutTransit s i) a (lose (Nat.min x.b.runlen 512))) a = _ from tile_modTile_self ..]
      exact ⟨rfl, rfl, rfl, rfl, hport, rfl⟩
    case stale =>
      intro hord hheld hreach hb hport hsrc hinc hdie
      have hst : stale s x.src x.inc a x.b.kind = true := by simp [stale, hsrc, hinc, hdie]
      refine ⟨_, headerFlitArrives_stale ⟨hx, hdue, hord, hheld, hreach, hb, portOpen_of_none hport _⟩ hst, ?_⟩
      exact ⟨bump_transit .., bump_tiles .., counter_bump ..⟩
  case push =>
    intro s a i sl m hsl hm hpush hroom
    refine ⟨_, readyPush_made hsl hm hpush hroom, ?_⟩
    have hslot : slotOf (putTile s a (pushed (tile s a) i sl m)) a i = { sl with push := false } :=
      slotOf_eq (by rw [tile_putTile_self]; exact lookup_insAt_self ..)
    rw [hslot, core, tile_putTile_self]
    exact ⟨rfl, rfl, rfl, rfl, rfl, rfl, onlyTile_putTile ..⟩
  case change =>
    intro s a hb hp
    refine ⟨fun i m hc => ?set, fun i hc => ?clear, fun i sl hc hsl => ?swap⟩
    case set =>
      have h := changesTo_set (changing i (tile s a).reed) i m
      rw [show shadowAt (changing i (tile s a).reed) i = (slotOf s a i).shadow from shadowAt_reed ..] at h
      exact mapChange_effect hc hb hp rfl h
    case clear =>
      have h := changesTo_clear (changing i (tile s a).reed) i
      rw [show shadowAt (changing i (tile s a).reed) i = (slotOf s a i).shadow from shadowAt_reed ..] at h
      exact mapChange_effect hc hb hp rfl h
    case swap =>
      exact mapChange_effect hc hb hp rfl (changesTo_swap hsl)

end Sys2Proof.Machine
end

section
/-! PROOFS. A forced reset of a die whose tile holds a dirty line that the reset also poisons (R286, R392). -/

namespace Sys2Proof.Machine

/-- A part just reset but for tile 0 of die 0, whose L1 holds dirty bytes of PRIV pages at 0 to 31: granule 0 of line 0. -/
def partWithDirtyGranule : State :=
  { State.reset with tiles := [(0, { Tile.reset with core := { Core.reset with dirty := (List.range 32).map (fun i => (i, 1)) } })] }

/-- Line 0 cannot be read and is poisoned; then the tile's dirty bytes go home over all of granule 0, which clears its poison. -/
theorem forceReset_clears_poison : 0 ∉ (forceReset 0 [] [0] partWithDirtyGranule).memPoison := by
  decide

/-- Refutes O54: a forced reset poisons the lines that cannot be read first, and only then do the dirty bytes of the die's tiles go home; a
granule that they cover whole is left unpoisoned, though no task exists and its line is among those that cannot be read. -/
theorem not_resetsAndPower : ¬ Obligations.ResetsAndPower := by
  unfold Obligations.ResetsAndPower
  rintro ⟨resets, -⟩
  obtain ⟨-, t, hexec, h⟩ := resets partWithDirtyGranule 0 [] [0] (by decide)
  obtain ⟨-, -, -, -, -, -, -, -, -, -, -, -, -, -, -, -, -, -, -, poisoned⟩ := h
  have ht : forceReset 0 [] [0] partWithDirtyGranule = t := Host.Outcome.next.inj hexec
  have hmem : 0 ∈ t.memPoison := poisoned rfl 0 (List.mem_singleton.2 rfl) rfl rfl 0 (by decide)
  exact forceReset_clears_poison (ht ▸ hmem)

end Sys2Proof.Machine
end

section
/-! PROOFS. Bit fields: when fields in place make up the bits of a unit, and what a field reads as. -/

namespace Sys2Proof.Encoding

/-- A field of a unit: its bits hi down to lo hold a value below a bound. -/
structure BitField where
  hi : Nat
  lo : Nat
  bound : Nat
  val : Nat
  lt : val < bound

/-- The number that shows the fields' values, each in place. -/
@[simp] def layout : List BitField → Nat
  | [] => 0
  | f :: r => f.val * 2 ^ f.lo + layout r

/-- The fields, highest first, cover the bits below top down to bot, each bit once, and the values that each may hold fit in it. -/
def tiles (bot : Nat) : Nat → List BitField → Bool
  | top, [] => top == bot
  | top, f :: r => f.hi + 1 == top && decide (f.lo ≤ f.hi) && decide (f.bound ≤ 2 ^ (f.hi + 1 - f.lo)) && tiles bot f.lo r

theorem tiles_cons {bot top : Nat} {f : BitField} {r : List BitField} :
    tiles bot top (f :: r) = true ↔ f.hi + 1 = top ∧ f.lo ≤ f.hi ∧ f.bound ≤ 2 ^ (f.hi + 1 - f.lo) ∧ tiles bot f.lo r = true := by
  simp [tiles, and_assoc]

theorem bot_le_of_tiles {bot : Nat} : ∀ {L : List BitField} {top : Nat}, tiles bot top L = true → bot ≤ top
  | [], _, h => (by simpa [tiles] using h : _ = _).ge
  | _ :: _, _, h => by
    obtain ⟨htop, hle, -, ht⟩ := tiles_cons.1 h
    have := bot_le_of_tiles ht
    omega

theorem layout_lt {bot : Nat} : ∀ {L : List BitField} {top : Nat}, tiles bot top L = true → layout L < 2 ^ top
  | [], top, _ => Nat.two_pow_pos top
  | f :: r, _, h => by
    obtain ⟨rfl, hle, hfits, ht⟩ := tiles_cons.1 h
    calc layout (f :: r) < f.val * 2 ^ f.lo + 2 ^ f.lo := Nat.add_lt_add_left (layout_lt ht) _
      _ = (f.val + 1) * 2 ^ f.lo := by ring
      _ ≤ 2 ^ (f.hi + 1 - f.lo) * 2 ^ f.lo := Nat.mul_le_mul_right _ (f.lt.trans_le hfits)
      _ = 2 ^ (f.hi + 1) := by rw [← Nat.pow_add, Nat.sub_add_cancel (by omega)]

/-- The bits of w below top down to bot, in place. -/
def segment (w top bot : Nat) : Nat := w / 2 ^ bot % 2 ^ (top - bot) * 2 ^ bot

theorem segment_lt (w : Nat) {top bot : Nat} (h : bot ≤ top) : segment w top bot < 2 ^ top := by
  calc segment w top bot < 2 ^ (top - bot) * 2 ^ bot :=
        Nat.mul_lt_mul_of_pos_right (Nat.mod_lt _ (Nat.two_pow_pos _)) (Nat.two_pow_pos _)
    _ = 2 ^ top := by rw [← Nat.pow_add, Nat.sub_add_cancel h]

theorem segment_whole {w n : Nat} (h : w < 2 ^ n) : segment w n 0 = w := by
  simp [segment, Nat.mod_eq_of_lt h]

/-- A segment is its highest field, in place, over the segment below it. -/
theorem segment_split (w : Nat) {hi lo bot : Nat} (h : lo ≤ hi) (hb : bot ≤ lo) :
    segment w (hi + 1) bot = fld w hi lo * 2 ^ lo + segment w lo bot := by
  have hwidth : hi + 1 - bot = lo - bot + (hi + 1 - lo) := by omega
  have hlo : 2 ^ bot * 2 ^ (lo - bot) = 2 ^ lo := by rw [← Nat.pow_add, Nat.add_sub_cancel' hb]
  rw [segment, segment, fld, hwidth, Nat.pow_add, Nat.mod_mul, Nat.div_div_eq_div_mul, hlo, ← hlo]
  ring

/-- Two numbers of the form x * n + y with y < n are equal exactly when their parts are. -/
theorem mul_add_eq_iff {n a b x y : Nat} (hx : x < n) (hy : y < n) : a * n + x = b * n + y ↔ b = a ∧ x = y := by
  constructor
  · intro e
    have h : (a * n + x) / n = (b * n + y) / n := congrArg (· / n) e
    rw [Nat.mul_comm a, Nat.mul_comm b, Nat.mul_add_div (by omega), Nat.mul_add_div (by omega), Nat.div_eq_of_lt hx,
      Nat.div_eq_of_lt hy] at h
    have hab : b = a := by omega
    subst hab
    exact ⟨rfl, Nat.add_left_cancel e⟩
  · rintro ⟨rfl, rfl⟩; rfl

/-- The one fact behind decoder and encoder: fields in place make up a unit's bits exactly when each holds what the unit has there. -/
theorem layout_eq_segment_iff (w : Nat) {bot : Nat} : ∀ {L : List BitField} {top : Nat}, tiles bot top L = true →
    (layout L = segment w top bot ↔ ∀ f ∈ L, fld w f.hi f.lo = f.val)
  | [], top, h => by simp [layout, segment, show top = bot by simpa [tiles] using h, Nat.mod_one]
  | f :: r, _, h => by
    obtain ⟨rfl, hle, -, ht⟩ := tiles_cons.1 h
    have hb := bot_le_of_tiles ht
    rw [layout, segment_split w hle hb, mul_add_eq_iff (layout_lt ht) (segment_lt w hb), layout_eq_segment_iff w ht, List.forall_mem_cons]

theorem layout_eq_iff (w n : Nat) {L : List BitField} (h : tiles 0 n L = true) :
    layout L = w ↔ w < 2 ^ n ∧ ∀ f ∈ L, fld w f.hi f.lo = f.val := by
  constructor
  · rintro rfl
    have hlt := layout_lt h
    exact ⟨hlt, (layout_eq_segment_iff _ h).1 (segment_whole hlt).symm⟩
  · rintro ⟨hw, hf⟩
    rw [(layout_eq_segment_iff w h).2 hf, segment_whole hw]

@[simp] theorem nb_false : nb false = 0 := rfl
@[simp] theorem nb_true : nb true = 1 := rfl
theorem nb_lt (b : Bool) : nb b < 2 := by cases b <;> decide
theorem fld_lt (w hi lo : Nat) : fld w hi lo < 2 ^ (hi + 1 - lo) := Nat.mod_lt _ (Nat.two_pow_pos _)

theorem ordCode_lt (o : Ord) : ordCode o < 4 := by cases o <;> decide
theorem scopeCode_lt (c : Scope) : scopeCode c < 8 := by cases c <;> decide
theorem sizeCode_lt (z : Size) : sizeCode z < 4 := by cases z <;> decide
theorem aopCode_lt (o : AOp) : aopCode o < 16 := by cases o <;> decide
theorem timelineCode_lt (t : Timeline) : timelineCode t < 4 := by cases t <;> decide
theorem condCode_lt (c : Cond) : condCode c < 8 := by cases c <;> decide

namespace BitField

/-- A number below b. -/
@[simps] def num (hi lo n : Nat) {b : Nat} (h : n < b) : BitField := ⟨hi, lo, b, n, h⟩

/-- A fixed number. -/
@[simps] def const (hi lo n : Nat) : BitField := ⟨hi, lo, n + 1, n, Nat.lt_succ_self n⟩

/-- Bits that are zero. -/
@[simps] def gap (hi lo : Nat) : BitField := ⟨hi, lo, 1, 0, Nat.zero_lt_one⟩

/-- One bit. -/
@[simps] def flag (i : Nat) (b : Bool) : BitField := ⟨i, i, 2, nb b, nb_lt b⟩

/-- A register, or another number below n. -/
@[simps] def fin (hi lo : Nat) {n : Nat} (x : Fin n) : BitField := ⟨hi, lo, n, x, x.isLt⟩

/-- An immediate. -/
@[simps] def imm (hi lo : Nat) {n : Nat} (x : BitVec n) : BitField := ⟨hi, lo, 2 ^ n, x.toNat, x.isLt⟩

/-- The order field of R62. -/
@[simps] def ord (o : Ord) : BitField := ⟨29, 28, 4, ordCode o, ordCode_lt o⟩

/-- The scope field of R62. -/
@[simps] def scope (c : Scope) : BitField := ⟨27, 25, 8, scopeCode c, scopeCode_lt c⟩

/-- The access size of R62, below the sign bit or with no sign bit above it. -/
@[simps] def size (hi : Nat) (z : Size) : BitField := ⟨hi, 30, 4, sizeCode z, sizeCode_lt z⟩

/-- The atomic operation of R62. -/
@[simps] def aop (o : AOp) : BitField := ⟨33, 30, 16, aopCode o, aopCode_lt o⟩

/-- The timeline of WAITTL (R124). -/
@[simps] def timeline (t : Timeline) : BitField := ⟨33, 30, 4, timelineCode t, timelineCode_lt t⟩

/-- A comparison condition (R73). -/
@[simps] def cond (hi lo : Nat) (c : Cond) : BitField := ⟨hi, lo, 8, condCode c, condCode_lt c⟩

end BitField

/-! ## What the fields of a unit read as -/

@[simp] theorem bit_eq_iff (w i : Nat) (b : Bool) : bit w i = b ↔ fld w i i = nb b := by
  have h : fld w i i = w / 2 ^ i % 2 := by simp [fld]
  rw [h, bit]
  rcases Nat.mod_two_eq_zero_or_one (w / 2 ^ i) with h | h <;> cases b <;> simp [h, nb]

theorem finOfNat_fld_eq_iff {n : Nat} [NeZero n] {w hi lo : Nat} {x : Fin n} (h : n = 2 ^ (hi + 1 - lo)) :
    Fin.ofNat n (fld w hi lo) = x ↔ fld w hi lo = x := by
  rw [Fin.ext_iff, Fin.val_ofNat, Nat.mod_eq_of_lt (h ▸ fld_lt w hi lo)]

@[simp] theorem bvOfNat_fld_eq_iff {n w hi lo : Nat} {x : BitVec n} (h : hi + 1 - lo = n) :
    BitVec.ofNat n (fld w hi lo) = x ↔ fld w hi lo = x.toNat := by
  rw [← BitVec.toNat_inj, BitVec.toNat_ofNat, Nat.mod_eq_of_lt (h ▸ fld_lt w hi lo)]

@[simp] theorem fin64_fld_eq_iff {w hi lo : Nat} {x : Fin 64} (h : hi + 1 - lo = 6) : fin64 (fld w hi lo) = x ↔ fld w hi lo = x :=
  finOfNat_fld_eq_iff (by rw [h]; rfl)
@[simp] theorem fin32_fld_eq_iff {w hi lo : Nat} {x : Fin 32} (h : hi + 1 - lo = 5) : fin32 (fld w hi lo) = x ↔ fld w hi lo = x :=
  finOfNat_fld_eq_iff (by rw [h]; rfl)
@[simp] theorem fin16_fld_eq_iff {w hi lo : Nat} {x : Fin 16} (h : hi + 1 - lo = 4) : fin16 (fld w hi lo) = x ↔ fld w hi lo = x :=
  finOfNat_fld_eq_iff (by rw [h]; rfl)
@[simp] theorem fin8_fld_eq_iff {w hi lo : Nat} {x : Fin 8} (h : hi + 1 - lo = 3) : fin8 (fld w hi lo) = x ↔ fld w hi lo = x :=
  finOfNat_fld_eq_iff (by rw [h]; rfl)

/-- A predicate, flag or mask register in a wider field. -/
theorem eq_fin8_iff (n : Nat) (x : Fin 8) : n = x ↔ n < 8 ∧ fin8 n = x := by
  rw [Fin.ext_iff, fin8, Fin.val_ofNat]
  have := x.isLt
  omega

theorem eq_fin16_iff (n : Nat) (x : Fin 16) : n = x ↔ n < 16 ∧ fin16 n = x := by
  rw [Fin.ext_iff, fin16, Fin.val_ofNat]
  have := x.isLt
  omega

theorem eq_fin3_iff (n : Nat) (x : Fin 3) : n = x ↔ n < 3 ∧ Fin.ofNat 3 n = x := by
  rw [Fin.ext_iff, Fin.val_ofNat]
  have := x.isLt
  omega

@[simp] theorem guardOf_eq_iff (w : Nat) (g : Guard) : guardOf w = g ↔ fld w 55 55 = nb g.neg ∧ fld w 54 52 = g.p := by
  cases g
  simp [guardOf]

@[simp] theorem emaskOf_eq_iff (w : Nat) (e : EMask) :
    emaskOf w = e ↔ fld w 39 39 = nb e.x ∧ fld w 38 38 = nb e.m ∧ fld w 37 37 = nb e.v := by
  cases e
  simp [emaskOf]

@[simp] theorem ordOf_fld_eq_iff {w hi lo : Nat} {o : Ord} (h : hi + 1 - lo = 2) : ordOf (fld w hi lo) = o ↔ fld w hi lo = ordCode o := by
  have hlt := fld_lt w hi lo
  rw [h] at hlt
  generalize fld w hi lo = n at hlt
  interval_cases n <;> cases o <;> decide

@[simp] theorem scopeOf_eq_some_iff (n : Nat) (c : Scope) : scopeOf n = some c ↔ n = scopeCode c := by
  constructor
  · unfold scopeOf; split <;> rintro ⟨⟩ <;> rfl
  · rintro rfl; cases c <;> rfl

@[simp] theorem sizeOf_eq_some_iff (n : Nat) (c : Size) : sizeOf? n = some c ↔ n = sizeCode c := by
  constructor
  · unfold sizeOf?; split <;> rintro ⟨⟩ <;> rfl
  · rintro rfl; cases c <;> rfl

@[simp] theorem aopOf_eq_some_iff (n : Nat) (c : AOp) : aopOf n = some c ↔ n = aopCode c := by
  constructor
  · unfold aopOf; split <;> rintro ⟨⟩ <;> rfl
  · rintro rfl; cases c <;> rfl

@[simp] theorem timelineOf_eq_some_iff (n : Nat) (t : Timeline) : timelineOf n = some t ↔ n = timelineCode t := by
  constructor
  · unfold timelineOf; split <;> rintro ⟨⟩ <;> rfl
  · rintro rfl; cases t <;> rfl

@[simp] theorem dOf_eq (w : Nat) : dOf w = fld w 51 46 := rfl
@[simp] theorem aOf_eq (w : Nat) : aOf w = fld w 45 40 := rfl
@[simp] theorem bOf_eq (w : Nat) : bOf w = fld w 39 34 := rfl
@[simp] theorem cOf_eq (w : Nat) : cOf w = fld w 33 28 := rfl
@[simp] theorem atD_eq (n : Nat) : atD n = n * 2 ^ 46 := rfl
@[simp] theorem atA_eq (n : Nat) : atA n = n * 2 ^ 40 := rfl
@[simp] theorem atB_eq (n : Nat) : atB n = n * 2 ^ 34 := rfl
@[simp] theorem atC_eq (n : Nat) : atC n = n * 2 ^ 28 := rfl
@[simp] theorem atCL_eq (szs ord scope off : Nat) : atCL szs ord scope off = szs * 2 ^ 30 + ord * 2 ^ 28 + scope * 2 ^ 25 + off := rfl

end Sys2Proof.Encoding
end

section
/-! PROOFS. Each format of R61 to R68: its parser reads exactly what its encoder makes. -/

namespace Sys2Proof.Encoding

/-! ## Formats of C words -/

/-- A format of C words: the parser reads an instruction from exactly the words the encoder makes of its operands. -/
def CFormat {α : Type} (parse : Nat → (α → Instr) → Option Instr) (enc : Nat → α → Nat) : Prop :=
  ∀ op < 256, ∀ w k i, (w < 2 ^ 64 ∧ fld w 63 56 = op) ∧ parse w k = some i ↔ ∃ o, k o = i ∧ enc op o = w

/-- The fields of a C word below its opcode and guard. -/
theorem cword_eq_iff {op : Nat} (hop : op < 256) (w : Nat) (g : Guard) {L : List BitField} (h : tiles 0 52 L = true) :
    headC op g + layout L = w ↔ (w < 2 ^ 64 ∧ fld w 63 56 = op) ∧ guardOf w = g ∧ ∀ f ∈ L, fld w f.hi f.lo = f.val := by
  have key := layout_eq_iff w 64 (L := .num 63 56 op hop :: .flag 55 g.neg :: .fin 54 52 g.p :: L) (by simpa [tiles] using h)
  simp only [layout, BitField.num_val, BitField.num_hi, BitField.num_lo, BitField.flag_val, BitField.flag_hi, BitField.flag_lo, BitField.fin_lo,
    BitField.fin_val, BitField.fin_hi, List.forall_mem_cons] at key
  rw [headC, guardOf_eq_iff, Nat.add_assoc, Nat.add_assoc, key]
  simp only [and_assoc]

/-- What a guarded parser reads, put as a fact about the operands. -/
theorem need_iff {α : Type} {A : Prop} {P : α → Prop} {t : Bool} {r : α} {k : α → Instr} {i : Instr}
    (h : ∀ o, P o ↔ A ∧ t = true ∧ r = o) : A ∧ need t (k r) = some i ↔ ∃ o, k o = i ∧ P o := by
  simp only [h, need]
  split <;> simp [*, and_comm]

/-- The same of a parser that first reads one coded value. -/
theorem bind_need_iff {α β : Type} {A : Prop} {P : α → Prop} {p : Option Instr} {k : α → Instr} {i : Instr}
    (b : Option β) {t : Bool} {r : β → α} (hp : p = b.bind fun x => need t (k (r x)))
    (h : ∀ o, P o ↔ A ∧ ∃ x, b = some x ∧ t = true ∧ r x = o) : A ∧ p = some i ↔ ∃ o, k o = i ∧ P o := by
  subst hp
  cases b with
  | none => simp [h]
  | some x => exact need_iff (by simpa using h)

/-- The same of a parser that first reads two coded values. -/
theorem bind_bind_need_iff {α β γ : Type} {A : Prop} {P : α → Prop} {p : Option Instr} {k : α → Instr} {i : Instr}
    (b : Option β) (c : Option γ) {t : Bool} {r : β → γ → α} (hp : p = b.bind fun x => c.bind fun y => need t (k (r x y)))
    (h : ∀ o, P o ↔ A ∧ ∃ x y, b = some x ∧ c = some y ∧ t = true ∧ r x y = o) : A ∧ p = some i ↔ ∃ o, k o = i ∧ P o := by
  cases b with
  | none => simp [h, hp]
  | some x => exact bind_need_iff c hp (by simpa using h)

theorem cFormat_rrr : CFormat parseRRR encRRR := fun op hop w k i =>
  need_iff fun ⟨g, d, a, b⟩ => by
    have h := cword_eq_iff hop w g (L := [.fin 51 46 d, .fin 45 40 a, .fin 39 34 b, .gap 33 0]) (by simp [tiles])
    simp [← Nat.add_assoc] at h
    simp [encRRR, h]
    tauto

theorem cFormat_rrrr : CFormat parseRRRR encRRRR := fun op hop w k i =>
  need_iff fun ⟨g, d, a, b, c⟩ => by
    have h := cword_eq_iff hop w g (L := [.fin 51 46 d, .fin 45 40 a, .fin 39 34 b, .fin 33 28 c, .gap 27 0]) (by simp [tiles])
    simp [← Nat.add_assoc] at h
    simp [encRRRR, h]
    tauto

theorem cFormat_sel : CFormat parseSel encSel := fun op hop w k i =>
  need_iff fun ⟨g, d, a, b, p⟩ => by
    have h := cword_eq_iff hop w g (L := [.fin 51 46 d, .fin 45 40 a, .fin 39 34 b, .fin 33 28 p, .gap 27 0]) (by simp [tiles])
    simp [← Nat.add_assoc] at h
    simp only [Bool.and_eq_true, decide_eq_true_eq]
    simp [encSel, h, eq_fin8_iff (fld w 33 28)]
    tauto

theorem cFormat_rr : CFormat parseRR encRR := fun op hop w k i =>
  need_iff fun ⟨g, d, a⟩ => by
    have h := cword_eq_iff hop w g (L := [.fin 51 46 d, .fin 45 40 a, .gap 39 0]) (by simp [tiles])
    simp [← Nat.add_assoc] at h
    simp [encRR, h]
    tauto

theorem cFormat_rri : CFormat parseRRI encRRI := fun op hop w k i =>
  need_iff fun ⟨g, d, a, n⟩ => by
    have h := cword_eq_iff hop w g (L := [.fin 51 46 d, .fin 45 40 a, .gap 39 34, .imm 33 0 n]) (by simp [tiles])
    simp [← Nat.add_assoc] at h
    simp [encRRI, h]
    tauto

theorem cFormat_shift : CFormat parseShift encShift := fun op hop w k i =>
  need_iff fun ⟨g, d, a, n⟩ => by
    have h := cword_eq_iff hop w g (L := [.fin 51 46 d, .fin 45 40 a, .gap 39 6, .fin 5 0 n]) (by simp [tiles])
    simp [← Nat.add_assoc] at h
    simp [encShift, h]
    tauto

theorem cFormat_li : CFormat parseLi encLi := fun op hop w k i =>
  need_iff fun ⟨g, d, n⟩ => by
    have h := cword_eq_iff hop w g (L := [.fin 51 46 d, .gap 45 34, .imm 33 0 n]) (by simp [tiles])
    simp [← Nat.add_assoc] at h
    simp [encLi, h]
    tauto

theorem cFormat_lih : CFormat parseLih encLih := fun op hop w k i =>
  need_iff fun ⟨g, d, a, n⟩ => by
    have h := cword_eq_iff hop w g (L := [.fin 51 46 d, .fin 45 40 a, .gap 39 32, .imm 31 0 n]) (by simp [tiles])
    simp [← Nat.add_assoc] at h
    simp [encLih, h]
    tauto

theorem cFormat_cmpRR : CFormat parseCmpRR encCmpRR := fun op hop w k i =>
  need_iff fun ⟨g, d, a, b⟩ => by
    have h := cword_eq_iff hop w g (L := [.fin 51 46 d, .fin 45 40 a, .fin 39 34 b, .gap 33 0]) (by simp [tiles])
    simp [← Nat.add_assoc] at h
    simp only [Bool.and_eq_true, decide_eq_true_eq]
    simp [encCmpRR, h, eq_fin8_iff (fld w 51 46)]
    tauto

theorem cFormat_cmpRI : CFormat parseCmpRI encCmpRI := fun op hop w k i =>
  need_iff fun ⟨g, d, a, n⟩ => by
    have h := cword_eq_iff hop w g (L := [.fin 51 46 d, .fin 45 40 a, .gap 39 34, .imm 33 0 n]) (by simp [tiles])
    simp [← Nat.add_assoc] at h
    simp only [Bool.and_eq_true, decide_eq_true_eq]
    simp [encCmpRI, h, eq_fin8_iff (fld w 51 46)]
    tauto

theorem cFormat_ppp : CFormat parsePPP encPPP := fun op hop w k i =>
  need_iff fun ⟨g, d, a, b⟩ => by
    have h := cword_eq_iff hop w g (L := [.fin 51 46 d, .fin 45 40 a, .fin 39 34 b, .gap 33 0]) (by simp [tiles])
    simp [← Nat.add_assoc] at h
    simp only [Bool.and_eq_true, decide_eq_true_eq]
    simp [encPPP, h, eq_fin8_iff (fld w 51 46), eq_fin8_iff (fld w 45 40), eq_fin8_iff (fld w 39 34)]
    tauto

theorem cFormat_pp : CFormat parsePP encPP := fun op hop w k i =>
  need_iff fun ⟨g, d, a⟩ => by
    have h := cword_eq_iff hop w g (L := [.fin 51 46 d, .fin 45 40 a, .gap 39 0]) (by simp [tiles])
    simp [← Nat.add_assoc] at h
    simp only [Bool.and_eq_true, decide_eq_true_eq]
    simp [encPP, h, eq_fin8_iff (fld w 51 46), eq_fin8_iff (fld w 45 40)]
    tauto

theorem cFormat_load : CFormat parseLoad encLoad := fun op hop w k i =>
  bind_bind_need_iff (sizeOf? (fld w 32 30)) (scopeOf (fld w 27 25))
    (by unfold parseLoad; cases sizeOf? (fld w 32 30) <;> cases scopeOf (fld w 27 25) <;> rfl) fun ⟨g, d, a, z, u, o, c, n⟩ => by
    have h := cword_eq_iff hop w g (L := [.fin 51 46 d, .fin 45 40 a, .gap 39 34, .flag 33 u, .size 32 z, .ord o, .scope c, .imm 24 0 n]) (by simp [tiles])
    simp [← Nat.add_assoc] at h
    simp [encLoad, Nat.add_mul, ← Nat.add_assoc, Nat.mul_assoc, h]
    tauto

theorem cFormat_store : CFormat parseStore encStore := fun op hop w k i =>
  bind_bind_need_iff (sizeOf? (fld w 33 30)) (scopeOf (fld w 27 25))
    (by unfold parseStore; cases sizeOf? (fld w 33 30) <;> cases scopeOf (fld w 27 25) <;> rfl) fun ⟨g, a, b, z, o, c, n⟩ => by
    have h := cword_eq_iff hop w g (L := [.gap 51 46, .fin 45 40 a, .fin 39 34 b, .size 33 z, .ord o, .scope c, .imm 24 0 n]) (by simp [tiles])
    simp [← Nat.add_assoc] at h
    simp [encStore, ← Nat.add_assoc, h]
    tauto

theorem cFormat_loadS : CFormat parseLoadS encLoadS := fun op hop w k i =>
  bind_need_iff (sizeOf? (fld w 32 30))
    (by unfold parseLoadS; cases sizeOf? (fld w 32 30) <;> rfl) fun ⟨g, d, a, z, u, n⟩ => by
    have h := cword_eq_iff hop w g (L := [.fin 51 46 d, .fin 45 40 a, .gap 39 34, .flag 33 u, .size 32 z, .gap 29 25, .imm 24 0 n]) (by simp [tiles])
    simp [← Nat.add_assoc] at h
    simp [encLoadS, Nat.add_mul, ← Nat.add_assoc, Nat.mul_assoc, h]
    tauto

theorem cFormat_storeS : CFormat parseStoreS encStoreS := fun op hop w k i =>
  bind_need_iff (sizeOf? (fld w 33 30))
    (by unfold parseStoreS; cases sizeOf? (fld w 33 30) <;> rfl) fun ⟨g, a, b, z, n⟩ => by
    have h := cword_eq_iff hop w g (L := [.gap 51 46, .fin 45 40 a, .fin 39 34 b, .size 33 z, .gap 29 25, .imm 24 0 n]) (by simp [tiles])
    simp [← Nat.add_assoc] at h
    simp [encStoreS, ← Nat.add_assoc, h]
    tauto

theorem cFormat_pref : CFormat parsePref encPref := fun op hop w k i =>
  need_iff fun ⟨g, a, l, n⟩ => by
    have h := cword_eq_iff hop w g (L := [.gap 51 46, .fin 45 40 a, .gap 39 28, .gap 27 26, .flag 25 l, .imm 24 0 n]) (by simp [tiles])
    simp [← Nat.add_assoc] at h
    simp [encPref, h]
    tauto

theorem cFormat_atom : CFormat parseAtom encAtom := fun op hop w k i =>
  bind_bind_need_iff (t := true) (aopOf (fld w 33 30)) (scopeOf (fld w 27 25))
    (by unfold parseAtom; cases aopOf (fld w 33 30) <;> cases scopeOf (fld w 27 25) <;> rfl) fun ⟨g, d, a, b, p, o, c, dw, x, n⟩ => by
    have h := cword_eq_iff hop w g (L := [.fin 51 46 d, .fin 45 40 a, .fin 39 34 b, .aop p, .ord o, .scope c, .flag 24 dw, .fin 23 18 x,
      .imm 17 0 n]) (by simp [tiles])
    simp [← Nat.add_assoc] at h
    simp [encAtom, h]
    tauto

theorem cFormat_atomS : CFormat parseAtomS encAtomS := fun op hop w k i =>
  bind_need_iff (aopOf (fld w 33 30))
    (by unfold parseAtomS; cases aopOf (fld w 33 30) <;> rfl) fun ⟨g, d, a, b, p, dw, x, n⟩ => by
    have h := cword_eq_iff hop w g (L := [.fin 51 46 d, .fin 45 40 a, .fin 39 34 b, .aop p, .gap 29 25, .flag 24 dw, .fin 23 18 x, .imm 17
      0 n]) (by simp [tiles])
    simp [← Nat.add_assoc] at h
    simp [encAtomS, h]
    tauto

theorem cFormat_br : CFormat parseBr encBr := fun op hop w k i =>
  need_iff fun ⟨g, n⟩ => by
    have h := cword_eq_iff hop w g (L := [.gap 51 46, .imm 45 0 n]) (by simp [tiles])
    simp at h
    simp [encBr, h]
    tauto

theorem cFormat_call : CFormat parseCall encCall := fun op hop w k i =>
  need_iff (t := true) fun ⟨g, d, n⟩ => by
    have h := cword_eq_iff hop w g (L := [.fin 51 46 d, .imm 45 0 n]) (by simp [tiles])
    simp [← Nat.add_assoc] at h
    simp [encCall, h]

theorem cFormat_jmp : CFormat parseJmp encJmp := fun op hop w k i =>
  need_iff fun ⟨g, a⟩ => by
    have h := cword_eq_iff hop w g (L := [.gap 51 46, .fin 45 40 a, .gap 39 0]) (by simp [tiles])
    simp at h
    simp [encJmp, h]
    tauto

theorem cFormat_fence : CFormat parseFence encFence := fun op hop w k i =>
  bind_need_iff (scopeOf (fld w 27 25))
    (by unfold parseFence; cases scopeOf (fld w 27 25) <;> rfl) fun ⟨g, o, c⟩ => by
    have h := cword_eq_iff hop w g (L := [.gap 51 30, .ord o, .scope c, .gap 24 0]) (by simp [tiles])
    simp [← Nat.add_assoc] at h
    simp [encFence, ← Nat.add_assoc, h]
    tauto

theorem cFormat_no : CFormat parseNo encNo := fun op hop w k i =>
  need_iff fun ⟨g⟩ => by
    have h := cword_eq_iff hop w g (L := [.gap 51 0]) (by simp [tiles])
    simp at h
    simp [encNo, h]
    tauto

theorem cFormat_gBar : CFormat parseGBar encGBar := fun op hop w k i =>
  need_iff fun ⟨g, n⟩ => by
    have h := cword_eq_iff hop w g (L := [.gap 51 2, .fin 1 0 n]) (by simp [tiles])
    simp at h
    simp [encGBar, h, finOfNat_fld_eq_iff, -Fin.ofNat_eq_cast]
    tauto

theorem cFormat_sStep : CFormat parseSStep encSStep := fun op hop w k i =>
  need_iff fun ⟨g, n⟩ => by
    have h := cword_eq_iff hop w g (L := [.gap 51 32, .imm 31 0 n]) (by simp [tiles])
    simp at h
    simp [encSStep, h]
    tauto

theorem cFormat_qArr : CFormat parseQArr encQArr := fun op hop w k i =>
  need_iff fun ⟨g, a, b⟩ => by
    have h := cword_eq_iff hop w g (L := [.gap 51 46, .fin 45 40 a, .fin 39 34 b, .gap 33 0]) (by simp [tiles])
    simp [← Nat.add_assoc] at h
    simp [encQArr, h]
    tauto

theorem cFormat_fork : CFormat parseFork encFork := fun op hop w k i =>
  need_iff fun ⟨g, d, a, ⟨x, m, v⟩, t, p, q, r⟩ => by
    have h := cword_eq_iff hop w g (L := [.fin 51 46 d, .fin 45 40 a, .flag 39 x, .flag 38 m, .flag 37 v, .flag 36 false, .fin 35 32 t,
      .fin 31 21 p, .fin 20 13 q, .fin 12 5 r, .gap 4 0]) (by simp [tiles])
    simp [← Nat.add_assoc] at h
    simp [encFork, h, emaskCode, ← Nat.add_assoc, finOfNat_fld_eq_iff, -Fin.ofNat_eq_cast]
    tauto

theorem cFormat_forkS : CFormat parseForkS encForkS := fun op hop w k i =>
  need_iff fun ⟨g, d, a, ⟨x, m, v⟩, t, p, q, r, y⟩ => by
    have h := cword_eq_iff hop w g (L := [.fin 51 46 d, .fin 45 40 a, .flag 39 x, .flag 38 m, .flag 37 v, .flag 36 false, .fin 35 32 t,
      .fin 31 21 p, .fin 20 13 q, .fin 12 5 r, .flag 4 y, .gap 3 0]) (by simp [tiles])
    simp [← Nat.add_assoc] at h
    simp [encForkS, h, emaskCode, ← Nat.add_assoc, finOfNat_fld_eq_iff, -Fin.ofNat_eq_cast]
    tauto

theorem cFormat_resolve : CFormat parseResolve encResolve := fun op hop w k i =>
  need_iff fun ⟨g, ⟨x, m, v⟩, t, y⟩ => by
    have h := cword_eq_iff hop w g (L := [.gap 51 40, .flag 39 x, .flag 38 m, .flag 37 v, .flag 36 false, .fin 35 32 t, .gap 31 5, .flag 4
      y, .gap 3 0]) (by simp [tiles])
    simp [← Nat.add_assoc] at h
    simp [encResolve, h, emaskCode, ← Nat.add_assoc]
    tauto

theorem cFormat_cancel : CFormat parseCancel encCancel := fun op hop w k i =>
  need_iff fun ⟨g, ⟨x, m, v⟩, t⟩ => by
    have h := cword_eq_iff hop w g (L := [.gap 51 40, .flag 39 x, .flag 38 m, .flag 37 v, .flag 36 false, .fin 35 32 t, .gap 31 0]) (by simp [tiles])
    simp [← Nat.add_assoc] at h
    simp [encCancel, h, emaskCode, ← Nat.add_assoc]
    tauto

theorem cFormat_rdv : CFormat parseRdv encRdv := fun op hop w k i =>
  need_iff fun ⟨g, ⟨x, m, v⟩⟩ => by
    have h := cword_eq_iff hop w g (L := [.gap 51 40, .flag 39 x, .flag 38 m, .flag 37 v, .gap 36 0]) (by simp [tiles])
    simp [← Nat.add_assoc] at h
    simp [encRdv, h, emaskCode, ← Nat.add_assoc]
    tauto

theorem cFormat_mapWait : CFormat parseMapWait encMapWait := fun op hop w k i =>
  need_iff fun ⟨g, d, n⟩ => by
    have h := cword_eq_iff hop w g (L := [.fin 51 46 d, .gap 45 5, .fin 4 0 n]) (by simp [tiles])
    simp [← Nat.add_assoc] at h
    simp [encMapWait, h]
    tauto

theorem cFormat_waitTl : CFormat parseWaitTl encWaitTl := fun op hop w k i =>
  bind_bind_need_iff (timelineOf (fld w 33 30)) (scopeOf (fld w 27 25))
    (by unfold parseWaitTl; cases timelineOf (fld w 33 30) <;> cases scopeOf (fld w 27 25) <;> rfl) fun ⟨g, a, t, c⟩ => by
    have h := cword_eq_iff hop w g (L := [.gap 51 46, .fin 45 40 a, .gap 39 34, .timeline t, .const 29 28 1, .scope c, .gap 24
      0]) (by simp [tiles])
    simp [← Nat.add_assoc] at h
    simp [encWaitTl, ← Nat.add_assoc, h]
    tauto

theorem cFormat_sem {od : Nat} (hod : od < 4) : CFormat (parseSem · od) (encSem · od) := fun op hop w k i =>
  bind_need_iff (scopeOf (fld w 27 25))
    (by unfold parseSem; beta_reduce; cases scopeOf (fld w 27 25) <;> rfl) fun ⟨g, a, b, c, n⟩ => by
    have h := cword_eq_iff hop w g (L := [.gap 51 46, .fin 45 40 a, .fin 39 34 b, .const 33 30 3, .num 29 28 od hod, .scope c,
      .imm 24 0 n]) (by simp [tiles])
    simp [← Nat.add_assoc] at h
    simp [encSem, ← Nat.add_assoc, h]
    tauto

theorem cFormat_code : CFormat parseCode encCode := fun op hop w k i =>
  need_iff fun ⟨g, n⟩ => by
    have h := cword_eq_iff hop w g (L := [.gap 51 16, .imm 15 0 n]) (by simp [tiles])
    simp at h
    simp [encCode, h]
    tauto

theorem cFormat_tlbinv : CFormat parseTlbinv encTlbinv := fun op hop w k i =>
  need_iff fun ⟨g, a, n⟩ => by
    have h := cword_eq_iff hop w g (L := [.gap 51 46, .fin 45 40 a, .gap 39 2, .fin 1 0 n]) (by simp [tiles])
    simp [← Nat.add_assoc] at h
    simp only [Bool.and_eq_true, decide_eq_true_eq]
    simp [encTlbinv, h, eq_fin3_iff (fld w 1 0), -Fin.ofNat_eq_cast]
    tauto

/-! ## GETSYS, SETSYS and SAFEPT -/

/-- GETSYS as its row or REPLST's (R320). -/
def getSysRow (o : GetSysOp) : Instr := if o.sysno = 0x054#12 then .getsysReplst ⟨o.g, o.d⟩ else .getsys o

/-- SETSYS as its row or as that of one of the six registers with rows of their own. -/
def setSysRow (o : SetSysOp) : Instr :=
  if o.sysno = 0x030#12 then .setsysSeedv ⟨o.g, o.a⟩
  else if o.sysno = 0x031#12 then .setsysSeedx ⟨o.g, o.a⟩
  else if o.sysno = 0x037#12 then .setsysSeedm ⟨o.g, o.a⟩
  else if o.sysno = 0x050#12 then .setsysQuaglim ⟨o.g, o.a⟩
  else if o.sysno = 0x051#12 then .setsysReplctl ⟨o.g, o.a⟩
  else if o.sysno = 0x058#12 then .setsysPgrace ⟨o.g, o.a⟩
  else .setsys o

theorem encode_getSysRow (o : GetSysOp) : encode (getSysRow o) = .c [encGetSys o] := by
  obtain ⟨g, d, n⟩ := o
  unfold getSysRow
  split
  case isTrue h => cases h; rfl
  case isFalse => rfl

theorem encode_setSysRow (o : SetSysOp) : encode (setSysRow o) = .c [encSetSys o] := by
  obtain ⟨g, a, n⟩ := o
  unfold setSysRow
  split_ifs
  case neg => rfl
  all_goals subst_vars; rfl

theorem getSysRow_of_wf {o : GetSysOp} (h : (Instr.getsys o).WellFormed) : getSysRow o = .getsys o :=
  if_neg (bne_iff_ne.1 h)

theorem setSysRow_of_wf {o : SetSysOp} (h : (Instr.setsys o).WellFormed) : setSysRow o = .setsys o := by
  replace h : (!ownSet o.sysno) = true := h
  simp only [ownSet, Bool.not_eq_true', Bool.or_eq_false_iff, beq_eq_false_iff_ne] at h
  simp [setSysRow, h]

theorem parseGetSys_iff {w : Nat} {i : Instr} : (w < 2 ^ 64 ∧ fld w 63 56 = 0x72) ∧ parseGetSys w = some i ↔
    ∃ o, getSysRow o = i ∧ encGetSys o = w := by
  have hp : parseGetSys w = need (fld w 45 12 == 0) (getSysRow ⟨guardOf w, fin64 (dOf w), BitVec.ofNat 12 (fld w 11 0)⟩) := by
    unfold parseGetSys getSysRow
    congr 1
    exact if_congr (bvOfNat_fld_eq_iff (x := 0x054#12) rfl).symm rfl rfl
  rw [hp]
  refine need_iff fun ⟨g, d, n⟩ => ?_
  have h := cword_eq_iff (show 0x72 < 256 by decide) w g (L := [.fin 51 46 d, .gap 45 12, .imm 11 0 n]) (by simp [tiles])
  simp [← Nat.add_assoc] at h
  simp [encGetSys, h]
  tauto

theorem parseSetSys_iff {w : Nat} {i : Instr} : (w < 2 ^ 64 ∧ fld w 63 56 = 0x73) ∧ parseSetSys w = some i ↔
    ∃ o, setSysRow o = i ∧ encSetSys o = w := by
  have hp : parseSetSys w = need (dOf w == 0 && fld w 39 12 == 0)
      (setSysRow ⟨guardOf w, fin64 (aOf w), BitVec.ofNat 12 (fld w 11 0)⟩) := by
    unfold parseSetSys setSysRow
    congr 1
    split <;> simp_all
  rw [hp]
  refine need_iff fun ⟨g, a, n⟩ => ?_
  have h := cword_eq_iff (show 0x73 < 256 by decide) w g (L := [.gap 51 46, .fin 45 40 a, .gap 39 12, .imm 11 0 n]) (by simp [tiles])
  simp [← Nat.add_assoc] at h
  simp [encSetSys, h]
  tauto

theorem parseSafept_iff {w w1 w2 w3 : Nat} {i : Instr} :
    (w < 2 ^ 64 ∧ w1 < 2 ^ 64 ∧ w2 < 2 ^ 64 ∧ w3 < 2 ^ 64 ∧ fld w 63 56 = 0x5C) ∧ parseSafept w w1 w2 w3 = some i ↔
      ∃ o, .safept o = i ∧ encSafept o = [w, w1, w2, w3] :=
  need_iff (k := Instr.safept) fun ⟨accs, s, v, regions, slots⟩ => by
    have h0 := layout_eq_iff w 64 (L := [.const 63 56 0x5C, .gap 55 4, .imm 3 0 accs]) (by simp [tiles])
    have h1 : s.toNat = w1 ↔ w1 < 2 ^ 64 ∧ BitVec.ofNat 64 w1 = s := by
      constructor
      · rintro rfl; exact ⟨s.isLt, by simp⟩
      · rintro ⟨hlt, rfl⟩; exact Nat.mod_eq_of_lt hlt
    have h2 := layout_eq_iff w2 64 (L := [.imm 63 32 v, .imm 31 0 regions]) (by simp [tiles])
    have h3 := layout_eq_iff w3 64 (L := [.gap 63 32, .imm 31 0 slots]) (by simp [tiles])
    simp at h0 h2 h3
    simp [encSafept, h0, h1, h2, h3]
    clear h0 h1 h2 h3
    tauto

theorem parseGetSys_eq_some_iff {w : Nat} {i : Instr} (hw : w < 2 ^ 64) (hop : fld w 63 56 = 0x72) :
    parseGetSys w = some i ↔ ∃ o, getSysRow o = i ∧ encGetSys o = w :=
  (and_iff_right ⟨hw, hop⟩).symm.trans parseGetSys_iff

theorem parseSetSys_eq_some_iff {w : Nat} {i : Instr} (hw : w < 2 ^ 64) (hop : fld w 63 56 = 0x73) :
    parseSetSys w = some i ↔ ∃ o, setSysRow o = i ∧ encSetSys o = w :=
  (and_iff_right ⟨hw, hop⟩).symm.trans parseSetSys_iff

theorem parseSafept_eq_some_iff {w w1 w2 w3 : Nat} {i : Instr} (hw : w < 2 ^ 64) (hw1 : w1 < 2 ^ 64) (hw2 : w2 < 2 ^ 64)
    (hw3 : w3 < 2 ^ 64) (hop : fld w 63 56 = 0x5C) :
    parseSafept w w1 w2 w3 = some i ↔ ∃ o, .safept o = i ∧ encSafept o = [w, w1, w2, w3] :=
  (and_iff_right ⟨hw, hw1, hw2, hw3, hop⟩).symm.trans parseSafept_iff

/-! ## Formats of the slots of a pair -/

/-- A format of scalar slots: the parser reads an instruction from exactly the pairs whose scalar slot the encoder makes, the guard
being the pair's. -/
structure KFormat {α : Type} (parse : Nat → (α → Instr) → Option Instr) (enc : Nat → α → Nat) (guard : α → VGuard) : Prop where
  reads : ∀ op < 64, ∀ w k i, fld w 119 114 = op ∧ parse w k = some i ↔
    ∃ o, k o = i ∧ guard o = vguardOf w ∧ enc op o = fld w 119 72 * 2 ^ 72
  inSlot : ∀ op < 64, ∀ o, ∃ x < 2 ^ 48, enc op o = x * 2 ^ 72
  reguard : ∀ op o g, ∃ o', guard o' = g ∧ enc op o' = enc op o ∧ (guard o = g → o' = o)

@[simp] theorem kdOf_eq (w : Nat) : kdOf w = fld w 113 110 := rfl
@[simp] theorem kaOf_eq (w : Nat) : kaOf w = fld w 109 106 := rfl
@[simp] theorem kbOf_eq (w : Nat) : kbOf w = fld w 105 102 := rfl
@[simp] theorem kimm_eq (w : Nat) : kimm w = fld w 101 72 := rfl

@[simp] theorem vguardOf_eq_iff (w : Nat) (g : VGuard) : vguardOf w = g ↔ fld w 127 127 = nb g.neg ∧ fld w 126 124 = g.flag := by
  cases g
  simp [vguardOf]

@[simp] theorem condOf_eq_some_iff (n : Nat) (c : Cond) : condOf n = some c ↔ n = condCode c := by
  constructor
  · unfold condOf; split <;> rintro ⟨⟩ <;> rfl
  · rintro rfl; cases c <;> rfl

/-- The fields of a scalar slot below its opcode. -/
theorem kslot_eq_iff {op : Nat} (hop : op < 64) (w : Nat) {L : List BitField} (h : tiles 72 114 L = true) :
    op * 2 ^ 114 + layout L = fld w 119 72 * 2 ^ 72 ↔ fld w 119 114 = op ∧ ∀ f ∈ L, fld w f.hi f.lo = f.val := by
  have key := layout_eq_segment_iff w (L := .num 119 114 op hop :: L) (bot := 72) (top := 120) (by simpa [tiles] using h)
  rw [List.forall_mem_cons] at key
  exact key

theorem encK_inSlot {op d a b imm : Nat} (hop : op < 64) (hd : d < 16) (ha : a < 16) (hb : b < 16) (hi : imm < 2 ^ 30) :
    ∃ x < 2 ^ 48, encK op d a b imm = x * 2 ^ 72 :=
  ⟨op * 2 ^ 42 + d * 2 ^ 38 + a * 2 ^ 34 + b * 2 ^ 30 + imm, by omega, by unfold encK; ring⟩

theorem encK_eq (op d a b imm : Nat) : encK op d a b imm = op * 2 ^ 114 + (d * 2 ^ 110 + (a * 2 ^ 106 + (b * 2 ^ 102 + imm * 2 ^ 72))) :=
  by
  simp [encK, Nat.add_assoc]

theorem kFormat_kNone : KFormat parseKNone encKNone KNone.g where
  reads op hop w k i := need_iff fun ⟨g⟩ => by
    have h := kslot_eq_iff hop w (L := [.gap 113 72]) (by simp [tiles])
    simp at h
    simp [encKNone, encK_eq, h, eq_comm (b := vguardOf w)]
    clear h; tauto
  inSlot op hop o := encK_inSlot hop (by omega) (by omega) (by omega) (by omega)
  reguard _ o g := ⟨{ o with g := g }, rfl, rfl, by rintro rfl; rfl⟩

theorem kFormat_kRRR : KFormat parseKRRR encKRRR KRRR.g where
  reads op hop w k i := need_iff fun ⟨g, d, a, b⟩ => by
    have h := kslot_eq_iff hop w (L := [.fin 113 110 d, .fin 109 106 a, .fin 105 102 b, .gap 101 72]) (by simp [tiles])
    simp at h
    simp [encKRRR, encK_eq, h, eq_comm (b := vguardOf w)]
    clear h; tauto
  inSlot op hop o := encK_inSlot hop (by omega) (by omega) (by omega) (by omega)
  reguard _ o g := ⟨{ o with g := g }, rfl, rfl, by rintro rfl; rfl⟩

theorem kFormat_kRRI : KFormat parseKRRI encKRRI KRRI.g where
  reads op hop w k i := need_iff fun ⟨g, d, a, n⟩ => by
    have h := kslot_eq_iff hop w (L := [.fin 113 110 d, .fin 109 106 a, .gap 105 102, .imm 101 72 n]) (by simp [tiles])
    simp at h
    simp [encKRRI, encK_eq, h, eq_comm (b := vguardOf w)]
    clear h; tauto
  inSlot op hop o := encK_inSlot hop (by omega) (by omega) (by omega) (by omega)
  reguard _ o g := ⟨{ o with g := g }, rfl, rfl, by rintro rfl; rfl⟩

theorem kFormat_kImm : KFormat parseKImm encKImm KImm.g where
  reads op hop w k i := need_iff fun ⟨g, d, n⟩ => by
    have h := kslot_eq_iff hop w (L := [.fin 113 110 d, .gap 109 106, .gap 105 102, .imm 101 72 n]) (by simp [tiles])
    simp at h
    simp [encKImm, encK_eq, h, eq_comm (b := vguardOf w)]
    clear h; tauto
  inSlot op hop o := encK_inSlot hop (by omega) (by omega) (by omega) (by omega)
  reguard _ o g := ⟨{ o with g := g }, rfl, rfl, by rintro rfl; rfl⟩

theorem kFormat_kCmp : KFormat parseKCmp encKCmp KCmpOp.g where
  reads op hop w k i := bind_need_iff (condOf (fld w 74 72)) (by unfold parseKCmp; cases condOf (fld w 74 72) <;> rfl) fun ⟨g, d, a, b, c⟩
    => by
    have h := kslot_eq_iff hop w (L := [.fin 113 110 d, .fin 109 106 a, .fin 105 102 b, .gap 101 75, .cond 74 72 c]) (by simp [tiles])
    simp at h
    simp only [Bool.and_eq_true, decide_eq_true_eq]
    simp [encKCmp, encK_eq, h, eq_comm (b := vguardOf w), eq_fin8_iff (fld w 113 110)]
    clear h; tauto
  inSlot op hop o := encK_inSlot hop (by omega) (by omega) (by omega) ((condCode_lt o.cc).trans (by decide))
  reguard _ o g := ⟨{ o with g := g }, rfl, rfl, by rintro rfl; rfl⟩

/-- KLOOP as its own format: the scalar slots with bit 101 clear. -/
def parseKLoopOff (w : Nat) (k : KLoopOp → Instr) : Option Instr :=
  need (fld w 113 112 == 0 && kaOf w == 0 && kbOf w == 0 && fld w 101 101 == 0 && fld w 100 84 == 0)
    (k ⟨vguardOf w, Fin.ofNat 4 (fld w 111 110), BitVec.ofNat 12 (fld w 83 72)⟩)

/-- KLOOP.SET as its own format: the scalar slots with bit 101 set. -/
def parseKLoopSet (w : Nat) (k : KLoopSetOp → Instr) : Option Instr :=
  need (fld w 113 112 == 0 && kbOf w == 0 && fld w 101 101 == 1 && fld w 100 88 == 0)
    (k ⟨vguardOf w, Fin.ofNat 4 (fld w 111 110), fin16 (kaOf w), BitVec.ofNat 16 (fld w 87 72)⟩)

theorem parseKLoop_eq_some_iff (w : Nat) (i : Instr) : parseKLoop w = some i ↔
    parseKLoopOff w .kloop = some i ∨ parseKLoopSet w .kloopSet = some i := by
  unfold parseKLoop parseKLoopOff parseKLoopSet
  cases hb : bit w 101 <;> rw [bit_eq_iff] at hb <;> simp [hb, need]

theorem kFormat_kLoop : KFormat parseKLoopOff (fun op o => encK op o.n 0 0 o.off.toNat) KLoopOp.g where
  reads op hop w k i := need_iff fun ⟨g, n, m⟩ => by
    have h := kslot_eq_iff hop w (L := [.gap 113 112, .fin 111 110 n, .gap 109 106, .gap 105 102, .gap 101 101, .gap 100 84, .imm 83 72
      m]) (by simp [tiles])
    simp at h
    simp [encK_eq, h, eq_comm (b := vguardOf w), finOfNat_fld_eq_iff, -Fin.ofNat_eq_cast]
    clear h; tauto
  inSlot op hop o := encK_inSlot hop (by omega) (by omega) (by omega) (by omega)
  reguard _ o g := ⟨{ o with g := g }, rfl, rfl, by rintro rfl; rfl⟩

theorem kFormat_kLoopSet : KFormat parseKLoopSet (fun op o => encK op o.n o.a 0 (2 ^ 29 + o.imm.toNat)) KLoopSetOp.g where
  reads op hop w k i := need_iff fun ⟨g, n, a, m⟩ => by
    have h := kslot_eq_iff hop w (L := [.gap 113 112, .fin 111 110 n, .fin 109 106 a, .gap 105 102, .const 101 101 1, .gap 100
      88, .imm 87 72 m]) (by simp [tiles])
    simp at h
    simp [encK_eq, h, eq_comm (b := vguardOf w), Nat.add_mul, finOfNat_fld_eq_iff, -Fin.ofNat_eq_cast]
    clear h; tauto
  inSlot op hop o := encK_inSlot hop (by omega) (by omega) (by omega) (by omega)
  reguard _ o g := ⟨{ o with g := g }, rfl, rfl, by rintro rfl; rfl⟩

theorem kFormat_kBr : KFormat parseKBr encKBr KBrOp.g where
  reads op hop w k i := need_iff fun ⟨g, n⟩ => by
    have h := kslot_eq_iff hop w (L := [.gap 113 102, .gap 101 84, .imm 83 72 n]) (by simp [tiles])
    simp at h
    simp [encKBr, encK_eq, h, eq_comm (b := vguardOf w)]
    clear h; tauto
  inSlot op hop o := encK_inSlot hop (by omega) (by omega) (by omega) (by omega)
  reguard _ o g := ⟨{ o with g := g }, rfl, rfl, by rintro rfl; rfl⟩

theorem kFormat_kFrom : KFormat parseKFrom encKFrom KFromOp.g where
  reads op hop w k i := need_iff fun ⟨g, d, v, l⟩ => by
    have h := kslot_eq_iff hop w (L := [.fin 113 110 d, .gap 109 106, .gap 105 102, .gap 101 83, .fin 82 77 l, .fin 76 72 v]) (by simp [tiles])
    simp at h
    simp [encKFrom, encK_eq, h, eq_comm (b := vguardOf w), Nat.add_mul, Nat.mul_assoc]
    clear h; tauto
  inSlot op hop o := encK_inSlot hop (by omega) (by omega) (by omega) (by omega)
  reguard _ o g := ⟨{ o with g := g }, rfl, rfl, by rintro rfl; rfl⟩

theorem kFormat_kSeed : KFormat parseKSeed encKSeed KSeedOp.g where
  reads op hop w k i := need_iff fun ⟨g, a⟩ => by
    have h := kslot_eq_iff hop w (L := [.gap 113 110, .fin 109 106 a, .gap 105 102, .gap 101 72]) (by simp [tiles])
    simp at h
    simp [encKSeed, encK_eq, h, eq_comm (b := vguardOf w)]
    clear h; tauto
  inSlot op hop o := encK_inSlot hop (by omega) (by omega) (by omega) (by omega)
  reguard _ o g := ⟨{ o with g := g }, rfl, rfl, by rintro rfl; rfl⟩

/-- A format of vector slots: the parser reads an instruction from exactly the pairs that hold, beside any scalar slot x, what the encoder
makes of its operands, guard and tokens. -/
def VFormat {α : Type} (parse : Nat → (α → Instr) → Option Instr) (enc : Nat → α → Nat) : Prop :=
  ∀ op < 256, ∀ x < 2 ^ 48, ∀ w k i, (w < 2 ^ 128 ∧ fld w 71 64 = op ∧ fld w 119 72 = x) ∧ parse w k = some i ↔
    ∃ o, k o = i ∧ x * 2 ^ 72 + enc op o = w

@[simp] theorem vdOf_eq (w : Nat) : vdOf w = fld w 63 59 := rfl
@[simp] theorem vaOf_eq (w : Nat) : vaOf w = fld w 58 54 := rfl
@[simp] theorem vbOf_eq (w : Nat) : vbOf w = fld w 53 49 := rfl
@[simp] theorem vcOf_eq (w : Nat) : vcOf w = fld w 48 44 := rfl
@[simp] theorem vmaskOf_eq (w : Nat) : vmaskOf w = fin8 (fld w 43 41) := rfl
@[simp] theorem vtyOf_eq (w : Nat) : vtyOf w = fld w 40 39 := rfl
@[simp] theorem vrmOf_eq (w : Nat) : vrmOf w = fld w 38 37 := rfl
@[simp] theorem vmodOf_eq (w : Nat) : vmodOf w = fld w 36 36 := rfl
@[simp] theorem vimm_eq (w : Nat) : vimm w = fld w 35 0 := rfl

@[simp] theorem vctlOf_eq_iff (w : Nat) (c : VCtl) : vctlOf w = c ↔ (fld w 127 127 = nb c.g.neg ∧ fld w 126 124 = c.g.flag) ∧
    fld w 123 123 = nb c.tok.popM ∧ fld w 122 122 = nb c.tok.popX ∧ fld w 121 121 = nb c.tok.pushM ∧ fld w 120 120 = nb c.tok.pushX := by
  obtain ⟨g, t⟩ := c
  cases t
  simp [vctlOf]

@[simp] theorem vtypeOf_eq_some_iff (n : Nat) (t : VType) : vtypeOf n = some t ↔ n = vtypeCode t := by
  constructor
  · unfold vtypeOf; split <;> rintro ⟨⟩ <;> rfl
  · rintro rfl; cases t <;> rfl

@[simp] theorem rmodeOf_eq_some_iff (n : Nat) (r : RMode) : rmodeOf n = some r ↔ n = rmodeCode r := by
  constructor
  · unfold rmodeOf; split <;> rintro ⟨⟩ <;> rfl
  · rintro rfl; cases r <;> rfl

@[simp] theorem nwidthOf_eq_some_iff (n : Nat) (x : NWidth) : nwidthOf n = some x ↔ n = nwidthCode x := by
  constructor
  · unfold nwidthOf; split <;> rintro ⟨⟩ <;> rfl
  · rintro rfl; cases x <;> rfl

@[simp] theorem vsrcOf_eq_some_iff (w : Nat) (b : VSrc) :
    vsrcOf w = some b ↔ fld w 53 49 = vsrcB b ∧ fld w 36 36 = vsrcMod b ∧ fld w 35 0 = vsrcImm b := by
  have hmod := fld_lt w 36 36
  cases b with
  | reg v =>
    by_cases hm : fld w 36 36 = 0 <;> simp [vsrcOf, hm, need, vsrcB, vsrcMod, vsrcImm, and_comm]
  | imm n =>
    have himm : fld w 35 0 = fld w 35 32 * 2 ^ 32 + fld w 31 0 := by simp [fld]; omega
    have hlow := fld_lt w 31 0
    by_cases hm : fld w 36 36 = 0
    · simp [vsrcOf, hm, need, vsrcMod]
    · simp [vsrcOf, hm, need, vsrcB, vsrcMod, vsrcImm, himm]
      omega

theorem vtypeCode_lt (t : VType) : vtypeCode t < 4 := by cases t <;> decide
theorem rmodeCode_lt (r : RMode) : rmodeCode r < 4 := by cases r <;> decide
theorem nwidthCode_lt (x : NWidth) : nwidthCode x < 4 := by cases x <;> decide
theorem vsrcB_lt : ∀ b : VSrc, vsrcB b < 32
  | .reg v => v.isLt
  | .imm _ => by simp [vsrcB]
theorem vsrcMod_lt : ∀ b : VSrc, vsrcMod b < 2
  | .reg _ => Nat.zero_lt_two
  | .imm _ => Nat.one_lt_two
theorem vsrcImm_lt : ∀ b : VSrc, vsrcImm b < 2 ^ 36
  | .reg _ => by simp [vsrcImm]
  | .imm i => i.isLt.trans (by decide)

namespace BitField

/-- The type field of R66. -/
@[simps] def vtype (t : VType) : BitField := ⟨40, 39, 4, vtypeCode t, vtypeCode_lt t⟩

/-- The rounding mode of R66. -/
@[simps] def rmode (r : RMode) : BitField := ⟨38, 37, 4, rmodeCode r, rmodeCode_lt r⟩

/-- The width in narrow forms (R163). -/
@[simps] def nwidth (x : NWidth) : BitField := ⟨40, 39, 4, nwidthCode x, nwidthCode_lt x⟩

/-- Operand b, where it is a register. -/
@[simps] def srcB (b : VSrc) : BitField := ⟨53, 49, 32, vsrcB b, vsrcB_lt b⟩

/-- The bit that tells operand b from the broadcast immediate (R156). -/
@[simps] def srcMod (b : VSrc) : BitField := ⟨36, 36, 2, vsrcMod b, vsrcMod_lt b⟩

/-- The broadcast immediate (R156). -/
@[simps] def srcImm (b : VSrc) : BitField := ⟨35, 0, 2 ^ 36, vsrcImm b, vsrcImm_lt b⟩

end BitField

/-- The guard, the tokens and the opcode of a vector slot, in place. -/
def headV (c : VCtl) (op : Nat) : Nat :=
  nb c.g.neg * 2 ^ 127 + c.g.flag.val * 2 ^ 124 + nb c.tok.popM * 2 ^ 123 + nb c.tok.popX * 2 ^ 122
    + nb c.tok.pushM * 2 ^ 121 + nb c.tok.pushX * 2 ^ 120 + op * 2 ^ 64

theorem encV_eq (c : VCtl) (op d a b cc mask ty rm vmod imm : Nat) : encV c op d a b cc mask ty rm vmod imm =
    headV c op + (d * 2 ^ 59 + (a * 2 ^ 54 + (b * 2 ^ 49 + (cc * 2 ^ 44 + (mask * 2 ^ 41 + (ty * 2 ^ 39 + (rm * 2 ^ 37
      + (vmod * 2 ^ 36 + imm)))))))) := by
  simp [encV, headV, Nat.add_assoc]

/-- The fields of a vector slot below its opcode, beside a scalar slot x. -/
theorem vslot_eq_iff {op x : Nat} (hop : op < 256) (hx : x < 2 ^ 48) (w : Nat) (c : VCtl) {L : List BitField} (h : tiles 0 64 L = true) :
    x * 2 ^ 72 + (headV c op + layout L) = w ↔
      (w < 2 ^ 128 ∧ fld w 71 64 = op ∧ fld w 119 72 = x) ∧ vctlOf w = c ∧ ∀ f ∈ L, fld w f.hi f.lo = f.val := by
  have key := layout_eq_iff w 128 (L := .flag 127 c.g.neg :: .fin 126 124 c.g.flag :: .flag 123 c.tok.popM :: .flag 122 c.tok.popX ::
    .flag 121 c.tok.pushM :: .flag 120 c.tok.pushX :: .num 119 72 x hx :: .num 71 64 op hop :: L) (by simpa [tiles] using h)
  simp only [List.forall_mem_cons, layout, BitField.num_val, BitField.num_hi, BitField.num_lo, BitField.flag_val, BitField.flag_hi, BitField.flag_lo,
    BitField.fin_lo, BitField.fin_val, BitField.fin_hi] at key
  have hsum : x * 2 ^ 72 + (headV c op + layout L) = nb c.g.neg * 2 ^ 127 + (c.g.flag * 2 ^ 124 + (nb c.tok.popM * 2 ^ 123 +
      (nb c.tok.popX * 2 ^ 122 + (nb c.tok.pushM * 2 ^ 121 + (nb c.tok.pushX * 2 ^ 120 + (x * 2 ^ 72 + (op * 2 ^ 64 + layout L))))))) :=
        by
    unfold headV; ring
  rw [hsum, key, vctlOf_eq_iff]
  clear key hsum
  tauto

/-- VBCAST.K as a format of its own: the slots of VBCAST with bit 36 set. -/
def parseVBcastKOn (w : Nat) (k : VBcastK → Instr) : Option Instr :=
  need (vaOf w == 0 && vbOf w == 0 && vcOf w < 16 && fld w 40 37 == 0 && vmodOf w == 1 && vimm w == 0)
    (k ⟨vctlOf w, fin32 (vdOf w), fin16 (vcOf w), vmaskOf w⟩)

theorem parseVBcastK_of_mod {w : Nat} (h : ¬fld w 36 36 = 0) : parseVBcastK w = parseVBcastKOn w .vbcastK := by
  have hlt := fld_lt w 36 36
  have h1 : fld w 36 36 = 1 := by omega
  simp [parseVBcastK, parseVBcastKOn, h1]

theorem vFormat_vNone : VFormat parseVNone encVNone := fun op hop x hx w k i =>
  need_iff fun ⟨ctl⟩ => by
    have h := vslot_eq_iff hop hx w ctl (L := [.gap 63 0]) (by simp [tiles])
    simp at h
    simp [encVNone, encV_eq, h]
    clear h; tauto

theorem vFormat_vMem (ld : Bool) : VFormat (parseVMem · ld) (encVMem · ld) := fun op hop x hx w k i =>
  need_iff fun ⟨ctl, r, q, m, n⟩ => by
    have h := vslot_eq_iff hop hx w ctl (L := [.fin 63 59 (if ld then r else 0), .fin 58 54 (if ld then 0 else r), .gap 53 49,
      .fin 48 44 q, .fin 43 41 m, .gap 40 36, .imm 35 0 n]) (by simp [tiles])
    simp only [Bool.and_eq_true, decide_eq_true_eq]
    cases ld <;> simp at h <;> simp [encVMem, encV_eq, h, eq_fin16_iff (fld w 48 44)] <;> clear h <;> tauto

theorem vFormat_vIdx (ld : Bool) : VFormat (parseVIdx · ld) (encVIdx · ld) := fun op hop x hx w k i =>
  need_iff fun ⟨ctl, r, v, q, m, n⟩ => by
    have h := vslot_eq_iff hop hx w ctl (L := [.fin 63 59 (if ld then r else 0), .fin 58 54 (if ld then 0 else r), .fin 53 49 v,
      .fin 48 44 q, .fin 43 41 m, .gap 40 36, .imm 35 0 n]) (by simp [tiles])
    simp only [Bool.and_eq_true, decide_eq_true_eq]
    cases ld <;> simp at h <;> simp [encVIdx, encV_eq, h, eq_fin16_iff (fld w 48 44)] <;> clear h <;> tauto

theorem vFormat_vNar {md : Nat} (hmd : md < 2) : VFormat (parseVNar · md) (encVNar · md) := fun op hop x hx w k i =>
  bind_need_iff (nwidthOf (vtyOf w)) (by unfold parseVNar; beta_reduce; cases nwidthOf (vtyOf w) <;> rfl) fun ⟨ctl, r, q, m, u, n⟩ => by
    have h := vslot_eq_iff hop hx w ctl (L := [.fin 63 59 (if md = 0 then r else 0), .fin 58 54 (if md = 0 then 0 else r), .gap 53 49,
      .fin 48 44 q, .fin 43 41 m, .nwidth u, .gap 38 37, .num 36 36 md hmd, .imm 35 0 n]) (by simp [tiles])
    simp only [Bool.and_eq_true, decide_eq_true_eq]
    interval_cases md <;> simp at h <;> simp [encVNar, encV_eq, h, eq_fin16_iff (fld w 48 44)] <;> clear h <;> tauto

theorem vFormat_vrrr : VFormat parseVRRR encVRRR := fun op hop x hx w k i =>
  need_iff fun ⟨ctl, d, a, b, m⟩ => by
    have h := vslot_eq_iff hop hx w ctl (L := [.fin 63 59 d, .fin 58 54 a, .fin 53 49 b, .gap 48 44, .fin 43 41 m, .gap 40 0]) (by simp [tiles])
    simp at h
    simp [encVRRR, encV_eq, h]
    clear h; tauto

theorem vFormat_vRR {md : Nat} (hmd : md < 2) : VFormat (parseVRR · md) (encVRR · md) := fun op hop x hx w k i =>
  need_iff fun ⟨ctl, d, a, m⟩ => by
    have h := vslot_eq_iff hop hx w ctl (L := [.fin 63 59 d, .fin 58 54 a, .gap 53 44, .fin 43 41 m, .gap 40 37, .num 36 36 md hmd, .gap
      35 0]) (by simp [tiles])
    simp at h
    simp [encVRR, encV_eq, h]
    clear h; tauto

theorem vFormat_vLane : VFormat parseVLane encVLane := fun op hop x hx w k i =>
  need_iff fun ⟨ctl, d, a, n, m⟩ => by
    have h := vslot_eq_iff hop hx w ctl (L := [.fin 63 59 d, .fin 58 54 a, .gap 53 44, .fin 43 41 m, .gap 40 36, .gap 35 6, .fin 5 0 n]) (by simp [tiles])
    simp at h
    simp [encVLane, encV_eq, h]
    clear h; tauto

theorem vFormat_vBcastK : VFormat parseVBcastKOn (fun op o => encV o.c op o.d 0 0 o.k o.mask 0 0 1 0) := fun op hop x hx w k i =>
  need_iff fun ⟨ctl, d, q, m⟩ => by
    have h := vslot_eq_iff hop hx w ctl (L := [.fin 63 59 d, .gap 58 54, .gap 53 49, .fin 48 44 q, .fin 43 41 m, .gap 40 37, .const 36 36 1, .gap 35 0]) (by simp [tiles])
    simp at h
    simp only [Bool.and_eq_true, decide_eq_true_eq]
    simp [encV_eq, h, eq_fin16_iff (fld w 48 44)]
    clear h; tauto

theorem vFormat_mrrr : VFormat parseMRRR encMRRR := fun op hop x hx w k i =>
  need_iff fun ⟨ctl, d, a, b⟩ => by
    have h := vslot_eq_iff hop hx w ctl (L := [.fin 63 59 d, .fin 58 54 a, .fin 53 49 b, .gap 48 0]) (by simp [tiles])
    simp at h
    simp only [Bool.and_eq_true, decide_eq_true_eq]
    simp [encMRRR, encV_eq, h, eq_fin8_iff (fld w 63 59), eq_fin8_iff (fld w 58 54), eq_fin8_iff (fld w 53 49)]
    clear h; tauto

theorem vFormat_mrr : VFormat parseMRR encMRR := fun op hop x hx w k i =>
  need_iff fun ⟨ctl, d, a⟩ => by
    have h := vslot_eq_iff hop hx w ctl (L := [.fin 63 59 d, .fin 58 54 a, .gap 53 0]) (by simp [tiles])
    simp at h
    simp only [Bool.and_eq_true, decide_eq_true_eq]
    simp [encMRR, encV_eq, h, eq_fin8_iff (fld w 63 59), eq_fin8_iff (fld w 58 54)]
    clear h; tauto

theorem vFormat_vf2 : VFormat parseVF2 encVF2 := fun op hop x hx w k i =>
  bind_bind_need_iff (vtypeOf (vtyOf w)) (vsrcOf w)
    (by unfold parseVF2; cases vtypeOf (vtyOf w) <;> cases vsrcOf w <;> rfl) fun ⟨ctl, t, d, a, b, m⟩ => by
    have h := vslot_eq_iff hop hx w ctl (L := [.fin 63 59 d, .fin 58 54 a, .srcB b, .gap 48 44, .fin 43 41 m, .vtype t, .gap 38 37,
      .srcMod b, .srcImm b]) (by simp [tiles])
    simp at h
    simp [encVF2, encV_eq, h]
    clear h; tauto

theorem vFormat_vf3 : VFormat parseVF3 encVF3 := fun op hop x hx w k i =>
  bind_bind_need_iff (vtypeOf (vtyOf w)) (vsrcOf w)
    (by unfold parseVF3; cases vtypeOf (vtyOf w) <;> cases vsrcOf w <;> rfl) fun ⟨ctl, t, d, a, b, q, m⟩ => by
    have h := vslot_eq_iff hop hx w ctl (L := [.fin 63 59 d, .fin 58 54 a, .srcB b, .fin 48 44 q, .fin 43 41 m, .vtype t, .gap 38 37,
      .srcMod b, .srcImm b]) (by simp [tiles])
    simp at h
    simp [encVF3, encV_eq, h]
    clear h; tauto

theorem vFormat_vf1 : VFormat parseVF1 encVF1 := fun op hop x hx w k i =>
  bind_need_iff (vtypeOf (vtyOf w))
    (by unfold parseVF1; cases vtypeOf (vtyOf w) <;> rfl) fun ⟨ctl, t, d, a, m⟩ => by
    have h := vslot_eq_iff hop hx w ctl (L := [.fin 63 59 d, .fin 58 54 a, .gap 53 44, .fin 43 41 m, .vtype t, .gap 38 0]) (by simp [tiles])
    simp at h
    simp [encVF1, encV_eq, h]
    clear h; tauto

theorem vFormat_vCmp : VFormat parseVCmp encVCmp := fun op hop x hx w k i =>
  bind_bind_need_iff (vtypeOf (vtyOf w)) (condOf (fld w 2 0))
    (by unfold parseVCmp; cases vtypeOf (vtyOf w) <;> cases condOf (fld w 2 0) <;> rfl) fun ⟨ctl, t, u, c, d, a, b, m⟩ => by
    have h := vslot_eq_iff hop hx w ctl (L := [.fin 63 59 d, .fin 58 54 a, .fin 53 49 b, .gap 48 44, .fin 43 41 m, .vtype t, .gap 38 37,
      .flag 36 u, .gap 35 3, .cond 2 0 c]) (by simp [tiles])
    simp at h
    simp only [Bool.and_eq_true, decide_eq_true_eq]
    simp [encVCmp, encV_eq, h, eq_fin8_iff (fld w 63 59)]
    clear h; tauto

theorem vFormat_vi2 : VFormat parseVI2 encVI2 := fun op hop x hx w k i =>
  bind_need_iff (vsrcOf w)
    (by unfold parseVI2; cases vsrcOf w <;> rfl) fun ⟨ctl, d, a, b, m⟩ => by
    have h := vslot_eq_iff hop hx w ctl (L := [.fin 63 59 d, .fin 58 54 a, .srcB b, .gap 48 44, .fin 43 41 m, .gap 40 39, .gap 38 37,
      .srcMod b, .srcImm b]) (by simp [tiles])
    simp at h
    simp [encVI2, encV_eq, h]
    clear h; tauto

theorem vFormat_vICmp : VFormat parseVICmp encVICmp := fun op hop x hx w k i =>
  bind_need_iff (condOf (fld w 2 0))
    (by unfold parseVICmp; cases condOf (fld w 2 0) <;> rfl) fun ⟨ctl, c, d, a, b, m⟩ => by
    have h := vslot_eq_iff hop hx w ctl (L := [.fin 63 59 d, .fin 58 54 a, .fin 53 49 b, .gap 48 44, .fin 43 41 m, .gap 40 36, .gap 35 3,
      .cond 2 0 c]) (by simp [tiles])
    simp at h
    simp only [Bool.and_eq_true, decide_eq_true_eq]
    simp [encVICmp, encV_eq, h, eq_fin8_iff (fld w 63 59)]
    clear h; tauto

theorem vFormat_vCvt : VFormat parseVCvt encVCvt := fun op hop x hx w k i =>
  bind_need_iff (rmodeOf (vrmOf w))
    (by unfold parseVCvt; cases rmodeOf (vrmOf w) <;> rfl) fun ⟨ctl, r, d, a, p, q, m⟩ => by
    have h := vslot_eq_iff hop hx w ctl (L := [.fin 63 59 d, .fin 58 54 a, .gap 53 44, .fin 43 41 m, .gap 40 39, .rmode r, .gap 36 36,
      .gap 35 16, .imm 15 8 q, .imm 7 0 p]) (by simp [tiles])
    simp at h
    simp [encVCvt, encV_eq, h]
    clear h; tauto

theorem vFormat_vPack : VFormat parseVPack encVPack := fun op hop x hx w k i =>
  bind_bind_need_iff (vtypeOf (vtyOf w)) (rmodeOf (vrmOf w))
    (by unfold parseVPack; cases vtypeOf (vtyOf w) <;> cases rmodeOf (vrmOf w) <;> rfl) fun ⟨ctl, t, r, d, a, b, m⟩ => by
    have h := vslot_eq_iff hop hx w ctl (L := [.fin 63 59 d, .fin 58 54 a, .fin 53 49 b, .gap 48 44, .fin 43 41 m, .vtype t, .rmode r,
      .gap 36 36, .gap 35 0]) (by simp [tiles])
    simp at h
    simp [encVPack, encV_eq, h]
    clear h; tauto

theorem vFormat_vUnpk : VFormat parseVUnpk encVUnpk := fun op hop x hx w k i =>
  bind_need_iff (vtypeOf (vtyOf w))
    (by unfold parseVUnpk; cases vtypeOf (vtyOf w) <;> rfl) fun ⟨ctl, t, u, d, a, m⟩ => by
    have h := vslot_eq_iff hop hx w ctl (L := [.fin 63 59 d, .fin 58 54 a, .gap 53 44, .fin 43 41 m, .vtype t, .gap 38 37, .flag 36 u,
      .gap 35 0]) (by simp [tiles])
    simp at h
    simp [encVUnpk, encV_eq, h]
    clear h; tauto

theorem vFormat_vCrt : VFormat parseVCrt encVCrt := fun op hop x hx w k i =>
  bind_need_iff (rmodeOf (vrmOf w))
    (by unfold parseVCrt; cases rmodeOf (vrmOf w) <;> rfl) fun ⟨ctl, r, u, d, a, n, m⟩ => by
    have h := vslot_eq_iff hop hx w ctl (L := [.fin 63 59 d, .fin 58 54 a, .gap 53 44, .fin 43 41 m, .gap 40 39, .rmode r, .flag 36 u,
      .gap 35 32, .imm 31 0 n]) (by simp [tiles])
    simp at h
    simp [encVCrt, encV_eq, h]
    clear h; tauto

/-! ## The formats of M and X records -/

theorem mRec_iff {op : Nat} (hop : op < 256) (w : Nat) (k : MRec → Instr) (i : Instr) :
    (w < 2 ^ 512 ∧ fld w 511 504 = op) ∧ parseMRec w k = some i ↔ ∃ r, k r = i ∧ encMRec op r = w :=
  need_iff fun ⟨popX, popV, pushX, pushV, fmta, fmtb, acc, ⟨t, swap, zero, bs, sr, p0, p1⟩, basea, baseb, basec, scalea, scaleb,
    ⟨t0, t1, t2, t3⟩, ⟨a0, a1, a2, a3⟩, ⟨b0, b1, b2, b3⟩, ⟨c0, c1, c2, c3⟩, rows, kpass, cols⟩ => by
    have h := layout_eq_iff w 512 (L := [.num 511 504 op hop, .flag 503 popX, .flag 502 popV, .flag 501 pushX, .flag 500 pushV,
      .imm 499 492 fmta, .imm 491 484 fmtb, .fin 483 482 acc, .flag 481 t, .flag 480 swap, .flag 479 zero, .flag 478 bs, .flag 477 sr,
      .flag 476 p0, .flag 475 p1, .gap 474 464, .imm 463 444 basea, .imm 443 424 baseb, .imm 423 404 basec, .imm 403 384 scalea,
      .imm 383 364 scaleb, .imm 363 348 t0, .imm 347 332 t1, .imm 331 316 t2, .imm 315 300 t3, .imm 299 280 a0, .imm 279 260 a1,
      .imm 259 240 a2, .imm 239 220 a3, .imm 219 200 b0, .imm 199 180 b1, .imm 179 160 b2, .imm 159 140 b3, .imm 139 120 c0,
      .imm 119 100 c1, .imm 99 80 c2, .imm 79 60 c3, .imm 59 44 rows, .imm 43 36 kpass, .imm 35 28 cols, .gap 27 0]) (by simp [tiles])
    simp only [layout, List.forall_mem_cons, BitField.num, BitField.gap, BitField.flag, BitField.fin, BitField.imm, Nat.zero_mul, Nat.zero_add,
      Nat.pow_zero, Nat.mul_one, Nat.add_zero] at h
    simp only [encMRec, encQuad16, encQuad20, Nat.add_assoc, Nat.reduceAdd]
    rw [h]
    simp [-Nat.reducePow, quad16, quad20, finOfNat_fld_eq_iff (x := acc) (w := w) (hi := 483) (lo := 482) rfl, -Fin.ofNat_eq_cast]
    constructor <;> intro h <;> simp [h, -Nat.reducePow]

@[simp] theorem xstepOf_fld_eq_iff {w hi lo : Nat} (s : XStep) (h : hi + 1 - lo = 16) :
    xstepOf (fld w hi lo) = s ↔ fld w hi (lo + 12) = s.dim ∧ fld w (lo + 11) lo = s.step.toNat := by
  have hhi : fld w hi lo / 2 ^ 12 = fld w hi (lo + 12) := by
    rw [fld, fld, h, show 2 ^ 16 = 2 ^ 12 * 2 ^ 4 from rfl, Nat.mod_mul_right_div_self, Nat.div_div_eq_div_mul, ← Nat.pow_add,
      show hi + 1 - (lo + 12) = 4 by omega]
  have hlo : fld w hi lo % 2 ^ 12 = fld w (lo + 11) lo := by
    rw [fld, fld, h, Nat.mod_mod_of_dvd _ (by decide), show lo + 11 + 1 - lo = 12 by omega]
  have hd : hi + 1 - (lo + 12) = 4 := by omega
  have hs : lo + 11 + 1 - lo = 12 := by omega
  cases s
  rw [xstepOf, hhi, hlo, XStep.mk.injEq, fin16_fld_eq_iff hd, bvOfNat_fld_eq_iff hs]

theorem xRec_iff {op : Nat} (hop : op < 256) (w : Nat) (k : XRec → Instr) (i : Instr) :
    (w < 2 ^ 512 ∧ fld w 511 504 = op) ∧ parseXRec w k = some i ↔ ∃ r, k r = i ∧ encXRec op r = w :=
  need_iff fun ⟨popM, popV, pushM, pushV, treg, ⟨fpr, crecF, cvt, sr, trn, mc, bscl, wq, sync⟩, shape, window, crec, slot, dest,
    ⟨t0, t1, t2, t3⟩, ⟨⟨d0, s0⟩, ⟨d1, s1⟩, ⟨d2, s2⟩, ⟨d3, s3⟩⟩, second, limit⟩ => by
    have h := layout_eq_iff w 512 (L := [.num 511 504 op hop, .flag 503 popM, .flag 502 popV, .flag 501 pushM, .flag 500 pushV,
      .fin 499 494 treg, .flag 493 fpr, .flag 492 crecF, .flag 491 cvt, .flag 490 sr, .flag 489 trn, .flag 488 mc, .flag 487 bscl,
      .flag 486 wq, .flag 485 sync, .gap 484 480, .imm 479 416 shape, .imm 415 396 window, .imm 395 376 crec, .fin 375 371 slot,
      .gap 370 368, .imm 367 304 dest, .imm 303 288 t0, .imm 287 272 t1, .imm 271 256 t2, .imm 255 240 t3, .fin 239 236 d0,
      .imm 235 224 s0, .fin 223 220 d1, .imm 219 208 s1, .fin 207 204 d2, .imm 203 192 s2, .fin 191 188 d3, .imm 187 176 s3,
      .imm 175 112 second, .imm 111 80 limit, .gap 79 0]) (by simp [tiles])
    simp only [layout, List.forall_mem_cons, BitField.num, BitField.gap, BitField.flag, BitField.fin, BitField.imm, Nat.zero_mul, Nat.zero_add,
      Nat.pow_zero, Nat.mul_one, Nat.add_zero] at h
    simp only [encXRec, encQuad16, xstepCode, Nat.add_mul, Nat.mul_assoc, Nat.add_assoc, Nat.reduceAdd, ← Nat.pow_add]
    rw [h]
    simp [-Nat.reducePow, quad16]
    constructor <;> intro h <;> simp [h, -Nat.reducePow]

end Sys2Proof.Encoding
end

section
/-! PROOFS. The decoder inverts the encoder and the encoder the decoder (R58 to R74). -/

namespace Sys2Proof.Encoding

/-! ## The decoder's grids against the encoder's rows -/

theorem judge_eq_ok_iff {op : Nat} {p : Option Instr} {i : Instr} : judge op p = .ok i ↔ p = some i ∧ i.WellFormed := by
  cases p with
  | none => simp [judge]
  | some j =>
    by_cases h : j.wf = true
    · simpa [judge, h] using fun hj : j = i => hj ▸ h
    · simpa [judge, h] using fun hj : j = i => hj ▸ Bool.eq_false_iff.2 h

theorem decodeC_eq_ok_iff {w w1 w2 w3 : Nat} {i : Instr} : decodeC w w1 w2 w3 = .ok i ↔
    assignedC (fld w 63 56) = true ∧ parseC (fld w 63 56) w w1 w2 w3 = some i ∧ i.WellFormed := by
  unfold decodeC
  split <;> simp [judge_eq_ok_iff, *]

theorem decodeM_eq_ok_iff {w : Nat} {i : Instr} : decodeM w = .ok i ↔
    assignedM (fld w 511 504) = true ∧ parseM (fld w 511 504) w = some i ∧ i.WellFormed := by
  unfold decodeM
  split <;> simp [judge_eq_ok_iff, *]

theorem decodeX_eq_ok_iff {w : Nat} {i : Instr} : decodeX w = .ok i ↔
    assignedX (fld w 511 504) = true ∧ parseX (fld w 511 504) w = some i ∧ i.WellFormed := by
  unfold decodeX
  split <;> simp [judge_eq_ok_iff, *]

theorem decodeV_eq_ok_iff {w : Nat} {p : Pair} : decodeV w = .ok p ↔
    fld w 119 114 < 16 ∧ assignedV (fld w 71 64) = true ∧ (parseK (fld w 119 114) w = some p.k ∧ p.k.WellFormed) ∧
      (parseV (fld w 71 64) w = some p.v ∧ p.v.WellFormed) ∧ vguardOf w = p.g ∧ (vctlOf w).tok = p.tok := by
  obtain ⟨k, v, g, t⟩ := p
  rw [← judge_eq_ok_iff (op := fld w 119 114), ← judge_eq_ok_iff (op := fld w 71 64)]
  unfold decodeV
  by_cases hk : fld w 119 114 < 16
  · by_cases hv : assignedV (fld w 71 64) = true
    · cases judge (fld w 119 114) (parseK (fld w 119 114) w) <;> cases judge (fld w 71 64) (parseV (fld w 71 64) w) <;>
        simp [hk, hv, -vguardOf_eq_iff, -vctlOf_eq_iff]
    · simp [hk, hv]
  · simp [hk]

/-- What the decoder's grids find in the bits an instruction is encoded to: of a scalar slot, in every pair that holds it, the instruction
under the pair's guard. -/
def ReadsBack (i : Instr) : Enc → Prop
  | .c [w] => w < 2 ^ 64 ∧ assignedC (fld w 63 56) = true ∧ ∀ w1 w2 w3, parseC (fld w 63 56) w w1 w2 w3 = some i
  | .c [w, w1, w2, w3] => assignedC (fld w 63 56) = true ∧ parseC (fld w 63 56) w w1 w2 w3 = some i
  | .k a => ∃ x < 2 ^ 48, a = x * 2 ^ 72 ∧ ∀ w, fld w 119 72 = x → fld w 119 114 < 16 ∧
      ∃ j, parseK (fld w 119 114) w = some j ∧ j.WellFormed ∧ encode j = .k a ∧ (kguard i = some (vguardOf w) → j = i)
  | .v b => ∀ x < 2 ^ 48, x * 2 ^ 72 + b < 2 ^ 128 ∧ fld (x * 2 ^ 72 + b) 119 72 = x ∧
      assignedV (fld (x * 2 ^ 72 + b) 71 64) = true ∧ parseV (fld (x * 2 ^ 72 + b) 71 64) (x * 2 ^ 72 + b) = some i
  | .m w => w < 2 ^ 512 ∧ assignedM (fld w 511 504) = true ∧ parseM (fld w 511 504) w = some i
  | .x w => w < 2 ^ 512 ∧ assignedX (fld w 511 504) = true ∧ parseX (fld w 511 504) w = some i
  | _ => True

theorem readsBack_of_row {op : Nat} {p : Nat → Option Instr} (ha : assignedC op = true)
    (hp : ∀ w w1 w2 w3, parseC op w w1 w2 w3 = p w) {w : Nat} {i : Instr} (h : (w < 2 ^ 64 ∧ fld w 63 56 = op) ∧ p w = some i) :
    ReadsBack i (.c [w]) := by
  obtain ⟨⟨hw, rfl⟩, h⟩ := h
  exact ⟨hw, ha, fun w1 w2 w3 => (hp w w1 w2 w3).trans h⟩

theorem CFormat.readsBack {α : Type} {parse : Nat → (α → Instr) → Option Instr} {enc : Nat → α → Nat} (f : CFormat parse enc) {op : Nat}
    {k : α → Instr} (hlt : op < 256) (ha : assignedC op = true) (hp : ∀ w w1 w2 w3, parseC op w w1 w2 w3 = parse w k) (o : α) :
    ReadsBack (k o) (.c [enc op o]) :=
  readsBack_of_row ha hp ((f op hlt (enc op o) k (k o)).2 ⟨o, rfl, rfl⟩)

theorem getSysRow_readsBack (o : GetSysOp) : ReadsBack (getSysRow o) (.c [encGetSys o]) :=
  readsBack_of_row rfl (fun _ _ _ _ => rfl) (parseGetSys_iff.2 ⟨o, rfl, rfl⟩)

theorem setSysRow_readsBack (o : SetSysOp) : ReadsBack (setSysRow o) (.c [encSetSys o]) :=
  readsBack_of_row rfl (fun _ _ _ _ => rfl) (parseSetSys_iff.2 ⟨o, rfl, rfl⟩)

theorem safept_readsBack (o : SafeMasks) : ReadsBack (.safept o) (.c (encSafept o)) := by
  obtain ⟨⟨-, -, -, -, hop⟩, h⟩ := parseSafept_iff.2 ⟨o, rfl, rfl⟩
  exact ⟨by rw [hop]; rfl, by rw [hop]; exact h⟩

theorem KFormat.readsBack {α : Type} {parse : Nat → (α → Instr) → Option Instr} {enc : Nat → α → Nat} {g : α → VGuard}
    (f : KFormat parse enc g) {op : Nat} {k : α → Instr} (hlt : op < 16) (hp : ∀ w i, parse w k = some i → parseK op w = some i)
    (hk : ∀ o, (k o).WellFormed ∧ encode (k o) = .k (enc op o) ∧ kguard (k o) = some (g o)) (o : α) :
    ReadsBack (k o) (.k (enc op o)) := by
  obtain ⟨x, hlt', hx⟩ := f.inSlot op (by omega) o
  refine ⟨x, hlt', hx, fun w hw => ?_⟩
  obtain ⟨o', hg, he, heq⟩ := f.reguard op o (vguardOf w)
  obtain ⟨hop, h⟩ := (f.reads op (by omega) w k (k o')).2 ⟨o', rfl, hg, by rw [he, hw, ← hx]⟩
  obtain ⟨hwf, henc, -⟩ := hk o'
  refine ⟨by rwa [hop], k o', by rw [hop]; exact hp _ _ h, hwf, by rw [henc, he], fun hguard => ?_⟩
  rw [heq (Option.some.inj ((hk o).2.2.symm.trans hguard))]

/-- What the parsers of the vector slots that share an opcode require of bit 36. -/
theorem mod_of_parseVMem {w : Nat} {ld : Bool} {k : VMem → Instr} {i : Instr} (h : parseVMem w ld k = some i) : fld w 36 36 = 0 := by
  simp [parseVMem, need] at h
  simp [fld] at h ⊢
  omega

theorem mod_of_parseVLane {w : Nat} {k : VLaneImm → Instr} {i : Instr} (h : parseVLane w k = some i) : fld w 36 36 = 0 := by
  simp [parseVLane, need] at h
  simp [fld] at h ⊢
  omega

theorem mod_of_parseVF1 {w : Nat} {k : VFloat1 → Instr} {i : Instr} (h : parseVF1 w k = some i) : fld w 36 36 = 0 := by
  unfold parseVF1 at h
  split at h
  · simp [need] at h
    simp [fld] at h ⊢
    omega
  · cases h

theorem mod_of_parseVNar {w md : Nat} {k : VNarrow → Instr} {i : Instr} (h : parseVNar w md k = some i) : fld w 36 36 = md := by
  unfold parseVNar at h
  split at h
  · simp [need] at h
    exact h.1.2
  · cases h

theorem mod_of_parseVRR {w md : Nat} {k : VRR → Instr} {i : Instr} (h : parseVRR w md k = some i) : fld w 36 36 = md := by
  simp [parseVRR, need] at h
  exact h.1.1.2

theorem mod_of_parseVBcastKOn {w : Nat} {k : VBcastK → Instr} {i : Instr} (h : parseVBcastKOn w k = some i) : fld w 36 36 = 1 := by
  simp [parseVBcastKOn, need] at h
  exact h.1.1.2

theorem VFormat.readsBack {α : Type} {parse : Nat → (α → Instr) → Option Instr} {enc : Nat → α → Nat} (f : VFormat parse enc) {op : Nat}
    {k : α → Instr} (hlt : op < 256) (ha : assignedV op = true) (hp : ∀ w i, parse w k = some i → parseV op w = some i) (o : α) :
    ReadsBack (k o) (.v (enc op o)) := by
  intro x hx
  obtain ⟨⟨hw, hop, hf⟩, h⟩ := (f op hlt x hx _ k (k o)).2 ⟨o, rfl, rfl⟩
  exact ⟨hw, hf, by rwa [hop], by rw [hop]; exact hp _ _ h⟩

theorem mRec_readsBack {op : Nat} {k : MRec → Instr} (hlt : op < 256) (ha : assignedM op = true)
    (hp : ∀ w, parseM op w = parseMRec w k) (r : MRec) : ReadsBack (k r) (.m (encMRec op r)) := by
  obtain ⟨⟨hw, hop⟩, h⟩ := (mRec_iff hlt (encMRec op r) k (k r)).2 ⟨r, rfl, rfl⟩
  exact ⟨hw, by rwa [hop], by rw [hop, hp, h]⟩

theorem xRec_readsBack {op : Nat} {k : XRec → Instr} (hlt : op < 256) (ha : assignedX op = true)
    (hp : ∀ w, parseX op w = parseXRec w k) (r : XRec) : ReadsBack (k r) (.x (encXRec op r)) := by
  obtain ⟨⟨hw, hop⟩, h⟩ := (xRec_iff hlt (encXRec op r) k (k r)).2 ⟨r, rfl, rfl⟩
  exact ⟨hw, by rwa [hop], by rw [hop, hp, h]⟩

/-- Every row of the encoder is read back by the grid of its stream. -/
theorem encode_readsBack (i : Instr) (h : i.WellFormed) : ReadsBack i (encode i) := by
  cases i
  case add o | sub o | mul o | mulh o | mulhu o | div o | divu o | rem o | remu o | min o | minu o | max o | maxu o | and o | or o |
    xor o | andn o | shl o | shr o | sra o | rol o | bext o | bins o | sext o | zext o | launchq o =>
    exact cFormat_rrr.readsBack (by decide) rfl (fun _ _ _ _ => rfl) o
  case madd o =>
    exact cFormat_rrrr.readsBack (by decide) rfl (fun _ _ _ _ => rfl) o
  case sel o =>
    exact cFormat_sel.readsBack (by decide) rfl (fun _ _ _ _ => rfl) o
  case clz o | ctz o | popc o | callr o =>
    exact cFormat_rr.readsBack (by decide) rfl (fun _ _ _ _ => rfl) o
  case addi o | andi o | ori o | xori o =>
    exact cFormat_rri.readsBack (by decide) rfl (fun _ _ _ _ => rfl) o
  case shli o | shri o | srai o =>
    exact cFormat_shift.readsBack (by decide) rfl (fun _ _ _ _ => rfl) o
  case li o =>
    exact cFormat_li.readsBack (by decide) rfl (fun _ _ _ _ => rfl) o
  case lih o =>
    exact cFormat_lih.readsBack (by decide) rfl (fun _ _ _ _ => rfl) o
  case cmpEq o | cmpNe o | cmpLt o | cmpLtu o | cmpLe o | cmpLeu o =>
    exact cFormat_cmpRR.readsBack (by decide) rfl (fun _ _ _ _ => rfl) o
  case cmpiEq o | cmpiNe o | cmpiLt o | cmpiLtu o | cmpiLe o | cmpiLeu o =>
    exact cFormat_cmpRI.readsBack (by decide) rfl (fun _ _ _ _ => rfl) o
  case pand o | por o | pxor o =>
    exact cFormat_ppp.readsBack (by decide) rfl (fun _ _ _ _ => rfl) o
  case pnot o =>
    exact cFormat_pp.readsBack (by decide) rfl (fun _ _ _ _ => rfl) o
  case ld o =>
    exact cFormat_load.readsBack (by decide) rfl (fun _ _ _ _ => rfl) o
  case st o =>
    exact cFormat_store.readsBack (by decide) rfl (fun _ _ _ _ => rfl) o
  case lds o =>
    exact cFormat_loadS.readsBack (by decide) rfl (fun _ _ _ _ => rfl) o
  case sts o =>
    exact cFormat_storeS.readsBack (by decide) rfl (fun _ _ _ _ => rfl) o
  case pref o =>
    exact cFormat_pref.readsBack (by decide) rfl (fun _ _ _ _ => rfl) o
  case amo o =>
    exact cFormat_atom.readsBack (by decide) rfl (fun _ _ _ _ => rfl) o
  case amos o | amosCo o =>
    exact cFormat_atomS.readsBack (by decide) rfl (fun _ _ _ _ => rfl) o
  case br o =>
    exact cFormat_br.readsBack (by decide) rfl (fun _ _ _ _ => rfl) o
  case call o =>
    exact cFormat_call.readsBack (by decide) rfl (fun _ _ _ _ => rfl) o
  case jmp o | ret o =>
    exact cFormat_jmp.readsBack (by decide) rfl (fun _ _ _ _ => rfl) o
  case fence o =>
    exact cFormat_fence.readsBack (by decide) rfl (fun _ _ _ _ => rfl) o
  case phase o | killpt o | exit o | exitAbandon o | eret o | nop o | wfe o | halt o =>
    exact cFormat_no.readsBack (by decide) rfl (fun _ _ _ _ => rfl) o
  case gbar o =>
    exact cFormat_gBar.readsBack (by decide) rfl (fun _ _ _ _ => rfl) o
  case sstep o =>
    exact cFormat_sStep.readsBack (by decide) rfl (fun _ _ _ _ => rfl) o
  case safept o =>
    exact safept_readsBack o
  case qarrive o =>
    exact cFormat_qArr.readsBack (by decide) rfl (fun _ _ _ _ => rfl) o
  case fork o =>
    exact cFormat_fork.readsBack (by decide) rfl (fun _ _ _ _ => rfl) o
  case forks o =>
    exact cFormat_forkS.readsBack (by decide) rfl (fun _ _ _ _ => rfl) o
  case resolve o =>
    exact cFormat_resolve.readsBack (by decide) rfl (fun _ _ _ _ => rfl) o
  case cancel o =>
    exact cFormat_cancel.readsBack (by decide) rfl (fun _ _ _ _ => rfl) o
  case rdv o =>
    exact cFormat_rdv.readsBack (by decide) rfl (fun _ _ _ _ => rfl) o
  case mapwait o =>
    exact cFormat_mapWait.readsBack (by decide) rfl (fun _ _ _ _ => rfl) o
  case waittl o =>
    exact cFormat_waitTl.readsBack (by decide) rfl (fun _ _ _ _ => rfl) o
  case seminc o =>
    exact (cFormat_sem (by decide)).readsBack (by decide) rfl (fun _ _ _ _ => rfl) o
  case semwait o =>
    exact (cFormat_sem (by decide)).readsBack (by decide) rfl (fun _ _ _ _ => rfl) o
  case trap o | brk o =>
    exact cFormat_code.readsBack (by decide) rfl (fun _ _ _ _ => rfl) o
  case getsys o =>
    have hr := getSysRow_readsBack o
    rwa [getSysRow_of_wf h] at hr
  case setsys o =>
    have hr := setSysRow_readsBack o
    rwa [setSysRow_of_wf h] at hr
  case setsysSeedv o => exact setSysRow_readsBack ⟨o.g, o.a, 0x030#12⟩
  case setsysSeedx o => exact setSysRow_readsBack ⟨o.g, o.a, 0x031#12⟩
  case setsysSeedm o => exact setSysRow_readsBack ⟨o.g, o.a, 0x037#12⟩
  case setsysReplctl o => exact setSysRow_readsBack ⟨o.g, o.a, 0x051#12⟩
  case setsysQuaglim o => exact setSysRow_readsBack ⟨o.g, o.a, 0x050#12⟩
  case setsysPgrace o => exact setSysRow_readsBack ⟨o.g, o.a, 0x058#12⟩
  case getsysReplst o =>
    exact getSysRow_readsBack ⟨o.g, o.d, 0x054#12⟩
  case tlbinv o =>
    exact cFormat_tlbinv.readsBack (by decide) rfl (fun _ _ _ _ => rfl) o
  case knop o | kend o =>
    exact kFormat_kNone.readsBack (by decide) (by exact fun _ _ h => h) (by exact fun _ => ⟨rfl, rfl, rfl⟩) o
  case kadd o | ksub o | kand o | kor o | kxor o | kshl o | kshr o =>
    exact kFormat_kRRR.readsBack (by decide) (by exact fun _ _ h => h) (by exact fun _ => ⟨rfl, rfl, rfl⟩) o
  case kaddi o =>
    exact kFormat_kRRI.readsBack (by decide) (by exact fun _ _ h => h) (by exact fun _ => ⟨rfl, rfl, rfl⟩) o
  case kli o =>
    exact kFormat_kImm.readsBack (by decide) (by exact fun _ _ h => h) (by exact fun _ => ⟨rfl, rfl, rfl⟩) o
  case kcmp o =>
    exact kFormat_kCmp.readsBack (by decide) (by exact fun _ _ h => h) (by exact fun _ => ⟨rfl, rfl, rfl⟩) o
  case kloop o =>
    refine kFormat_kLoop.readsBack (by decide) (by exact fun w i h => (parseKLoop_eq_some_iff w i).2 (.inl h)) (fun _ => ?_) o
    exact ⟨rfl, rfl, rfl⟩
  case kloopSet o =>
    refine kFormat_kLoopSet.readsBack (by decide) (by exact fun w i h => (parseKLoop_eq_some_iff w i).2 (.inr h)) (fun _ => ?_) o
    exact ⟨rfl, rfl, rfl⟩
  case kbr o =>
    exact kFormat_kBr.readsBack (by decide) (by exact fun _ _ h => h) (by exact fun _ => ⟨rfl, rfl, rfl⟩) o
  case kfrom o =>
    exact kFormat_kFrom.readsBack (by decide) (by exact fun _ _ h => h) (by exact fun _ => ⟨rfl, rfl, rfl⟩) o
  case kseed o =>
    exact kFormat_kSeed.readsBack (by decide) (by exact fun _ _ h => h) (by exact fun _ => ⟨rfl, rfl, rfl⟩) o
  case vnop o =>
    exact vFormat_vNone.readsBack (by decide) rfl (by exact fun _ _ h => h) o
  case vld o =>
    exact (vFormat_vMem true).readsBack (by decide) rfl (by exact fun _ _ h => h) o
  case vst o =>
    refine (vFormat_vMem false).readsBack (by decide) rfl (fun w i h => ?_) o
    exact (if_pos (mod_of_parseVMem h)).trans h
  case vstN o =>
    refine (vFormat_vNar (by decide)).readsBack (by decide) rfl (fun w i h => ?_) o
    exact (if_neg (by rw [mod_of_parseVNar h]; decide)).trans h
  case vldx o =>
    exact (vFormat_vIdx true).readsBack (by decide) rfl (by exact fun _ _ h => h) o
  case vstx o =>
    exact (vFormat_vIdx false).readsBack (by decide) rfl (by exact fun _ _ h => h) o
  case vldb o =>
    exact (vFormat_vNar (by decide)).readsBack (by decide) rfl (by exact fun _ _ h => h) o
  case vperm o | vsel o =>
    exact vFormat_vrrr.readsBack (by decide) rfl (by exact fun _ _ h => h) o
  case vbcast o =>
    refine vFormat_vLane.readsBack (by decide) rfl (fun w i h => ?_) o
    exact (if_pos (mod_of_parseVLane h)).trans h
  case vrot o =>
    exact vFormat_vLane.readsBack (by decide) rfl (by exact fun _ _ h => h) o
  case vbcastK o =>
    refine vFormat_vBcastK.readsBack (by decide) rfl (fun w i h => ?_) o
    have hm : ¬fld w 36 36 = 0 := by rw [mod_of_parseVBcastKOn h]; decide
    exact (if_neg hm).trans ((parseVBcastK_of_mod hm).trans h)
  case mand o | mor o | mxor o =>
    exact vFormat_mrrr.readsBack (by decide) rfl (by exact fun _ _ h => h) o
  case mnot o =>
    exact vFormat_mrr.readsBack (by decide) rfl (by exact fun _ _ h => h) o
  case vadd o | vsub o | vmul o | vmin o | vmax o =>
    exact vFormat_vf2.readsBack (by decide) rfl (by exact fun _ _ h => h) o
  case vfma o =>
    exact vFormat_vf3.readsBack (by decide) rfl (by exact fun _ _ h => h) o
  case vred o =>
    refine vFormat_vf1.readsBack (by decide) rfl (fun w i h => ?_) o
    exact (if_pos (mod_of_parseVF1 h)).trans h
  case vabs o | vneg o | vrcp o | vrsq o | vexp2 o | vlog2 o =>
    exact vFormat_vf1.readsBack (by decide) rfl (by exact fun _ _ h => h) o
  case vcmp o =>
    exact vFormat_vCmp.readsBack (by decide) rfl (by exact fun _ _ h => h) o
  case viadd o | visub o | vimul o | vand o | vor o | vxor o | vshl o | vshr o | vsra o | vimin o | vimax o | viminu o | vimaxu o =>
    exact vFormat_vi2.readsBack (by decide) rfl (by exact fun _ _ h => h) o
  case vicmp o =>
    exact vFormat_vICmp.readsBack (by decide) rfl (by exact fun _ _ h => h) o
  case vcvt o =>
    exact vFormat_vCvt.readsBack (by decide) rfl (by exact fun _ _ h => h) o
  case vpack o =>
    exact vFormat_vPack.readsBack (by decide) rfl (by exact fun _ _ h => h) o
  case vunpk o =>
    exact vFormat_vUnpk.readsBack (by decide) rfl (by exact fun _ _ h => h) o
  case vscan o =>
    refine (vFormat_vRR (by decide)).readsBack (by decide) rfl (fun w i h => ?_) o
    exact (if_pos (mod_of_parseVRR h)).trans h
  case vrns o =>
    exact (vFormat_vRR (by decide)).readsBack (by decide) rfl (by exact fun _ _ h => h) o
  case vcrt o =>
    exact vFormat_vCrt.readsBack (by decide) rfl (by exact fun _ _ h => h) o
  case vredI32 o =>
    refine (vFormat_vRR (by decide)).readsBack (by decide) rfl (fun w i h => ?_) o
    exact (if_neg (by rw [mod_of_parseVRR h]; decide)).trans h
  case vscanI32 o =>
    refine (vFormat_vRR (by decide)).readsBack (by decide) rfl (fun w i h => ?_) o
    exact (if_neg (by rw [mod_of_parseVRR h]; decide)).trans h
  case mnop o | mend o | mrep o | ldstat o | mswap o | mma o | mmabs o | mdist o | mtopk o | mbotk o | accz o | accld o | accadd o |
    accrd o =>
    exact mRec_readsBack (by decide) rfl (fun _ => rfl) o
  case xnop o | xend o | xrep o | load o | store o | copy o | fill o | send o | gather o | scatter o | coll o | reds o | signal o |
    mapset o | mapswap o | mapclr o | mapready o | wellrd o =>
    exact xRec_readsBack (by decide) rfl (fun _ => rfl) o
  all_goals trivial

theorem CFormat.parse_iff {α : Type} {parse : Nat → (α → Instr) → Option Instr} {enc : Nat → α → Nat} (f : CFormat parse enc) {op w : Nat}
    (hw : w < 2 ^ 64) (hop : fld w 63 56 = op) {k : α → Instr} {i : Instr} : parse w k = some i ↔ ∃ o, k o = i ∧ enc op o = w := by
  rw [← f op (hop ▸ fld_lt w 63 56) w k i]
  exact (and_iff_right ⟨hw, hop⟩).symm

/-- What the C grid reads from a word encodes to that word, or to SAFEPT's four. -/
theorem encode_of_parseC {w w1 w2 w3 : Nat} {i : Instr} (hw : w < 2 ^ 64) (hw1 : w1 < 2 ^ 64) (hw2 : w2 < 2 ^ 64) (hw3 : w3 < 2 ^ 64)
    (h : parseC (fld w 63 56) w w1 w2 w3 = some i) : encode i = .c [w] ∨ encode i = .c [w, w1, w2, w3] := by
  generalize hop : fld w 63 56 = op at h
  unfold parseC at h
  split at h
  all_goals simp only [cFormat_atom.parse_iff hw hop, cFormat_atomS.parse_iff hw hop, cFormat_br.parse_iff hw hop, cFormat_call.parse_iff
    hw hop,
    cFormat_cancel.parse_iff hw hop, cFormat_cmpRI.parse_iff hw hop, cFormat_cmpRR.parse_iff hw hop, cFormat_code.parse_iff hw hop,
    cFormat_fence.parse_iff hw hop, cFormat_fork.parse_iff hw hop, cFormat_forkS.parse_iff hw hop, cFormat_gBar.parse_iff hw hop,
    cFormat_jmp.parse_iff hw hop, cFormat_li.parse_iff hw hop, cFormat_lih.parse_iff hw hop, cFormat_load.parse_iff hw hop,
    cFormat_loadS.parse_iff hw hop, cFormat_mapWait.parse_iff hw hop, cFormat_no.parse_iff hw hop, cFormat_pp.parse_iff hw hop,
    cFormat_ppp.parse_iff hw hop, cFormat_pref.parse_iff hw hop, cFormat_qArr.parse_iff hw hop, cFormat_rdv.parse_iff hw hop,
    cFormat_resolve.parse_iff hw hop, cFormat_rr.parse_iff hw hop, cFormat_rri.parse_iff hw hop, cFormat_rrr.parse_iff hw hop,
    cFormat_rrrr.parse_iff hw hop, cFormat_sStep.parse_iff hw hop, cFormat_sel.parse_iff hw hop, cFormat_shift.parse_iff hw hop,
    cFormat_store.parse_iff hw hop, cFormat_storeS.parse_iff hw hop, cFormat_tlbinv.parse_iff hw hop, cFormat_waitTl.parse_iff hw hop,
    (cFormat_sem (od := 2) (by decide)).parse_iff hw hop, (cFormat_sem (od := 1) (by decide)).parse_iff hw hop,
    parseGetSys_eq_some_iff hw, parseSetSys_eq_some_iff hw, parseSafept_eq_some_iff hw hw1 hw2 hw3, hop, reduceCtorEq] at h
  all_goals obtain ⟨o, rfl, he⟩ := h
  case h_90 => exact .inl (by rw [encode_getSysRow, he])
  case h_91 => exact .inl (by rw [encode_setSysRow, he])
  case h_73 => exact .inr (congrArg Enc.c he)
  all_goals exact .inl (congrArg (fun w => Enc.c [w]) he)

theorem encode_of_parseM {w : Nat} {i : Instr} (hw : w < 2 ^ 512) (h : parseM (fld w 511 504) w = some i) : encode i = .m w := by
  generalize hop : fld w 511 504 = op at h
  have hrec (k : MRec → Instr) : parseMRec w k = some i ↔ ∃ r, k r = i ∧ encMRec op r = w := by
    rw [← mRec_iff (hop ▸ fld_lt w 511 504) w k i]
    exact (and_iff_right ⟨hw, hop⟩).symm
  unfold parseM at h
  split at h
  all_goals simp only [hrec, reduceCtorEq] at h
  all_goals obtain ⟨r, rfl, rfl⟩ := h; rfl

theorem encode_of_parseX {w : Nat} {i : Instr} (hw : w < 2 ^ 512) (h : parseX (fld w 511 504) w = some i) : encode i = .x w := by
  generalize hop : fld w 511 504 = op at h
  have hrec (k : XRec → Instr) : parseXRec w k = some i ↔ ∃ r, k r = i ∧ encXRec op r = w := by
    rw [← xRec_iff (hop ▸ fld_lt w 511 504) w k i]
    exact (and_iff_right ⟨hw, hop⟩).symm
  unfold parseX at h
  split at h
  all_goals simp only [hrec, reduceCtorEq] at h
  all_goals obtain ⟨r, rfl, rfl⟩ := h; rfl

theorem KFormat.parse_iff {α : Type} {parse : Nat → (α → Instr) → Option Instr} {enc : Nat → α → Nat} {g : α → VGuard}
    (f : KFormat parse enc g) {op w : Nat} (hop : fld w 119 114 = op) {k : α → Instr} {i : Instr} :
    parse w k = some i ↔ ∃ o, k o = i ∧ g o = vguardOf w ∧ enc op o = fld w 119 72 * 2 ^ 72 := by
  rw [← f.reads op (hop ▸ fld_lt w 119 114) w k i]
  exact (and_iff_right hop).symm

theorem encode_of_parseK {w : Nat} {i : Instr} (h : parseK (fld w 119 114) w = some i) : encode i = .k (fld w 119 72 * 2 ^ 72) := by
  generalize hop : fld w 119 114 = op at h
  unfold parseK at h
  split at h
  case h_12 =>
    rw [parseKLoop_eq_some_iff, kFormat_kLoop.parse_iff hop, kFormat_kLoopSet.parse_iff hop] at h
    obtain ⟨o, rfl, -, he⟩ | ⟨o, rfl, -, he⟩ := h <;> exact congrArg Enc.k he
  all_goals simp only [kFormat_kBr.parse_iff hop, kFormat_kCmp.parse_iff hop, kFormat_kFrom.parse_iff hop, kFormat_kImm.parse_iff hop,
    kFormat_kNone.parse_iff hop, kFormat_kRRI.parse_iff hop, kFormat_kRRR.parse_iff hop, kFormat_kSeed.parse_iff hop, reduceCtorEq] at h
  all_goals obtain ⟨o, rfl, -, he⟩ := h; exact congrArg Enc.k he

theorem VFormat.parse_iff {α : Type} {parse : Nat → (α → Instr) → Option Instr} {enc : Nat → α → Nat} (f : VFormat parse enc) {op w : Nat}
    (hw : w < 2 ^ 128) (hop : fld w 71 64 = op) {k : α → Instr} {i : Instr} :
    parse w k = some i ↔ ∃ o, k o = i ∧ fld w 119 72 * 2 ^ 72 + enc op o = w := by
  rw [← f op (hop ▸ fld_lt w 71 64) _ (fld_lt w 119 72) w k i]
  exact (and_iff_right ⟨hw, hop, rfl⟩).symm

theorem encode_of_parseV {w : Nat} {i : Instr} (hw : w < 2 ^ 128) (h : parseV (fld w 71 64) w = some i) :
    ∃ b, encode i = .v b ∧ fld w 119 72 * 2 ^ 72 + b = w := by
  generalize hop : fld w 71 64 = op at h
  unfold parseV at h
  split at h
  all_goals (try split at h)
  case h_9.isFalse hm => 
    rw [parseVBcastK_of_mod hm, vFormat_vBcastK.parse_iff hw hop] at h
    obtain ⟨o, rfl, he⟩ := h; exact ⟨_, rfl, he⟩
  all_goals simp only [vFormat_mrr.parse_iff hw hop, vFormat_mrrr.parse_iff hw hop, vFormat_vCmp.parse_iff hw hop, vFormat_vCrt.parse_iff
    hw hop,
    vFormat_vCvt.parse_iff hw hop, vFormat_vICmp.parse_iff hw hop, vFormat_vLane.parse_iff hw hop, vFormat_vNone.parse_iff hw hop,
    vFormat_vPack.parse_iff hw hop, vFormat_vUnpk.parse_iff hw hop, vFormat_vf1.parse_iff hw hop, vFormat_vf2.parse_iff hw hop,
    vFormat_vf3.parse_iff hw hop, vFormat_vi2.parse_iff hw hop, vFormat_vrrr.parse_iff hw hop,
    (vFormat_vMem _).parse_iff hw hop, (vFormat_vIdx _).parse_iff hw hop, (vFormat_vNar (md := 0) (by decide)).parse_iff hw hop,
    (vFormat_vNar (md := 1) (by decide)).parse_iff hw hop, (vFormat_vRR (md := 0) (by decide)).parse_iff hw hop,
    (vFormat_vRR (md := 1) (by decide)).parse_iff hw hop, reduceCtorEq] at h
  all_goals obtain ⟨o, rfl, he⟩ := h; exact ⟨_, rfl, he⟩


/-! ## The decoder and the encoder -/

theorem decode_of_encode_eq_c {i : Instr} (h : i.WellFormed) :
    (∀ w, encode i = .c [w] → w < 2 ^ 64 ∧ ∀ w1 w2 w3, decodeC w w1 w2 w3 = .ok i) ∧
      ∀ w w1 w2 w3, encode i = .c [w, w1, w2, w3] → decodeC w w1 w2 w3 = .ok i := by
  have hr := encode_readsBack i h
  refine ⟨fun w he => ?_, fun w w1 w2 w3 he => ?_⟩ <;> rw [he] at hr
  · obtain ⟨hw, ha, hp⟩ := hr
    exact ⟨hw, fun w1 w2 w3 => decodeC_eq_ok_iff.2 ⟨ha, hp w1 w2 w3, h⟩⟩
  · obtain ⟨ha, hp⟩ := hr
    exact decodeC_eq_ok_iff.2 ⟨ha, hp, h⟩

theorem decode_of_encode_eq_m {i : Instr} (h : i.WellFormed) {w : Nat} (he : encode i = .m w) : w < 2 ^ 512 ∧ decodeM w = .ok i := by
  have hr := encode_readsBack i h
  rw [he] at hr
  obtain ⟨hw, ha, hp⟩ := hr
  exact ⟨hw, decodeM_eq_ok_iff.2 ⟨ha, hp, h⟩⟩

theorem decode_of_encode_eq_x {i : Instr} (h : i.WellFormed) {w : Nat} (he : encode i = .x w) : w < 2 ^ 512 ∧ decodeX w = .ok i := by
  have hr := encode_readsBack i h
  rw [he] at hr
  obtain ⟨hw, ha, hp⟩ := hr
  exact ⟨hw, decodeX_eq_ok_iff.2 ⟨ha, hp, h⟩⟩

theorem decode_encodePair {k v : Instr} {a b : Nat} (hk : k.WellFormed) (hv : v.WellFormed) (ha : encode k = .k a) (hb : encode v = .v b)
  :
    encodePair a b < 2 ^ 128 ∧ ∃ p, decodeV (encodePair a b) = .ok p ∧ p.v = v ∧ encode p.k = .k a ∧ (kguard k = some p.g → p.k = k) := by
  have hkr := encode_readsBack k hk
  have hvr := encode_readsBack v hv
  rw [ha] at hkr
  rw [hb] at hvr
  obtain ⟨x, hx, rfl, hkp⟩ := hkr
  obtain ⟨hw, hslot, hva, hvp⟩ := hvr x hx
  obtain ⟨hop, j, hj, hjwf, hje, hguard⟩ := hkp _ hslot
  exact ⟨hw, ⟨j, v, vguardOf _, (vctlOf _).tok⟩, decodeV_eq_ok_iff.2 ⟨hop, hva, ⟨hj, hjwf⟩, ⟨hvp, hv⟩, rfl, rfl⟩, rfl, hje, hguard⟩

theorem encodePair_of_decode {w : Nat} {p : Pair} (hw : w < 2 ^ 128) (h : decodeV w = .ok p) : p.k.WellFormed ∧ p.v.WellFormed ∧
    ∃ a b, encode p.k = .k a ∧ encode p.v = .v b ∧ encodePair a b = w := by
  obtain ⟨-, -, ⟨hk, hkwf⟩, ⟨hv, hvwf⟩, -, -⟩ := decodeV_eq_ok_iff.1 h
  obtain ⟨b, hb, hsum⟩ := encode_of_parseV hw hv
  exact ⟨hkwf, hvwf, _, b, encode_of_parseK hk, hb, hsum⟩

/-- Settles O56: each format's parser and encoder show the same fields in the same places (`layout_eq_iff`), and the grids of the decoder
and the rows of the encoder name the same formats. -/
theorem decodingInvertsEncoding : Obligations.DecodingInvertsEncoding := by
  unfold Obligations.DecodingInvertsEncoding
  refine ⟨fun i h => ?_, fun k v a b => decode_encodePair, fun w w1 w2 w3 i hw hw1 hw2 hw3 h => ?_, fun w p => encodePair_of_decode,
    fun w i hw => ⟨fun h => ?_, fun h => ?_⟩⟩
  · obtain ⟨hone, hfour⟩ := decode_of_encode_eq_c h
    exact ⟨hone, hfour, fun w => decode_of_encode_eq_m h, fun w => decode_of_encode_eq_x h⟩
  · obtain ⟨-, hp, hwf⟩ := decodeC_eq_ok_iff.1 h
    exact ⟨hwf, encode_of_parseC hw hw1 hw2 hw3 hp⟩
  · obtain ⟨-, hp, hwf⟩ := decodeM_eq_ok_iff.1 h
    exact ⟨hwf, encode_of_parseM hw hp⟩
  · obtain ⟨-, hp, hwf⟩ := decodeX_eq_ok_iff.1 h
    exact ⟨hwf, encode_of_parseX hw hp⟩

/-- The M record whose every field is zero. -/
def zeroMRec : MRec :=
  ⟨false, false, false, false, 0, 0, 0, ⟨false, false, false, false, false, false, false⟩, 0, 0, 0, 0, 0, ⟨0, 0, 0, 0⟩, ⟨0, 0, 0, 0⟩,
    ⟨0, 0, 0, 0⟩, ⟨0, 0, 0, 0⟩, 0, 0, 0⟩

theorem encode_mend_zero : encode (.mend zeroMRec) = .m (0x0100 * 2 ^ 496) := by
  have h : 0x0100 * 2 ^ 496 = 0x01 * 2 ^ 504 := by rw [Nat.one_mul, show 504 = 8 + 496 from rfl, Nat.pow_add]
  have henc : encMRec 0x01 zeroMRec = 0x01 * 2 ^ 504 := by simp [encMRec, encQuad16, encQuad20, zeroMRec, -Nat.reducePow]
  exact congrArg Enc.m (henc.trans h.symm)

/-- Settles O57: the C words and the pair decode by evaluation; the record is what a MEND with every field zero encodes to. -/
theorem exampleWordsDecode : Obligations.ExampleWordsDecode := by
  unfold Obligations.ExampleWordsDecode
  dsimp only
  refine ⟨by decide, by decide, by decide, by decide, by decide, ⟨zeroMRec, (decode_of_encode_eq_m rfl encode_mend_zero).2⟩,
    ⟨_, _, _, rfl, rfl, rfl, rfl, rfl⟩⟩

end Sys2Proof.Encoding
end

section
/-! PROOFS. Words that write one register or one predicate (R60, R93 to R98). -/

namespace Sys2Proof.Machine

/-- The words of R93 to R96 are one operation: read sources, write one scalar register. -/
theorem exec_registerWord {i : Instr} {g : Guard} {d : Nat} {srcs : List Nat} (h : registerWord i = some (g, d, srcs)) :
    ∃ f, ∀ s, exec i s = wordOp srcs d g s f := by
  unfold registerWord at h
  split at h <;> cases h <;> exact ⟨_, fun _ => rfl⟩

/-- The words of R97 and R98 are one operation: read sources, write one predicate. -/
theorem exec_predicateWord {i : Instr} {g : Guard} {d : Fin 8} {srcs : List Nat} (h : predicateWord i = some (g, d, srcs)) :
    ∃ f, ∀ s, exec i s = wordCmp srcs d g s f := by
  unfold predicateWord at h
  split at h <;> cases h <;> exact ⟨_, fun _ => rfl⟩

@[simp] theorem rdP_wrS (r : Nat) (x : Word) (c : Core) (p : Fin 8) : rdP (wrS r x c) p = rdP c p := by
  simp only [rdP, wrS_p]

@[simp] theorem rdS_wrP (p : Fin 8) (x : Bool) (c : Core) (r : Nat) : rdS (wrP p x c) r = rdS c r := by
  simp only [rdS, wrP_s]

/-- A write of one predicate leaves the others. -/
theorem rdP_wrP_ne {p q : Fin 8} (x : Bool) (c : Core) (h : q ≠ p) : rdP (wrP p x c) q = rdP c q := by
  have hb : (1#8 <<< p.val).getLsbD q = false := by
    have := Fin.val_ne_of_ne h
    have := q.isLt
    simp only [BitVec.getLsbD_shiftLeft, BitVec.getLsbD_one]
    grind
  unfold wrP
  split
  · rfl
  · cases x <;> simp only [rdP, BitVec.getLsbD_or, BitVec.getLsbD_and, BitVec.getLsbD_not, hb, Bool.or_false, Bool.not_false,
      Bool.and_true, q.isLt, decide_true, if_true, if_false, Bool.false_eq_true]

theorem trapRegsKept_wrS (r : Nat) (x : Word) (c : Core) : TrapRegsKept c (wrS r x c) := by constructor <;> simp

theorem trapRegsKept_wrP (p : Fin 8) (x : Bool) (c : Core) : TrapRegsKept c (wrP p x c) := by constructor <;> simp

/-- A core that goes on to a word keeps what a trap saves into. -/
theorem TrapRegsKept.goes {c d : Core} (h : TrapRegsKept c d) (pc : Nat) :
    TrapRegsKept c { d with pc := pc, wait := .none, afterGbar := false } :=
  ⟨h.cause, h.pc, h.info, h.src, h.vec, h.isIn, h.tok, h.amiss⟩

theorem onlyCore_wrote (s : State) (d : Nat) (v : Word) : OnlyCore s.cur s (wrote s d v) :=
  (onlyCore_modCore s s.cur _).trans (onlyCore_goAt s.cur _ _)

theorem onlyCore_wroteP (s : State) (d : Fin 8) (b : Bool) : OnlyCore s.cur s (wroteP s d b) :=
  (onlyCore_modCore s s.cur _).trans (onlyCore_goAt s.cur _ _)

/-- The guard of R60 as the bit it reads: p0 reads as true. -/
theorem guardHolds_eq (c : Core) (g : Guard) : guardHolds c g = if g.p = 0 then !g.neg else (c.p.getLsbD g.p ^^ g.neg) := by
  unfold guardHolds rdP
  split <;> simp [bne]

/-- Settles O6: each such word is `wordOp` or `wordCmp`, whose effect is one register or one predicate and the step to the next word. -/
theorem registerWordFramesAndGuards : Obligations.RegisterWordFramesAndGuards := by
  unfold Obligations.RegisterWordFramesAndGuards
  refine ⟨⟨?_, ?_⟩, ?_, ?_, guardHolds_eq⟩
  · intro i g d srcs s t hi hr hd ht
    obtain ⟨f, hf⟩ := exec_registerWord hi
    rw [hf s, wordOp_ready hr hd] at ht
    cases ht
    rw [core_wrote]
    exact ⟨fun r hrd => rdS_wrS_ne _ _ hrd, fun p => rdP_wrS .., rfl, (trapRegsKept_wrS ..).goes _, onlyCore_wrote .., fun _ => rfl⟩
  · intro i g d srcs s t hi hr ht
    obtain ⟨f, hf⟩ := exec_predicateWord hi
    rw [hf s, wordCmp_ready hr] at ht
    cases ht
    rw [core_wroteP]
    exact ⟨fun r => rdS_wrP .., fun p hp => rdP_wrP_ne _ _ hp, rfl, (trapRegsKept_wrP ..).goes _, onlyCore_wroteP .., fun _ => rfl⟩
  · intro i g d srcs s hi hr hg
    obtain ⟨f, hf⟩ := exec_registerWord hi
    rw [hf s, wordOp, word_skipped (by simp) hr hg]
  · intro i g d srcs s hi hr hg
    obtain ⟨f, hf⟩ := exec_predicateWord hi
    rw [hf s, wordCmp, word_skipped (by simp) hr hg]

end Sys2Proof.Machine
end

section
/-! PROOFS. Branches and calls (R111, R112). -/

namespace Sys2Proof.Machine

/-- A target within the bank is reached, with the link written (R111, R112). -/
theorem jumpTo_within {s : State} {target : Int} (h0 : 0 ≤ target) (h1 : target < 8192) (link : Nat) :
    ∃ t, jumpTo link target s = .next t ∧
      core t s.cur = { wrS link (BitVec.ofNat 64 ((core s s.cur).pc + 1)) (core s s.cur) with
        pc := target.toNat, wait := .none, afterGbar := false } ∧
      OnlyCore s.cur s t := by
  refine ⟨_, if_pos ⟨h0, h1⟩, ?_, (onlyCore_modCore s s.cur _).trans (onlyCore_goAt s.cur _ _)⟩
  simp [goTo, goAt, core, modCore]

/-- A target outside the bank traps at the branch (R76, R111). -/
theorem jumpTo_outside {s : State} {target : Int} (h : target < 0 ∨ 8192 ≤ target) (link : Nat) :
    TrapsBy (jumpTo link target s) s s 0x02 (info02 1 (wrap 64 target)) := by
  rw [jumpTo, if_neg (by omega)]
  exact trapsBy_trapAt rfl rfl (onlyCore_refl s s.cur) 0x02 _

/-- Where an outcome leads that branches: what `Obligations.BranchesAndCalls` says of each branch word. -/
def Branches (o : Out) (s : State) (link : Nat) (target : Int) : Prop :=
  (0 ≤ target → target < 8192 → ∃ t, o = .next t ∧ (core t s.cur).pc = target.toNat ∧ (core t s.cur).run = (core s s.cur).run ∧
    rdS (core t s.cur) link = (if link = 0 then 0 else BitVec.ofNat 64 ((core s s.cur).pc + 1)) ∧
    (∀ r, r ≠ link → rdS (core t s.cur) r = rdS (core s s.cur) r) ∧ OnlyCore s.cur s t) ∧
  (target < 0 ∨ 8192 ≤ target → (core s s.cur).resp = [] → ∃ t, o = .next t ∧ (core t s.cur).trapCause = 0x02 ∧
    (core t s.cur).trapPc = BitVec.ofNat 64 (core s s.cur).pc ∧ (∀ r, rdS (core t s.cur) r = rdS (core s s.cur) r) ∧ OnlyCore s.cur s t)

theorem branches_jumpTo (s : State) (link : Nat) (target : Int) : Branches (jumpTo link target s) s link target := by
  constructor
  · intro h0 h1
    obtain ⟨t, ht, hc, ho⟩ := jumpTo_within h0 h1 link
    refine ⟨t, ht, ?_⟩
    rw [hc]
    exact ⟨rfl, wrS_run .., rdS_wrS_self .., fun r hr => rdS_wrS_ne _ _ hr, ho⟩
  · intro h hresp
    obtain ⟨t, ht, hcause, -, hpc, -, hregs, -, ho⟩ := jumpTo_outside h link hresp
    exact ⟨t, ht, hcause, hpc, hregs, ho⟩

/-- An outcome that is a jump branches. -/
theorem branches_of_jumpTo {o : Out} {s : State} {link : Nat} {target : Int} (h : o = jumpTo link target s) : Branches o s link target :=
  h ▸ branches_jumpTo s link target

theorem execBr_ready {s : State} {o : BrOp} (h : Ready s [] [] [] o.g) : execBr o s = jumpTo 0 ((core s s.cur).pc + o.woff.toInt) s := by
  rw [execBr, word_ready h, branchTarget]

theorem execCall_ready {s : State} {o : CallOp} (h : Ready s [] [o.link.val] [] o.g) (hd : tokPending (core s s.cur) o.link = false) :
    execCall o s = jumpTo o.link ((core s s.cur).pc + o.woff.toInt) s := by
  rw [execCall, word_ready h, writes_free hd, branchTarget]

theorem execJmp_ready {s : State} {o : JmpOp} (h : Ready s [] [o.a.val] [o.a.val] o.g) :
    execJmp o s = jumpTo 0 (sreg s o.a).toNat s := by
  rw [execJmp, word_ready h, needs_arrived h.arrived, sreg]

theorem execRet_ready {s : State} {o : JmpOp} (h : Ready s [] [o.a.val] [o.a.val] o.g) :
    execRet o s = jumpTo 0 (sreg s o.a).toNat s :=
  execJmp_ready h

theorem execCallr_ready {s : State} {o : RR} (h : Ready s [] [o.d.val, o.a.val] [o.a.val] o.g)
    (hd : tokPending (core s s.cur) o.d = false) : execCallr o s = jumpTo o.d (sreg s o.a).toNat s := by
  rw [execCallr, word_ready h, writes_free hd, needs_arrived h.arrived, sreg]

/-- Settles O13: every branch word, once it issues, is `jumpTo` its target. -/
theorem branchesAndCalls : Obligations.BranchesAndCalls := by
  unfold Obligations.BranchesAndCalls
  refine ⟨fun s o h => ?br, fun s o h hd => ?call, fun s o h => ⟨?jmp, ?ret⟩, fun s o h hd => ?callr⟩
  case br => exact branches_of_jumpTo (execBr_ready h)
  case call => exact branches_of_jumpTo (execCall_ready h hd)
  case jmp => exact branches_of_jumpTo (execJmp_ready h)
  case ret => exact branches_of_jumpTo (execRet_ready h)
  case callr => exact branches_of_jumpTo (execCallr_ready h hd)

end Sys2Proof.Machine
end

section
/-! PROOFS. Operations of homes, tables and counters: none reads or writes a tile or a task. -/

namespace Sys2Proof.Machine

/-- The tiles and the tasks of a part. -/
structure Rest where
  tiles : SMap Tile
  tasks : SMap Task
  next : Nat

/-- The part with other tiles and tasks. Of an operation that commutes with it, neither a tile nor a task is read or written. -/
def graft (r : Rest) (s : State) : State := { s with tiles := r.tiles, tasks := r.tasks, nextTask := r.next }

variable (r : Rest) (s : State)

theorem touch_graft (a ga : Nat) : touch (graft r s) a ga = graft r (touch s a ga) := by
  simp only [touch, apply_ite (graft r)]; rfl

theorem collapseLine_graft (ga : Nat) : collapseLine (graft r s) ga = graft r (collapseLine s ga) := by
  simp only [collapseLine, apply_ite (graft r)]; rfl

theorem reachHome_graft (a ga : Nat) : reachHome (graft r s) a ga = graft r (reachHome s a ga) := by
  rw [reachHome, reachHome, ← touch_graft, apply_ite (graft r)]; rfl

theorem unitReads_graft (d : Nat) (pas : List Nat) : unitReads (graft r s) d pas = graft r (unitReads s d pas) :=
  List.foldl_hom (graft r) fun s pa => reachHome_graft r s _ pa

theorem reachLines_graft (a ga n : Nat) : reachLines (graft r s) a ga n = graft r (reachLines s a ga n) :=
  List.foldl_hom (graft r) fun s l => reachHome_graft r s a l

theorem writeRecord_graft (g : List Nat) : writeRecord (graft r s) g = graft r (writeRecord s g) := by
  simp only [writeRecord, apply_ite (graft r)]; rfl

theorem event_graft (type cause d t ctx g1 g2 g3 g4 g6 g7 : Nat) :
    event (graft r s) type cause d t ctx g1 g2 g3 g4 g6 g7 = graft r (event s type cause d t ctx g1 g2 g3 g4 g6 g7) :=
  writeRecord_graft r s _

theorem bump_graft (d code : Nat) : bump (graft r s) d code = graft r (bump s d code) := by
  simp only [bump, apply_ite (graft r), ← event_graft]; rfl

theorem noRoute_graft : noRoute (graft r s) = graft r (noRoute s) :=
  event_graft r (modDie s 4 fun d =>
    { d with counters := insAt d.counters 0x04 (satAdd 48 (getAt 0 (die s 4).counters 0x04) 1) }) ..

theorem discarded_graft (dev : Nat) : discarded (graft r s) dev = graft r (discarded s dev) := noRoute_graft r (unacked s dev 0)

/-- The lines of a write, at their homes. -/
theorem homeLines_graft (a ga n : Nat) : (linesIn ga n).foldl (fun s l => touch (collapseLine s l) a l) (graft r s) =
    graft r ((linesIn ga n).foldl (fun s l => touch (collapseLine s l) a l) s) :=
  List.foldl_hom (graft r) fun s l => by rw [collapseLine_graft, touch_graft]

theorem homeWrite_graft (a ga n x : Nat) : homeWrite (graft r s) a ga n x = graft r (homeWrite s a ga n x) := by
  simp only [homeWrite, homeLines_graft]; rfl

theorem homePaste_graft (a ga n : Nat) (b : Mem) (bad : List (Nat × Nat)) :
    homePaste (graft r s) a ga n b bad = graft r (homePaste s a ga n b bad) := by
  simp only [homePaste, homeLines_graft]; rfl

theorem semAdd_graft (a ga : Nat) (x : Word) : semAdd (graft r s) a ga x = graft r (semAdd s a ga x) :=
  homeWrite_graft r s ..

theorem tableRead_graft (ctx : Ctx) (va n : Nat) : tableRead (graft r s) ctx va n = tableRead s ctx va n := by
  induction n generalizing va with
  | zero => rfl
  | succ n ih => simp only [tableRead, ih]; rfl

theorem peerDev_graft (ctx : Ctx) (xref : Nat) : peerDev (graft r s) ctx xref = peerDev s ctx xref := by
  simp only [peerDev, tableRead_graft]

theorem entryBad_graft (ctx : Ctx) (lvl e : Nat) : entryBad (graft r s) ctx lvl e = entryBad s ctx lvl e := by
  simp only [entryBad, peerDev_graft]; rfl

theorem gaOf_graft (ctx : Ctx) (va e : Nat) : gaOf (graft r s) ctx va e = gaOf s ctx va e := by
  simp only [gaOf, peerDev_graft]; rfl

theorem dupEntry_graft (ctx : Ctx) (va : Nat) : dupEntry (graft r s) ctx va = dupEntry s ctx va := by
  simp only [dupEntry, entryBad_graft]; rfl

theorem countTable_graft (d : Nat) (ctx : Ctx) (tbl va n : Nat) :
    countTable (graft r s) d ctx tbl va n = graft r (countTable s d ctx tbl va n) := by
  rw [countTable, countTable, apply_ite (graft r)]
  congr 1
  exact List.foldl_hom (graft r) fun s _ => bump_graft r s d 0x01

theorem countEntry_graft (d : Nat) (ctx : Ctx) (lvl e : Nat) :
    countEntry (graft r s) d ctx lvl e = graft r (countEntry s d ctx lvl e) := by
  simp only [countEntry, entryBad_graft, apply_ite (graft r), ← bump_graft, ← countTable_graft]

theorem countDup_graft (d : Nat) (ctx : Ctx) (va : Nat) : countDup (graft r s) d ctx va = graft r (countDup s d ctx va) := by
  rw [countDup, countDup, dupEntry_graft]
  cases dupEntry s ctx va with
  | some e => exact countTable_graft ..
  | none => simp only [apply_ite (graft r), ← bump_graft]; rfl

theorem dupSet_graft (ctx : Ctx) (xref writer : Nat) : dupSet (graft r s) ctx xref writer = dupSet s ctx xref writer := by
  simp only [dupSet, tableRead_graft]

theorem groupPick_graft (e pa : Nat) : groupPick (graft r s) e pa = Prod.map id (graft r) (groupPick s e pa) := by
  simp only [groupPick, apply_ite (Prod.map id (graft r))]; rfl

theorem takeFrame_graft (d size : Nat) :
    takeFrame (graft r s) d size = (takeFrame s d size).map (Prod.map id (graft r)) := by
  rw [takeFrame.eq_def, takeFrame.eq_def, show die (graft r s) d = die s d from rfl]
  match size with
  | 0 => cases (die s d).free64 <;> rfl
  | 1 => cases (die s d).free2m <;> rfl
  | _ + 2 => rfl

theorem bind_graft (a e pa : Nat) : bind (graft r s) a e pa = (bind s a e pa).map (Prod.map id (graft r)) := by
  rw [bind, bind, takeFrame_graft]
  cases takeFrame s (dieOf a) (eSize e) with
  | none => rfl
  | some p =>
    obtain ⟨f, s1⟩ := p
    dsimp only [Option.map, Prod.map, id]
    rw [show (graft r s).mem = s.mem from rfl]
    split
    · exact congrArg (fun t => some (_, t)) (List.foldl_hom (graft r) fun s _ => homeWrite_graft r s ..)
    · rfl

theorem walkLines_graft (ctx : Ctx) (va : Nat) : walkLines (graft r s) ctx va = walkLines s ctx va := rfl

/-- A walk reads tables and memory, and binds pages: it knows no tile and no task. -/
theorem walk_graft (a : Nat) (ctx : Ctx) (va : Nat) (probe : Bool) :
    walk (graft r s) a ctx va probe = Prod.map id (graft r) (walk s a ctx va probe) := by
  simp only [walk, walkLines_graft, unitReads_graft, entryBad_graft, groupPick_graft, countEntry_graft]
  rw [show reachesAll (graft r s) = reachesAll s from rfl]
  split
  · rfl
  · generalize unitReads s (dieOf a) (walkLines s ctx va) = s'
    rw [show (graft r s').mem = s'.mem from rfl]
    cases walkFrom s'.mem va 4 ctx.root with
    | bad m => cases m <;> simp [bump_graft]
    | leaf e0 lvl pa =>
      dsimp only
      split
      · rfl
      · obtain ⟨e, s1⟩ := groupPick s' e0 pa
        dsimp only [Prod.map, id]
        simp only [entryBad_graft, countEntry_graft, bind_graft]
        split
        · rfl
        · split
          · rfl
          · split
            · split
              · rfl
              · cases bind s1 a e pa with
                | none => rfl
                | some p =>
                  obtain ⟨e', s2⟩ := p
                  simp only [Option.map, Prod.map_apply, id, entryBad_graft, countEntry_graft]
                  split
                  · rfl
                  · split <;> rfl
            · rfl

theorem splitPage_graft (d e pa : Nat) : splitPage (graft r s) d e pa = graft r (splitPage s d e pa) :=
  List.foldl_hom (graft r) fun s _ => homeWrite_graft r s ..

theorem rewriteGroup_graft (d size pa new : Nat) : rewriteGroup (graft r s) d size pa new = graft r (rewriteGroup s d size pa new) :=
  List.foldl_hom (graft r) fun s _ => homeWrite_graft r s ..

theorem sendNote_graft (dev ctx : Nat) : sendNote (graft r s) dev ctx = graft r (sendNote s dev ctx) := by
  simp only [sendNote, sendDevice, apply_ite (graft r), ← bump_graft, ← noRoute_graft]; rfl

end Sys2Proof.Machine
end

section
/-! PROOFS. Accesses of a die's scheduler and reeve core: of the tiles they change TLBs alone, and no task. -/

namespace Sys2Proof.Machine

/-- The part with other tasks. -/
def retask (K : SMap Task) (n : Nat) (s : State) : State := { s with tasks := K, nextTask := n }

/-- A tile without its TLBs. -/
def bare (t : Tile) : Tile := { t with core := { t.core with ctlb := [] }, mov := { t.mov with xtlb := [] } }

/-- Of the tiles, only the TLBs may differ. -/
structure TlbOnly (s t : State) : Prop where
  bare : ∀ a, bare (tile t a) = bare (tile s a)

theorem tlbOnly_refl (s : State) : TlbOnly s s := ⟨fun _ => rfl⟩

theorem TlbOnly.trans {s t u : State} (h : TlbOnly s t) (k : TlbOnly t u) : TlbOnly s u := ⟨fun a => (k.bare a).trans (h.bare a)⟩

theorem tlbOnly_modTile {s : State} {a : Nat} {f : Tile → Tile} (h : bare (f (tile s a)) = bare (tile s a)) :
    TlbOnly s (modTile s a f) := by
  refine ⟨fun b => ?_⟩
  by_cases hb : b = a
  · rw [hb, tile_modTile_self, h]
  · rw [tile_modTile_ne s f hb]

theorem tlbOnly_of_tiles {s t : State} (h : t.tiles = s.tiles) : TlbOnly s t := ⟨fun a => by rw [tile, h]; rfl⟩

theorem graft_self (s : State) : graft ⟨s.tiles, s.tasks, s.nextTask⟩ s = s := rfl

theorem tiles_of_graft {f : State → State} (h : ∀ r s, f (graft r s) = graft r (f s)) (s : State) : (f s).tiles = s.tiles := by
  have h1 := h ⟨s.tiles, s.tasks, s.nextTask⟩ s
  rw [graft_self] at h1
  rw [h1]
  rfl

theorem retask_of_graft {f : State → State} (h : ∀ r s, f (graft r s) = graft r (f s)) (K : SMap Task) (n : Nat) (s : State) :
    f (retask K n s) = retask K n (f s) := by
  have ht := tiles_of_graft h s
  calc f (retask K n s) = graft ⟨s.tiles, K, n⟩ (f s) := h ⟨s.tiles, K, n⟩ s
    _ = retask K n (f s) := by rw [← ht]; rfl

/-- An operation that changes only the TLBs of the tiles, and neither reads nor writes the tasks. -/
structure Apart (f : State → State) : Prop where
  tiles : ∀ s, TlbOnly s (f s)
  tasks : ∀ K n s, f (retask K n s) = retask K n (f s)

/-- Such an operation that gives a value as well. -/
structure ApartP {α : Type} (f : State → α × State) : Prop where
  tiles : ∀ s, TlbOnly s (f s).2
  tasks : ∀ K n s, f (retask K n s) = Prod.map id (retask K n) (f s)

/-- An operation that reads no tile at all is one of these. -/
theorem apart_of_graft {f : State → State} (h : ∀ r s, f (graft r s) = graft r (f s)) : Apart f :=
  ⟨fun s => tlbOnly_of_tiles (tiles_of_graft h s), retask_of_graft h⟩

theorem apartP_of_graft {α : Type} {f : State → α × State} (h : ∀ r s, f (graft r s) = Prod.map id (graft r) (f s)) : ApartP f := by
  have ht (s) : (f s).2.tiles = s.tiles := by
    have h1 := h ⟨s.tiles, s.tasks, s.nextTask⟩ s
    rw [graft_self] at h1
    rw [h1]
    rfl
  refine ⟨fun s => tlbOnly_of_tiles (ht s), fun K n s => ?_⟩
  calc f (retask K n s) = Prod.map id (graft ⟨s.tiles, K, n⟩) (f s) := h ⟨s.tiles, K, n⟩ s
    _ = Prod.map id (retask K n) (f s) := by rw [← ht s]; rfl

theorem Apart.foldl {β : Type} {f : State → β → State} (h : ∀ b, Apart (f · b)) (l : List β) : Apart (fun s => l.foldl f s) := by
  refine ⟨fun s => ?_, fun K n s => List.foldl_hom (retask K n) fun s b => (h b).tasks K n s⟩
  induction l generalizing s with
  | nil => exact tlbOnly_refl s
  | cons b l ih => exact ((h b).tiles s).trans (ih _)

theorem Apart.comp {f g : State → State} (hg : Apart g) (hf : Apart f) : Apart (fun s => g (f s)) :=
  ⟨fun s => (hf.tiles s).trans (hg.tiles _), fun K n s => by rw [hf.tasks, hg.tasks]⟩

theorem apart_fillTlbs (a : Nat) (x : Bool) (ctx va e : Nat) : Apart (fillTlbs · a x ctx va e) := by
  refine ⟨fun s => ?_, fun K n s => by simp only [fillTlbs, apply_ite (retask K n)]; rfl⟩
  simp only [fillTlbs]
  have hdie (f : Die → Die) : TlbOnly s (modDie s (dieOf a) f) := tlbOnly_of_tiles rfl
  split
  · exact tlbOnly_refl s
  · split
    · exact (hdie _).trans (tlbOnly_modTile rfl)
    · exact (hdie _).trans (tlbOnly_modTile rfl)

/-- The one operation here that writes tiles other than its own: their TLBs are emptied. -/
theorem apart_flushDieTlbs (d : Nat) : Apart (flushDieTlbs · d) := by
  have hflush (s : State) (a : Nat) :
      TlbOnly s (modMov (modCore s a (fun c => { c with ctlb := [] })) a (fun m => { m with xtlb := [] })) :=
    (tlbOnly_modTile (f := fun t => { t with core := { t.core with ctlb := [] } }) rfl).trans (tlbOnly_modTile rfl)
  have hstep (e : Nat × Tile) : Apart (fun s => if dieOf e.1 = d then
      modMov (modCore s e.1 (fun c => { c with ctlb := [] })) e.1 (fun m => { m with xtlb := [] }) else s) := by
    refine ⟨fun s => ?_, fun K n s => by simp only [apply_ite (retask K n)]; rfl⟩
    split
    · exact hflush s e.1
    · exact tlbOnly_refl s
  refine ⟨fun s => ((Apart.foldl hstep s.tiles).tiles s).trans (tlbOnly_of_tiles rfl), fun K n s => ?_⟩
  exact congrArg (modDie · d fun y => { y with lltlb := [] }) ((Apart.foldl hstep s.tiles).tasks K n s)

theorem apart_flushAllTlbs : Apart flushAllTlbs := Apart.foldl apart_flushDieTlbs _

theorem apartP_walk (a : Nat) (ctx : Ctx) (va : Nat) (probe : Bool) : ApartP (walk · a ctx va probe) :=
  apartP_of_graft fun r s => walk_graft r s a ctx va probe

theorem tlbOnly_ite {α : Type} {s : State} {c : Prop} [Decidable c] {p q : α × State} (hp : TlbOnly s p.2) (hq : TlbOnly s q.2) :
    TlbOnly s (if c then p else q).2 := by
  split
  · exact hp
  · exact hq

theorem apartP_entryFor (a : Nat) (x : Bool) (ctx : Ctx) (va : Nat) : ApartP (entryFor · a x ctx va) := by
  obtain ⟨hwt, hwk⟩ := apartP_walk a ctx va false
  have hpk := (apartP_walk a ctx va true).tasks
  constructor
  · intro s
    have hd : TlbOnly s (draw s).2 := tlbOnly_of_tiles rfl
    simp only [entryFor]
    split
    · have ht := hwt s
      generalize walk s a ctx va false = p at ht
      obtain ⟨_ | e, s1⟩ := p
      · exact ht
      · exact ht.trans ((apart_fillTlbs a x ctx.id va e).tiles s1)
    · split
      · exact tlbOnly_refl s
      · exact tlbOnly_ite hd (hd.trans (hwt _))
  · intro K n s
    have hdraw : draw (retask K n s) = ((draw s).1, retask K n (draw s).2) := rfl
    have hlb : (if x then (tile (retask K n s) a).mov.xtlb else (core (retask K n s) a).ctlb) =
        if x then (tile s a).mov.xtlb else (core s a).ctlb := rfl
    have hll : (die (retask K n s) (dieOf a)).lltlb = (die s (dieOf a)).lltlb := rfl
    simp only [entryFor, hlb, hll, hwk, hpk, hdraw]
    split
    · obtain ⟨_ | e, s1⟩ := walk s a ctx va false
      · rfl
      · simp only [Prod.map_apply, id, (apart_fillTlbs a x ctx.id va e).tasks]
    · simp only [Prod.map_fst, id, apply_ite (Prod.map id (retask K n)), Prod.map_apply]

theorem apartP_translate (a : Nat) (x : Bool) (ctx : Ctx) (va : Nat) (wr : Bool) : ApartP (translate · a x ctx va wr) := by
  obtain ⟨ht, hk⟩ := apartP_entryFor a x ctx va
  constructor
  · intro s
    have ht := ht s
    simp only [translate]
    split
    · exact tlbOnly_refl s
    · generalize entryFor s a x ctx va = p at ht
      obtain ⟨_ | e, s1⟩ := p
      · exact ht
      · simp only
        split
        · exact ht
        · split
          · exact ht
          · split <;> exact ht
  · intro K n s
    have hga (t : State) (e : Nat) : gaOf (retask K n t) ctx va e = gaOf t ctx va e := gaOf_graft ⟨t.tiles, K, n⟩ t ctx va e
    simp only [translate, hk]
    split
    · rfl
    · obtain ⟨_ | e, s1⟩ := entryFor s a x ctx va
      · rfl
      · simp only [Prod.map_apply, id, hga]
        split
        · rfl
        · split
          · rfl
          · cases gaOf s1 ctx va e <;> rfl

theorem apart_unitReads (d : Nat) (pas : List Nat) : Apart (unitReads · d pas) := apart_of_graft fun r s => unitReads_graft r s d pas

theorem apart_reachLines (a ga n : Nat) : Apart (reachLines · a ga n) := apart_of_graft fun r s => reachLines_graft r s a ga n

theorem apart_homePaste (a ga n : Nat) (b : Mem) (bad : List (Nat × Nat)) : Apart (homePaste · a ga n b bad) :=
  apart_of_graft fun r s => homePaste_graft r s a ga n b bad

theorem apart_semAdd (a ga : Nat) (x : Word) : Apart (semAdd · a ga x) := apart_of_graft fun r s => semAdd_graft r s a ga x

theorem apart_event (type cause d t ctx g1 g2 g3 g4 g6 g7 : Nat) : Apart (event · type cause d t ctx g1 g2 g3 g4 g6 g7) :=
  apart_of_graft fun r s => event_graft r s type cause d t ctx g1 g2 g3 g4 g6 g7

theorem apart_discarded (dev : Nat) : Apart (discarded · dev) := apart_of_graft fun r s => discarded_graft r s dev

theorem apart_countDup (d : Nat) (ctx : Ctx) (va : Nat) : Apart (countDup · d ctx va) :=
  apart_of_graft fun r s => countDup_graft r s d ctx va

theorem apart_splitPage (d e pa : Nat) : Apart (splitPage · d e pa) := apart_of_graft fun r s => splitPage_graft r s d e pa

theorem apart_rewriteGroup (d size pa new : Nat) : Apart (rewriteGroup · d size pa new) :=
  apart_of_graft fun r s => rewriteGroup_graft r s d size pa new

theorem apart_sendNotes (devs : List Nat) (ctx : Nat) : Apart (fun s => devs.foldl (fun s d => sendNote s d ctx) s) :=
  Apart.foldl (fun d => apart_of_graft fun r s => sendNote_graft r s d ctx) devs

theorem dupEntry_retask (K : SMap Task) (n : Nat) (s : State) (ctx : Ctx) (va : Nat) :
    dupEntry (retask K n s) ctx va = dupEntry s ctx va := dupEntry_graft ⟨s.tiles, K, n⟩ s ctx va

/-- An operation chosen by the page's READDUP entry. -/
theorem apart_byDupEntry {ctx : Ctx} {va : Nat} {f : State → State} {g : Nat → Nat → State → State} (hf : Apart f)
    (hg : ∀ e pa, Apart (g e pa)) :
    Apart (fun s => match dupEntry s ctx va with | some (e, pa) => g e pa s | none => f s) := by
  constructor
  · intro s
    cases dupEntry s ctx va with
    | none => exact hf.tiles s
    | some p => exact (hg p.1 p.2).tiles s
  · intro K n s
    rw [dupEntry_retask]
    cases dupEntry s ctx va with
    | none => exact hf.tasks K n s
    | some p => exact (hg p.1 p.2).tasks K n s

theorem apart_id : Apart (fun s => s) := ⟨tlbOnly_refl, fun _ _ _ => rfl⟩

theorem Apart.ite {f g : State → State} {c : Prop} [Decidable c] (hf : Apart f) (hg : Apart g) :
    Apart (fun s => if c then f s else g s) := by
  split
  · exact hf
  · exact hg

theorem apart_takeBlock (ctx : Ctx) (va : Nat) (split : Bool) : Apart (takeBlock · ctx va split) := by
  have hpre := apart_byDupEntry (ctx := ctx) (va := va) apart_id fun e pa =>
    Apart.ite (c := split ∧ eSize e = 1) (apart_splitPage (eOwner e) e pa) apart_id
  have hpost := apart_byDupEntry (ctx := ctx) (va := va) apart_id fun e pa =>
    apart_flushAllTlbs.comp ((apart_rewriteGroup (eOwner e) (eSize e) pa (ownedEntry e)).comp apart_flushAllTlbs)
  exact hpost.comp hpre

/-- The write of a die's unit, once the page's set is known: `collapseNow` from there on. -/
def redirectNow (ctx : Ctx) (va : Nat) (split : Bool) (devs : List Nat) (s : State) : Bool × State :=
  let asked := devs.filter (fun d => d != s.dev.devid && !s.dev.lost.contains d)
  let away := asked.filter (fun d => !(routed s d && linkedTo s d) || noRoom s d collapseNote)
  if !away.isEmpty then (false, { s with awaited := s.awaited ++ away })
  else if asked.isEmpty then (true, takeBlock s ctx va split)
  else
    let (v, s) := draw (asked.foldl (fun s d => sendNote s d ctx.id) s)
    if v.toNat % 2 = 1 then (false, s) else (true, takeBlock s ctx va split)

theorem collapseNow_eq (s : State) (d : Nat) (ctx : Ctx) (va : Nat) : collapseNow s d ctx va =
    match dupEntry s ctx va with
    | none => (false, countDup s d ctx va)
    | some (e, _) =>
      if !ownerReaches s (272 + d) e (dupLines s ctx va e) then (false, s)
      else
        let s := unitReads s (eOwner e) (dupLines s ctx va e)
        match dupSet s ctx (eXref e) s.dev.devid with
        | none => (false, countDup s d ctx va)
        | some (split, devs) => redirectNow ctx va split devs s := rfl

theorem apartP_redirectNow (ctx : Ctx) (va : Nat) (split : Bool) (devs : List Nat) : ApartP (redirectNow ctx va split devs) := by
  have htake := apart_takeBlock ctx va split
  constructor
  · intro s
    simp only [redirectNow]
    refine tlbOnly_ite (tlbOnly_of_tiles rfl) (tlbOnly_ite (htake.tiles s) ?_)
    have hn := (apart_sendNotes (devs.filter (fun d => d != s.dev.devid && !s.dev.lost.contains d)) ctx.id).tiles s
    have hd (t : State) : TlbOnly t (draw t).2 := tlbOnly_of_tiles rfl
    exact tlbOnly_ite (hn.trans (hd _)) ((hn.trans (hd _)).trans (htake.tiles _))
  · intro K n s
    have hdev : (retask K n s).dev = s.dev := rfl
    have haway (d) : (!(routed (retask K n s) d && linkedTo (retask K n s) d) || noRoom (retask K n s) d collapseNote) =
        (!(routed s d && linkedTo s d) || noRoom s d collapseNote) := rfl
    have hdraw (t : State) : draw (retask K n t) = ((draw t).1, retask K n (draw t).2) := rfl
    simp only [redirectNow, hdev, haway, (apart_sendNotes _ ctx.id).tasks, hdraw, htake.tasks,
      apply_ite (Prod.map id (retask K n)), Prod.map_apply, id]
    rfl

theorem apartP_collapseNow (d : Nat) (ctx : Ctx) (va : Nat) : ApartP (collapseNow · d ctx va) := by
  have hcount := apart_countDup d ctx va
  constructor
  · intro s
    rw [collapseNow_eq]
    cases dupEntry s ctx va with
    | none => exact hcount.tiles s
    | some p =>
      obtain ⟨e, pa⟩ := p
      have hu := (apart_unitReads (eOwner e) (dupLines s ctx va e)).tiles s
      refine tlbOnly_ite (tlbOnly_refl s) ?_
      generalize unitReads s (eOwner e) (dupLines s ctx va e) = u at hu
      dsimp only
      cases dupSet u ctx (eXref e) u.dev.devid with
      | none => exact hu.trans (hcount.tiles u)
      | some q => exact hu.trans ((apartP_redirectNow ctx va q.1 q.2).tiles u)
  · intro K n s
    rw [collapseNow_eq, collapseNow_eq, dupEntry_retask]
    cases dupEntry s ctx va with
    | none => exact congrArg (Prod.mk false) (hcount.tasks K n s)
    | some p =>
      obtain ⟨e, pa⟩ := p
      have hset (t : State) : dupSet (retask K n t) ctx (eXref e) (retask K n t).dev.devid = dupSet t ctx (eXref e) t.dev.devid :=
        dupSet_graft ⟨t.tiles, K, n⟩ t ..
      have hreach : ownerReaches (retask K n s) = ownerReaches s := rfl
      have hlines : dupLines (retask K n s) ctx va e = dupLines s ctx va e := rfl
      simp only [hreach, hlines, (apart_unitReads _ _).tasks, hset]
      split
      · rfl
      · generalize unitReads s (eOwner e) (dupLines s ctx va e) = u
        cases dupSet u ctx (eXref e) u.dev.devid with
        | none => exact congrArg (Prod.mk false) (hcount.tasks K n u)
        | some q => exact (apartP_redirectNow ctx va q.1 q.2).tasks K n u

theorem apartP_ownAccess (d : Nat) (ctx : Ctx) (va : Nat) (wr : Bool) : ApartP (ownAccess · d ctx va wr) := by
  obtain ⟨ht, hk⟩ := apartP_translate (272 + d) false ctx va wr
  obtain ⟨hct, hck⟩ := apartP_collapseNow d ctx va
  constructor
  · intro s
    have h1 := ht s
    simp only [ownAccess]
    generalize translate s (272 + d) false ctx va wr = p at h1
    obtain ⟨_ | _ | _ | _, s1⟩ := p
    case collapse =>
      have h2 := hct s1
      simp only
      generalize collapseNow s1 d ctx va = q at h2
      obtain ⟨_ | _, s2⟩ := q
      · exact h1.trans h2
      · have h3 := ht s2
        simp only
        generalize translate s2 (272 + d) false ctx va wr = r at h3
        obtain ⟨_ | _ | _ | _, s3⟩ := r <;> exact (h1.trans h2).trans h3
    all_goals exact h1
  · intro K n s
    simp only [ownAccess, hk]
    obtain ⟨_ | _ | _ | _, s1⟩ := translate s (272 + d) false ctx va wr
    case collapse =>
      simp only [Prod.map_apply, id, hck]
      obtain ⟨_ | _, s2⟩ := collapseNow s1 d ctx va
      · rfl
      · simp only [Prod.map_apply, id, hk]
        obtain ⟨_ | _ | _ | _, s3⟩ := translate s2 (272 + d) false ctx va wr <;> rfl
    all_goals rfl

theorem apartP_ownReach {f : State → Access × State} (hf : ApartP f) (d : Nat) (wr : Bool) : ApartP (fun s => ownReach d wr (f s)) := by
  constructor
  · intro s
    have h1 := hf.tiles s
    generalize f s = p at h1
    obtain ⟨_ | _ | _, s1⟩ := p
    case ok ga e =>
      simp only [ownReach]
      refine tlbOnly_ite h1 ?_
      cases unroutedAt s1 ga with
      | none => exact h1
      | some dev =>
        simp only
        split
        · exact h1.trans ((apart_discarded dev).tiles s1)
        · exact h1
    all_goals exact h1
  · intro K n s
    simp only [hf.tasks]
    obtain ⟨_ | _ | _, s1⟩ := f s
    case ok ga e =>
      have hlost : lostAt (retask K n s1) = lostAt s1 := rfl
      have hroute : unroutedAt (retask K n s1) = unroutedAt s1 := rfl
      have hdev : (retask K n s1).dev = s1.dev := rfl
      simp only [ownReach, Prod.map_apply, id, hlost, hroute, hdev]
      split
      · rfl
      · cases unroutedAt s1 ga with
        | none => rfl
        | some dev => simp only [(apart_discarded dev).tasks, apply_ite (retask K n), Prod.map_apply, id]
    all_goals rfl

/-- Such a read of a range. -/
structure ApartF (f : State → Fetched) : Prop where
  tiles : ∀ s, TlbOnly s (f s).s
  tasks : ∀ K n s, f (retask K n s) = { f s with s := retask K n (f s).s }

/-- One piece of `ownRead`. -/
def readPiece (d : Nat) (ctx : Ctx) (k : Bool) (va : Nat) (f : Fetched) (p : Nat × Nat) : Fetched :=
  match f.err with
  | some _ => f
  | none =>
    match ownReach d false (ownAccess f.s d ctx p.1 false) with
    | (.bad c, s) => { f with s := s, err := some (c, p.1) }
    | (.gone, s) => { f with s := s, err := some (0x16, p.1) }
    | (.ok ga e, s) =>
      if k && !eK e then { f with s := s, err := some (0x08, p.1) }
      else
        { f with
          s := reachLines s (272 + d) ga p.2
          mem := f.mem ++ (slice s.mem ga p.2).map (fun c => (c.1 + (p.1 - va), c.2))
          bad := f.bad ++ poisonSpans s.memPoison 32 ga p.2 (p.1 - va) }

theorem ownRead_eq (s : State) (d : Nat) (ctx : Ctx) (k : Bool) (va n : Nat) :
    ownRead s d ctx k va n = (piecesOf va n).foldl (readPiece d ctx k va) ⟨s, [], [], none⟩ := rfl

theorem tlbOnly_readPiece (d : Nat) (ctx : Ctx) (k : Bool) (va : Nat) (f : Fetched) (p : Nat × Nat) :
    TlbOnly f.s (readPiece d ctx k va f p).s := by
  have h1 := (apartP_ownReach (apartP_ownAccess d ctx p.1 false) d false).tiles f.s
  simp only [readPiece]
  cases f.err with
  | some _ => exact tlbOnly_refl f.s
  | none =>
    generalize ownReach d false (ownAccess f.s d ctx p.1 false) = q at h1
    obtain ⟨_ | _ | _, s1⟩ := q
    case ok ga e =>
      simp only
      split
      · exact h1
      · exact h1.trans ((apart_reachLines (272 + d) ga p.2).tiles s1)
    all_goals exact h1

theorem readPiece_retask (d : Nat) (ctx : Ctx) (k : Bool) (va : Nat) (K : SMap Task) (n : Nat) (f : Fetched) (p : Nat × Nat) :
    readPiece d ctx k va { f with s := retask K n f.s } p =
      { readPiece d ctx k va f p with s := retask K n (readPiece d ctx k va f p).s } := by
  obtain ⟨s, mem, bad, _ | x⟩ := f
  case some => rfl
  case none =>
    have h1 := (apartP_ownReach (apartP_ownAccess d ctx p.1 false) d false).tasks K n s
    simp only [readPiece, h1]
    obtain ⟨_ | _ | _, s1⟩ := ownReach d false (ownAccess s d ctx p.1 false)
    case ok ga e =>
      have hl := (apart_reachLines (272 + d) ga p.2).tasks K n s1
      simp only [Prod.map_apply, id, hl]
      split <;> rfl
    all_goals rfl

theorem apartF_ownRead (d : Nat) (ctx : Ctx) (k : Bool) (va m : Nat) : ApartF (ownRead · d ctx k va m) := by
  constructor
  · intro s
    have h (ps : List (Nat × Nat)) (f : Fetched) : TlbOnly f.s (ps.foldl (readPiece d ctx k va) f).s := by
      induction ps generalizing f with
      | nil => exact tlbOnly_refl f.s
      | cons p ps ih => exact (tlbOnly_readPiece d ctx k va f p).trans (ih _)
    exact h (piecesOf va m) ⟨s, [], [], none⟩
  · intro K n s
    simp only [ownRead_eq]
    exact List.foldl_hom (init := ⟨s, [], [], none⟩) (fun f : Fetched => { f with s := retask K n f.s }) fun f p =>
      readPiece_retask d ctx k va K n f p

/-- An operation that gives the state first, as the writes of a range and the readers of an image do. -/
structure ApartE {α : Type} (f : State → State × α) : Prop where
  tiles : ∀ s, TlbOnly s (f s).1
  tasks : ∀ K n s, f (retask K n s) = (f s).map (retask K n) id

/-- A fold over pieces that goes on until one fails. -/
theorem apartE_pieces {α β : Type} {g : State → β → State × Option α} (hg : ∀ b, ApartE (g · b)) (ps : List β)
    {step : State × Option α → β → State × Option α} (hstep : ∀ f b, step f b = match f.2 with | some _ => f | none => g f.1 b) :
    ApartE (fun s => ps.foldl step (s, none)) := by
  constructor
  · intro s
    have h (f : State × Option α) : TlbOnly f.1 (ps.foldl step f).1 := by
      induction ps generalizing f with
      | nil => exact tlbOnly_refl f.1
      | cons p ps ih =>
        refine TlbOnly.trans ?_ (ih _)
        obtain ⟨s, _ | x⟩ := f
        · rw [hstep]; exact (hg p).tiles s
        · rw [hstep]; exact tlbOnly_refl s
    exact h (s, none)
  · intro K n s
    refine List.foldl_hom (init := (s, none)) (fun f : State × Option α => f.map (retask K n) id) fun f p => ?_
    obtain ⟨s, _ | x⟩ := f
    · rw [hstep, hstep]; exact (hg p).tasks K n s
    · rw [hstep, hstep]; rfl

theorem apartE_ownCheck (d : Nat) (ctx : Ctx) (cls : Option Nat) (va n : Nat) : ApartE (ownCheck · d ctx cls va n) := by
  have hg (p : Nat × Nat) : ApartE fun s => (match ownAccess s d ctx p.1 true with
      | (.bad c, s) => (s, some (c, p.1))
      | (.gone, s) => (s, none)
      | (.ok _ e, s) => (s, match cls with | some c => if eClass e = c then none else some (0x09, p.1) | none => none) :
        State × Option (Nat × Nat)) := by
    obtain ⟨ht, hk⟩ := apartP_ownAccess d ctx p.1 true
    constructor
    · intro s
      have h := ht s
      generalize ownAccess s d ctx p.1 true = q at h
      obtain ⟨_ | _ | _, s1⟩ := q <;> exact h
    · intro K n s
      simp only [hk]
      obtain ⟨_ | _ | _, s1⟩ := ownAccess s d ctx p.1 true <;> rfl
  exact apartE_pieces hg (piecesOf va n) fun f p => by obtain ⟨s, _ | x⟩ := f <;> rfl

theorem apartE_ownWrite (d : Nat) (ctx : Ctx) (va n : Nat) (b : Mem) (bad : List (Nat × Nat)) : ApartE (ownWrite · d ctx va n b bad) := by
  have hg (p : Nat × Nat) : ApartE fun s => (match ownReach d true (ownAccess s d ctx p.1 true) with
      | (.bad c, s) => (s, some (c, p.1))
      | (.gone, s) => (s, none)
      | (.ok ga _, s) => (homePaste s (272 + d) ga p.2 (slice b (p.1 - va) p.2) (spansIn bad (p.1 - va) p.2), none) :
        State × Option (Nat × Nat)) := by
    obtain ⟨ht, hk⟩ := apartP_ownReach (apartP_ownAccess d ctx p.1 true) d true
    constructor
    · intro s
      have h := ht s
      generalize ownReach d true (ownAccess s d ctx p.1 true) = q at h
      obtain ⟨_ | _ | _, s1⟩ := q
      case ok ga e => exact h.trans ((apart_homePaste ..).tiles s1)
      all_goals exact h
    · intro K n s
      simp only [hk]
      obtain ⟨_ | _ | _, s1⟩ := ownReach d true (ownAccess s d ctx p.1 true)
      case ok ga e => exact congrArg (·, none) ((apart_homePaste ..).tasks K n s1)
      all_goals rfl
  exact apartE_pieces hg (piecesOf va n) fun f p => by obtain ⟨s, _ | x⟩ := f <;> rfl

theorem apartE_writeGlobals (d : Nat) (ctx : Ctx) (secs : List Section_) : ApartE (writeGlobals · d ctx secs) := by
  induction secs with
  | nil => exact ⟨tlbOnly_refl, fun _ _ _ => rfl⟩
  | cons x xs ih =>
    obtain ⟨hct, hck⟩ := apartE_ownCheck d ctx (some x.cls) x.origin x.len
    obtain ⟨hwt, hwk⟩ := apartE_ownWrite d ctx x.origin x.len x.bytes x.bad
    constructor
    · intro s
      simp only [writeGlobals]
      split
      · exact ih.tiles s
      · have hc := hct s
        generalize ownCheck s d ctx (some x.cls) x.origin x.len = p at hc
        obtain ⟨s1, _ | _⟩ := p
        · have hw := hwt s1
          simp only
          generalize ownWrite s1 d ctx x.origin x.len x.bytes x.bad = q at hw
          obtain ⟨s2, _ | _⟩ := q
          · exact (hc.trans hw).trans (ih.tiles s2)
          · exact hc.trans hw
        · exact hc
    · intro K n s
      simp only [writeGlobals, hck]
      split
      · exact ih.tasks K n s
      · obtain ⟨s1, _ | _⟩ := ownCheck s d ctx (some x.cls) x.origin x.len
        · simp only [Prod.map_apply, id, hwk]
          obtain ⟨s2, _ | _⟩ := ownWrite s1 d ctx x.origin x.len x.bytes x.bad
          · exact ih.tasks K n s2
          · rfl
        · rfl

theorem ownRead_retask (K : SMap Task) (n : Nat) (s : State) (d : Nat) (ctx : Ctx) (k : Bool) (va m : Nat) :
    ownRead (retask K n s) d ctx k va m = { ownRead s d ctx k va m with s := retask K n (ownRead s d ctx k va m).s } :=
  (apartF_ownRead d ctx k va m).tasks K n s

theorem tlbOnly_ownRead (s : State) (d : Nat) (ctx : Ctx) (k : Bool) (va m : Nat) : TlbOnly s (ownRead s d ctx k va m).s :=
  (apartF_ownRead d ctx k va m).tiles s

theorem apartE_readSections (d : Nat) (ctx : Ctx) (scratch va n i : Nat) : ApartE (readSections · d ctx scratch va n i) := by
  induction n generalizing va i with
  | zero => exact ⟨tlbOnly_refl, fun _ _ _ => rfl⟩
  | succ n ih =>
    constructor
    · intro s
      have h1 := tlbOnly_ownRead s d ctx true va 16
      simp only [readSections]
      generalize ownRead s d ctx true va 16 = f at h1
      cases f.err with
      | some e => exact h1
      | none =>
        simp only
        split
        · exact h1
        · have h2 := h1.trans (tlbOnly_ownRead f.s d ctx true (va + 16) (bits (group f.mem 1) 63 32))
          generalize ownRead f.s d ctx true (va + 16) (bits (group f.mem 1) 63 32) = b at h2
          cases b.err with
          | some e => exact h2
          | none =>
            have h3 := h2.trans ((ih (va + up64 (16 + bits (group f.mem 1) 63 32)) (i + 1)).tiles b.s)
            simp only
            generalize readSections b.s d ctx scratch (va + up64 (16 + bits (group f.mem 1) 63 32)) n (i + 1) = r at h3
            obtain ⟨s3, _ | _⟩ := r <;> exact h3
    · intro K m s
      simp only [readSections, ownRead_retask]
      generalize ownRead s d ctx true va 16 = f
      cases f.err with
      | some e => rfl
      | none =>
        simp only
        split
        · rfl
        · generalize ownRead f.s d ctx true (va + 16) (bits (group f.mem 1) 63 32) = b
          cases b.err with
          | some e => rfl
          | none =>
            have h3 := (ih (va + up64 (16 + bits (group f.mem 1) 63 32)) (i + 1)).tasks K m b.s
            simp only [h3]
            obtain ⟨s3, _ | _⟩ := readSections b.s d ctx scratch (va + up64 (16 + bits (group f.mem 1) 63 32)) n (i + 1) <;> rfl

theorem apartE_readImage (d : Nat) (ctx : Ctx) (va : Nat) : ApartE (readImage · d ctx va) := by
  constructor
  · intro s
    simp only [readImage]
    split
    · exact tlbOnly_refl s
    · have h1 := tlbOnly_ownRead s d ctx true va 64
      generalize ownRead s d ctx true va 64 = f at h1
      cases f.err with
      | some e => exact h1
      | none =>
        simp only
        cases headerBad f.mem with
        | some b => exact h1
        | none =>
          simp only
          generalize headerOf f.mem = h
          generalize up64 (8 * h.cwords) + up64 (16 * h.vpairs) + 64 * h.mrecs + 64 * h.xrecs = size
          have h2 := h1.trans (tlbOnly_ownRead f.s d ctx true (va + 64) size)
          generalize ownRead f.s d ctx true (va + 64) size = b at h2
          cases b.err with
          | some e => exact h2
          | none =>
            have h3 := h2.trans ((apartE_readSections d ctx h.scratch (va + 64 + size) h.nseg 0).tiles b.s)
            simp only
            generalize readSections b.s d ctx h.scratch (va + 64 + size) h.nseg 0 = r at h3
            obtain ⟨s3, _ | _⟩ := r <;> exact h3
  · intro K m s
    simp only [readImage, ownRead_retask]
    split
    · rfl
    · generalize ownRead s d ctx true va 64 = f
      cases f.err with
      | some e => rfl
      | none =>
        simp only
        cases headerBad f.mem with
        | some b => rfl
        | none =>
          simp only
          generalize headerOf f.mem = h
          generalize up64 (8 * h.cwords) + up64 (16 * h.vpairs) + 64 * h.mrecs + 64 * h.xrecs = size
          generalize ownRead f.s d ctx true (va + 64) size = b
          cases b.err with
          | some e => rfl
          | none =>
            have h3 := (apartE_readSections d ctx h.scratch (va + 64 + size) h.nseg 0).tasks K m b.s
            simp only [h3]
            obtain ⟨s3, _ | _⟩ := readSections b.s d ctx h.scratch (va + 64 + size) h.nseg 0 <;> rfl

theorem tlbOnly_readEntries (s : State) (d : Nat) (ctx : Ctx) (pos : Nat) (es : List (Nat × Nat)) :
    TlbOnly s (readEntries s d ctx pos es).1 := by
  induction es generalizing s pos with
  | nil => exact tlbOnly_refl s
  | cons e es ih =>
    obtain ⟨va, n⟩ := e
    have h1 := tlbOnly_ownRead s d ctx false va n
    simp only [readEntries]
    generalize ownRead s d ctx false va n = f at h1
    cases f.err with
    | some e => exact h1
    | none =>
      have h2 := h1.trans (ih f.s (pos + n))
      simp only
      generalize readEntries f.s d ctx (pos + n) es = r at h2
      obtain ⟨s2, _ | _⟩ := r <;> exact h2

theorem tlbOnly_readPreload (s : State) (d : Nat) (ctx : Ctx) (plist psize : Nat) : TlbOnly s (readPreload s d ctx plist psize).1 := by
  simp only [readPreload]
  split
  · exact tlbOnly_refl s
  · have h1 := tlbOnly_ownRead s d ctx false plist 256
    generalize ownRead s d ctx false plist 256 = f at h1
    cases f.err with
    | some e => exact h1
    | none =>
      simp only
      split
      · exact h1
      · exact h1.trans (tlbOnly_readEntries ..)

theorem apartP_semCheck (d : Nat) (ctx : Ctx) (va : Nat) (wr : Bool) : ApartP (semCheck · d ctx va wr) := by
  obtain ⟨ht, hk⟩ := apartP_ownAccess d ctx va wr
  have hreach (ga e : Nat) : ApartP (fun s => ownReach d wr (.ok ga e, s)) := apartP_ownReach ⟨tlbOnly_refl, fun _ _ _ => rfl⟩ d wr
  constructor
  · intro s
    have h := ht s
    simp only [semCheck]
    refine tlbOnly_ite (tlbOnly_refl s) ?_
    generalize ownAccess s d ctx va wr = p at h
    obtain ⟨_ | _ | _, s1⟩ := p
    case ok ga e => exact tlbOnly_ite (h.trans ((hreach ga e).tiles s1)) h
    all_goals exact h
  · intro K n s
    simp only [semCheck, hk]
    split
    · rfl
    · obtain ⟨_ | _ | _, s1⟩ := ownAccess s d ctx va wr
      case ok ga e =>
        have hr := (hreach ga e).tasks K n s1
        simp only [Prod.map_apply, id, hr, apply_ite (Prod.map id (retask K n))]
      all_goals rfl

theorem apart_ownInc (d : Nat) (ctx : Option Ctx) (id va : Nat) (x : Word) (g4 : Nat) : Apart (ownInc · d ctx id va x g4) := by
  cases ctx with
  | none => exact apart_event 0x0A 0 d 0 id 0 va 0 g4 0x02 0
  | some c =>
    obtain ⟨ht, hk⟩ := apartP_semCheck d c va true
    constructor
    · intro s
      have h := ht s
      simp only [ownInc]
      generalize semCheck s d c va true = p at h
      obtain ⟨_ | _ | _, s1⟩ := p
      case ok ga e => exact h.trans ((apart_semAdd (272 + d) ga x).tiles s1)
      case bad code => exact h.trans ((apart_event 0x0A 0 d 0 id 0 va 0 g4 code 0).tiles s1)
      case gone => exact h
    · intro K n s
      simp only [ownInc, hk]
      obtain ⟨_ | _ | _, s1⟩ := semCheck s d c va true
      case ok ga e => exact (apart_semAdd (272 + d) ga x).tasks K n s1
      case bad code => exact (apart_event 0x0A 0 d 0 id 0 va 0 g4 code 0).tasks K n s1
      case gone => rfl

theorem apart_incDone (k : Task) : Apart (incDone · k) := by
  constructor
  · intro s
    simp only [incDone]
    split
    · exact tlbOnly_refl s
    · exact (apart_ownInc ..).tiles s
  · intro K n s
    have hreg : inRegistry (retask K n s) k.ctx = inRegistry s k.ctx := rfl
    simp only [incDone, hreg, (apart_ownInc _ _ _ _ _ _).tasks, apply_ite (retask K n)]

/-- Such an operation leaves the tasks. -/
theorem Apart.tasks_eq {f : State → State} (h : Apart f) (s : State) : (f s).tasks = s.tasks := by
  have h1 := h.tasks s.tasks s.nextTask s
  rw [show retask s.tasks s.nextTask s = s from rfl] at h1
  rw [h1]
  rfl

end Sys2Proof.Machine
end

section
/-! PROOFS. Task start (R281, R337, R366). -/

namespace Sys2Proof.Machine

/-! ## Memory -/

theorem lookup_filter_key {α : Type} (p : Nat → Bool) (m : SMap α) (x : Nat) :
    lookup (m.filter (fun e => p e.1)) x = if p x then lookup m x else none := by
  induction m with
  | nil => simp [lookup]
  | cons e m ih =>
    obtain ⟨k, v⟩ := e
    by_cases hk : p k = true
    · rw [List.filter_cons_of_pos (by exact hk), lookup, lookup, ih]
      by_cases hx : x = k
      · simp [hx, hk]
      · simp [hx]
    · rw [List.filter_cons_of_neg (by exact hk), ih, lookup]
      by_cases hx : x = k
      · simp [hx, hk]
      · simp [hx]

theorem lookup_append {α : Type} (m m' : SMap α) (x : Nat) : lookup (m ++ m') x = (lookup m x).orElse fun _ => lookup m' x := by
  induction m with
  | nil => simp [lookup]
  | cons e m ih =>
    obtain ⟨k, v⟩ := e
    rw [List.cons_append, lookup, lookup, ih]
    split <;> simp

theorem getB_filter_key (p : Nat → Bool) (m : Mem) (x : Nat) :
    getB (m.filter (fun e => p e.1)) x = if p x then getB m x else 0 := by
  rw [getB, getAt, lookup_filter_key]
  split <;> rfl

/-- The bytes that `paste` puts in. -/
theorem getB_pasted (a n x : Nat) (b : Mem) :
    getB (b.foldr (fun e r => if e.1 < n then setB r (e.1 + a) e.2 else r) []) x =
      if a ≤ x ∧ x < a + n then getB b (x - a) else 0 := by
  induction b with
  | nil => simp [getB, getAt, lookup]
  | cons e b ih =>
    obtain ⟨k, v⟩ := e
    have hcons : getB ((k, v) :: b) (x - a) = if x - a = k then v else getB b (x - a) := by
      simp only [getB, getAt, lookup]
      split <;> rfl
    rw [List.foldr_cons, hcons]
    by_cases hk : k < n
    · rw [if_pos hk]
      by_cases hx : x = k + a
      · subst hx
        simp [getB_setB_self]
        omega
      · rw [getB_setB_ne _ _ hx, ih]
        split
        · rw [if_neg (by omega)]
        · rfl
    · rw [if_neg hk, ih]
      split
      · rw [if_neg (by omega)]
      · rfl

theorem lookup_setB_ne (m : Mem) {a b : Nat} (v : Byte) (h : b ≠ a) : lookup (setB m a v) b = lookup m b := by
  unfold setB setAt
  split
  · exact lookup_delAt_ne m h
  · exact lookup_insAt_ne m v h

theorem lookup_pasted_outside {a n x : Nat} (b : Mem) (h : x < a ∨ a + n ≤ x) :
    lookup (b.foldr (fun e r => if e.1 < n then setB r (e.1 + a) e.2 else r) []) x = none := by
  induction b with
  | nil => rfl
  | cons e b ih =>
    rw [List.foldr_cons]
    split
    · rw [lookup_setB_ne _ _ (by omega), ih]
    · exact ih

theorem getB_append (m m' : Mem) (x : Nat) : getB (m ++ m') x = (lookup m x).getD (getB m' x) := by
  rw [getB, getAt, lookup_append]
  cases lookup m x <;> rfl

theorem getB_paste (m : Mem) (a n x : Nat) (b : Mem) : getB (paste m a n b) x = if a ≤ x ∧ x < a + n then getB b (x - a) else getB m x := by
  have hlo := lookup_filter_key (fun y => decide (y < a)) m x
  have hhi := lookup_filter_key (fun y => decide (a + n ≤ y)) m x
  have hmid := getB_pasted a n x b
  rw [paste, List.append_assoc, getB_append, getB_append, hlo, getB, getAt, hhi]
  by_cases hx : a ≤ x ∧ x < a + n
  · rw [if_pos hx] at hmid ⊢
    rw [← hmid, if_neg (by simp; omega), if_neg (by simp; omega)]
    rfl
  · rw [if_neg hx, lookup_pasted_outside b (by omega)]
    by_cases hlt : x < a
    · rw [if_pos (by simpa using hlt), if_neg (by simp; omega)]
      rfl
    · rw [if_neg (by simpa using hlt), if_pos (by simp; omega)]
      rfl

/-! ## Folds over the tiles of a gang -/

theorem tile_foldl_modTile_notMem (f : Tile → Tile) {l : List Nat} {b : Nat} (h : b ∉ l) (s : State) :
    tile (l.foldl (fun s a => modTile s a f) s) b = tile s b := by
  induction l generalizing s with
  | nil => rfl
  | cons a l ih =>
    rw [List.mem_cons, not_or] at h
    rw [List.foldl_cons, ih h.2, tile_modTile_ne _ _ h.1]

theorem tile_foldl_modTile_mem (f : Tile → Tile) {l : List Nat} (hl : l.Nodup) {b : Nat} (h : b ∈ l) (s : State) :
    tile (l.foldl (fun s a => modTile s a f) s) b = f (tile s b) := by
  induction l generalizing s with
  | nil => cases h
  | cons a l ih =>
    rw [List.nodup_cons] at hl
    rw [List.foldl_cons]
    by_cases hb : b = a
    · rw [hb, tile_foldl_modTile_notMem f hl.1, tile_modTile_self]
    · rw [ih hl.2 ((List.mem_cons.1 h).resolve_left hb), tile_modTile_ne _ _ hb]

theorem foldl_modTile_eq (f : Tile → Tile) (l : List Nat) (s : State) :
    ∃ T, l.foldl (fun s a => modTile s a f) s = { s with tiles := T } := by
  induction l generalizing s with
  | nil => exact ⟨s.tiles, rfl⟩
  | cons a l ih =>
    obtain ⟨T, hT⟩ := ih (modTile s a f)
    exact ⟨T, hT⟩

/-! ## Task start -/

/-- The tile at word 0 of a task: what `Obligations.TasksStartAndEnd` says of each of its tiles. -/
def Started (t : State) (a u : Nat) (d : Desc) (runNo : Nat) (im : Image) : Prop :=
  (core t a).run = .running ∧ (core t a).pc = 0 ∧ (core t a).wait = .none ∧ rdS (core t a) 1 = d.param0 ∧ rdS (core t a) 2 = d.param1 ∧
    rdS (core t a) 3 = BitVec.ofNat 64 runNo ∧ (∀ r, 3 < r → rdS (core t a) r = 0) ∧ (tile t a).task = some u ∧
    (tile t a).vec = Vec.reset ∧ (tile t a).mat = Mat.reset ∧ (tile t a).mov.run = none ∧ (tile t a).mov.queue = [] ∧
    (tile t a).reed.slots = [] ∧ (tile t a).fifo = ⟨0, 0, 0, 0, 0, 0⟩ ∧
    (∀ pc, fetchC t a pc = readN im.c (8 * pc) 8 ∧ fetchV t a pc = readN im.v (16 * pc) 16 ∧ fetchM t a pc = readN im.m (64 * pc) 64 ∧
      fetchX t a pc = readN im.x (64 * pc) 64)

/-- The registers of a task's word 0 (R337). -/
theorem rdS_word0 {c : Core} {p0 p1 n : Word} (h : c.s = setAt 0 (setAt 0 (setAt 0 [] 1 p0) 2 p1) 3 n) :
    rdS c 1 = p0 ∧ rdS c 2 = p1 ∧ rdS c 3 = n ∧ ∀ r, 3 < r → rdS c r = 0 := by
  refine ⟨?_, ?_, ?_, fun r hr => ?_⟩
  · rw [rdS, if_neg (by decide), h, getAt_setAt_ne _ _ _ (by decide), getAt_setAt_ne _ _ _ (by decide), getAt_setAt_self]
  · rw [rdS, if_neg (by decide), h, getAt_setAt_ne _ _ _ (by decide), getAt_setAt_self]
  · rw [rdS, if_neg (by decide), h, getAt_setAt_self]
  · rw [rdS, if_neg (by omega), h, getAt_setAt_ne _ _ _ (by omega), getAt_setAt_ne _ _ _ (by omega), getAt_setAt_ne _ _ _ (by omega)]
    rfl

/-- Where no preload is used, the active banks hold the image. -/
theorem fetch_startBanks {t : State} {a : Nat} {im : Image} {b : Banks} (h : (tile t a).banks = startBanks im none b) (pc : Nat) :
    fetchC t a pc = readN im.c (8 * pc) 8 ∧ fetchV t a pc = readN im.v (16 * pc) 16 ∧ fetchM t a pc = readN im.m (64 * pc) 64 ∧
      fetchX t a pc = readN im.x (64 * pc) 64 := by
  refine ⟨?_, ?_, ?_, ?_⟩
  · simp only [fetchC, h, startBanks]; cases b.actC <;> rfl
  · simp only [fetchV, h, startBanks]; cases b.actV <;> rfl
  · simp only [fetchM, h, startBanks]; cases b.actM <;> rfl
  · simp only [fetchX, h, startBanks]; cases b.actX <;> rfl

theorem started_of_startTile {t : State} {a u : Nat} {k : Task} {im : Image} {y : Tile} {b : Banks} (ht : tile t a = startTile u k im y)
    (hb : y.banks = startBanks im none b) : Started t a u k.d k.runNo im := by
  have hs : (core t a).s = setAt 0 (setAt 0 (setAt 0 [] 1 k.d.param0) 2 k.d.param1) 3 (BitVec.ofNat 64 k.runNo) := by rw [core, ht]; rfl
  obtain ⟨h1, h2, h3, h4⟩ := rdS_word0 hs
  exact ⟨congrArg (·.core.run) ht, congrArg (·.core.pc) ht, congrArg (·.core.wait) ht, h1, h2, h3, h4, congrArg Tile.task ht,
    congrArg Tile.vec ht, congrArg Tile.mat ht, congrArg (·.mov.run) ht, congrArg (·.mov.queue) ht, congrArg (·.reed.slots) ht,
    congrArg Tile.fifo ht, fetch_startBanks ((congrArg Tile.banks ht).trans hb)⟩

theorem unblockQueue_eq (s : State) (k : Task) : ∃ D, unblockQueue s k = { s with dies := D } := by
  unfold unblockQueue
  split
  · simp only
    split
    · exact ⟨_, rfl⟩
    · exact ⟨s.dies, rfl⟩
  · exact ⟨s.dies, rfl⟩

theorem dropPreloads_none {s : State} {p : Nat → Bool} (hp : ∀ u, p u = false) : dropPreloads s p = s := by
  have hkeep (e : Nat × Tile) : ((e.1, match e.2.preload with
      | some q => if p q.u then { e.2 with preload := none } else e.2
      | none => e.2) : Nat × Tile) = e := by
    obtain ⟨a, x⟩ := e
    cases x.preload with
    | none => rfl
    | some q => simp only [hp, Bool.false_eq_true, if_false]
  exact congrArg (fun T => { s with tiles := T }) ((List.map_congr_left fun e _ => hkeep e).trans (List.map_id s.tiles))

/-- Where no tile of the gang holds a preload there is none to drop. -/
theorem dropOthers_eq {s : State} {g : List Nat} (h : ∀ a ∈ g, (tile s a).preload = none) (u : Nat) : dropOthers s u g = s := by
  have hgone : g.filterMap (fun a => (tile s a).preload.bind (fun q => if q.u = u ∨ q.under = u then none else some q.u)) = [] := by
    rw [List.filterMap_eq_nil_iff]
    intro a ha
    rw [h a ha]
    rfl
  rw [dropOthers, hgone]
  exact dropPreloads_none fun _ => rfl

/-- The task as its start leaves it. -/
def startedTask (k : Task) (im : Image) : Task :=
  { k with state := .running, hdr := im.hdr, counted := 0, begun := false, killed := none, overrun := false }

theorem tlbOnly_readImage {s s1 : State} {d va : Nat} {ctx : Ctx} {r : Except (Nat × Nat) Image} (h : readImage s d ctx va = (s1, r)) :
    TlbOnly s s1 := by
  have ht := (apartE_readImage d ctx va).tiles s
  rwa [h] at ht

/-- A preload list is read where the descriptor names one. -/
theorem tlbOnly_readList {s1 s2 : State} {k : Task} {psize : Nat} {data : Option PreloadData}
    (h : (k.d.plist = 0 ∧ data = none ∧ s2 = s1) ∨
      (k.d.plist ≠ 0 ∧ ∃ m, readPreload s1 k.die k.ctx k.d.plist psize = (s2, .ok m) ∧ data = some m)) : TlbOnly s1 s2 := by
  obtain ⟨-, -, rfl⟩ | ⟨-, m, hm, -⟩ := h
  · exact tlbOnly_refl s2
  · have ht := tlbOnly_readPreload s1 k.die k.ctx k.d.plist psize
    rwa [hm] at ht

/-- A start that passes its checks, with no preload on its tiles. -/
theorem startTask_passes {s s1 s2 s3 : State} {u : Nat} {k : Task} {im : Image} {data : Option PreloadData}
    (hread : readImage s k.die k.ctx k.d.image = (s1, .ok im)) (hkill : im.hdr.killable = k.d.kill)
    (hseq : ∀ q, k.origin = .cstart q → seqHeader im.hdr = true) (hpre : ∀ a ∈ gangOf k, (tile s a).preload = none) (hne : gangOf k ≠ [])
    (hdata : (k.d.plist = 0 ∧ data = none ∧ s2 = s1) ∨
      (k.d.plist ≠ 0 ∧ ∃ m, readPreload s1 k.die k.ctx k.d.plist im.hdr.psize = (s2, .ok m) ∧ data = some m))
    (hglob : writeGlobals ((gangOf k).foldl (fun s a => modTile s a (loadTile u im data)) s2) k.die k.ctx im.secs = (s3, none)) :
    startTask s u k = (gangOf k).foldl (fun s a => modTile s a (startTile u (startedTask k im) im))
      (register (unblockQueue (putTask s3 u (startedTask k im)) (startedTask k im)) k.ctx) := by
  have hnone {t : State} (h : TlbOnly s t) (a : Nat) (ha : a ∈ gangOf k) : (tile t a).preload = none :=
    (congrArg Tile.preload (h.bare a)).trans (hpre a ha)
  have h1 := tlbOnly_readImage hread
  have h2 := h1.trans (tlbOnly_readList hdata)
  obtain ⟨a, g, hg⟩ := List.exists_cons_of_ne_nil hne
  have ha := hnone h1 a (hg ▸ List.mem_cons_self ..)
  have hdrop := dropOthers_eq (hnone h2) u
  rw [startTask, hread]
  refine (if_neg (not_not_intro hkill)).trans ((if_neg ?seq).trans ?_)
  case seq =>
    rintro ⟨hc, hs⟩
    cases ho : k.origin with
    | cstart q => simp [hseq q ho] at hs
    | _ => simp [ho] at hc
  rw [hg] at hdrop hglob ⊢
  simp only [List.all_cons, ha, Bool.false_and, Bool.false_eq_true, or_false]
  obtain ⟨hp, rfl, rfl⟩ | ⟨hp, m, hm, rfl⟩ := hdata
  · simp only [hp, if_true, hdrop, hglob]
    rfl
  · simp only [hp, if_false, hm, hdrop, hglob]
    rfl

/-- A tile as it stands before word 0: code and scratchpad loaded over what it held. -/
structure Loaded (im : Image) (data : Option PreloadData) (x y : Tile) : Prop where
  banks : y.banks = startBanks im none x.banks
  pad : y.pad = padSections im.secs (match data with | some d => paste x.pad im.hdr.porig im.hdr.psize d.1 | none => x.pad)
  lastCtx : y.lastCtx = x.lastCtx

theorem loaded_loadTile {x : Tile} (h : x.preload = none) (u : Nat) (im : Image) (data : Option PreloadData) :
    Loaded im data x (loadTile u im data x) := by
  constructor
  · simp only [loadTile, h]
  · simp only [loadTile, h]
    cases data <;> rfl
  · rfl

/-- TLBs apart, the tile before and the tile loaded may differ. -/
theorem Loaded.of_bare {im : Image} {data : Option PreloadData} {x x' y y' : Tile} (h : Loaded im data x y) (hx : bare x = bare x')
    (hy : bare y' = bare y) : Loaded im data x' y' := by
  have hb : x.banks = x'.banks := (congrArg Tile.banks hx : (bare x).banks = (bare x').banks)
  have hp : x.pad = x'.pad := (congrArg Tile.pad hx : (bare x).pad = (bare x').pad)
  have hc : x.lastCtx = x'.lastCtx := (congrArg Tile.lastCtx hx : (bare x).lastCtx = (bare x').lastCtx)
  obtain ⟨hbanks, hpad, hlast⟩ := h
  rw [hb] at hbanks
  rw [hp] at hpad
  rw [hc] at hlast
  exact ⟨(congrArg Tile.banks hy : (bare y').banks = (bare y).banks).trans hbanks,
    (congrArg Tile.pad hy : (bare y').pad = (bare y).pad).trans hpad,
    (congrArg Tile.lastCtx hy : (bare y').lastCtx = (bare y).lastCtx).trans hlast⟩

/-- The scratchpad at word 0, where the image has no section (R281, R337). -/
theorem getB_pad_startTile {im : Image} {data : Option PreloadData} {x y : Tile} (h : Loaded im data x y) (hs : im.secs = []) (u : Nat)
    (k : Task) (i : Nat) :
    getB (startTile u k im y).pad i =
      if x.lastCtx ≠ k.ctx.id ∧ i < im.hdr.scratch ∧ ¬(im.hdr.porig ≤ i ∧ i < im.hdr.porig + im.hdr.psize) then 0
      else getB y.pad i := by
  have hcov : covered im i = (decide (im.hdr.porig ≤ i) && decide (i < im.hdr.porig + im.hdr.psize)) := by simp [covered, hs]
  have hpad : (startTile u k im y).pad = if y.lastCtx = k.ctx.id then y.pad else (zeroPad im y).pad := by
    rw [startTile]
    split <;> rfl
  rw [hpad, h.lastCtx]
  by_cases hc : x.lastCtx = k.ctx.id
  · simp [hc]
  · have hz := getB_filter_key (fun a => decide (im.hdr.scratch ≤ a) || covered im a) y.pad i
    rw [if_neg hc]
    refine hz.trans ?_
    rw [hcov]
    by_cases hin : i < im.hdr.scratch ∧ ¬(im.hdr.porig ≤ i ∧ i < im.hdr.porig + im.hdr.psize)
    · rw [if_neg (by simp; omega), if_pos ⟨hc, hin⟩]
    · rw [if_pos (by simp; omega), if_neg (by simp [hc]; omega)]

/-- A start that passes its checks: what it leaves (R337). -/
theorem startTask_started {s s1 s2 s3 : State} {u : Nat} {k : Task} {im : Image} {data : Option PreloadData}
    (hread : readImage s k.die k.ctx k.d.image = (s1, .ok im)) (hkill : im.hdr.killable = k.d.kill)
    (hseq : ∀ q, k.origin = .cstart q → seqHeader im.hdr = true) (hpre : ∀ a ∈ gangOf k, (tile s a).preload = none) (hne : gangOf k ≠ [])
    (hdata : (k.d.plist = 0 ∧ data = none ∧ s2 = s1) ∨
      (k.d.plist ≠ 0 ∧ ∃ m, readPreload s1 k.die k.ctx k.d.plist im.hdr.psize = (s2, .ok m) ∧ data = some m))
    (hglob : writeGlobals ((gangOf k).foldl (fun s a => modTile s a (loadTile u im data)) s2) k.die k.ctx im.secs = (s3, none))
    (hnd : (gangOf k).Nodup) :
    lookup (startTask s u k).tasks u = some (startedTask k im) ∧ (startTask s u k).mem = s3.mem ∧
      (∀ a, a ∉ gangOf k → tile (startTask s u k) a = tile s3 a) ∧
      ∀ a ∈ gangOf k, tile (startTask s u k) a = startTile u (startedTask k im) im (tile s3 a) ∧ Loaded im data (tile s a) (tile s3 a) := by
  have h1 := tlbOnly_readImage hread
  have h2 := h1.trans (tlbOnly_readList hdata)
  have h3 := (apartE_writeGlobals k.die k.ctx im.secs).tiles ((gangOf k).foldl (fun s a => modTile s a (loadTile u im data)) s2)
  rw [hglob] at h3
  rw [startTask_passes hread hkill hseq hpre hne hdata hglob]
  obtain ⟨D, hD⟩ := unblockQueue_eq (putTask s3 u (startedTask k im)) (startedTask k im)
  rw [hD]
  obtain ⟨T, hT⟩ := foldl_modTile_eq (startTile u (startedTask k im) im) (gangOf k)
    (register { putTask s3 u (startedTask k im) with dies := D } k.ctx)
  refine ⟨?_, ?_, fun a ha => tile_foldl_modTile_notMem _ ha _, fun a ha => ⟨tile_foldl_modTile_mem _ hnd ha _, ?_⟩⟩
  · rw [hT]; exact lookup_insAt_self ..
  · rw [hT]; rfl
  · have hx := h2.bare a
    have hp : (tile s2 a).preload = none := (congrArg Tile.preload hx : (bare _).preload = (bare _).preload).trans (hpre a ha)
    have hy := h3.bare a
    rw [tile_foldl_modTile_mem _ hnd ha] at hy
    exact (loaded_loadTile hp u im data).of_bare hx hy


theorem exec_taskStart_placed {s : State} {u : Nat} {k : Task} (hk : lookup s.tasks u = some k) (hplaced : k.state = .placed)
    (hlate : straggler s k = false) (hfree : ∀ a ∈ gangOf k, (tile s a).task = none) : exec (.taskStart u) s = .next (startTask s u k) := by
  show execTaskStart u s = _
  rw [execTaskStart, hk]
  exact if_pos ⟨hplaced, by simpa [tileFree] using hfree, by simp [hlate]⟩

theorem exec_taskStart_straggler {s : State} {u : Nat} {k : Task} (hk : lookup s.tasks u = some k) (hlate : straggler s k = true) :
    exec (.taskStart u) s = .next s := by
  show execTaskStart u s = _
  rw [execTaskStart, hk]
  exact if_neg (by simp [hlate])

/-- A task that a join it feeds, and has not arrived at, accepts no more (R345). -/
def Late (s : State) (k : Task) : Prop :=
  ∃ d gid n r, k.origin = .node d gid n r ∧
    ∃ j ∈ joinsOf s k, k.arrivedAt.contains (j.1 * 65536 + j.2) = false ∧ accepts s gid j = false

theorem straggler_iff (s : State) (k : Task) : straggler s k = true ↔ Late s k := by
  unfold straggler Late
  cases ho : k.origin with
  | node d gid n r =>
    simp only [List.any_eq_true, Bool.and_eq_true, Bool.not_eq_true', partKey, Origin.node.injEq]
    constructor
    · exact fun ⟨j, hj, h⟩ => ⟨d, gid, n, r, ⟨rfl, rfl, rfl, rfl⟩, j, hj, h⟩
    · rintro ⟨_, _, _, _, ⟨rfl, rfl, rfl, rfl⟩, j, hj, h⟩
      exact ⟨j, hj, h⟩
  | _ => simp

theorem straggler_eq_false_iff (s : State) (k : Task) : straggler s k = false ↔ ¬Late s k := by
  rw [← straggler_iff, Bool.not_eq_true]

/-- The sequencer task of a CSTART descriptor, whose words are g (R366). -/
def seqTask (q : Nat) (va : Word) (c : Ctx) (now : Nat) (g : Nat → Nat) : Task :=
  ⟨.placed, .cstart q,
    ⟨va.toNat, g 0, g 1, BitVec.ofNat 64 (g 2), BitVec.ofNat 64 (g 3), g 4, 1, 1, false, bitOf (g 5) 56, bits (g 5) 31 0, g 6, 0⟩,
    .full, c, 4, 0, now, q, 1, 1, 0, 0, false, [], none, false, [], [], false, [], [], []⟩

/-- A read at a home changes only what the home counts. -/
theorem reachHome_eq (s : State) (a ga : Nat) : ∃ R A, reachHome s a ga = { s with regions := R, access := A } := by
  have htouch (s : State) : ∃ A, touch s a ga = { s with access := A } := by
    simp only [touch]
    split
    · exact ⟨_, rfl⟩
    · exact ⟨s.access, rfl⟩
  simp only [reachHome]
  split
  · obtain ⟨A, hA⟩ := htouch (modRegion s (ga / 2 ^ 21)
      (fun x => { x with reads := insAt x.reads (endDie a) (getAt 0 x.reads (endDie a) + 1) }))
    exact ⟨_, A, hA⟩
  · obtain ⟨A, hA⟩ := htouch s
    exact ⟨s.regions, A, hA⟩

theorem unitReads_eq (s : State) (d : Nat) (pas : List Nat) : ∃ R A, unitReads s d pas = { s with regions := R, access := A } := by
  unfold unitReads
  induction pas generalizing s with
  | nil => exact ⟨s.regions, s.access, rfl⟩
  | cons pa pas ih =>
    obtain ⟨R, A, h⟩ := reachHome_eq s (272 + d) pa
    rw [List.foldl_cons, h]
    exact ih { s with regions := R, access := A }

theorem exec_cstart_accepted {s : State} {q : Nat} {va : Word} {c : Ctx} (hopen : hostOpen s = true) (hlock : s.dev.featLock = true)
    (hq : q < 16) (hfree : (tile s (256 + q)).task = none) (halign : va.toNat % 64 = 0) (hva : va.toNat < 2 ^ 38)
    (g : Nat → Nat) (hg : g = fun i => readN s.mem (va.toNat + 8 * i) 8)
    (h5 : bits (g 5) 63 57 = 0) (h5' : bits (g 5) 55 32 = 0) (h7 : g 7 = 0) (hc : ctxAt s (g 1) = some c)
    (hp : diePath s 4 (homeDie va.toNat) = true) (hp' : diePath s 4 (homeDie (g 1)) = true) (s' : State)
    (hs' : s' = unitReads (unitReads s 4 [va.toNat]) 4 [g 1]) :
    exec (.cstart q va) s = .next (startTask (retask (insAt s'.tasks s.nextTask (seqTask q va c s'.now g)) (s.nextTask + 1) s') s.nextTask
      (seqTask q va c s'.now g)) := by
  have hlockeq : lockFeat s = s := if_pos hlock
  obtain ⟨R, A, h1⟩ := unitReads_eq s 4 [va.toNat]
  obtain ⟨R', A', h2⟩ := unitReads_eq { s with regions := R, access := A } 4 [g 1]
  have hctx : ctxRead (unitReads s 4 [va.toNat]) 4 (g 1) = (some c, s') := by
    rw [hs', h1, ctxRead]
    exact (if_pos hp').trans (congrArg (·, _) hc)
  rw [h1, h2] at hs'
  have hnext : s'.nextTask = s.nextTask := by rw [hs']
  have hfree' : tileFree s' (256 + q) = true := by
    rw [hs']
    show (tile s (256 + q)).task.isNone = true
    rw [hfree]
    rfl
  show execCstart q va s = _
  subst hg
  simp only [execCstart, hopen, hlockeq, Bool.not_true, Bool.false_eq_true, if_false, hp, hctx, h5, h5', h7, hfree']
  rw [if_neg (by omega)]
  rw [if_neg (by simp; omega)]
  rw [hnext]
  rfl


/-- The start of a sequencer's task, checked before the task is in the table. -/
theorem cstart_starts {s' : State} {q u : Nat} {va : Word} {c : Ctx} {g : Nat → Nat} {im : Image} (n : Nat)
    (hpre : (tile s' (256 + q)).preload = none) (hread : (readImage s' 4 c (g 0)).2 = .ok im) (hseq : seqHeader im.hdr = true)
    (hglob : (writeGlobals (modTile (readImage s' 4 c (g 0)).1 (256 + q) (loadTile u im none)) 4 c im.secs).2 = none)
    (K : SMap Task) :
    let k := seqTask q va c s'.now g
    let t := startTask (retask K n s') u k
    lookup t.tasks u = some (startedTask k im) ∧ Started t (256 + q) u k.d 0 im := by
  intro k t
  have hread' : readImage (retask K n s') 4 c (g 0) = (retask K n (readImage s' 4 c (g 0)).1, .ok im) := by
    rw [(apartE_readImage 4 c (g 0)).tasks, ← hread]
    rfl
  have hglob' : writeGlobals (modTile (retask K n (readImage s' 4 c (g 0)).1) (256 + q) (loadTile u im none)) 4 c im.secs =
      (retask K n (writeGlobals (modTile (readImage s' 4 c (g 0)).1 (256 + q) (loadTile u im none)) 4 c im.secs).1, none) := by
    rw [← hglob]
    exact (apartE_writeGlobals 4 c im.secs).tasks K n (modTile (readImage s' 4 c (g 0)).1 (256 + q) (loadTile u im none))
  have hkill : im.hdr.killable = false := by
    simp only [seqHeader, Bool.and_eq_true, Bool.not_eq_true'] at hseq
    exact hseq.1.2
  obtain ⟨hk, -, -, htile⟩ := startTask_started (k := k) (data := none) (u := u) hread' hkill (fun _ _ => hseq)
    (fun a ha => by rw [List.mem_singleton.1 ha]; exact hpre) (List.cons_ne_nil (256 + q) [])
    (.inl ⟨rfl, rfl, rfl⟩) hglob' (List.nodup_singleton _)
  obtain ⟨ht, hl⟩ := htile (256 + q) (List.mem_singleton.2 rfl)
  exact ⟨hk, started_of_startTile ht hl.banks⟩

end Sys2Proof.Machine
end

section
/-! PROOFS. Task end (R286, R331, R338, R345, R356). -/

namespace Sys2Proof.Machine

/-! ## What the end of a tile's task leaves -/

/-- Of the part, what decides on tasks and runs is as before. -/
structure PartKept (s t : State) : Prop where
  tasks : t.tasks = s.tasks
  parts : t.parts = s.parts
  runs : t.runs = s.runs
  now : t.now = s.now
  links : t.dev.failedLinks = s.dev.failedLinks

theorem partKept_refl (s : State) : PartKept s s := ⟨rfl, rfl, rfl, rfl, rfl⟩

theorem PartKept.trans {s t u : State} (h : PartKept s t) (k : PartKept t u) : PartKept s u :=
  ⟨k.tasks.trans h.tasks, k.parts.trans h.parts, k.runs.trans h.runs, k.now.trans h.now, k.links.trans h.links⟩

/-- An operation of one tile: the other tiles are as before, too. -/
structure TileOp (a : Nat) (s t : State) : Prop extends PartKept s t where
  others : ∀ b, b ≠ a → tile t b = tile s b

theorem TileOp.trans {a : Nat} {s t u : State} (h : TileOp a s t) (k : TileOp a t u) : TileOp a s u where
  toPartKept := h.toPartKept.trans k.toPartKept
  others b hb := (k.others b hb).trans (h.others b hb)

theorem tileOp_refl (a : Nat) (s : State) : TileOp a s s := ⟨partKept_refl s, fun _ _ => rfl⟩

theorem tileOp_modTile (s : State) (a : Nat) (f : Tile → Tile) : TileOp a s (modTile s a f) :=
  ⟨⟨rfl, rfl, rfl, rfl, rfl⟩, fun _ hb => tile_modTile_ne s f hb⟩

theorem tileOp_of_tiles {s t : State} (h : PartKept s t) (ht : t.tiles = s.tiles) (a : Nat) : TileOp a s t :=
  ⟨h, fun b _ => by rw [tile, ht]; rfl⟩

theorem partKept_writeRecord (s : State) (g : List Nat) : PartKept s (writeRecord s g) := by
  simp only [writeRecord]
  split <;> exact ⟨rfl, rfl, rfl, rfl, rfl⟩

theorem partKept_discarded (s : State) (dev : Nat) : PartKept s (discarded s dev) := by
  simp only [discarded, noRoute, event]
  refine PartKept.trans ?_ (partKept_writeRecord _ _)
  exact ⟨rfl, rfl, rfl, rfl, rfl⟩

theorem partKept_touch (s : State) (a ga : Nat) : PartKept s (touch s a ga) := by
  simp only [touch]
  split <;> exact ⟨rfl, rfl, rfl, rfl, rfl⟩

theorem partKept_collapseLine (s : State) (ga : Nat) : PartKept s (collapseLine s ga) := by
  simp only [collapseLine]
  split
  · split <;> exact ⟨rfl, rfl, rfl, rfl, rfl⟩
  · exact partKept_refl s

theorem partKept_homeLine (s : State) (a line : Nat) : PartKept s (homeLine a s line) := by
  simp only [homeLine]
  split
  · exact partKept_refl s
  · split
    · exact partKept_discarded s _
    · exact (partKept_collapseLine s _).trans (partKept_touch _ a _)

theorem tiles_homeLine (s : State) (a line : Nat) : (homeLine a s line).tiles = s.tiles := by
  simp only [homeLine]
  split
  · rfl
  · split
    · rename_i dev _
      exact tiles_of_graft (f := (discarded · dev)) (fun r s => discarded_graft r s dev) s
    · exact (tiles_of_graft (f := (touch · a (128 * line))) (fun r s => touch_graft r s a (128 * line)) _).trans
        (tiles_of_graft (f := (collapseLine · (128 * line))) (fun r s => collapseLine_graft r s (128 * line)) s)

theorem tileOp_homeLines (a b : Nat) (ls : List Nat) (s : State) : TileOp b s (ls.foldl (homeLine a) s) := by
  induction ls generalizing s with
  | nil => exact tileOp_refl b s
  | cons l ls ih => exact (tileOp_of_tiles (partKept_homeLine s a l) (tiles_homeLine s a l) b).trans (ih _)

theorem tileOp_raiseLostBytes (s : State) (a : Nat) (bs : SMap Byte) : TileOp a s (raiseLostBytes s a bs) := by
  simp only [raiseLostBytes, raiseAsync, modCore]
  split
  · have hd : TileOp a s (draw s).2 := ⟨⟨rfl, rfl, rfl, rfl, rfl⟩, fun _ _ => rfl⟩
    exact hd.trans (tileOp_modTile (draw s).2 a _)
  · exact tileOp_refl a s

theorem tileOp_homeWriteAll (s : State) (a : Nat) (bs : SMap Byte) : TileOp a s (homeWriteAll s a bs) :=
  ((tileOp_raiseLostBytes s a bs).trans (tileOp_homeLines a a (linesOf bs) _)).trans ⟨⟨rfl, rfl, rfl, rfl, rfl⟩, fun _ _ => rfl⟩

theorem TileOp.memPoison {a : Nat} {s t : State} (h : TileOp a s t) (p : List Nat) : TileOp a s { t with memPoison := p } :=
  ⟨⟨h.tasks, h.parts, h.runs, h.now, h.links⟩, h.others⟩

theorem tileOp_sharePoison (s : State) (a : Nat) (bs : SMap Byte) : TileOp a s (sharePoison s a bs) := by
  unfold sharePoison
  exact TileOp.memPoison (tileOp_modTile s a _) _

theorem tileOp_publish (s : State) (a : Nat) : TileOp a s (publish s a) :=
  ((tileOp_homeWriteAll s a _).trans (tileOp_modTile _ a _)).trans (tileOp_sharePoison _ a _)

theorem tileOp_writeBack (s : State) (a : Nat) : TileOp a s (writeBack s a) :=
  ((tileOp_homeWriteAll s a _).trans (tileOp_modTile _ a _)).trans (tileOp_sharePoison _ a _)

theorem tileOp_endTile (k : Task) (s : State) (a : Nat) : TileOp a s (endTile k s a) := by
  have hlast (s : State) (f : Tile → Tile) : TileOp a s (modTile (leaveCollapses (writeBack s a) a k.ctx) a f) := by
    have hleave : TileOp a (writeBack s a) (leaveCollapses (writeBack s a) a k.ctx) := ⟨⟨rfl, rfl, rfl, rfl, rfl⟩, fun _ _ => rfl⟩
    exact ((tileOp_writeBack s a).trans hleave).trans (tileOp_modTile _ a f)
  simp only [endTile]
  split
  · exact ((tileOp_publish s a).trans (tileOp_modTile _ a _)).trans (hlast _ _)
  · exact hlast s _

theorem dirty_sharePoison (s : State) (a : Nat) (bs : SMap Byte) : (core (sharePoison s a bs) a).dirty = (core s a).dirty := by
  have h : core (sharePoison s a bs) a = core (modCore s a (fun c => { c with
      ownPoison := c.ownPoison.filter (fun g => !lies bs g || lies c.unpub g || lies c.recUnpub g || lies c.dirty g) })) a := rfl
  rw [h, core_modCore_self]

/-- After a write-back no dirty byte is left. -/
theorem dirty_writeBack (s : State) (a : Nat) : (core (writeBack s a) a).dirty = [] := by
  rw [writeBack, writeBackIf, dirty_sharePoison, core_modCore_self]
  simp [dropLinesOf]

/-- What the end of a task leaves of its tile (R338). -/
structure Vacated (ctx : Nat) (x : Tile) : Prop where
  task : x.task = none
  run : x.core.run = .idle
  slots : x.reed.slots = []
  well : x.reed.well = []
  dirty : x.core.dirty = []
  lastCtx : x.lastCtx = ctx

theorem vacated_endTile (k : Task) (s : State) (a : Nat) : Vacated k.ctx.id (tile (endTile k s a) a) := by
  have hlast (s : State) : Vacated k.ctx.id (tile (modTile (leaveCollapses (writeBack s a) a k.ctx) a (fun x => { x with
      task := none
      lastCtx := k.ctx.id
      core := { x.core with run := .idle, wait := .none }
      reed := { x.reed with slots := [], well := [], counted := [], change := none }
      stepOpen := none
      bars := []
      arrived := []
      killAt := none
      preemptAt := none
      stalled := 0
      reported := false })) a) := by
    rw [tile_modTile_self]
    exact ⟨rfl, rfl, rfl, rfl, dirty_writeBack s a, rfl⟩
  simp only [endTile]
  exact hlast _

theorem endTiles {k : Task} (l : List Nat) (s : State) : PartKept s (l.foldl (endTile k) s) ∧
    (∀ b, b ∉ l → tile (l.foldl (endTile k) s) b = tile s b) ∧ ∀ a ∈ l, Vacated k.ctx.id (tile (l.foldl (endTile k) s) a) := by
  induction l generalizing s with
  | nil => exact ⟨partKept_refl s, fun _ _ => rfl, fun _ h => nomatch h⟩
  | cons a l ih =>
    obtain ⟨hpart, hout, hin⟩ := ih (endTile k s a)
    have h1 := tileOp_endTile k s a
    refine ⟨h1.toPartKept.trans hpart, fun b hb => ?_, fun b hb => ?_⟩
    · rw [List.mem_cons, not_or] at hb
      exact (hout b hb.2).trans (h1.others b hb.1)
    · by_cases hl : b ∈ l
      · exact hin b hl
      · have hba := (List.mem_cons.1 hb).resolve_right hl
        rw [List.foldl_cons, hout b hl, hba]
        exact vacated_endTile k s a

/-! ## What the end of a task does beyond its tiles -/

/-- A tile without its TLBs and its preload. -/
def stripped (t : Tile) : Tile := { bare t with preload := none }

/-- A task is over. -/
def Over (s : State) (u : Nat) : Prop := ∃ k, lookup s.tasks u = some k ∧ k.state = .ended

/-- Of the tiles only TLBs and preloads may differ, and a task that is over stays so. -/
structure Finishing (u : Nat) (s t : State) : Prop where
  tiles : ∀ a, stripped (tile t a) = stripped (tile s a)
  staysOver : Over s u → Over t u

theorem Finishing.trans {u : Nat} {s t v : State} (h : Finishing u s t) (k : Finishing u t v) : Finishing u s v :=
  ⟨fun a => (k.tiles a).trans (h.tiles a), fun x => k.staysOver (h.staysOver x)⟩

theorem finishing_refl (u : Nat) (s : State) : Finishing u s s := ⟨fun _ => rfl, fun h => h⟩

theorem finishing_of_tasks {u : Nat} {s t : State} (ht : t.tiles = s.tiles) (hk : t.tasks = s.tasks) : Finishing u s t :=
  ⟨fun a => by rw [tile, ht]; rfl, fun h => by unfold Over; rw [hk]; exact h⟩

theorem Apart.finishing {f : State → State} (h : Apart f) (u : Nat) (s : State) : Finishing u s (f s) :=
  ⟨fun a => congrArg (fun t => { t with preload := none }) ((h.tiles s).bare a), fun x => by unfold Over; rw [h.tasks_eq]; exact x⟩

theorem lookup_map {α : Type} (f : Nat × α → α) (g : α → α) (hfg : ∀ e, f e = g e.2) (m : SMap α) (i : Nat) :
    lookup (m.map (fun e => (e.1, f e))) i = (lookup m i).map g := by
  induction m with
  | nil => rfl
  | cons e m ih =>
    obtain ⟨k, v⟩ := e
    rw [List.map_cons, lookup, lookup, hfg]
    split
    · rfl
    · exact ih

/-- A tile with the preload dropped, if the task it was made for is among those given. -/
def withoutPreload (p : Nat → Bool) (t : Tile) : Tile :=
  match t.preload with | some q => if p q.u then { t with preload := none } else t | none => t

theorem tile_dropPreloads (s : State) (p : Nat → Bool) (a : Nat) : tile (dropPreloads s p) a = withoutPreload p (tile s a) := by
  have h := lookup_map (fun e => withoutPreload p e.2) (withoutPreload p) (fun _ => rfl) s.tiles a
  have h' : lookup (dropPreloads s p).tiles a = (lookup s.tiles a).map (withoutPreload p) := h
  rw [tile, h', tile]
  cases lookup s.tiles a <;> rfl

theorem stripped_withoutPreload (p : Nat → Bool) (t : Tile) : stripped (withoutPreload p t) = stripped t := by
  unfold withoutPreload
  split
  · split <;> rfl
  · rfl

theorem finishing_dropPreloads (u : Nat) (s : State) (p : Nat → Bool) : Finishing u s (dropPreloads s p) :=
  ⟨fun a => by rw [tile_dropPreloads, stripped_withoutPreload], fun h => h⟩

theorem finishing_putTask {u v : Nat} {s : State} {k : Task} (h : k.state = .ended) : Finishing u s (putTask s v k) := by
  refine ⟨fun _ => rfl, fun ⟨k', hk', he⟩ => ?_⟩
  by_cases hu : u = v
  · exact ⟨k, by rw [hu]; exact lookup_insAt_self .., h⟩
  · exact ⟨k', by rw [← hk']; exact lookup_insAt_ne _ _ hu, he⟩

theorem finishing_modTask_ended (u v : Nat) (s : State) : Finishing u s (modTask s v (fun k => { k with state := .ended })) := by
  unfold modTask
  split
  · exact finishing_putTask rfl
  · exact finishing_refl u s

theorem finishing_event (u : Nat) (s : State) (type cause d t ctx g1 g2 g3 g4 g6 g7 : Nat) :
    Finishing u s (event s type cause d t ctx g1 g2 g3 g4 g6 g7) := (apart_event type cause d t ctx g1 g2 g3 g4 g6 g7).finishing u s

theorem finishing_removeTask (u v : Nat) (s : State) : Finishing u s (removeTask s v) := by
  unfold removeTask
  split
  · exact finishing_refl u s
  · rename_i k _
    obtain ⟨D, hD⟩ := unblockQueue_eq (modTask s v (fun k => { k with state := .ended })) k
    rw [hD]
    have hunblock : Finishing u (modTask s v (fun k => { k with state := .ended }))
      { modTask s v (fun k => { k with state := .ended }) with dies := D } := finishing_of_tasks rfl rfl
    exact (((finishing_modTask_ended u v s).trans hunblock).trans ((apart_incDone k).finishing u _)).trans (finishing_dropPreloads u _ _)

theorem Finishing.foldl {β : Type} {u : Nat} {f : State → β → State} (h : ∀ s b, Finishing u s (f s b)) (l : List β) (s : State) :
    Finishing u s (l.foldl f s) := by
  induction l generalizing s with
  | nil => exact finishing_refl u s
  | cons b l ih => exact (h s b).trans (ih _)

theorem finishing_strand (u : Nat) (s : State) (d gid : Nat) : Finishing u s (strand s d gid) := by
  unfold strand
  split
  · exact finishing_refl u s
  · have hrun (r : GraphRun → GraphRun) : Finishing u s (modRun s gid r) := finishing_of_tasks rfl rfl
    exact ((hrun _).trans (Finishing.foldl (fun s _ => (finishing_event ..).trans (finishing_removeTask ..)) _ _)).trans
      (finishing_dropPreloads ..)

theorem finishing_abnormal (u : Nat) (s : State) (k : Task) (cause info : Nat) : Finishing u s (abnormal s k cause info) := by
  unfold abnormal
  cases k.origin with
  | node d gid n r =>
    simp only
    split
    · exact finishing_event ..
    · exact (finishing_event ..).trans (finishing_strand ..)
  | _ => exact finishing_event ..

theorem arriveSuccs_eq (s : State) (d gid n : Nat) : ∃ P, arriveSuccs s d gid n = { s with parts := P } := by
  have hnode (s : State) (e m : Nat) (f : Node → Node) : ∃ P, modNode s e gid m f = { s with parts := P } := by
    unfold modNode
    split
    · exact ⟨s.parts, rfl⟩
    · split
      · exact ⟨s.parts, rfl⟩
      · exact ⟨_, rfl⟩
  have hfold (l : List (Nat × Nat)) (f : Node → Node) (s : State) :
      ∃ P, l.foldl (fun s e => modNode s e.1 gid e.2 f) s = { s with parts := P } := by
    induction l generalizing s with
    | nil => exact ⟨s.parts, rfl⟩
    | cons e l ih =>
      obtain ⟨P, hP⟩ := hnode s e.1 e.2 f
      rw [List.foldl_cons, hP]
      exact ih { s with parts := P }
  unfold arriveSuccs
  split
  · exact ⟨s.parts, rfl⟩
  · split
    · exact ⟨s.parts, rfl⟩
    · exact hfold _ _ s

theorem finishing_arriveSuccs (u : Nat) (s : State) (d gid n : Nat) : Finishing u s (arriveSuccs s d gid n) := by
  obtain ⟨P, h⟩ := arriveSuccs_eq s d gid n
  rw [h]
  exact finishing_of_tasks rfl rfl

/-- The task as it ends, and as a kill makes it ready again. -/
def endedTask (k : Task) : Task := { k with state := .ended, saved := [], slots := [] }

def readyAgain (k : Task) (now : Nat) : Task :=
  { k with
    state := .ready, since := now, killed := none, overrun := false, counted := 0, begun := false, saved := [], slots := [], exitAt := [] }

/-- A killed task under RESTART starts again, but in a stranded run (R338, R356). -/
def startsAgain (s : State) (k : Task) : Bool :=
  match k.killed with
  | some (_, .kill) => k.d.restart && !(match k.origin with | .node _ gid _ _ => (runOf s gid).phase == .stranded | _ => false)
  | _ => false

theorem finishTask_again {s : State} {u : Nat} {k : Task} (h : startsAgain s k = true) (hlate : straggler s k = false) :
    finishTask s u k = putTask s u (readyAgain k s.now) :=
  if_pos ⟨h, by rw [hlate]; rfl⟩

/-- A task that does not start again is over. -/
theorem finishTask_over {s : State} {u : Nat} {k : Task} (h : ¬(startsAgain s k = true ∧ straggler s k = false)) :
    Finishing u (putTask s u (endedTask k)) (finishTask s u k) := by
  have hinc : Finishing u (putTask s u (endedTask k)) (incDone (putTask s u (endedTask k)) k) := (apart_incDone k).finishing u _
  have hif : finishTask s u k =
      match k.killed with
      | some (_, .close) => incDone (putTask s u (endedTask k)) k
      | some (c, _) =>
        if startsAgain s k then incDone (putTask s u (endedTask k)) k
        else abnormal (incDone (putTask s u (endedTask k)) k) k c 0
      | none => match k.origin with
        | .node d gid n _ => arriveSuccs (incDone (putTask s u (endedTask k)) k) d gid n
        | _ => incDone (putTask s u (endedTask k)) k :=
    if_neg fun ⟨h1, h2⟩ => h ⟨h1, by simpa using h2⟩
  rw [hif]
  cases k.killed with
  | none =>
    cases k.origin with
    | node d gid n r => exact hinc.trans (finishing_arriveSuccs ..)
    | _ => exact hinc
  | some e =>
    obtain ⟨c, _ | _ | _⟩ := e
    case close => exact hinc
    all_goals
      simp only
      split
      · exact hinc
      · exact hinc.trans (finishing_abnormal ..)

theorem over_putTask (s : State) (u : Nat) (k : Task) : Over (putTask s u (endedTask k)) u := ⟨_, lookup_insAt_self .., rfl⟩

theorem stripped_finishTask (s : State) (u : Nat) (k : Task) (a : Nat) : stripped (tile (finishTask s u k) a) = stripped (tile s a) := by
  by_cases h : startsAgain s k = true ∧ straggler s k = false
  · rw [finishTask_again h.1 h.2]
    rfl
  · exact (finishTask_over h).tiles a

/-- A task that ends normally, with no increment to make, arrives at its successors. -/
theorem finishTask_arrives {s : State} {u : Nat} {k : Task} {d gid n r : Nat} (ho : k.origin = .node d gid n r) (hk : k.killed = none)
    (hd : k.d.done = 0) : finishTask s u k = arriveSuccs (putTask s u (endedTask k)) d gid n := by
  unfold finishTask incDone
  simp only [hk, ho, hd, endedTask, if_true, Bool.false_eq_true, false_and, if_false]

/-! ## Arrivals -/

theorem nodeAt_modNode (s : State) (e1 m1 gid e m : Nat) (f : Node → Node) :
    nodeAt (modNode s e1 gid m1 f) e gid m = if (e, m) = (e1, m1) then (nodeAt s e gid m).map f else nodeAt s e gid m := by
  have hkey : partKey e gid = partKey e1 gid ↔ e = e1 := by unfold partKey; omega
  have hother (P : Part) (he : e ≠ e1) : part { s with parts := insAt s.parts (partKey e1 gid) P } e gid = part s e gid :=
    lookup_insAt_ne _ _ (mt hkey.1 he)
  have hself (P : Part) : part { s with parts := insAt s.parts (partKey e1 gid) P } e1 gid = some P := lookup_insAt_self ..
  unfold modNode
  by_cases he : e = e1
  · subst he
    cases hp : part s e gid with
    | none => simp [nodeAt, hp]
    | some p =>
      simp only
      by_cases hm : m = m1
      · subst hm
        cases hx : lookup p.nodes m with
        | none => simp [nodeAt, hp, hx]
        | some x => simp [nodeAt, hself, hp, hx, lookup_insAt_self]
      · cases hx : lookup p.nodes m1 with
        | none => simp [hm]
        | some x => simp [nodeAt, hself, hp, hm, lookup_insAt_ne _ _ hm]
  · have hne : (e, m) ≠ (e1, m1) := fun h => he (congrArg Prod.fst h)
    rw [if_neg hne]
    split
    · rfl
    · split
      · rfl
      · rw [nodeAt, hother _ he, nodeAt]

theorem nodeAt_arrivals (gid : Nat) (l : List (Nat × Nat)) {s : State} {e m : Nat} {y : Node} (h : nodeAt s e gid m = some y) :
    nodeAt (l.foldl (fun s e => modNode s e.1 gid e.2 (fun y => { y with arrivals := y.arrivals + 1 })) s) e gid m =
      some { y with arrivals := y.arrivals + l.count (e, m) } := by
  induction l generalizing s y with
  | nil => exact h
  | cons x l ih =>
    have h1 := nodeAt_modNode s x.1 x.2 gid e m (fun y => { y with arrivals := y.arrivals + 1 })
    rw [h] at h1
    rw [List.foldl_cons]
    by_cases hx : (e, m) = x
    · rw [if_pos hx] at h1
      rw [ih h1, List.count_cons, ← hx]
      simp [Nat.add_assoc, Nat.add_comm]
    · rw [if_neg hx] at h1
      rw [ih h1, List.count_cons_of_ne (Ne.symm hx)]


/-- A node's arrivals at its successors (R331); at a die that no path reaches none comes. -/
theorem nodeAt_arriveSuccs {s : State} {d gid n : Nat} {p : Part} {x : Node} (hp : part s d gid = some p) (hx : lookup p.nodes n = some x)
    {e m : Nat} {y : Node} (hy : nodeAt s e gid m = some y) : nodeAt (arriveSuccs s d gid n) e gid m =
      some { y with arrivals := y.arrivals + (if diePath s d e then (succs p x).count (e, m) else 0) } := by
  unfold arriveSuccs
  simp only [hp, hx]
  rw [nodeAt_arrivals gid _ hy]
  by_cases hd : diePath s d e = true
  · rw [List.count_filter (p := fun q => diePath s d q.1) (a := (e, m)) hd, if_pos hd]
  · rw [if_neg hd, List.count_eq_zero.2]
    intro h
    exact hd (List.mem_filter.1 h).2

/-! ## A tile's write-back -/

theorem unroutedAt_line (s : State) (x : Nat) : unroutedAt s (128 * (x / 128)) = unroutedAt s x := by
  have h : peerOf (128 * (x / 128)) = peerOf x := by
    unfold peerOf
    have h1 : 2 ^ 53 ≤ 128 * (x / 128) ↔ 2 ^ 53 ≤ x := by omega
    have h2 : 128 * (x / 128) / 2 ^ 53 = x / 2 ^ 53 := by omega
    simp only [h1, h2]
  rw [unroutedAt, h, unroutedAt]

theorem mem_linesOf {bs : SMap Byte} {l : Nat} (h : l ∈ linesOf bs) : ∃ e ∈ bs, l = e.1 / 128 := by
  induction bs using linesOf.induct with
  | case1 => cases h
  | case2 a y => exact ⟨(a, y), List.mem_singleton.2 rfl, List.mem_singleton.1 h⟩
  | case3 a y b z m hab ih =>
    rw [linesOf, if_pos hab] at h
    obtain ⟨e, he, hl⟩ := ih h
    exact ⟨e, List.mem_cons_of_mem _ he, hl⟩
  | case4 a y b z m hab ih =>
    rw [linesOf, if_neg hab] at h
    obtain rfl | h := List.mem_cons.1 h
    · exact ⟨(a, y), List.mem_cons_self .., rfl⟩
    · obtain ⟨e, he, hl⟩ := ih h
      exact ⟨e, List.mem_cons_of_mem _ he, hl⟩

/-- A line that no peer discards leaves memory, and the device, as they are. -/
theorem homeLine_routed {s : State} {l : Nat} (a : Nat) (h : unroutedAt s (128 * l) = none) :
    (homeLine a s l).mem = s.mem ∧ (homeLine a s l).dev = s.dev := by
  have htouch (s : State) : (touch s a (128 * l)).mem = s.mem ∧ (touch s a (128 * l)).dev = s.dev := by
    simp only [touch]
    split <;> exact ⟨rfl, rfl⟩
  have hcollapse : (collapseLine s (128 * l)).mem = s.mem ∧ (collapseLine s (128 * l)).dev = s.dev := by
    simp only [collapseLine]
    split
    · split <;> exact ⟨rfl, rfl⟩
    · exact ⟨rfl, rfl⟩
  simp only [homeLine, h]
  split
  · exact ⟨rfl, rfl⟩
  · exact ⟨(htouch _).1.trans hcollapse.1, (htouch _).2.trans hcollapse.2⟩

theorem mem_homeLines {ls : List Nat} {s : State} (a : Nat) (h : ∀ l ∈ ls, unroutedAt s (128 * l) = none) :
    (ls.foldl (homeLine a) s).mem = s.mem := by
  induction ls generalizing s with
  | nil => rfl
  | cons l ls ih =>
    obtain ⟨hm, hdev⟩ := homeLine_routed a (h l (List.mem_cons_self ..))
    have hroute : unroutedAt (homeLine a s l) = unroutedAt s := by
      unfold unroutedAt routed sameDomain feature
      rw [hdev]
    rw [List.foldl_cons, ih (fun l' hl' => by rw [hroute]; exact h l' (List.mem_cons_of_mem _ hl')), hm]

theorem mem_writeBack {s : State} {a : Nat} (h : ∀ e ∈ (core s a).dirty, lostAt s a e.1 = false ∧ unroutedAt s e.1 = none) :
    (writeBack s a).mem = (core s a).dirty.foldl (fun m e => setB m e.1 e.2) s.mem := by
  have hall : (core s a).dirty.filter (fun _ => true) = (core s a).dirty := by simp
  have hlost : raiseLostBytes s a (core s a).dirty = s := if_neg (by simpa using fun x y hxy => (h (x, y) hxy).1)
  have harrive : (core s a).dirty.filter (fun e => arrives s a e.1) = (core s a).dirty :=
    List.filter_eq_self.2 fun e he => by rw [arrives, (h e he).1, (h e he).2]; rfl
  have hlines : ((linesOf (core s a).dirty).foldl (homeLine a) s).mem = s.mem := by
    refine mem_homeLines a fun l hl => ?_
    obtain ⟨e, he, rfl⟩ := mem_linesOf hl
    rw [unroutedAt_line, (h e he).2]
  have hwrite : (homeWriteAll s a (core s a).dirty).mem = (core s a).dirty.foldl (fun m e => setB m e.1 e.2) s.mem := by
    simp only [homeWriteAll, answerWaits, hlost, harrive, hlines]
  have hback : (writeBack s a).mem = (homeWriteAll s a ((core s a).dirty.filter (fun _ => true))).mem := rfl
  rw [hback, hall, hwrite]

theorem getB_foldl_setB_notMem {bs : SMap Byte} {x : Nat} (h : x ∉ bs.map (·.1)) (m : Mem) :
    getB (bs.foldl (fun m e => setB m e.1 e.2) m) x = getB m x := by
  induction bs generalizing m with
  | nil => rfl
  | cons e bs ih =>
    rw [List.map_cons, List.mem_cons, not_or] at h
    rw [List.foldl_cons, ih h.2, getB_setB_ne _ _ h.1]

theorem lookup_eq_none_iff {α : Type} (m : SMap α) (x : Nat) : lookup m x = none ↔ x ∉ m.map (·.1) := by
  induction m with
  | nil => simp [lookup]
  | cons e m ih =>
    obtain ⟨k, v⟩ := e
    rw [lookup, List.map_cons, List.mem_cons, not_or]
    split
    · simp_all
    · simp_all

theorem lookup_of_mem {α : Type} {m : SMap α} (hnd : (m.map (·.1)).Nodup) {x : Nat} {y : α} (h : (x, y) ∈ m) : lookup m x = some y := by
  induction m with
  | nil => cases h
  | cons e m ih =>
    obtain ⟨k, v⟩ := e
    rw [List.map_cons, List.nodup_cons] at hnd
    rw [lookup]
    obtain hx | hm := List.mem_cons.1 h
    · cases hx
      exact if_pos rfl
    · rw [if_neg, ih hnd.2 hm]
      rintro rfl
      exact hnd.1 (List.mem_map.2 ⟨_, hm, rfl⟩)

theorem getB_foldl_setB {bs : SMap Byte} (hnd : (bs.map (·.1)).Nodup) {x : Nat} {y : Byte} (h : lookup bs x = some y) (m : Mem) :
    getB (bs.foldl (fun m e => setB m e.1 e.2) m) x = y := by
  induction bs generalizing m with
  | nil => cases h
  | cons e bs ih =>
    obtain ⟨k, v⟩ := e
    rw [List.map_cons, List.nodup_cons] at hnd
    rw [lookup] at h
    rw [List.foldl_cons]
    split at h
    · rename_i hx
      cases h
      rw [getB_foldl_setB_notMem (by rw [hx]; exact hnd.1), hx, getB_setB_self]
    · exact ih hnd.2 h _

/-! ## The end of a task -/

theorem exec_taskEnd {s : State} {u : Nat} {k : Task} (hk : lookup s.tasks u = some k) (hrun : k.state = .running)
    (hdone : ∀ a ∈ gangOf k, tileDone s a = true) :
    exec (.taskEnd u) s = .next (finishTask ((gangOf k).foldl (endTile k) s) u k) := by
  show execTaskEnd u s = _
  rw [execTaskEnd, hk]
  exact if_pos ⟨hrun, List.all_eq_true.2 hdone⟩

/-- Whether a task is late depends on the parts and the time alone. -/
theorem PartKept.straggler_eq {s t : State} (h : PartKept s t) (k : Task) : straggler t k = straggler s k := by
  have hs : straggler s k = straggler { t with parts := s.parts, now := s.now } k := rfl
  rw [hs, ← h.parts, ← h.now]

theorem PartKept.startsAgain_eq {s t : State} (h : PartKept s t) (k : Task) : startsAgain t k = startsAgain s k := by
  have hs : startsAgain s k = startsAgain { t with runs := s.runs } k := rfl
  rw [hs, ← h.runs]

theorem Vacated.of_stripped {ctx : Nat} {x y : Tile} (h : Vacated ctx x) (hxy : stripped y = stripped x) : Vacated ctx y where
  task := (congrArg Tile.task hxy : (stripped y).task = (stripped x).task).trans h.task
  run := (congrArg (·.core.run) hxy : (stripped y).core.run = (stripped x).core.run).trans h.run
  slots := (congrArg (·.reed.slots) hxy : (stripped y).reed.slots = (stripped x).reed.slots).trans h.slots
  well := (congrArg (·.reed.well) hxy : (stripped y).reed.well = (stripped x).reed.well).trans h.well
  dirty := (congrArg (·.core.dirty) hxy : (stripped y).core.dirty = (stripped x).core.dirty).trans h.dirty
  lastCtx := (congrArg Tile.lastCtx hxy : (stripped y).lastCtx = (stripped x).lastCtx).trans h.lastCtx

/-- The tiles of a task that has ended (R338). -/
theorem vacated_finishTask {s : State} {u a : Nat} {k : Task} (ha : a ∈ gangOf k) :
    Vacated k.ctx.id (tile (finishTask ((gangOf k).foldl (endTile k) s) u k) a) :=
  ((endTiles (gangOf k) s).2.2 a ha).of_stripped (stripped_finishTask ..)

/-- Memory after the end of a task of one tile, which has exited (R286, R338). -/
theorem mem_endTile {s : State} {a : Nat} (k : Task) (hrun : (core s a).run = .exited)
    (h : ∀ e ∈ (core s a).dirty, lostAt s a e.1 = false ∧ unroutedAt s e.1 = none) :
    (endTile k s a).mem = (core s a).dirty.foldl (fun m e => setB m e.1 e.2) s.mem := by
  have hif : ¬((core s a).run = .ending ∧ (!k.hdr.killable) = true) := by rw [hrun]; rintro ⟨h, -⟩; cases h
  rw [← mem_writeBack h]
  simp only [endTile, if_neg hif]
  rfl

theorem tile_unitReads (s : State) (d : Nat) (pas : List Nat) (a : Nat) : tile (unitReads s d pas) a = tile s a := by
  obtain ⟨R, A, h⟩ := unitReads_eq s d pas
  rw [h]
  rfl

theorem PartKept.part_eq {s t : State} (h : PartKept s t) (d gid : Nat) : part t d gid = part s d gid := by rw [part, h.parts, part]

theorem PartKept.nodeAt_eq {s t : State} (h : PartKept s t) (d gid n : Nat) : nodeAt t d gid n = nodeAt s d gid n := by
  rw [nodeAt, h.part_eq, nodeAt]

theorem PartKept.diePath_eq {s t : State} (h : PartKept s t) (d e : Nat) : diePath t d e = diePath s d e := by
  rw [diePath, pathLinks, h.links, diePath, pathLinks]

theorem startsAgain_of_kill {s : State} {k : Task} {c : Nat} (hkilled : k.killed = some (c, .kill)) (hrestart : k.d.restart = true)
    (hphase : ∀ d gid n r, k.origin = .node d gid n r → (runOf s gid).phase ≠ .stranded) : startsAgain s k = true := by
  simp only [startsAgain, hkilled, hrestart, Bool.true_and]
  cases ho : k.origin with
  | node d gid n r => simpa using hphase d gid n r ho
  | _ => rfl

/-- What a task that ends normally does beyond its tiles, with no increment to make, leaves memory. -/
theorem mem_finishTask {s : State} {u : Nat} {k : Task} (hk : k.killed = none) (hd : k.d.done = 0) : (finishTask s u k).mem = s.mem := by
  cases ho : k.origin with
  | node d gid n r =>
    obtain ⟨P, h⟩ := arriveSuccs_eq (putTask s u (endedTask k)) d gid n
    rw [finishTask_arrives ho hk hd, h]
    rfl
  | _ =>
    simp only [finishTask, incDone, hk, hd, ho, if_true, Bool.false_eq_true, false_and, if_false]
    rfl

/-- Settles O47: a start is `startTask` with its checks passed; CSTART's is the same, its checks made before the task is in the table;
an end is `endTile` on each tile, then `finishTask`. -/
theorem tasksStartAndEnd : Obligations.TasksStartAndEnd := by
  unfold Obligations.TasksStartAndEnd
  refine ⟨?start, ?straggles, ?cstart, ?ends⟩
  case start =>
    intro s s1 s2 s3 u k im data hk hplaced hlate hfree hnoseq hnd hne hread hkill hdata hglob
    obtain ⟨htask, hmem, hout, hin⟩ := startTask_started (u := u) hread hkill (fun q hq => absurd hq (hnoseq q))
      (fun a ha => (hfree a ha).2) hne hdata hglob hnd
    refine ⟨_, exec_taskStart_placed hk hplaced ((straggler_eq_false_iff s k).2 hlate) fun a ha => (hfree a ha).1,
      ⟨_, htask, rfl, rfl, rfl, rfl, rfl, rfl⟩, fun a ha => ?_, hout, hmem, fun a ha hs x => ?_⟩
    · obtain ⟨ht, hl⟩ := hin a ha
      exact started_of_startTile ht hl.banks
    · obtain ⟨ht, hl⟩ := hin a ha
      have hpad := getB_pad_startTile hl hs u (startedTask k im) x
      have hy := hl.pad
      rw [hs] at hy
      rw [ht, hpad]
      refine ⟨fun m hm hlo hhi => ?_, fun hm hctx => ?_, fun hctx hx hout => ?_⟩
      · rw [if_neg (by omega), hy, hm]
        exact (getB_paste ..).trans (if_pos ⟨hlo, hhi⟩)
      · rw [if_neg (fun h => h.1 hctx), hy, hm]
        rfl
      · exact if_pos ⟨hctx, hx, by omega⟩
  case straggles => exact fun s u k hk hlate => exec_taskStart_straggler hk ((straggler_iff s k).2 hlate)
  case cstart =>
    intro s q va c im hopen hlock hq hfree hpre g halign hva h5 h5' h7 hc hp hp' s' hread hseq hglob
    have hexec := exec_cstart_accepted hopen hlock hq hfree halign hva g rfl h5 h5' h7 hc hp hp' s' rfl
    have hpre' : (tile s' (256 + q)).preload = none := by
      rw [tile_unitReads, tile_unitReads, hpre]
    obtain ⟨htask, hstarted⟩ := cstart_starts (u := s.nextTask) (va := va) (s.nextTask + 1) hpre' hread hseq hglob _
    exact ⟨_, _, hexec, htask, rfl, rfl, rfl, rfl, rfl, hstarted⟩
  case ends =>
    intro s u k hk hrun hdone
    obtain ⟨hpart, -, -⟩ := endTiles (k := k) (gangOf k) s
    have hlate := hpart.straggler_eq k
    have hagain := hpart.startsAgain_eq k
    refine ⟨_, exec_taskEnd hk hrun hdone, fun a ha => ?tiles, ?node, ?kill, ?abandoned, ?memory⟩
    case tiles =>
      obtain ⟨h1, h2, h3, h4, h5, h6⟩ := vacated_finishTask (s := s) (u := u) ha
      exact ⟨h1, h2, h3, h4, h5, h6⟩
    case node =>
      intro d gid n r p x ho hnone hd hp hx
      rw [finishTask_arrives ho hnone hd]
      generalize (gangOf k).foldl (endTile k) s = s' at *
      constructor
      · obtain ⟨P, h⟩ := arriveSuccs_eq (putTask s' u (endedTask k)) d gid n
        rw [h]
        exact lookup_insAt_self ..
      · intro e m y hy
        have h := nodeAt_arriveSuccs (s := putTask s' u (endedTask k)) ((hpart.part_eq d gid).trans hp) hx
          ((hpart.nodeAt_eq e gid m).trans hy)
        rw [h, show diePath (putTask s' u (endedTask k)) d e = diePath s' d e from rfl, hpart.diePath_eq]
    case kill =>
      intro c hkilled hrestart hkillable hphase
      have hs := startsAgain_of_kill hkilled hrestart hphase
      constructor
      · intro h
        refine (finishTask_over fun h' => ?_).staysOver (over_putTask ..)
        rw [hlate, (straggler_iff s k).2 h] at h'
        exact absurd h'.2 (by decide)
      · intro h
        rw [finishTask_again (hagain.trans hs) (hlate.trans ((straggler_eq_false_iff s k).2 h)), hpart.now]
        exact lookup_insAt_self ..
    case abandoned =>
      intro c hkilled
      refine (finishTask_over fun h => ?_).staysOver (over_putTask ..)
      simp [startsAgain, hkilled] at h
    case memory =>
      intro a ha hexit hnd hnone hd hok
      rw [mem_finishTask hnone hd, ha]
      have hmem := mem_endTile k hexit fun e he => hok e.1 e.2 (lookup_of_mem hnd he)
      rw [List.foldl_cons, List.foldl_nil, hmem]
      exact ⟨fun x y hxy => getB_foldl_setB hnd hxy _, fun x hx => getB_foldl_setB_notMem ((lookup_eq_none_iff _ x).1 hx) _⟩

end Sys2Proof.Machine
end

section
/-! PROOFS. The scalar register file and the integer, logic, bit-field, immediate and predicate words (R89, R93 to R98). -/

namespace Sys2Proof.Machine

/-! ## Predicates (R89) -/

/-- A predicate read after it is written; p0 reads as true. -/
theorem rdP_wrP_self (p : Fin 8) (x : Bool) (c : Core) : rdP (wrP p x c) p = if p = 0 then true else x := by
  have hp := p.isLt
  unfold rdP wrP
  split
  · rfl
  · cases x <;> simp [hp]

/-- Settles O1: the registers are maps, each read back after its own write and kept by every other. -/
theorem scalarRegisterFile : Obligations.ScalarRegisterFile := by
  unfold Obligations.ScalarRegisterFile
  intro c r q x p b
  refine ⟨rfl, rfl, rfl, rfl, fun hr => ?_, rdS_wrS_ne x c, fun hp => ?_, fun _ => rdP_wrP_ne b c, rdS_wrP p b c, rdP_wrS r x c⟩
  · rw [rdS_wrS_self, if_neg hr]
  · rw [rdP_wrP_self, if_neg hp]

/-! ## A word that issues writes what its operation computes -/

/-- A register word writes the value that its operation computes from the core. -/
theorem yields_wordOp {i : Instr} {s : State} {srcs : List Nat} {d : Nat} {g : Guard} {f : Core → Word} {v : Word}
    (hi : exec i s = wordOp srcs d g s f) (hv : f (core s s.cur) = v) : Yields i s srcs d g v :=
  fun h hd => by rw [hi, wordOp_ready h hd, hv]

/-- A predicate word writes what its condition gives. -/
theorem decides_wordCmp {i : Instr} {s : State} {srcs : List Nat} {d : Fin 8} {g : Guard} {f : Core → Bool} {b : Bool}
    (hi : exec i s = wordCmp srcs d g s f) (hb : f (core s s.cur) = b) : Decides i s srcs d g b :=
  fun h => by rw [hi, wordCmp_ready h, hb]

/-! ## Sums, products and shifts as numbers (R93) -/

theorem sub_eq_ofInt (x y : Word) : x - y = BitVec.ofInt 64 (x.toInt - y.toInt) := by
  apply BitVec.eq_of_toInt_eq
  rw [BitVec.toInt_sub, BitVec.toInt_ofInt]

theorem mul_eq_ofNat (x y : Word) : x * y = BitVec.ofNat 64 (x.toNat * y.toNat) := by
  rw [BitVec.ofNat_mul, BitVec.ofNat_toNat, BitVec.ofNat_toNat, BitVec.setWidth_eq, BitVec.setWidth_eq]

theorem add_eq_ofNat (x y : Word) : x + y = BitVec.ofNat 64 (x.toNat + y.toNat) := by
  rw [BitVec.ofNat_add, BitVec.ofNat_toNat, BitVec.ofNat_toNat, BitVec.setWidth_eq, BitVec.setWidth_eq]

theorem shiftLeft_eq_ofNat (x : Word) (n : Nat) : x <<< n = BitVec.ofNat 64 (x.toNat * 2 ^ n) := by
  apply BitVec.eq_of_toNat_eq
  rw [BitVec.toNat_shiftLeft, BitVec.toNat_ofNat, Nat.shiftLeft_eq]

theorem ushiftRight_eq_ofNat (x : Word) (n : Nat) : x >>> n = BitVec.ofNat 64 (x.toNat / 2 ^ n) := by
  apply BitVec.eq_of_toNat_eq
  rw [BitVec.toNat_ushiftRight, BitVec.toNat_ofNat, Nat.shiftRight_eq_div_pow,
    Nat.mod_eq_of_lt (Nat.lt_of_le_of_lt (Nat.div_le_self ..) x.isLt)]

theorem sshiftRight_eq_ofInt (x : Word) (n : Nat) : x.sshiftRight n = BitVec.ofInt 64 (x.toInt / 2 ^ n) := by
  rw [← BitVec.ofInt_toInt (x := x.sshiftRight n), BitVec.toInt_sshiftRight, Int.shiftRight_eq_div_pow]
  rfl

/-! ## Counts of bits (R93) -/

/-- The leading zeros: the value is below the power that they leave, and reaches half of it. -/
theorem clz_spec (x : Word) : ∃ n ≤ 64, x.toNat < 2 ^ (64 - n) ∧ (n < 64 → 2 ^ (63 - n) ≤ x.toNat) ∧ clzW x = BitVec.ofNat 64 n := by
  by_cases hx : x = 0
  · exact ⟨64, le_rfl, by simp [hx], fun h => absurd h (lt_irrefl 64), by rw [clzW, if_pos hx]⟩
  · have h0 : x.toNat ≠ 0 := fun h => hx (BitVec.eq_of_toNat_eq h)
    have hlog : Nat.log2 x.toNat < 64 := (Nat.log2_lt h0).2 x.isLt
    refine ⟨63 - Nat.log2 x.toNat, by omega, ?_, fun _ => ?_, by rw [clzW, if_neg hx]⟩
    · rw [show 64 - (63 - Nat.log2 x.toNat) = Nat.log2 x.toNat + 1 by omega]
      exact Nat.lt_log2_self
    · rw [show 63 - (63 - Nat.log2 x.toNat) = Nat.log2 x.toNat by omega]
      exact Nat.log2_self_le h0

/-- The trailing zeros among n bits: the power that divides, and the next one does not. -/
theorem ctzN_spec (n x : Nat) : ctzN x n ≤ n ∧ 2 ^ ctzN x n ∣ x ∧ (ctzN x n < n → ¬2 ^ (ctzN x n + 1) ∣ x) ∧ (x = 0 → ctzN x n = n) := by
  induction n generalizing x with
  | zero => simp [ctzN]
  | succ n ih =>
    obtain ⟨hle, hdvd, hnot, hzero⟩ := ih (x / 2)
    unfold ctzN
    split
    next hodd => exact ⟨by omega, by simp, fun _ => by simp; omega, fun h => by omega⟩
    next heven =>
      have hx : x = x / 2 * 2 := by omega
      have hpow (k : Nat) : 2 ^ (k + 1) ∣ x ↔ 2 ^ k ∣ x / 2 := by
        conv_lhs => rw [hx, Nat.pow_succ]
        exact Nat.mul_dvd_mul_iff_right (by decide)
      rw [Nat.add_comm 1]
      refine ⟨by omega, (hpow _).2 hdvd, fun h => ?_, fun h => ?_⟩
      · rw [hpow]
        exact hnot (by omega)
      · rw [hzero (by omega)]

/-- The one bits among the low n bits, one by one. -/
theorem popN_eq (n x : Nat) : popN x n = ((List.range n).filter (fun i => x.testBit i)).length := by
  induction n generalizing x with
  | zero => rfl
  | succ n ih =>
    rw [popN, ih, List.range_succ_eq_map, List.filter_cons, List.filter_map, Nat.testBit_zero]
    have hfun : (fun i => x.testBit i) ∘ Nat.succ = fun i => (x / 2).testBit i := by
      funext i
      exact Nat.testBit_succ x i
    rw [hfun]
    by_cases h : x % 2 = 1
    · simp [h, Nat.add_comm]
    · simp [Nat.mod_two_ne_one.1 h]

/-- Settles O2: each word is `wordOp` of its operation, and each operation is that of the rule. -/
theorem integerWords : Obligations.IntegerWords := by
  unfold Obligations.IntegerWords
  refine ⟨fun s o => ?binary, fun s o => ?madd, fun s o => ?sel, fun s o => ⟨?clz, ?ctz, ?popc⟩⟩
  case binary =>
    intro x y n r
    have hr {i : Instr} {f : Core → Word} (hi : exec i s = wordOp [o.a, o.b] o.d o.g s f) {v : Word} (hv : f (core s s.cur) = v) : r i v :=
      yields_wordOp hi hv
    refine ⟨hr rfl ?add, hr rfl ?sub, hr rfl ?mul, hr rfl ?_, hr rfl ?_, hr rfl ?_, hr rfl ?_, hr rfl ?_, hr rfl ?_, hr rfl ?_, hr rfl ?_,
      hr rfl ?_, hr rfl ?_, hr rfl ?shl, hr rfl ?shr, hr rfl ?sra, hr rfl ?rol⟩
    case add => exact add_eq_ofNat ..
    case sub => exact sub_eq_ofInt ..
    case mul => exact mul_eq_ofNat ..
    case shl => exact shiftLeft_eq_ofNat ..
    case shr => exact ushiftRight_eq_ofNat ..
    case sra => exact sshiftRight_eq_ofInt ..
    case rol => exact (BitVec.rotateLeft_def ..).trans (by rw [sh, Nat.mod_mod]; rfl)
    all_goals rfl
  case madd =>
    refine yields_wordOp rfl ?_
    rw [BitVec.ofNat_add, ← mul_eq_ofNat, BitVec.ofNat_toNat, BitVec.setWidth_eq]
    rfl
  case sel => exact yields_wordOp rfl rfl
  case clz =>
    obtain ⟨n, hle, hlt, hge, hn⟩ := clz_spec (sreg s o.a)
    exact ⟨n, hle, hlt, hge, yields_wordOp rfl hn⟩
  case ctz =>
    obtain ⟨hle, hdvd, hnot, hzero⟩ := ctzN_spec 64 (sreg s o.a).toNat
    exact ⟨_, hle, hdvd, hnot, fun h => hzero (by rw [h]; rfl), yields_wordOp rfl rfl⟩
  case popc => exact yields_wordOp rfl (congrArg (BitVec.ofNat 64) (popN_eq 64 _))

/-! ## Division (R94) -/

theorem sign_tmod (a b : Int) : (0 ≤ a → 0 ≤ a.tmod b) ∧ (a ≤ 0 → a.tmod b ≤ 0) := by
  refine ⟨Int.tmod_nonneg b, fun h => ?_⟩
  have := Int.tmod_nonneg b (Int.neg_nonneg.2 h)
  rw [Int.neg_tmod] at this
  omega

/-- Settles O3: `divS` and `remS` are the quotient and the remainder toward zero, `divU` and `remU` those of the unsigned values. -/
theorem divisionWords : Obligations.DivisionWords := by
  unfold Obligations.DivisionWords
  intro s o x y r
  have hr {i : Instr} {f : Word → Word → Word} (hi : exec i s = binary o f s) {v : Word} (hv : f x y = v) : r i v := yields_wordOp hi hv
  refine ⟨fun hy => ⟨hr rfl ?_, hr rfl ?_, hr rfl ?_, hr rfl ?_⟩, fun hy hx hm => ⟨hr rfl ?_, hr rfl ?_⟩, fun hy hfit => ?signed,
    fun hy => ?unsigned⟩
  · exact if_pos hy
  · exact if_pos hy
  · exact if_pos hy
  · exact if_pos hy
  · rw [divS, if_neg hy, if_pos ⟨hx, hm⟩, ← BitVec.ofInt_toInt (x := x), hx]
  · rw [remS, if_neg hy, if_pos ⟨hx, hm⟩]
  case signed =>
    have hy0 : y.toInt ≠ 0 := fun h => hy (BitVec.eq_of_toInt_eq (by rw [h]; rfl))
    obtain ⟨hpos, hneg⟩ := sign_tmod x.toInt y.toInt
    refine ⟨x.toInt.tdiv y.toInt, x.toInt.tmod y.toInt, ?_, ?_, hpos, hneg, hr rfl ?_, hr rfl ?_⟩
    · rw [Int.mul_comm, Int.mul_tdiv_add_tmod]
    · rw [Int.natAbs_tmod]
      exact Nat.mod_lt _ (Int.natAbs_pos.2 hy0)
    · rw [divS, if_neg hy, if_neg hfit]
    · rw [remS, if_neg hy, if_neg hfit]
  case unsigned =>
    have hy0 : 0 < y.toNat := Nat.pos_of_ne_zero fun h => hy (BitVec.eq_of_toNat_eq h)
    refine ⟨x.toNat / y.toNat, x.toNat % y.toNat, (Nat.div_add_mod' ..).symm, Nat.mod_lt _ hy0, hr rfl ?_, hr rfl ?_⟩
    · exact if_neg hy
    · exact if_neg hy

/-! ## Bit fields (R95) -/

theorem getLsbD_bextW (a b : Word) (i : Nat) :
    (bextW a b).getLsbD i = (decide (i < fieldW b) && a.getLsbD (b.toNat % 64 + i)) := by
  rw [bextW, BitVec.getLsbD_ofNat, Nat.testBit_mod_two_pow, Nat.testBit_div_two_pow, sh, BitVec.getLsbD]
  by_cases h : i < 64
  · simp [h, Nat.add_comm]
  · have : ¬ i + b.toNat % 64 < 64 := by omega
    simp [h, Nat.testBit_lt_two_pow, Nat.lt_of_lt_of_le a.isLt (Nat.pow_le_pow_right (by decide) (by omega : 64 ≤ b.toNat % 64 + i))]

theorem getLsbD_binsMask (b : Word) {i : Nat} (hi : i < 64) :
    (binsMask b).getLsbD i = decide (b.toNat % 64 ≤ i ∧ i < b.toNat % 64 + fieldW b) := by
  rw [binsMask, BitVec.getLsbD_ofNat, Nat.mul_comm, Nat.testBit_two_pow_mul, Nat.testBit_two_pow_sub_one, sh]
  simp only [hi, decide_true, Bool.true_and]
  by_cases h : b.toNat % 64 ≤ i <;> simp [h]; omega

theorem getLsbD_binsW (d a b : Word) {i : Nat} (hi : i < 64) :
    (binsW d a b).getLsbD i =
      if b.toNat % 64 ≤ i ∧ i < b.toNat % 64 + fieldW b then a.getLsbD (i - b.toNat % 64) else d.getLsbD i := by
  rw [binsW, BitVec.getLsbD_or, BitVec.getLsbD_and, BitVec.getLsbD_and, BitVec.getLsbD_not, getLsbD_binsMask b hi,
    BitVec.getLsbD_shiftLeft, sh]
  split
  next h => simp [hi, h]
  next h => simp [hi, h]

/-- The low n bits read as two's complement are those of the number as a word of n bits. -/
theorem signed_eq_toInt (n x : Nat) : signed n x = (BitVec.ofNat n x).toInt := by
  rw [signed, BitVec.toInt_eq_toNat_cond, BitVec.toNat_ofNat]
  cases n with
  | zero => simp [Nat.mod_one]
  | succ n =>
    have h : 2 * (x % 2 ^ (n + 1)) < 2 ^ (n + 1) ↔ x % 2 ^ (n + 1) < 2 ^ (n + 1 - 1) := by
      rw [Nat.add_sub_cancel, Nat.pow_succ]
      omega
    simp only [h]

theorem getLsbD_sextN (n x : Nat) {i : Nat} (hi : i < 64) : (sextN (n + 1) x).getLsbD i = x.testBit (Nat.min i n) := by
  rw [sextN, signed_eq_toInt, ← BitVec.signExtend, BitVec.getLsbD_signExtend, BitVec.msb_eq_getLsbD_last, BitVec.getLsbD_ofNat,
    BitVec.getLsbD_ofNat]
  simp only [hi, decide_true, Bool.true_and, Nat.add_sub_cancel]
  by_cases h : i < n + 1
  · rw [if_pos h, show Nat.min i n = i from Nat.min_eq_left (by omega)]
    simp [h]
  · rw [if_neg h, show Nat.min i n = n from Nat.min_eq_right (by omega)]
    simp

/-- Settles O4: each bit of a bit-field word's result is the bit of its field. -/
theorem bitFieldWords : Obligations.BitFieldWords := by
  unfold Obligations.BitFieldWords
  intro s o x l w r
  have hw : fieldW (sreg s o.b) = w := rfl
  refine ⟨⟨_, fun i => ?bext, yields_wordOp rfl rfl⟩, ⟨_, fun i hi => ?bins, yields_wordOp rfl rfl⟩, ⟨_, fun i hi => ?sext, yields_wordOp rfl rfl⟩,
    ⟨_, fun i => ?zext, yields_wordOp rfl rfl⟩⟩
  case bext => exact getLsbD_bextW ..
  case bins => exact getLsbD_binsW _ _ _ hi
  case sext => exact getLsbD_sextN _ _ hi
  case zext =>
    change (zextW x (sreg s o.b)).getLsbD i = _
    rw [zextW, BitVec.getLsbD_ofNat, Nat.testBit_mod_two_pow, sh, BitVec.getLsbD]
    by_cases hi : i < 64
    · simp only [hi, decide_true, Bool.true_and, Nat.lt_succ_iff]
      rfl
    · have hl : ¬ i ≤ l := by have : l < 64 := Nat.mod_lt _ (by decide); omega
      simp [hi, hl]

/-! ## Immediates, comparisons and predicates (R96 to R98) -/

/-- Settles O5: the immediate is sign-extended by `signExtend`; each compare and predicate word is `wordCmp` of its condition. -/
theorem immediateAndPredicateWords : Obligations.ImmediateAndPredicateWords := by
  unfold Obligations.ImmediateAndPredicateWords
  refine ⟨⟨fun s o => ?alu, fun s o => ?shift, fun s o => yields_wordOp rfl rfl, fun s o => yields_wordOp rfl rfl⟩,
    fun s o => ?cmp, fun s o => ?cmpi, fun s o => ?predicates, fun s o => decides_wordCmp rfl rfl⟩
  case alu => exact ⟨yields_wordOp rfl rfl, yields_wordOp rfl rfl, yields_wordOp rfl rfl, yields_wordOp rfl rfl⟩
  case shift =>
    exact ⟨yields_wordOp rfl (shiftLeft_eq_ofNat ..), yields_wordOp rfl (ushiftRight_eq_ofNat ..), yields_wordOp rfl (sshiftRight_eq_ofInt ..)⟩
  case cmp =>
    have r {i : Instr} {f : Word → Word → Bool} (hi : exec i s = compare o f s) {b : Bool} (hb : f (sreg s o.a) (sreg s o.b) = b) :
        Decides i s [o.a, o.b] o.d o.g b := decides_wordCmp hi hb
    exact ⟨r rfl (beq_eq_decide ..), r rfl (by simp [condNe, bne, beq_eq_decide]), r rfl rfl, r rfl rfl, r rfl rfl, r rfl rfl⟩
  case cmpi =>
    have r {i : Instr} {f : Word → Word → Bool} (hi : exec i s = compareImm o f s) {b : Bool}
        (hb : f (sreg s o.a) (BitVec.ofInt 64 o.imm.toInt) = b) : Decides i s [o.a] o.d o.g b := decides_wordCmp hi hb
    exact ⟨r rfl (beq_eq_decide ..), r rfl (by simp [condNe, bne, beq_eq_decide]), r rfl rfl, r rfl rfl, r rfl rfl, r rfl rfl⟩
  case predicates =>
    refine ⟨decides_wordCmp rfl rfl, decides_wordCmp rfl rfl, decides_wordCmp rfl ?_⟩
    rfl

end Sys2Proof.Machine
end

section
/-! PROOFS. Register words that do not issue: they trap, or stall at their place (R75, R90 to R92, R137, R394). -/

namespace Sys2Proof.Machine

/-! ## What a stall is, and the checks that fail -/

/-- A word that stalls marks what it waits for, and nothing else (R400). -/
theorem stallWord_eq (new : Wait) (s : State) :
    stallWord new s = .next (modCore s s.cur (fun c => { c with wait := wordWait new c.wait })) := rfl

/-- Some register of a list lies beyond the declaration: `beyond` names one (R75). -/
theorem beyond_some {n : Nat} {rs : List Nat} (h : ∃ r ∈ rs, r ≠ 0 ∧ n ≤ r) : ∃ r ∈ rs, r ≠ 0 ∧ n ≤ r ∧ beyond n rs = some r := by
  induction rs with
  | nil => obtain ⟨r, hr, -⟩ := h; cases hr
  | cons q rs ih =>
    rw [beyond]
    split
    next hq => exact ⟨q, List.mem_cons_self .., hq.1, hq.2, rfl⟩
    next hq =>
      have hrest : ∃ r ∈ rs, r ≠ 0 ∧ n ≤ r := by
        obtain ⟨r, hr, hne, hle⟩ := h
        obtain rfl | hr := List.mem_cons.1 hr
        · exact absurd ⟨hne, hle⟩ hq
        · exact ⟨r, hr, hne, hle⟩
      obtain ⟨r, hr, hne, hle, hb⟩ := ih hrest
      exact ⟨r, List.mem_cons_of_mem _ hr, hne, hle, hb⟩

/-- A word that names a register beyond the declaration traps, whatever its guard (R75, R401). -/
theorem word_beyond {s : State} {regs : List Nat} {r : Nat} (h : beyond (hdr s s.cur).sregs regs = some r) (g : Guard) (k : State → Out) :
    word [] regs g s k = trapWord 0x02 (BitVec.ofNat 64 r) s := by
  simp only [word, wordX, List.find?_nil, h]

/-- A word of a disabled feature traps, whatever its guard (R75, R394). -/
theorem word_disabled {s : State} {n : Nat} (h : feature s n = false) (regs : List Nat) (g : Guard) (k : State → Out) :
    word [n] regs g s k = trapWord 0x12 (BitVec.ofNat 64 n) s := by
  simp [word, wordX, h]

/-- A source that has not arrived stalls the word, which waits for one of its sources (R90). -/
theorem needs_waiting {s : State} {srcs : List Nat} (h : ∃ r ∈ srcs, waiting (core s s.cur) r = true) (k : State → Out) :
    ∃ r ∈ srcs, waiting (core s s.cur) r = true ∧ needs srcs s k = stallWord (.reg r) s := by
  unfold needs
  cases hf : srcs.find? (waiting (core s s.cur)) with
  | none =>
    obtain ⟨r, hr, hw⟩ := h
    exact absurd hw (List.find?_eq_none.1 hf r hr)
  | some r => exact ⟨r, List.mem_of_find?_eq_some hf, List.find?_some hf, rfl⟩

/-- A precise trap of the word at the acting core's place, with nothing done before it. -/
theorem trapsBy_trapWord (s : State) (cause : Nat) (info : Word) : TrapsBy (trapWord cause info s) s s cause info :=
  trapsBy_trapAt rfl rfl (onlyCore_refl s s.cur) cause info

theorem traps_of_trapWord {i : Instr} {s : State} {cause : Nat} {info : Word} (hi : exec i s = trapWord cause info s) :
    Traps i s s cause info := by
  rw [Traps, hi]
  exact trapsBy_trapWord s cause info

/-- Settles O7: the checks of `wordOp` fail one after the other, the guard's registers and features first, then R91's and R90's. -/
theorem registerWordsThatDoNotIssue : Obligations.RegisterWordsThatDoNotIssue := by
  unfold Obligations.RegisterWordsThatDoNotIssue
  refine ⟨fun i g d srcs s hi hr hd hresp => ?pending, fun i g d srcs s hi hbad hresp => ?undeclared,
    fun i g d srcs s hi hdecl hg hd hwait => ?stalls, ?disabled⟩
  case pending =>
    obtain ⟨f, hf⟩ := exec_registerWord hi
    rw [hf s, wordOp, word_ready hr, writes_pending hd]
    obtain ⟨t, ht, hcause, hinfo, hpc, hin, hregs, hpreds, honly⟩ := trapsBy_trapWord s 0x03 (BitVec.ofNat 64 d) hresp
    exact ⟨t, ht, hcause, hpc, hinfo, hin, hregs, hpreds, honly⟩
  case undeclared =>
    obtain ⟨f, hf⟩ := exec_registerWord hi
    obtain ⟨r, hr, hne, hle, hb⟩ := beyond_some hbad
    rw [hf s, wordOp, word_beyond hb]
    obtain ⟨t, ht, hcause, hinfo, hpc, hin, hregs, -, honly⟩ := trapsBy_trapWord s 0x02 (BitVec.ofNat 64 r) hresp
    exact ⟨t, r, ht, hr, hne, hle, hcause, hpc, hinfo, hin, hregs, honly⟩
  case stalls =>
    obtain ⟨f, hf⟩ := exec_registerWord hi
    have hready : Ready s [] (d :: srcs) [] g := ⟨fun _ h => (List.not_mem_nil h).elim, hdecl, hg, fun _ h => (List.not_mem_nil h).elim⟩
    rw [hf s, wordOp, word_ready hready, writes_free hd]
    obtain ⟨r, hr, hw, hstall⟩ := needs_waiting hwait fun s => done (fun c => wrS d (f c) c) s
    rw [hstall, stallWord_eq]
    exact ⟨_, r, rfl, hr, hw, core_modCore_self .., onlyCore_modCore ..⟩
  case disabled =>
    refine ⟨fun o s h => traps_of_trapWord ?forks, fun o s h => traps_of_trapWord ?resolve, fun o s h => traps_of_trapWord ?sstep,
      fun o s h => traps_of_trapWord ?qarrive, fun o s h => traps_of_trapWord ?amosCo⟩
    case forks => change execForks o s = _; rw [execForks, forkWord, word_disabled h]
    case resolve => change execResolve o s = _; rw [execResolve, word_disabled h]
    case sstep => change execSstep o s = _; rw [execSstep, word_disabled h]
    case qarrive => change execQarrive o s = _; rw [execQarrive, word_disabled h]
    case amosCo => change execAmosCo o s = _; rw [execAmosCo, word_disabled h]

end Sys2Proof.Machine
end

section
/-! PROOFS. The tile's own scratchpad: LDS, STS, and the wait for its AMOS.COs (R103, R104). -/

namespace Sys2Proof.Machine

/-! ## Addresses and the checks of a scratchpad access (R99, R104) -/

/-- The model's address is the effective address of R99. -/
theorem addrOf_eq_effective {n : Nat} (s : State) (a : Fin 64) (off : BitVec n) : addrOf (core s s.cur) a off = effective s a off :=
  BitVec.toNat_add ..

/-- An aligned access within the declared scratchpad passes its checks. -/
theorem padChecks_within {s : State} {addr n : Nat} (h : addr % n = 0) (hb : addr + n ≤ (hdr s s.cur).scratch) (k : State → Out) :
    padChecks addr n s k = k s := by
  rw [padChecks, if_neg (not_not.2 h), if_neg (Nat.not_lt.2 hb)]

theorem afterOwnCo_waits {s : State} (h : ownCo s s.cur = true) (k : State → Out) : afterOwnCo s k = stallWord .ownAtomic s := if_pos h

theorem afterOwnCo_free {s : State} (h : ownCo s s.cur = false) (k : State → Out) : afterOwnCo s k = k s := by
  rw [afterOwnCo, h]; rfl

/-- An access that waits for AMOS.COs to the own scratchpad stalls where its checks pass. -/
theorem padChecks_waits {s : State} {addr n : Nat} (h : addr % n = 0) (hb : addr + n ≤ (hdr s s.cur).scratch) (hco : ownCo s s.cur = true)
    (k : State → Out) : padChecks addr n s (afterOwnCo · k) = stallWord .ownAtomic s := by
  rw [padChecks_within h hb, afterOwnCo_waits hco]

theorem padChecks_goes {s : State} {addr n : Nat} (h : addr % n = 0) (hb : addr + n ≤ (hdr s s.cur).scratch) (hco : ownCo s s.cur = false)
    (k : State → Out) : padChecks addr n s (afterOwnCo · k) = k s := by
  rw [padChecks_within h hb, afterOwnCo_free hco]

/-! ## The words of the scratchpad, once their registers are there -/

theorem exec_lds_ready {s : State} {o : LoadS} (h : Ready s [] [o.d, o.a] [o.a] o.g) (hd : tokPending (core s s.cur) o.d = false) :
    let addr := effective s o.a o.off
    let n := sizeBytes o.size
    exec (.lds o) s = padChecks addr n s (afterOwnCo · fun s =>
      if padPoisoned s s.cur addr n then trapWord 0x16 (BitVec.ofNat 64 addr) s
      else done (wrS o.d (extended n o.u (padRead s s.cur addr n))) s) := by
  change execLds o s = _
  rw [execLds, word_ready h, writes_free hd, needs_arrived h.arrived, addrOf_eq_effective]

theorem exec_sts_ready {s : State} {o : StoreS} (h : Ready s [] [o.a, o.b] [o.a, o.b] o.g) :
    let addr := effective s o.a o.off
    let n := sizeBytes o.size
    exec (.sts o) s = padChecks addr n s (afterOwnCo · fun s =>
      .next (advance (padWrite s s.cur addr n (rdS (core s s.cur) o.b).toNat))) := by
  change execSts o s = _
  rw [execSts, word_ready h, needs_arrived h.arrived, addrOf_eq_effective]

theorem exec_amos_ready {s : State} {o : AtomS} (h : Ready s [] (o.d.val :: atomRegs o.op o.a o.b o.c) (atomRegs o.op o.a o.b o.c) o.g)
    (hd : tokPending (core s s.cur) o.d = false) :
    ∃ k, exec (.amos o) s = padChecks (effective s o.a o.off) (if o.dw then 8 else 4) s (afterOwnCo · k) := by
  change ∃ k, execAmos o s = _
  rw [execAmos, word_ready h, writes_free hd, needs_arrived h.arrived, ← addrOf_eq_effective]
  exact ⟨_, rfl⟩

theorem exec_amosCo_ready {s : State} {o : AtomS} (h : Ready s [12] (o.d.val :: atomRegs o.op o.a o.b o.c) (atomRegs o.op o.a o.b o.c) o.g)
    (hd : tokPending (core s s.cur) o.d = false) :
    ∃ k, exec (.amosCo o) s = padChecks (effective s o.a o.off) 64 s (afterOwnCo · k) := by
  change ∃ k, execAmosCo o s = _
  rw [execAmosCo, word_ready h, writes_free hd, needs_arrived h.arrived, ← addrOf_eq_effective]
  exact ⟨_, rfl⟩

/-! ## Writes of the scratchpad -/

theorem tile_padWrite (s : State) (a addr n x : Nat) : tile (padWrite s a addr n x) a =
    { tile s a with pad := writeN (tile s a).pad addr n x, padPoison := coverPoison (tile s a).padPoison 8 addr n } :=
  tile_modTile_self s a _

/-- The tile of the acting core once its word is done. -/
theorem tile_advance (s : State) : tile (advance s) s.cur =
    { tile s s.cur with
      progress := true
      core := { core s s.cur with pc := (core s s.cur).pc + 1, wait := .none, afterGbar := false } } :=
  tile_modTile_self s s.cur _

theorem core_advance (s : State) : core (advance s) s.cur =
    { core s s.cur with pc := (core s s.cur).pc + 1, wait := .none, afterGbar := false } :=
  congrArg Tile.core (tile_advance s)

theorem onlyCore_advance (s : State) : OnlyCore s.cur s (advance s) := onlyCore_goAt ..

/-- Settles O10: each word is `padChecks` of its address; then an own AMOS.CO stalls it, or it reads or writes its bytes. -/
theorem scratchpadWords : Obligations.ScratchpadWords := by
  unfold Obligations.ScratchpadWords
  intro waits
  refine ⟨?lds, ?sts, ?amos, ?amosCo⟩
  case lds =>
    intro s o n addr h hd hal hin
    refine ⟨fun hco => (exec_lds_ready h hd).trans (padChecks_waits hal hin hco _), fun hco hp => ?_⟩
    refine (exec_lds_ready h hd).trans ((padChecks_goes hal hin hco _).trans ?_)
    exact if_neg (by rw [hp]; decide)
  case sts =>
    intro s o n addr h hal hin
    refine ⟨fun hco => (exec_sts_ready h).trans (padChecks_waits hal hin hco _), fun hco => ?_⟩
    refine ⟨_, (exec_sts_ready h).trans (padChecks_goes hal hin hco _), ?_⟩
    have hwrite : OnlyTile s.cur s (padWrite s s.cur addr n (sreg s o.b).toNat) := onlyTile_modTile ..
    change OnlyTile s.cur s (padWrite s s.cur (effective s o.a o.off) (sizeBytes o.size) (rdS (core s s.cur) o.b).toNat) at hwrite
    generalize hw : padWrite s s.cur (effective s o.a o.off) (sizeBytes o.size) (rdS (core s s.cur) o.b).toNat = u at hwrite
    have hcur : u.cur = s.cur := hw ▸ rfl
    have hu : tile u s.cur = _ := hw ▸ tile_padWrite ..
    have ht := tile_advance u
    have honly := hwrite.trans (hcur ▸ (onlyCore_advance u).toOnlyTile)
    rw [core, hcur, hu] at ht
    rw [core, ht]
    exact ⟨rfl, hwrite.mem, readN_writeN .., fun x => getB_writeN_outside _ _ _ _ x, fun _ => rfl, honly⟩
  case amos =>
    intro s o n addr srcs h hd hal hin hco
    obtain ⟨k, hk⟩ := exec_amos_ready h hd
    exact hk.trans (padChecks_waits hal hin hco k)
  case amosCo =>
    intro s o addr srcs h hd hal hin hco
    obtain ⟨k, hk⟩ := exec_amosCo_ready h hd
    exact hk.trans (padChecks_waits hal hin hco k)

end Sys2Proof.Machine
end

section
/-! PROOFS. Operations at the homes: what a line's home does for an access reads and writes no tile, and changes no link (R293, R314, R364). -/

namespace Sys2Proof.Machine

/-- An operation at the homes: tiles and tasks, the acting agent, the dies' incarnations, and where an address leads are as before. -/
structure Homes (s t : State) : Prop where
  tiles : t.tiles = s.tiles
  tasks : t.tasks = s.tasks
  cur : t.cur = s.cur
  incarn : ∀ d, (die t d).incarn = (die s d).incarn
  reach : ∀ a ga, lostAt t a ga = lostAt s a ga
  route : ∀ ga, unroutedAt t ga = unroutedAt s ga

theorem homes_refl (s : State) : Homes s s := ⟨rfl, rfl, rfl, fun _ => rfl, fun _ _ => rfl, fun _ => rfl⟩

theorem Homes.trans {s t u : State} (h : Homes s t) (k : Homes t u) : Homes s u where
  tiles := k.tiles.trans h.tiles
  tasks := k.tasks.trans h.tasks
  cur := k.cur.trans h.cur
  incarn d := (k.incarn d).trans (h.incarn d)
  reach a ga := (k.reach a ga).trans (h.reach a ga)
  route ga := (k.route ga).trans (h.route ga)

theorem Homes.foldl {β : Type} {f : State → β → State} (h : ∀ s b, Homes s (f s b)) (l : List β) (s : State) : Homes s (l.foldl f s) := by
  induction l generalizing s with
  | nil => exact homes_refl s
  | cons b l ih => exact (h s b).trans (ih _)

theorem Homes.tile_eq {s t : State} (h : Homes s t) (a : Nat) : tile t a = tile s a := by rw [tile, h.tiles, tile]

theorem Homes.core_eq {s t : State} (h : Homes s t) (a : Nat) : core t a = core s a := by rw [core, h.tile_eq, core]

/-! ## Operations that count and place replicas -/

/-- Only what the homes count, and which dies hold replicas, differs. -/
def Counted (s t : State) : Prop := ∃ R A P, t = { s with regions := R, access := A, replicas := P }

theorem counted_refl (s : State) : Counted s s := ⟨_, _, _, rfl⟩

theorem Counted.trans {s t u : State} (h : Counted s t) (k : Counted t u) : Counted s u := by
  obtain ⟨R, A, P, rfl⟩ := h
  obtain ⟨R', A', P', rfl⟩ := k
  exact ⟨R', A', P', rfl⟩

theorem Counted.foldl {β : Type} {f : State → β → State} (h : ∀ s b, Counted s (f s b)) (l : List β) (s : State) :
    Counted s (l.foldl f s) := by
  induction l generalizing s with
  | nil => exact counted_refl s
  | cons b l ih => exact (h s b).trans (ih _)

theorem Counted.homes {s t : State} (h : Counted s t) : Homes s t := by
  obtain ⟨R, A, P, rfl⟩ := h
  exact ⟨rfl, rfl, rfl, fun _ => rfl, fun _ _ => rfl, fun _ => rfl⟩

theorem Counted.mem {s t : State} (h : Counted s t) : t.mem = s.mem := by
  obtain ⟨R, A, P, rfl⟩ := h
  rfl

theorem Counted.waits {s t : State} (h : Counted s t) : t.waits = s.waits := by
  obtain ⟨R, A, P, rfl⟩ := h
  rfl

theorem Counted.memPoison {s t : State} (h : Counted s t) : t.memPoison = s.memPoison := by
  obtain ⟨R, A, P, rfl⟩ := h
  rfl

theorem counted_modRegion (s : State) (r : Nat) (f : Region → Region) : Counted s (modRegion s r f) := ⟨_, _, _, rfl⟩

theorem counted_fillReplica (s : State) (d line : Nat) : Counted s (fillReplica s d line) := ⟨_, _, _, rfl⟩

theorem counted_touch (s : State) (a ga : Nat) : Counted s (touch s a ga) := by
  simp only [touch]
  split <;> exact ⟨_, _, _, rfl⟩

theorem counted_collapseLine (s : State) (ga : Nat) : Counted s (collapseLine s ga) := by
  simp only [collapseLine]
  split
  · split <;> exact ⟨_, _, _, rfl⟩
  · exact counted_refl s

theorem counted_homeLines (s : State) (a : Nat) (ls : List Nat) : Counted s (ls.foldl (fun s l => touch (collapseLine s l) a l) s) :=
  Counted.foldl (fun s l => (counted_collapseLine s l).trans (counted_touch _ a l)) ls s

theorem counted_reachHome (s : State) (a ga : Nat) : Counted s (reachHome s a ga) := by
  obtain ⟨R, A, h⟩ := reachHome_eq s a ga
  exact ⟨R, A, s.replicas, h⟩

theorem counted_unitReads (s : State) (d : Nat) (pas : List Nat) : Counted s (unitReads s d pas) := by
  obtain ⟨R, A, h⟩ := unitReads_eq s d pas
  exact ⟨R, A, s.replicas, h⟩

theorem counted_serveRead (s : State) (a ga e : Nat) : Counted s (serveRead s a ga e) := by
  have hmax (c : Prop) [Decidable c] (r q : Nat) (f g : Region → Region) :
      Counted s (if c then modRegion (touch (modRegion s r f) a ga) q g else touch (modRegion s r f) a ga) := by
    have hread : Counted s (touch (modRegion s r f) a ga) := (counted_modRegion ..).trans (counted_touch ..)
    split
    · exact hread.trans (counted_modRegion ..)
    · exact hread
  have hfill (c : Prop) [Decidable c] (d line : Nat) {t : State} (h : Counted s t) : Counted s (if c then fillReplica t d line else t) := by
    split
    · exact h.trans (counted_fillReplica ..)
    · exact h
  simp only [serveRead]
  split
  · split
    · exact counted_refl s
    · exact hfill _ _ _ (hmax _ _ _ _ _)
  · exact counted_touch ..

/-! ## Operations that write memory, count errors, or draw -/

theorem homes_draw (s : State) : Homes s (draw s).2 := ⟨rfl, rfl, rfl, fun _ => rfl, fun _ _ => rfl, fun _ => rfl⟩

theorem homes_modDie (s : State) (d : Nat) {f : Die → Die} (hf : ∀ x, (f x).incarn = x.incarn) : Homes s (modDie s d f) := by
  refine ⟨rfl, rfl, rfl, fun e => ?_, fun _ _ => rfl, fun _ => rfl⟩
  by_cases h : e = d
  · rw [h, modDie, die_putDie_self, hf]
  · rw [modDie, die_putDie_ne _ _ h]

theorem homes_writeRecord (s : State) (g : List Nat) : Homes s (writeRecord s g) := by
  simp only [writeRecord]
  split <;> exact ⟨rfl, rfl, rfl, fun _ => rfl, fun _ _ => rfl, fun _ => rfl⟩

theorem homes_event (s : State) (type cause d t ctx g1 g2 g3 g4 g6 g7 : Nat) : Homes s (event s type cause d t ctx g1 g2 g3 g4 g6 g7) :=
  homes_writeRecord ..

theorem homes_bump (s : State) (d code : Nat) : Homes s (bump s d code) := by
  have hdie (n : Nat) : Homes s (modDie s d (fun x => { x with counters := insAt x.counters code n })) := homes_modDie s d fun _ => rfl
  simp only [bump]
  split
  · exact (hdie _).trans (homes_event ..)
  · exact hdie _

theorem homes_discarded (s : State) (dev : Nat) : Homes s (discarded s dev) := by
  have hun : Homes s (unacked s dev 0) := ⟨rfl, rfl, rfl, fun _ => rfl, fun _ _ => rfl, fun _ => rfl⟩
  refine (hun.trans (homes_modDie _ 4 ?_)).trans (homes_event ..)
  exact fun _ => rfl

theorem homes_homeLine (a : Nat) (s : State) (line : Nat) : Homes s (homeLine a s line) := by
  simp only [homeLine]
  split
  · exact homes_refl s
  · split
    · exact homes_discarded ..
    · exact ((counted_collapseLine ..).trans (counted_touch ..)).homes

theorem homes_homeWrite (s : State) (a ga n x : Nat) : Homes s (homeWrite s a ga n x) :=
  (counted_homeLines s a (linesIn ga n)).homes.trans ⟨rfl, rfl, rfl, fun _ => rfl, fun _ _ => rfl, fun _ => rfl⟩

theorem mem_homeWrite (s : State) (a ga n x : Nat) : (homeWrite s a ga n x).mem = writeN s.mem ga n x :=
  congrArg (writeN · ga n x) (counted_homeLines s a (linesIn ga n)).mem

/-! ## Walks and translations -/

theorem homes_takeFrame {s t : State} {d size f : Nat} (h : takeFrame s d size = some (f, t)) : Homes s t := by
  rw [takeFrame.eq_def] at h
  split at h
  · split at h
    · cases h
      exact homes_modDie s d fun _ => rfl
    · cases h
  · split at h
    · cases h
      exact homes_modDie s d fun _ => rfl
    · cases h
  · cases h

theorem homes_bind {s t : State} {a e pa e' : Nat} (h : bind s a e pa = some (e', t)) : Homes s t := by
  unfold bind at h
  cases hf : takeFrame s (dieOf a) (eSize e) with
  | none => simp [hf] at h
  | some p =>
    obtain ⟨f, s1⟩ := p
    simp only [hf] at h
    split at h
    · cases h
      exact (homes_takeFrame hf).trans (Homes.foldl (fun s i => homes_homeWrite ..) _ _)
    · cases h
      exact homes_refl s

theorem homes_countTable (s : State) (d : Nat) (ctx : Ctx) (tbl va n : Nat) : Homes s (countTable s d ctx tbl va n) := by
  simp only [countTable]
  split
  · exact Homes.foldl (fun s _ => homes_bump ..) _ _
  · exact homes_refl s

theorem homes_countEntry (s : State) (d : Nat) (ctx : Ctx) (lvl e : Nat) : Homes s (countEntry s d ctx lvl e) := by
  have htable : Homes s (if eState e = 4 then countTable s d ctx ctx.peers (ctx.peers + 8 * eXref e) 8 else s) := by
    split
    · exact homes_countTable ..
    · exact homes_refl s
  simp only [countEntry]
  split
  · exact htable.trans (homes_bump ..)
  · exact htable

theorem groupPick_cases (s : State) (e pa : Nat) : (groupPick s e pa).2 = s ∨ (groupPick s e pa).2 = (draw s).2 := by
  simp only [groupPick]
  split
  · exact .inl rfl
  · exact .inr rfl

theorem homes_groupPick (s : State) (e pa : Nat) : Homes s (groupPick s e pa).2 := by
  obtain h | h := groupPick_cases s e pa
  · rw [h]; exact homes_refl s
  · rw [h]; exact homes_draw s

theorem mem_groupPick (s : State) (e pa : Nat) : (groupPick s e pa).2.mem = s.mem := by
  obtain h | h := groupPick_cases s e pa <;> rw [h]
  rfl

theorem homes_walk (s : State) (a : Nat) (ctx : Ctx) (va : Nat) (probe : Bool) : Homes s (walk s a ctx va probe).2 := by
  simp only [walk]
  split
  · exact homes_refl s
  · refine (counted_unitReads s (dieOf a) (walkLines s ctx va)).homes.trans ?_
    generalize unitReads s (dieOf a) (walkLines s ctx va) = s'
    split
    · split
      · exact homes_bump ..
      · exact homes_refl s'
    · rename_i e0 lvl pa _
      split
      · exact homes_countEntry ..
      · have hpick := homes_groupPick s' e0 pa
        generalize groupPick s' e0 pa = p at hpick
        obtain ⟨e, s1⟩ := p
        refine hpick.trans ?_
        dsimp only
        split
        · exact homes_refl s1
        · split
          · exact homes_countEntry ..
          · split
            · split
              · exact homes_refl s1
              · split
                · rename_i hbind
                  refine (homes_bind hbind).trans ?_
                  split
                  · exact homes_refl _
                  · split
                    · exact homes_countEntry ..
                    · exact homes_refl _
                · exact homes_refl s1
            · exact homes_refl s1

/-- A walk that may not bind, and finds an entry, writes no memory. -/
theorem mem_walk_probe {s : State} {a : Nat} {ctx : Ctx} {va e : Nat} (h : (walk s a ctx va true).1 = some e) :
    (walk s a ctx va true).2.mem = s.mem := by
  simp only [walk] at h ⊢
  split at h
  · cases h
  · rename_i hreach
    rw [if_neg hreach, ← (counted_unitReads s (dieOf a) (walkLines s ctx va)).mem]
    generalize unitReads s (dieOf a) (walkLines s ctx va) = s' at h ⊢
    split at h
    · cases h
    · rename_i e0 lvl pa _
      split at h
      · cases h
      · rename_i hbad
        rw [if_neg hbad]
        have hmem := mem_groupPick s' e0 pa
        generalize groupPick s' e0 pa = p at h hmem ⊢
        obtain ⟨e1, s1⟩ := p
        dsimp only at h hmem ⊢
        rw [← hmem]
        split_ifs at h ⊢
        all_goals rfl

/-- The translation of an access: of the tiles only TLBs differ, and the tasks and the acting agent are as before. -/
structure Translated (s t : State) : Prop extends TlbOnly s t where
  tasks : t.tasks = s.tasks
  cur : t.cur = s.cur

theorem translated_of_homes {s t : State} (h : Homes s t) : Translated s t := ⟨tlbOnly_of_tiles h.tiles, h.tasks, h.cur⟩

theorem Translated.trans {s t u : State} (h : Translated s t) (k : Translated t u) : Translated s u :=
  ⟨h.toTlbOnly.trans k.toTlbOnly, k.tasks.trans h.tasks, k.cur.trans h.cur⟩

theorem translated_refl (s : State) : Translated s s := translated_of_homes (homes_refl s)

theorem translated_fillTlbs (s : State) (a : Nat) (x : Bool) (ctx va e : Nat) : Translated s (fillTlbs s a x ctx va e) := by
  refine ⟨(apart_fillTlbs a x ctx va e).tiles s, (apart_fillTlbs a x ctx va e).tasks_eq s, ?_⟩
  simp only [fillTlbs]
  split
  · rfl
  · split <;> rfl

theorem translated_entryFor (s : State) (a : Nat) (x : Bool) (ctx : Ctx) (va : Nat) : Translated s (entryFor s a x ctx va).2 := by
  have hdraw : Translated s (draw s).2 := translated_of_homes (homes_draw s)
  have hwalk (s : State) : Translated s (walk s a ctx va false).2 := translated_of_homes (homes_walk ..)
  simp only [entryFor]
  generalize tlbHit (if x = true then (tile s a).mov.xtlb else (core s a).ctlb) ctx.id va ++ tlbHit (die s (dieOf a)).lltlb ctx.id va = hits
  split
  · have h := hwalk s
    split
    · rename_i hw
      rw [hw] at h
      exact h.trans (translated_fillTlbs ..)
    · rename_i hw
      rw [hw] at h
      exact h
  · split
    · exact translated_refl s
    · split
      · exact hdraw
      · exact hdraw.trans (hwalk _)

theorem translated_translate (s : State) (a : Nat) (x : Bool) (ctx : Ctx) (va : Nat) (wr : Bool) : Translated s (translate s a x ctx va wr).2 := by
  have h := translated_entryFor s a x ctx va
  simp only [translate]
  split
  · exact translated_refl s
  · split
    · rename_i he
      rw [he] at h
      exact h
    · rename_i he
      rw [he] at h
      split
      · exact h
      · split
        · exact h
        · split <;> exact h

theorem translated_of_eq {s s1 : State} {a : Nat} {x : Bool} {ctx : Ctx} {va : Nat} {wr : Bool} {r : Trans}
    (h : translate s a x ctx va wr = (r, s1)) : Translated s s1 := by
  have := translated_translate s a x ctx va wr
  rwa [h] at this

/-- A control core after a translation: its TLB alone may differ. -/
theorem TlbOnly.core_eq {s t : State} (h : TlbOnly s t) (a : Nat) : core t a = { core s a with ctlb := (core t a).ctlb } := by
  have hb : { core t a with ctlb := [] } = { core s a with ctlb := [] } := congrArg Tile.core (h.bare a)
  calc core t a = { ({ core t a with ctlb := [] } : Core) with ctlb := (core t a).ctlb } := rfl
    _ = _ := by rw [hb]

theorem Translated.hdr_eq {s t : State} (h : Translated s t) (a : Nat) : hdr t a = hdr s a := by
  have hb : (tile t a).task = (tile s a).task := (congrArg Tile.task (h.bare a) : (bare (tile t a)).task = (bare (tile s a)).task)
  simp only [hdr, taskOf, hb, h.tasks]

end Sys2Proof.Machine
end

section
/-! PROOFS. Operations of an L1: what they leave of the part beside the L1 itself and its homes (R18, R102, R131, R286). -/

namespace Sys2Proof.Machine

/-- A control core without its L1, its TLB, its asynchronous traps and what serves its publication. -/
def outer (c : Core) : Core :=
  { c with async := [], latch := false, pubAt := [], clean := [], dirty := [], unpub := [], recUnpub := [], ownPoison := [], ctlb := [] }

/-- An operation of an agent's L1 and the homes it reaches: of its core only what `outer` leaves out differs. -/
structure Behind (a : Nat) (s t : State) : Prop where
  core : outer (core t a) = outer (core s a)
  rest : ∃ c, tile t a = { tile s a with core := c }
  others : ∀ b, b ≠ a → tile t b = tile s b
  cur : t.cur = s.cur
  incarn : ∀ d, (die t d).incarn = (die s d).incarn
  reach : ∀ b ga, lostAt t b ga = lostAt s b ga
  route : ∀ ga, unroutedAt t ga = unroutedAt s ga

theorem behind_refl (a : Nat) (s : State) : Behind a s s := ⟨rfl, ⟨_, rfl⟩, fun _ _ => rfl, rfl, fun _ => rfl, fun _ _ => rfl, fun _ => rfl⟩

theorem Behind.trans {a : Nat} {s t u : State} (h : Behind a s t) (k : Behind a t u) : Behind a s u where
  core := k.core.trans h.core
  rest := by
    obtain ⟨c, hc⟩ := h.rest
    obtain ⟨d, hd⟩ := k.rest
    exact ⟨d, by rw [hd, hc]⟩
  others b hb := (k.others b hb).trans (h.others b hb)
  cur := k.cur.trans h.cur
  incarn d := (k.incarn d).trans (h.incarn d)
  reach b ga := (k.reach b ga).trans (h.reach b ga)
  route ga := (k.route ga).trans (h.route ga)

theorem Homes.behind {s t : State} (h : Homes s t) (a : Nat) : Behind a s t where
  core := by rw [h.core_eq]
  rest := ⟨Machine.core s a, by rw [h.tile_eq]; rfl⟩
  others b _ := h.tile_eq b
  cur := h.cur
  incarn := h.incarn
  reach := h.reach
  route := h.route

theorem behind_modCore {s : State} {a : Nat} {f : Core → Core} (hf : ∀ c, outer (f c) = outer c) : Behind a s (modCore s a f) where
  core := by rw [core_modCore_self, hf]
  rest := ⟨_, tile_modTile_self s a _⟩
  others _ hb := tile_modTile_ne s _ hb
  cur := rfl
  incarn _ := rfl
  reach _ _ := rfl
  route _ := rfl

section
variable {a : Nat} {s t : State} (h : Behind a s t)
include h

theorem Behind.pc_eq : (Machine.core t a).pc = (Machine.core s a).pc := (congrArg Core.pc h.core : (outer _).pc = (outer _).pc)

theorem Behind.resp_eq : (Machine.core t a).resp = (Machine.core s a).resp := (congrArg Core.resp h.core : (outer _).resp = (outer _).resp)

theorem Behind.rdS_eq (r : Nat) : rdS (Machine.core t a) r = rdS (Machine.core s a) r := (congrArg (rdS · r) h.core : rdS (outer _) r = rdS (outer _) r)

theorem Behind.rdP_eq (p : Fin 8) : rdP (Machine.core t a) p = rdP (Machine.core s a) p := (congrArg (rdP · p) h.core : rdP (outer _) p = rdP (outer _) p)

theorem Behind.trapRegsKept : TrapRegsKept (Machine.core s a) (Machine.core t a) where
  cause := (congrArg Core.trapCause h.core : (outer _).trapCause = (outer _).trapCause)
  pc := (congrArg Core.trapPc h.core : (outer _).trapPc = (outer _).trapPc)
  info := (congrArg Core.trapInfo h.core : (outer _).trapInfo = (outer _).trapInfo)
  src := (congrArg Core.trapSrc h.core : (outer _).trapSrc = (outer _).trapSrc)
  vec := (congrArg Core.trapVec h.core : (outer _).trapVec = (outer _).trapVec)
  isIn := (congrArg Core.trapIn h.core : (outer _).trapIn = (outer _).trapIn)
  tok := (congrArg Core.tok h.core : (outer _).tok = (outer _).tok)
  amiss := (congrArg Core.amiss h.core : (outer _).amiss = (outer _).amiss)

theorem Behind.pad_eq : (tile t a).pad = (tile s a).pad := by
  obtain ⟨c, hc⟩ := h.rest
  rw [hc]

end

/-! ## Bytes that go home (R286, R289, R364, R390) -/

/-- Memory, its poison and the waits that its homes hold are no business of a tile. -/
theorem behind_memory (a : Nat) (s : State) (m : Mem) (p : List Nat) (w : List HeldWait) :
    Behind a s { s with mem := m, memPoison := p, waits := w } :=
  ⟨rfl, ⟨_, rfl⟩, fun _ _ => rfl, rfl, fun _ => rfl, fun _ _ => rfl, fun _ => rfl⟩

theorem behind_raiseLostBytes (s : State) (a : Nat) (bs : SMap Byte) : Behind a s (raiseLostBytes s a bs) := by
  simp only [raiseLostBytes]
  split
  · exact ((homes_draw s).behind a).trans (behind_modCore fun _ => rfl)
  · exact behind_refl a s

theorem behind_homeWriteAll (s : State) (a : Nat) (bs : SMap Byte) : Behind a s (homeWriteAll s a bs) :=
  ((behind_raiseLostBytes s a bs).trans ((Homes.foldl (homes_homeLine a) (linesOf bs) _).behind a)).trans
    (behind_memory a ((linesOf bs).foldl (homeLine a) (raiseLostBytes s a bs)) _ _ _)

theorem mem_raiseLostBytes (s : State) (a : Nat) (bs : SMap Byte) : (raiseLostBytes s a bs).mem = s.mem := by
  simp only [raiseLostBytes]
  split <;> rfl

/-- Of the core that sends bytes home, at most an asynchronous trap is new. -/
theorem core_homeWriteAll (s : State) (a : Nat) (bs : SMap Byte) :
    ∃ q l, core (homeWriteAll s a bs) a = { core s a with async := q, latch := l } := by
  have hhome : core (homeWriteAll s a bs) a = core (raiseLostBytes s a bs) a :=
    (Homes.foldl (homes_homeLine a) (linesOf bs) (raiseLostBytes s a bs)).core_eq a
  rw [hhome]
  simp only [raiseLostBytes]
  split
  · exact ⟨_, _, core_modCore_self ..⟩
  · exact ⟨_, _, rfl⟩

/-- A byte after a list of writes is what it was, or one of those written. -/
theorem getB_foldl_setB_cases (bs : SMap Byte) (m : Mem) (x : Nat) :
    getB (bs.foldl (fun m e => setB m e.1 e.2) m) x = getB m x ∨ (x, getB (bs.foldl (fun m e => setB m e.1 e.2) m) x) ∈ bs := by
  induction bs generalizing m with
  | nil => exact .inl rfl
  | cons e bs ih =>
    rw [List.foldl_cons]
    obtain h | h := ih (setB m e.1 e.2)
    · by_cases hx : x = e.1
      · subst hx
        rw [getB_setB_self] at h
        rw [h]
        exact .inr (List.mem_cons_self ..)
      · rw [h, getB_setB_ne _ _ hx]
        exact .inl rfl
    · exact .inr (List.mem_cons_of_mem _ h)

theorem mem_homeWriteAll {s : State} {a : Nat} {bs : SMap Byte} (h : ∀ e ∈ bs, unroutedAt s e.1 = none) :
    (homeWriteAll s a bs).mem = (bs.filter (fun e => arrives s a e.1)).foldl (fun m e => setB m e.1 e.2) s.mem := by
  have hlines : ((linesOf bs).foldl (homeLine a) (raiseLostBytes s a bs)).mem = s.mem := by
    rw [mem_homeLines a fun l hl => ?_, mem_raiseLostBytes]
    obtain ⟨e, he, rfl⟩ := mem_linesOf hl
    rw [(behind_raiseLostBytes s a bs).route, unroutedAt_line, h e he]
  simp only [homeWriteAll, answerWaits, hlines]

/-- Bytes that go home, none of them discarded: a byte of memory is as before, or one of them. -/
theorem getB_homeWriteAll {s : State} {a : Nat} {bs : SMap Byte} (h : ∀ e ∈ bs, unroutedAt s e.1 = none) (x : Nat) :
    getB (homeWriteAll s a bs).mem x = getB s.mem x ∨ (x, getB (homeWriteAll s a bs).mem x) ∈ bs := by
  rw [mem_homeWriteAll h]
  exact (getB_foldl_setB_cases _ s.mem x).imp_right fun hx => (List.mem_filter.1 hx).1

/-- A byte that arrives is in memory, each byte listed once. -/
theorem getB_homeWriteAll_arrived {s : State} {a : Nat} {bs : SMap Byte} (hnd : (bs.map (·.1)).Nodup) {x : Nat} {b : Byte}
    (hb : lookup bs x = some b) (hx : arrives s a x = true) : getB (homeWriteAll s a bs).mem x = b := by
  refine getB_foldl_setB (hnd.sublist (List.filter_sublist.map _)) ?_ _
  rw [lookup_filter_key (fun y => arrives s a y), hx]
  exact hb

theorem behind_sharePoison (s : State) (a : Nat) (bs : SMap Byte) : Behind a s (sharePoison s a bs) :=
  Behind.trans (t := modCore s a (fun c => { c with
      ownPoison := c.ownPoison.filter (fun g => !lies bs g || lies c.unpub g || lies c.recUnpub g || lies c.dirty g) }))
    (behind_modCore fun _ => rfl) (behind_memory a (modCore s a _) _ _ _)

theorem core_sharePoison (s : State) (a : Nat) (bs : SMap Byte) : ∃ o, core (sharePoison s a bs) a = { core s a with ownPoison := o } := by
  have h : core (sharePoison s a bs) a = core (modCore s a (fun c => { c with
      ownPoison := c.ownPoison.filter (fun g => !lies bs g || lies c.unpub g || lies c.recUnpub g || lies c.dirty g) })) a := rfl
  rw [h, core_modCore_self]
  exact ⟨_, rfl⟩

theorem mem_sharePoison (s : State) (a : Nat) (bs : SMap Byte) : (sharePoison s a bs).mem = s.mem := by
  simp only [sharePoison, modCore_mem]

theorem behind_writeBackIf (s : State) (a : Nat) (p : Nat → Bool) : Behind a s (writeBackIf s a p) := by
  unfold writeBackIf
  refine Behind.trans ((behind_homeWriteAll ..).trans (behind_modCore ?_)) (behind_sharePoison ..)
  exact fun _ => rfl

theorem mem_writeBackIf (s : State) (a : Nat) (p : Nat → Bool) :
    (writeBackIf s a p).mem = (homeWriteAll s a ((core s a).dirty.filter (fun e => p e.1))).mem := by
  unfold writeBackIf
  rw [mem_sharePoison, modCore_mem]

/-- What a core holds after the dirty bytes that fit have gone home. -/
theorem core_writeBackIf (s : State) (a : Nat) (p : Nat → Bool) :
    ∃ q l o cl, core (writeBackIf s a p) a =
      { core s a with async := q, latch := l, ownPoison := o, clean := cl, dirty := (core s a).dirty.filter (fun e => !p e.1) } := by
  obtain ⟨q, l, h⟩ := core_homeWriteAll s a ((core s a).dirty.filter (fun e => p e.1))
  unfold writeBackIf
  obtain ⟨o, ho⟩ := core_sharePoison (modCore (homeWriteAll s a ((core s a).dirty.filter (fun e => p e.1))) a
    (fun c => dropLinesOf ((core s a).dirty.filter (fun e => p e.1)) { c with dirty := c.dirty.filter (fun e => !p e.1) })) a
    ((core s a).dirty.filter (fun e => p e.1))
  rw [ho, core_modCore_self, h]
  exact ⟨q, l, o, _, rfl⟩

/-! ## A line comes into the L1 (R18, R286) -/

/-- Room is there, or one other line leaves: its dirty bytes go home. -/
theorem makeRoom_cases (s : State) (a line : Nat) : makeRoom s a line = s ∨ ∃ l, l ≠ line ∧
    makeRoom s a line = modCore (writeBackIf s a (fun ga => ga / 128 == l)) a (fun c => { c with clean := delAt c.clean l }) := by
  unfold makeRoom
  split
  · rename_i l ls h
    have hl : l ∈ othersInSet (core s a) line := by rw [h]; exact List.mem_cons_self ..
    split
    · exact .inl rfl
    · refine .inr ⟨l, ?_, rfl⟩
      have := (List.mem_filter.1 hl).2
      simp only [Bool.and_eq_true, bne_iff_ne] at this
      exact this.2
  · exact .inl rfl

theorem behind_makeRoom (s : State) (a line : Nat) : Behind a s (makeRoom s a line) := by
  obtain h | ⟨l, -, h⟩ := makeRoom_cases s a line
  · rw [h]; exact behind_refl a s
  · rw [h]; exact (behind_writeBackIf ..).trans (behind_modCore fun _ => rfl)

/-- Where no dirty byte is discarded, memory changes in bytes of the line that makes room alone. -/
theorem getB_makeRoom {s : State} {a : Nat} (h : ∀ b ∈ (core s a).dirty, unroutedAt s b.1 = none) (line x : Nat) :
    getB (makeRoom s a line).mem x = getB s.mem x ∨ (x, getB (makeRoom s a line).mem x) ∈ (core s a).dirty := by
  obtain hr | ⟨l, -, hr⟩ := makeRoom_cases s a line
  · rw [hr]; exact .inl rfl
  · rw [hr, modCore_mem, mem_writeBackIf]
    exact (getB_homeWriteAll (fun e he => h e (List.mem_filter.1 he).1) x).imp_right fun hx => (List.mem_filter.1 hx).1

theorem unpub_makeRoom (s : State) (a line : Nat) :
    (core (makeRoom s a line) a).unpub = (core s a).unpub ∧ (core (makeRoom s a line) a).recUnpub = (core s a).recUnpub := by
  obtain h | ⟨l, -, h⟩ := makeRoom_cases s a line
  · rw [h]; exact ⟨rfl, rfl⟩
  · obtain ⟨q, l', o, cl, hc⟩ := core_writeBackIf s a (fun ga => ga / 128 == l)
    rw [h, core_modCore_self, hc]
    exact ⟨rfl, rfl⟩

/-- The dirty bytes that stay, and those of the line that makes room, which are at home. -/
theorem dirty_makeRoom {s : State} {a : Nat} (hnd : ((core s a).dirty.map (·.1)).Nodup) (line : Nat) : ∃ l, l ≠ line ∧ ∀ x,
    lookup (core (makeRoom s a line) a).dirty x = lookup (core s a).dirty x ∨
      (x / 128 = l ∧ lookup (core (makeRoom s a line) a).dirty x = none ∧
        ∀ b, lookup (core s a).dirty x = some b → arrives s a x = true → getB (makeRoom s a line).mem x = b) := by
  obtain h | ⟨l, hl, h⟩ := makeRoom_cases s a line
  · rw [h]
    exact ⟨line + 1, Nat.succ_ne_self line, fun _ => .inl rfl⟩
  · obtain ⟨q, l', o, cl, hc⟩ := core_writeBackIf s a (fun ga => ga / 128 == l)
    have hkept (x : Nat) : lookup (core (makeRoom s a line) a).dirty x = if (!(x / 128 == l)) = true then lookup (core s a).dirty x else none := by
      rw [h, core_modCore_self, hc]
      exact lookup_filter_key (fun y => !(y / 128 == l)) _ x
    refine ⟨l, hl, fun x => ?_⟩
    by_cases hx : x / 128 = l
    · refine .inr ⟨hx, by rw [hkept, if_neg (by simp [hx])], fun b hb harr => ?_⟩
      rw [h, modCore_mem, mem_writeBackIf]
      refine getB_homeWriteAll_arrived (hnd.sublist (List.filter_sublist.map _)) ?_ harr
      rw [lookup_filter_key (fun y => y / 128 == l), if_pos (by simp [hx]), hb]
    · exact .inl (by rw [hkept, if_pos (by simp [hx])])

theorem behind_fillL1 (s : State) (a ga e : Nat) : Behind a s (fillL1 s a ga e) := by
  unfold fillL1
  exact (behind_makeRoom ..).trans (behind_modCore fun _ => rfl)

theorem getB_fillL1 {s : State} {a : Nat} (h : ∀ b ∈ (core s a).dirty, unroutedAt s b.1 = none) (ga e x : Nat) :
    getB (fillL1 s a ga e).mem x = getB s.mem x ∨ (x, getB (fillL1 s a ga e).mem x) ∈ (core s a).dirty :=
  getB_makeRoom h (ga / 128) x

theorem behind_dropClean (s : State) (a : Nat) (hc : Bool) : Behind a s (dropClean s a hc) := behind_modCore fun _ => rfl

/-! ## The tile's own bytes (R103, R286) -/

theorem lookup_dropOwn (m : SMap Byte) (ga n x : Nat) :
    lookup (dropOwn m ga n) x = if x < ga ∨ ga + n ≤ x then lookup m x else none := by
  rw [dropOwn, lookup_filter_key (fun y => decide (y < ga) || decide (ga + n ≤ y))]
  simp

theorem lookup_putOwn_outside (m : SMap Byte) (ga n v : Nat) {x : Nat} (h : x < ga ∨ ga + n ≤ x) :
    lookup (putOwn m ga n v) x = lookup m x := by
  induction n generalizing m ga v with
  | zero => rfl
  | succ n ih => rw [putOwn, ih _ _ _ (by omega), lookup_insAt_ne _ _ (by omega)]

theorem lookup_putOwn_inside (m : SMap Byte) (ga n v i : Nat) (h : i < n) :
    lookup (putOwn m ga n v) (ga + i) = some (BitVec.ofNat 8 (v / 256 ^ i)) := by
  induction n generalizing m ga v i with
  | zero => omega
  | succ n ih =>
    cases i with
    | zero => rw [putOwn, lookup_putOwn_outside _ _ _ _ (by omega)]; simp [lookup_insAt_self]
    | succ i => rw [putOwn, show ga + (i + 1) = ga + 1 + i by omega, ih _ _ _ _ (by omega), Nat.div_div_eq_div_mul, Nat.pow_succ, Nat.mul_comm]

/-- Where a store takes the place of older bytes, none of them is left. -/
theorem ownByte_overwrite_inside (c : Core) {ga n x : Nat} (h : ga ≤ x ∧ x < ga + n) : ownByte (overwrite ga n c) x = none := by
  have hx : ¬(x < ga ∨ ga + n ≤ x) := by omega
  simp only [ownByte, overwrite, coverOwn, lookup_dropOwn, if_neg hx]
  rfl

theorem ownByte_overwrite_outside (c : Core) {ga n x : Nat} (h : x < ga ∨ ga + n ≤ x) : ownByte (overwrite ga n c) x = ownByte c x := by
  simp only [ownByte, overwrite, coverOwn, lookup_dropOwn, if_pos h]

/-- A number whose bytes are all the tile's own is what the tile sees. -/
theorem viewN_of_own {s : State} {a ga n v : Nat} (h : ∀ i < n, ownByte (core s a) (ga + i) = some (BitVec.ofNat 8 (v / 256 ^ i))) :
    viewN s a ga n = v % 256 ^ n := by
  induction n generalizing ga v with
  | zero => simp [viewN, Nat.mod_one]
  | succ n ih =>
    have hfirst := h 0 (Nat.succ_pos n)
    have hrest : viewN s a (ga + 1) n = v / 256 % 256 ^ n := ih fun i hi => by
      rw [show ga + 1 + i = ga + (i + 1) by omega, h (i + 1) (by omega), Nat.div_div_eq_div_mul, Nat.pow_succ, Nat.mul_comm]
    rw [Nat.pow_zero, Nat.div_one, Nat.add_zero] at hfirst
    rw [viewN, hfirst, hrest, Nat.pow_succ, Nat.mul_comm (256 ^ n), Nat.mod_mul]
    simp

/-- Where the tile has no bytes of its own it sees memory. -/
theorem viewN_of_home {s : State} {a ga n : Nat} (h : ∀ i < n, ownByte (core s a) (ga + i) = none) : viewN s a ga n = readN s.mem ga n := by
  induction n generalizing ga with
  | zero => rfl
  | succ n ih =>
    have hrest := ih (ga := ga + 1) fun i hi => by rw [show ga + 1 + i = ga + (i + 1) by omega, h (i + 1) (by omega)]
    rw [viewN, readN, hrest, show ownByte (core s a) ga = none from h 0 (Nat.succ_pos n)]
    rfl

end Sys2Proof.Machine
end

section
/-! PROOFS. PREF, and the checks of loads, stores, atomics and semaphore words (R99, R104, R105, R107, R127, R128). -/

namespace Sys2Proof.Machine

/-! ## Traps after a translation -/

/-- A precise trap of a word whose address has been translated, or not. -/
theorem traps_translated {i : Instr} {s s1 : State} {cause : Nat} {info : Word} (ht : Translated s s1) (hi : exec i s = trapWord cause info s1) :
    Traps i s s1 cause info := by
  intro hresp
  have hcore := ht.core_eq s.cur
  have htrap := trapsBy_trapWord s1 cause info
  rw [TrapsBy, ht.cur, hcore] at htrap
  rw [hi]
  exact htrap hresp

/-- A write to a READDUP page waits for its collapse, or traps where the reeve core has declined it (R377). -/
theorem awaitCollapse_holds {i : Instr} {s s1 : State} {va : Nat} (ht : Translated s s1) (hi : exec i s = awaitCollapse va s1) :
    if (core s1 s.cur).wait = .collapse va true then Traps i s s1 0x08 (BitVec.ofNat 64 va)
    else ∃ t, exec i s = .next t ∧ (core t s.cur).wait = .collapse va false ∧ (core t s.cur).pc = (core s s.cur).pc ∧ t.mem = s1.mem := by
  rw [awaitCollapse, ht.cur] at hi
  split
  next hw => exact traps_translated ht (by rw [hi, if_pos hw])
  next hw =>
    rw [if_neg hw, stall] at hi
    obtain ⟨p, st, rep, hhold⟩ := holdCount_eq (tile s1 s.cur)
    have hcore : core (modTile s1 s.cur holdCount) s.cur = core s1 s.cur := by rw [core, tile_modTile_self, hhold]; rfl
    refine ⟨_, hi, ?_⟩
    rw [show (modTile s1 s.cur holdCount).cur = s.cur from ht.cur, core_modCore_self, hcore, ht.core_eq s.cur]
    exact ⟨rfl, rfl, rfl⟩

/-! ## The words, once their registers are there -/

/-- The translation that a word of the acting core asks for. -/
def asks (s : State) (va : Nat) (wr : Bool) : Trans × State := translate s s.cur false (ctxOf s s.cur) va wr

section
variable {s s1 : State}

theorem exec_ld_misaligned {o : LoadOp} (h : Ready s [] [o.d, o.a] [o.a] o.g) (hd : tokPending (core s s.cur) o.d = false)
    (hva : effective s o.a o.off % sizeBytes o.size ≠ 0) : exec (.ld o) s = trapWord 0x05 (BitVec.ofNat 64 (effective s o.a o.off)) s := by
  change execLd o s = _
  rw [execLd, word_ready h, writes_free hd, needs_arrived h.arrived, ← addrOf_eq_effective]
  rw [← addrOf_eq_effective] at hva
  exact if_pos hva

theorem exec_ld_fails {o : LoadOp} (h : Ready s [] [o.d, o.a] [o.a] o.g) (hd : tokPending (core s s.cur) o.d = false)
    (hva : effective s o.a o.off % sizeBytes o.size = 0) (ht : asks s (effective s o.a o.off) false = (.fail, s1)) :
    exec (.ld o) s = trapWord 0x06 (BitVec.ofNat 64 (effective s o.a o.off)) s1 := by
  change execLd o s = _
  rw [asks] at ht
  rw [execLd, word_ready h, writes_free hd, needs_arrived h.arrived]
  simp only [addrOf_eq_effective, hva, ht, ne_eq, not_true_eq_false, if_false]

theorem exec_st_misaligned {o : StoreOp} (h : Ready s [] [o.a, o.b] [o.a, o.b] o.g) (hva : effective s o.a o.off % sizeBytes o.size ≠ 0) :
    exec (.st o) s = trapWord 0x05 (BitVec.ofNat 64 (effective s o.a o.off)) s := by
  change execSt o s = _
  rw [execSt, word_ready h, needs_arrived h.arrived, ← addrOf_eq_effective]
  rw [← addrOf_eq_effective] at hva
  exact if_pos hva

theorem exec_st_ready {o : StoreOp} (h : Ready s [] [o.a, o.b] [o.a, o.b] o.g) (hva : effective s o.a o.off % sizeBytes o.size = 0) :
    exec (.st o) s = storeChecks (effective s o.a o.off) false (asks s (effective s o.a o.off) true) fun ga e t =>
      afterCo (isRel o.ord) t fun u => reaching (effective s o.a o.off) ga u fun u =>
        .next (advance (storeG u s.cur ga (sizeBytes o.size) e (rdS (core u s.cur) o.b).toNat)) := by
  change execSt o s = _
  rw [execSt, word_ready h, needs_arrived h.arrived]
  simp only [addrOf_eq_effective, asks, hva, ne_eq, not_true_eq_false, if_false]

theorem exec_amo_misaligned {o : AtomOp} (h : Ready s [] (o.d.val :: atomRegs o.op o.a o.b o.c) (atomRegs o.op o.a o.b o.c) o.g)
    (hd : tokPending (core s s.cur) o.d = false) (hva : effective s o.a o.off % (if o.dw then 8 else 4) ≠ 0) :
    exec (.amo o) s = trapWord 0x05 (BitVec.ofNat 64 (effective s o.a o.off)) s := by
  change execAmo o s = _
  rw [execAmo, word_ready h, writes_free hd, needs_arrived h.arrived, ← addrOf_eq_effective]
  rw [← addrOf_eq_effective] at hva
  exact if_pos hva

theorem exec_amo_ready {o : AtomOp} (h : Ready s [] (o.d.val :: atomRegs o.op o.a o.b o.c) (atomRegs o.op o.a o.b o.c) o.g)
    (hd : tokPending (core s s.cur) o.d = false) (hva : effective s o.a o.off % (if o.dw then 8 else 4) = 0) :
    ∃ k, exec (.amo o) s = storeChecks (effective s o.a o.off) true (asks s (effective s o.a o.off) true) k := by
  change ∃ k, execAmo o s = _
  rw [execAmo, word_ready h, writes_free hd, needs_arrived h.arrived]
  simp only [addrOf_eq_effective, asks, hva, ne_eq, not_true_eq_false, if_false]
  exact ⟨_, rfl⟩

theorem exec_sem_misaligned {o : SemOp} (h : Ready s [] [o.a, o.b] [o.a, o.b] o.g) (hva : effective s o.a o.off % 8 ≠ 0) :
    exec (.seminc o) s = trapWord 0x05 (BitVec.ofNat 64 (effective s o.a o.off)) s ∧
      exec (.semwait o) s = trapWord 0x05 (BitVec.ofNat 64 (effective s o.a o.off)) s := by
  change execSeminc o s = _ ∧ execSemwait o s = _
  rw [execSeminc, execSemwait, word_ready h, needs_arrived h.arrived, word_ready h, needs_arrived h.arrived, ← addrOf_eq_effective]
  rw [← addrOf_eq_effective] at hva
  exact ⟨if_pos hva, if_pos hva⟩

/-! ## The checks of a write (R99, R107, R127, R377) -/

/-- The word takes R99's checks of a write at an address: where no page may be written there it traps, and it waits for a collapse. -/
structure ChecksWrite (i : Instr) (s : State) (va : Nat) : Prop where
  fail : ∀ s1, asks s va true = (.fail, s1) → exec i s = trapWord 0x07 (BitVec.ofNat 64 va) s1
  wprot : ∀ s1, asks s va true = (.wprot, s1) → exec i s = trapWord 0x08 (BitVec.ofNat 64 va) s1
  collapse : ∀ s1 e, asks s va true = (.collapse e, s1) → exec i s = awaitCollapse va s1

theorem checksWrite_of_storeChecks {i : Instr} {va : Nat} {amo : Bool} {k : Nat → Nat → State → Out}
    (hi : exec i s = storeChecks va amo (asks s va true) k) : ChecksWrite i s va where
  fail s1 h := by rw [hi, h]; rfl
  wprot s1 h := by rw [hi, h]; rfl
  collapse s1 e h := by rw [hi, h]; rfl

theorem checksWrite_seminc {o : SemOp} (h : Ready s [] [o.a, o.b] [o.a, o.b] o.g) (hva : effective s o.a o.off % 8 = 0) :
    ChecksWrite (.seminc o) s (effective s o.a o.off) := by
  have hexec : exec (.seminc o) s = execSeminc o s := rfl
  rw [execSeminc, word_ready h, needs_arrived h.arrived] at hexec
  simp only [addrOf_eq_effective, hva, ne_eq, not_true_eq_false, if_false] at hexec
  refine ⟨fun s1 ht => ?_, fun s1 ht => ?_, fun s1 e ht => ?_⟩
  all_goals
    rw [asks] at ht
    rw [hexec, ht]

/-- A page on which ST may not store, or AMO not act: check 4 (R99, R107). -/
theorem storeChecks_forbidden {va : Nat} {amo : Bool} {ga e : Nat} (k : Nat → Nat → State → Out)
    (h : (eClass e = 2 ∧ (hdr s1 s1.cur).hcstores = false) ∨ (amo = true ∧ (hdr s1 s1.cur).killable = true)) :
    storeChecks va amo (.ok ga e, s1) k = trapWord 0x09 (BitVec.ofNat 64 va) s1 :=
  if_pos (by simpa using h)

theorem exec_seminc_forbidden {o : SemOp} {ga e : Nat} (h : Ready s [] [o.a, o.b] [o.a, o.b] o.g) (hva : effective s o.a o.off % 8 = 0)
    (ht : asks s (effective s o.a o.off) true = (.ok ga e, s1)) (hf : eClass e ≠ 2 ∨ (hdr s1 s.cur).killable = true) :
    exec (.seminc o) s = trapWord 0x09 (BitVec.ofNat 64 (effective s o.a o.off)) s1 := by
  change execSeminc o s = _
  rw [asks] at ht
  rw [execSeminc, word_ready h, needs_arrived h.arrived]
  simp only [addrOf_eq_effective, hva, ht, ne_eq, not_true_eq_false, if_false]
  exact if_pos hf

theorem exec_semwait_fails {o : SemOp} (h : Ready s [] [o.a, o.b] [o.a, o.b] o.g) (hva : effective s o.a o.off % 8 = 0)
    (ht : asks s (effective s o.a o.off) false = (.fail, s1)) :
    exec (.semwait o) s = trapWord 0x06 (BitVec.ofNat 64 (effective s o.a o.off)) s1 := by
  change execSemwait o s = _
  rw [asks] at ht
  rw [execSemwait, word_ready h, needs_arrived h.arrived]
  simp only [addrOf_eq_effective, hva, ht, ne_eq, not_true_eq_false, if_false]

/-- SEMWAIT of a task that is not killable looks at the page's permission and class (R128). -/
theorem exec_semwait_checked {o : SemOp} {ga e : Nat} (h : Ready s [] [o.a, o.b] [o.a, o.b] o.g) (hva : effective s o.a o.off % 8 = 0)
    (ht : asks s (effective s o.a o.off) false = (.ok ga e, s1)) (hk : (hdr s1 s.cur).killable = false) :
    (eW e = false → exec (.semwait o) s = trapWord 0x08 (BitVec.ofNat 64 (effective s o.a o.off)) s1) ∧
      (eW e = true → eClass e ≠ 2 → exec (.semwait o) s = trapWord 0x09 (BitVec.ofNat 64 (effective s o.a o.off)) s1) := by
  change (_ → execSemwait o s = _) ∧ (_ → _ → execSemwait o s = _)
  rw [asks] at ht
  rw [execSemwait, word_ready h, needs_arrived h.arrived]
  simp only [addrOf_eq_effective, hva, ht, hk, ne_eq, not_true_eq_false, if_false]
  refine ⟨fun hw => if_pos ?_, fun hw hc => (if_neg ?_).trans (if_pos ?_)⟩ <;> simp [*]

end

/-- An address beyond 56 bits does not translate (R99). -/
theorem translate_beyond {va : Nat} (h : 2 ^ 56 ≤ va) (s : State) (a : Nat) (x : Bool) (ctx : Ctx) (wr : Bool) :
    translate s a x ctx va wr = (.fail, s) := by
  rw [translate, if_pos h]

/-! ## PREF (R105) -/

/-- Where no dirty byte of the agent's is discarded, memory changes in bytes that one of them takes home. -/
def Spills (a : Nat) (s t : State) : Prop := (∀ b ∈ (core s a).dirty, unroutedAt s b.1 = none) →
  ∀ x, getB t.mem x = getB s.mem x ∨ (x, getB t.mem x) ∈ (core s a).dirty

theorem spills_of_mem {a : Nat} {s t : State} (h : t.mem = s.mem) : Spills a s t := fun _ _ => .inl (by rw [h])

theorem spills_fillL1 {a : Nat} {s t : State} (h : Homes s t) (hm : t.mem = s.mem) (ga e : Nat) : Spills a s (fillL1 t a ga e) := by
  intro hd x
  rw [← hm, ← h.core_eq a]
  refine getB_fillL1 (fun b hb => ?_) ga e x
  rw [h.route]
  exact hd b (h.core_eq a ▸ hb)

/-- PREF goes on, from a state that differs in the L1 and at the homes alone. -/
theorem exec_pref_ready {s : State} {o : PrefOp} (h : Ready s [] [o.a] [o.a] o.g) :
    ∃ u, exec (.pref o) s = .next (advance u) ∧ Behind s.cur s u ∧ Spills s.cur s u := by
  have hnothing : Behind s.cur s s ∧ Spills s.cur s s := ⟨behind_refl .., spills_of_mem rfl⟩
  have hread (t : State) (ht : Counted s t) : Behind s.cur s t ∧ Spills s.cur s t := ⟨ht.homes.behind _, spills_of_mem ht.mem⟩
  change ∃ u, execPref o s = _ ∧ _
  rw [execPref, word_ready h, needs_arrived h.arrived]
  dsimp only
  split
  · exact ⟨_, rfl, hnothing⟩
  split
  next e t hw =>
    have hh : Homes s t := by
      have := homes_walk s s.cur (ctxOf s s.cur) (addrOf (core s s.cur) o.a o.off) true
      rwa [hw] at this
    have hm : t.mem = s.mem := by
      have := mem_walk_probe (congrArg Prod.fst hw)
      rwa [hw] at this
    have hfound : Behind s.cur s t ∧ Spills s.cur s t := ⟨hh.behind _, spills_of_mem hm⟩
    split
    next ga _ =>
      split
      · exact ⟨_, rfl, hfound⟩
      · refine ⟨_, rfl, ?_⟩
        have hs := counted_serveRead t s.cur ga e
        split
        · exact ⟨(hh.trans hs.homes).behind _, spills_of_mem (hs.mem.trans hm)⟩
        · exact ⟨((hh.trans hs.homes).behind _).trans (behind_fillL1 ..), spills_fillL1 (hh.trans hs.homes) (hs.mem.trans hm) ga e⟩
    · exact ⟨_, rfl, hfound⟩
  next =>
    refine ⟨_, rfl, ?_⟩
    split
    · exact hread _ (counted_unitReads ..)
    · exact hnothing

/-! ## The scratchpad words' checks (R104, R108, R109) -/

theorem padChecks_traps {i : Instr} {s : State} {addr n : Nat} {k : State → Out} (hi : exec i s = padChecks addr n s k) :
    (addr % n ≠ 0 → Traps i s s 0x05 (BitVec.ofNat 64 addr)) ∧
      (addr % n = 0 → (hdr s s.cur).scratch < addr + n → Traps i s s 0x04 (BitVec.ofNat 64 addr)) := by
  refine ⟨fun h => traps_of_trapWord ?_, fun h hb => traps_of_trapWord ?_⟩
  · rw [hi, padChecks, if_pos h]
  · rw [hi, padChecks, if_neg (not_not.2 h), if_pos hb]

/-- Settles O12: PREF's state differs only behind its L1; each check that fails is the word's `trapWord`. -/
theorem prefetchAndAddressChecks : Obligations.PrefetchAndAddressChecks := by
  unfold Obligations.PrefetchAndAddressChecks
  refine ⟨fun s o h => ?pref, ?places, ?pages⟩
  case pref =>
    obtain ⟨u, hu, hb, hmem⟩ := exec_pref_ready h
    have hcore := core_advance u
    have htile := tile_advance u
    have honly := onlyCore_advance u
    rw [hb.cur] at hcore htile honly
    refine ⟨_, hu, ?_, fun r => ?_, fun p => ?_, ?_, hmem, ?_, fun b hne => (honly.others b hne).trans (hb.others b hne)⟩
    · rw [hcore, hb.pc_eq]
    · rw [hcore]
      exact hb.rdS_eq r
    · rw [hcore]
      exact hb.rdP_eq p
    · rw [hcore]
      exact hb.trapRegsKept.goes _
    · rw [htile]
      exact hb.pad_eq
  case places =>
    intro takes within reads
    refine ⟨fun s o h hd _ hva => traps_of_trapWord (exec_ld_misaligned h hd hva), fun s o h _ hva => traps_of_trapWord (exec_st_misaligned h hva),
      fun s o h hd _ hva => traps_of_trapWord (exec_amo_misaligned h hd hva), fun s o h hd _ => padChecks_traps (exec_lds_ready h hd),
      fun s o h _ => padChecks_traps (exec_sts_ready h), fun s o h hd _ => ?_, fun s o h hd _ => ?_, fun s o h hva => ?_⟩
    · obtain ⟨k, hk⟩ := exec_amos_ready h hd
      exact padChecks_traps hk
    · obtain ⟨k, hk⟩ := exec_amosCo_ready h hd
      exact padChecks_traps hk
    · exact (exec_sem_misaligned h hva).imp traps_of_trapWord traps_of_trapWord
  case pages =>
    intro asks' holds writes
    have hwrites {i : Instr} {s : State} {va : Nat} (h : ChecksWrite i s va) : writes i s va := fun s1 =>
      ⟨fun ht => traps_translated (translated_of_eq ht) (h.fail s1 ht), fun ht => traps_translated (translated_of_eq ht) (h.wprot s1 ht),
        fun e ht => awaitCollapse_holds (translated_of_eq ht) (h.collapse s1 e ht)⟩
    refine ⟨fun s a x ctx va wr hva => translate_beyond hva s a x ctx wr, fun s s1 o => ?ld, fun s o => ?st, fun s o => ?amo, fun s o => ?sem⟩
    case ld => exact fun h hd hva ht => traps_translated (translated_of_eq ht) (exec_ld_fails h hd hva ht)
    case st =>
      intro va h hva
      have hexec := exec_st_ready h hva
      refine ⟨hwrites (checksWrite_of_storeChecks hexec), fun s1 ga e ht hc hh => traps_translated (translated_of_eq ht) ?_⟩
      rw [hexec]
      exact (congrArg (storeChecks va false · _) ht).trans (storeChecks_forbidden _ (.inl ⟨hc, (translated_of_eq ht).cur ▸ hh⟩))
    case amo =>
      intro va srcs h hd hva
      obtain ⟨k, hk⟩ := exec_amo_ready h hd hva
      refine ⟨hwrites (checksWrite_of_storeChecks hk), fun s1 ga e ht hf => traps_translated (translated_of_eq ht) ?_⟩
      rw [hk]
      rw [← (translated_of_eq ht).cur] at hf
      exact (congrArg (storeChecks va true · k) ht).trans (storeChecks_forbidden k (hf.imp_right fun hk => ⟨rfl, hk⟩))
    case sem =>
      intro va h hva
      refine ⟨⟨hwrites (checksWrite_seminc h hva), fun s1 ga e ht hf => ?_⟩, fun s1 => ⟨fun ht => ?_, fun ga e ht hk => ?_⟩⟩
      · exact traps_translated (translated_of_eq ht) (exec_seminc_forbidden h hva ht ((translated_of_eq ht).hdr_eq s.cur ▸ hf))
      · exact traps_translated (translated_of_eq ht) (exec_semwait_fails h hva ht)
      · have htr := translated_of_eq ht
        exact (exec_semwait_checked h hva ht ((htr.hdr_eq s.cur).symm ▸ hk)).imp (fun h hw => traps_translated htr (h hw))
          fun h hw hc => traps_translated htr (h hw hc)

end Sys2Proof.Machine
end

section
/-! PROOFS. ST: a store by page class, its publication, and where it does not perform (R99 to R103, R131, R286, R364, R389, R390). -/

namespace Sys2Proof.Machine

/-! ## Publications (R131) -/

theorem behind_publish (s : State) (a : Nat) : Behind a s (publish s a) := by
  unfold publish
  refine Behind.trans ((behind_homeWriteAll ..).trans (behind_modCore ?_)) (behind_sharePoison ..)
  exact fun _ => rfl

theorem mem_publish (s : State) (a : Nat) : (publish s a).mem = (homeWriteAll s a (core s a).unpub).mem := by
  unfold publish
  rw [mem_sharePoison, modCore_mem]

/-- What a core holds after it has published. -/
theorem core_publish (s : State) (a : Nat) :
    ∃ q l o cl, core (publish s a) a = { core s a with async := q, latch := l, ownPoison := o, clean := cl, unpub := [] } := by
  obtain ⟨q, l, h⟩ := core_homeWriteAll s a (core s a).unpub
  unfold publish
  obtain ⟨o, ho⟩ := core_sharePoison (modCore (homeWriteAll s a (core s a).unpub) a
    (fun c => dropLinesOf (core s a).unpub { c with unpub := [] })) a (core s a).unpub
  rw [ho, core_modCore_self, h]
  exact ⟨q, l, o, _, rfl⟩

theorem arrives_iff (s : State) (a ga : Nat) : arrives s a ga = true ↔ lostAt s a ga = false ∧ unroutedAt s ga = none := by
  simp [arrives]

theorem published_publish (s : State) (a : Nat) : Published a s (publish s a) := by
  obtain ⟨q, l, o, cl, hc⟩ := core_publish s a
  refine ⟨by rw [hc], by rw [hc], fun hnd harr => ?_⟩
  have hmem := mem_homeWriteAll (a := a) fun e he => ((arrives_iff s a e.1).1 (harr e he)).2
  rw [List.filter_eq_self.2 harr] at hmem
  rw [mem_publish, hmem]
  refine ⟨fun e he => getB_foldl_setB hnd (lookup_of_mem hnd he) _, fun x hx => getB_foldl_setB_notMem ?_ _⟩
  rw [List.mem_map, not_exists]
  exact fun e he => hx e he.1 he.2

/-- A change of the core beside its unpublished bytes leaves a publication what it is. -/
theorem Published.modCore {a : Nat} {s t : State} (h : Published a s t) {f : Core → Core} (hu : ∀ c, (f c).unpub = c.unpub)
    (hr : ∀ c, (f c).recUnpub = c.recUnpub) : Published a s (modCore t a f) where
  left := by rw [core_modCore_self, hu, h.left]
  kept := by rw [core_modCore_self, hr, h.kept]
  bytes hnd harr := by rw [modCore_mem]; exact h.bytes hnd harr

theorem behind_beginPublish (s : State) (a : Nat) : Behind a s (beginPublish s a) := by
  unfold beginPublish
  refine (behind_publish s a).trans (behind_modCore ?_)
  exact fun _ => rfl

theorem published_beginPublish (s : State) (a : Nat) : Published a s (beginPublish s a) := by
  unfold beginPublish
  refine (published_publish s a).modCore ?_ ?_ <;> exact fun _ => rfl

/-- A core that publishes and waits for it stands at its place. -/
theorem stall_beginPublish (w : Wait) (s : State) : ∃ t, stall w (beginPublish s s.cur) = .next t ∧ (core t s.cur).wait = w ∧
    (core t s.cur).pc = (core s s.cur).pc ∧ Published s.cur s t := by
  have hb := behind_beginPublish s s.cur
  refine ⟨_, rfl, ?_⟩
  rw [hb.cur, core_modCore_self]
  exact ⟨rfl, hb.pc_eq, (published_beginPublish ..).modCore (fun _ => rfl) fun _ => rfl⟩

/-! ## The checks that a store passes (R99, R101, R102) -/

section
variable {s s1 : State} {va ga e : Nat}

/-- A store beyond the limit of unpublished lines publishes and waits, or traps in a killable task. -/
theorem storeChecks_overLimit (k : Nat → Nat → State → Out) (hc : eClass e = 1) (hl : overLimit (core s s.cur) ga = true)
    (hw : (core s s.cur).wait ≠ .published) : storeChecks va false (.ok ga e, s) k =
      if (hdr s s.cur).killable then trapWord 0x13 (BitVec.ofNat 64 va) s else stall (.phase .store) (beginPublish s s.cur) := by
  simp [storeChecks, hc, hl, hw]

theorem storeChecks_passes (k : Nat → Nat → State → Out) (hh : eClass e = 2 → (hdr s s.cur).hcstores = true)
    (hl : eClass e = 1 → overLimit (core s s.cur) ga = false ∨ (core s s.cur).wait = .published) :
    storeChecks va false (.ok ga e, s) k = k ga e s := by
  have hforbidden : ¬(((eClass e == 2 && !(hdr s s.cur).hcstores) || (false && (hdr s s.cur).killable)) = true) := by
    simpa using hh
  have hlimit : ¬(eClass e = 1 ∧ overLimit (core s s.cur) ga = true ∧ (!false) = true ∧ (core s s.cur).wait ≠ .published) := by
    rintro ⟨hc, ho, -, hw⟩
    obtain h | h := hl hc
    · rw [h] at ho; cases ho
    · exact hw h
  exact (if_neg hforbidden).trans (if_neg hlimit)

theorem afterCo_waits {rel : Bool} (h : (rel && coPending s s.cur) = true) (k : State → Out) : afterCo rel s k = stallWord .ownAtomic s := if_pos h

theorem afterCo_free {rel : Bool} (h : (rel && coPending s s.cur) = false) (k : State → Out) : afterCo rel s k = k s :=
  if_neg (by rw [h]; exact Bool.false_ne_true)

/-- A release waits where an AMOS.CO of the core has no answer (R101). -/
theorem releaseWaits_iff (ord : Ord) (s : State) (a : Nat) :
    (isRel ord && coPending s a) = true ↔ (ord = .rel ∨ ord = .ar) ∧ ∃ q ∈ (core s a).co, q.ans = none := by
  simp [isRel, coPending]

theorem Translated.coPending_eq (h : Translated s s1) (a : Nat) : coPending s1 a = coPending s a := by
  rw [coPending, h.core_eq a, coPending]

theorem reaching_lost (h : lostAt s s.cur ga = true) (k : State → Out) : reaching va ga s k = .next (advance (raiseLost s s.cur va)) := if_pos h

theorem reaching_unrouted {dev : Nat} (h : lostAt s s.cur ga = false) (hu : unroutedAt s ga = some dev) (k : State → Out) :
    reaching va ga s k = .next (advance (discarded s dev)) := by
  simp [reaching, h, hu]

theorem reaching_served (h : lostAt s s.cur ga = false) (hu : unroutedAt s ga = none) (k : State → Out) : reaching va ga s k = k s := by
  simp [reaching, h, hu]

/-! ## A word whose address is out of reach (R364, R389, R390) -/

theorem raisesLost_of_exec {i : Instr} (ht : Translated s s1) (hi : exec i s = .next (advance (raiseLost s1 s.cur va))) : RaisesLost i s s1 va := by
  have hcore := core_advance (raiseLost s1 s.cur va)
  have hraise : core (raiseLost s1 s.cur va) s.cur = _ := core_modCore_self ..
  rw [show (raiseLost s1 s.cur va).cur = s.cur from ht.cur, hraise] at hcore
  refine ⟨_, _, hi, ?_, by rw [hcore], rfl⟩
  rw [hcore, ht.core_eq s.cur]

/-- A request to a peer without a route is counted in NOROUTE of die 4 (R364). -/
theorem counter_discarded (s : State) (dev : Nat) : counter (discarded s dev) 4 0x04 = Nat.min (counter s 4 0x04 + 1) (2 ^ 48 - 1) := by
  have hdies (t : State) (g : List Nat) : counter (writeRecord t g) 4 0x04 = counter t 4 0x04 := by
    rw [counter, die, writeRecord_dies, counter, die]
  rw [discarded, noRoute, event, hdies, counter, modDie, die_putDie_self, getAt_insAt_self]
  rfl

theorem discards_of_exec {i : Instr} {dev : Nat} (ht : Translated s s1) (hi : exec i s = .next (advance (discarded s1 dev))) :
    Discards i s s1 := by
  have hh := homes_discarded s1 dev
  have hcore := core_advance (discarded s1 dev)
  rw [show (discarded s1 dev).cur = s.cur from hh.cur.trans ht.cur, hh.core_eq] at hcore
  refine ⟨_, hi, ?_, counter_discarded .., by rw [hcore], by rw [hcore]⟩
  rw [hcore, ht.core_eq s.cur]

end

/-! ## The store itself (R103, R286) -/

section
variable (s : State) (a ga n e v : Nat)

theorem behind_storeG : Behind a s (storeG s a ga n e v) := by
  unfold storeG
  split
  · refine (behind_makeRoom ..).trans (behind_modCore ?_)
    exact fun _ => rfl
  · refine behind_modCore ?_
    exact fun _ => rfl
  · refine ((homes_homeWrite ..).behind a).trans (behind_modCore ?_)
    exact fun _ => rfl

theorem storeG_eq_hc (he : eClass e = 2) : storeG s a ga n e v =
    modCore (homeWrite s a ga n v) a (fun c => { overwrite ga n c with clean := delAt c.clean (ga / 128) }) := by
  unfold storeG
  rw [he]
  rfl

theorem storeG_eq_phase (he : eClass e = 1) : storeG s a ga n e v =
    modCore s a (fun c => { overwrite ga n c with unpub := putOwn (overwrite ga n c).unpub ga n v }) := by
  unfold storeG
  rw [he]
  rfl

theorem storeG_eq_priv (he : eClass e = 0) : storeG s a ga n e v =
    modCore (makeRoom s a (ga / 128)) a (fun c => { overwrite ga n c with dirty := putOwn (overwrite ga n c).dirty ga n v }) := by
  unfold storeG
  rw [he]
  rfl

/-- On an HC page the home holds the bytes, and the tile none of its own in their place. -/
theorem storeG_hc (he : eClass e = 2) : (storeG s a ga n e v).mem = writeN s.mem ga n v ∧
    ∀ i < n, ownByte (core (storeG s a ga n e v) a) (ga + i) = none := by
  rw [storeG_eq_hc s a ga n e v he, core_modCore_self, modCore_mem, mem_homeWrite]
  exact ⟨rfl, fun i hi => ownByte_overwrite_inside _ ⟨by omega, by omega⟩⟩

/-- On a PHASE page the bytes are the tile's own, and memory is as before. -/
theorem storeG_phase (he : eClass e = 1) : (storeG s a ga n e v).mem = s.mem ∧
    (∀ i < n, ownByte (core (storeG s a ga n e v) a) (ga + i) = some (BitVec.ofNat 8 (v / 256 ^ i))) ∧
    ∀ x, x < ga ∨ ga + n ≤ x → ownByte (core (storeG s a ga n e v) a) x = ownByte (core s a) x := by
  rw [storeG_eq_phase s a ga n e v he, core_modCore_self, modCore_mem]
  refine ⟨rfl, fun i hi => ?_, fun x hx => ?_⟩
  · simp only [ownByte, lookup_putOwn_inside _ _ _ _ _ hi, overwrite, coverOwn, lookup_dropOwn,
      if_neg (show ¬(ga + i < ga ∨ ga + n ≤ ga + i) by omega)]
    rfl
  · rw [← ownByte_overwrite_outside (core s a) hx]
    simp only [ownByte, lookup_putOwn_outside _ _ _ _ hx]

/-- On a PRIV page a line's room is made, and the bytes are dirty in it. -/
theorem storeG_priv (he : eClass e = 0) : (storeG s a ga n e v).mem = (makeRoom s a (ga / 128)).mem ∧
    core (storeG s a ga n e v) a =
      { overwrite ga n (core (makeRoom s a (ga / 128)) a) with
        dirty := putOwn (overwrite ga n (core (makeRoom s a (ga / 128)) a)).dirty ga n v } := by
  rw [storeG_eq_priv s a ga n e v he, core_modCore_self, modCore_mem]
  exact ⟨rfl, rfl⟩

/-- The bytes a tile holds after a store to a PRIV page. -/
theorem lookup_storeG_priv (he : eClass e = 0) :
    (∀ i < n, lookup (core (storeG s a ga n e v) a).dirty (ga + i) = some (BitVec.ofNat 8 (v / 256 ^ i)) ∧
      ownByte (core (storeG s a ga n e v) a) (ga + i) = some (BitVec.ofNat 8 (v / 256 ^ i))) ∧
    ∀ x, x < ga ∨ ga + n ≤ x →
      lookup (core (storeG s a ga n e v) a).dirty x = lookup (core (makeRoom s a (ga / 128)) a).dirty x ∧
      lookup (core (storeG s a ga n e v) a).unpub x = lookup (core s a).unpub x ∧
      lookup (core (storeG s a ga n e v) a).recUnpub x = lookup (core s a).recUnpub x := by
  obtain ⟨hunpub, hrec⟩ := unpub_makeRoom s a (ga / 128)
  rw [(storeG_priv s a ga n e v he).2, ← hunpub, ← hrec]
  refine ⟨fun i hi => ?_, fun x hx => ?_⟩
  · have hout : ¬(ga + i < ga ∨ ga + n ≤ ga + i) := by omega
    refine ⟨lookup_putOwn_inside _ _ _ _ _ hi, ?_⟩
    simp only [ownByte, lookup_putOwn_inside _ _ _ _ _ hi, overwrite, coverOwn, lookup_dropOwn, if_neg hout]
    rfl
  · simp only [lookup_putOwn_outside _ _ _ _ hx, overwrite, coverOwn, lookup_dropOwn, if_pos hx, and_self]

/-- A tile sees what it has stored, whatever class it wrote the bytes under before. -/
theorem viewN_storeG (he : eClass e ≤ 2) : viewN (storeG s a ga n e v) a ga n = v % 256 ^ n := by
  obtain he | he | he : eClass e = 0 ∨ eClass e = 1 ∨ eClass e = 2 := by omega
  · exact viewN_of_own fun i hi => ((lookup_storeG_priv s a ga n e v he).1 i hi).2
  · exact viewN_of_own (storeG_phase s a ga n e v he).2.1
  · obtain ⟨hmem, hown⟩ := storeG_hc s a ga n e v he
    rw [viewN_of_home hown, hmem, readN_writeN]

end

/-- What a tile sees depends on its own bytes and on memory alone. -/
theorem viewN_congr {s t : State} {a : Nat} (hown : ∀ x, ownByte (core t a) x = ownByte (core s a) x) (hmem : t.mem = s.mem) (ga n : Nat) :
    viewN t a ga n = viewN s a ga n := by
  induction n generalizing ga with
  | zero => rfl
  | succ n ih => rw [viewN, viewN, hown, hmem, ih]

theorem viewN_advance (s : State) (ga n : Nat) : viewN (advance s) s.cur ga n = viewN s s.cur ga n :=
  viewN_congr (s := s) (t := advance s) (fun x => by rw [core_advance]; rfl) rfl ga n

/-- Settles O9: the checks in their order, then `storeG` on a translated page. -/
theorem storeByPageClass : Obligations.StoreByPageClass := by
  unfold Obligations.StoreByPageClass
  intro s s1 o ga e n va hready hal htrans hclass hhc published unperformed
  have htr := translated_of_eq htrans
  have hcur : s1.cur = s.cur := htr.cur
  have hwait : (core s1 s.cur).wait = (core s s.cur).wait := by rw [htr.core_eq s.cur]
  have hreg : rdS (core s1 s.cur) o.b = sreg s o.b := by rw [htr.core_eq s.cur]; rfl
  have hexec := exec_st_ready hready hal
  rw [asks, htrans] at hexec
  have hpasses (hlimit : eClass e = 1 → overLimit (core s1 s.cur) ga = false ∨ published) := hexec.trans <|
    storeChecks_passes _ (hcur.symm ▸ hhc) fun hc => by
      rw [hcur, hwait]
      exact hlimit hc
  refine ⟨fun hc hover hnot => ?limit, fun hlimit hun => ?waits, fun hlimit hun => ?goes⟩
  case limit =>
    rw [storeChecks_overLimit _ hc (hcur.symm ▸ hover) (by rw [hcur, hwait]; exact hnot)] at hexec
    simp only [hcur] at hexec
    refine ⟨fun hk => ?_, fun hk hresp => ?_⟩
    · obtain ⟨t, ht, hw, hpc, hpub⟩ := stall_beginPublish (.phase .store) s1
      rw [hcur] at ht hw hpc hpub
      rw [hexec, hk]
      refine ⟨t, ht, hw, hpc.trans ?_, hpub⟩
      rw [htr.core_eq s.cur]
    · rw [if_pos hk] at hexec
      obtain ⟨t, ht, hcause, hinfo, -, -, -, -, honly⟩ := traps_translated htr hexec hresp
      exact ⟨t, ht, hcause, hinfo, honly.mem⟩
  case waits =>
    rw [hpasses hlimit, afterCo_waits, stallWord_eq, hcur]
    rw [hcur, htr.coPending_eq]
    exact (releaseWaits_iff ..).2 hun
  case goes =>
    have hfree : (isRel o.ord && coPending s1 s1.cur) = false := by
      rw [hcur, htr.coPending_eq, Bool.eq_false_iff]
      exact fun h => hun ((releaseWaits_iff ..).1 h)
    have hgo := (hpasses hlimit).trans (afterCo_free hfree _)
    refine ⟨fun hlost => ?_, fun hlost hun => ?_, fun hlost hun => ?_⟩
    · rw [reaching_lost (hcur.symm ▸ hlost), hcur] at hgo
      exact raisesLost_of_exec htr hgo
    · obtain ⟨dev, hdev⟩ := Option.ne_none_iff_exists'.1 hun
      rw [reaching_unrouted (hcur.symm ▸ hlost) hdev] at hgo
      exact discards_of_exec htr hgo
    · rw [reaching_served (hcur.symm ▸ hlost) hun, hreg] at hgo
      have hb := behind_storeG s1 s.cur ga n e (sreg s o.b).toNat
      have hview := viewN_storeG s1 s.cur ga n e (sreg s o.b).toNat hclass
      have hhome := storeG_hc s1 s.cur ga n e (sreg s o.b).toNat
      have hphase := storeG_phase s1 s.cur ga n e (sreg s o.b).toNat
      have hpriv := storeG_priv s1 s.cur ga n e (sreg s o.b).toNat
      have hdirty := lookup_storeG_priv s1 s.cur ga n e (sreg s o.b).toNat
      generalize storeG s1 s.cur ga n e (sreg s o.b).toNat = u at hgo hb hview hhome hphase hpriv hdirty
      have hucur : u.cur = s.cur := hb.cur.trans hcur
      have hcore := core_advance u
      have hadv := viewN_advance u ga n
      rw [hucur] at hcore hadv
      have hmem : (advance u).mem = u.mem := rfl
      refine ⟨_, hgo, ?_, fun r => ?_, hadv.trans hview, fun he => ?_, fun he => ?_, fun he => ?_⟩
      · rw [hcore, hb.pc_eq, htr.core_eq s.cur]
      · rw [hcore]
        exact (hb.rdS_eq r).trans (by rw [htr.core_eq s.cur]; rfl)
      · rw [hmem, (hhome he).1]
        exact ⟨readN_writeN .., fun x => getB_writeN_outside _ _ _ _ x⟩
      · rw [hmem, hcore]
        exact hphase he
      · obtain ⟨hin, hout⟩ := hdirty he
        rw [hmem, hcore, (hpriv he).1]
        refine ⟨fun h => getB_makeRoom h _, fun i hi => (hin i hi).1, fun x hx => (hout x hx).2, fun hnd => ?_⟩
        obtain ⟨l, hl, h⟩ := dirty_makeRoom hnd (ga / 128)
        exact ⟨l, hl, fun x hx => by rw [(hout x hx).1]; exact h x⟩

end Sys2Proof.Machine
end

section
/-! PROOFS. An AMOS.CO towards another device whose copy still has room, though a longer burst with its contents would have none (R368). -/

namespace Sys2Proof.Machine

/-- Tile 0 has s1 = 64, s2 = 5 and a descriptor at byte 64 of its scratchpad: tensor 7, INT32, one dimension, tile 2 of die 0 of device
1024, in another domain. Staging memory has 128 bytes left, which the burst's two flits take; four would not fit. -/
def stagingForTwo : State :=
  { State.reset with
    tiles := [(0, { Tile.reset with
      core := { Core.reset with s := [(1, 64), (2, 5)], run := .running }
      pad := writeN (writeN [] 64 8 (7 + 0x03 * 2 ^ 32 + 1 * 2 ^ 40 + 2 * 2 ^ 44)) 72 8 1024 })]
    dev := { Dev.reset with routes := [1024], staging := 2 ^ 24 - 128 } }

/-- An addition of s2 by way of the descriptor at s1, its old value to s3. -/
def addFar : AtomS := ⟨⟨false, 0⟩, 3, 1, 2, .add, false, 0, 0⟩

/-- A burst with the contents of the word's, and an extension and a scale flit beside them. -/
def longAdd : Burst := ⟨7, 0x03, 1, 1, 1, false, true, true, 0, 0, [0], [5], 0, []⟩

/-- The place of tile 0's core after an outcome. -/
def placeAfter (o : Out) : Nat := match o with | .next t => (core t 0).pc | _ => 0

theorem addFar_ready : Ready stagingForTwo [12] [3, 1, 2] [1, 2] addFar.g := by
  refine ⟨?_, ?_, ?_, ?_⟩ <;> decide +kernel

/-- The word's burst finds room: the core goes on. -/
theorem placeAfter_addFar : placeAfter (exec (.amosCo addFar) stagingForTwo) = 1 := by decide +kernel

/-- Refutes O11: every burst that carries the word's contents would have to find room, those with an extension and a scale flit among
them, where the word's own burst has neither. In `stagingForTwo` the word goes on, and the statement has it wait. -/
theorem not_atomics : ¬ Obligations.Atomics := by
  unfold Obligations.Atomics
  intro h
  have hword := h.2 stagingForTwo addFar addFar_ready (by decide +kernel) (by decide +kernel) (by decide +kernel) (by decide +kernel)
    (by decide +kernel) (by decide +kernel) (by decide +kernel) (by decide +kernel) (by decide +kernel) (by decide +kernel) (by decide +kernel)
  have hfar := hword.1 (by decide +kernel) (by decide +kernel)
  have hstall := hfar.2.1 (by decide +kernel) longAdd (by decide +kernel) (by decide +kernel)
  have hplace : placeAfter (exec (.amosCo addFar) stagingForTwo) = 0 := by rw [hstall]; rfl
  rw [placeAfter_addFar] at hplace
  exact absurd hplace (by decide)

end Sys2Proof.Machine
end

section
/-! PROOFS. Waits that are over, semaphores at their homes, and LAUNCHQ (R101, R118, R124 to R129, R364, R388 to R390). -/

namespace Sys2Proof.Machine

/-! ## A core that goes on -/

theorem core_goAt (a pc : Nat) (s : State) : core (goAt a pc s) a = { core s a with pc := pc, wait := .none, afterGbar := false } :=
  congrArg Tile.core (tile_modTile_self s a _)

theorem core_advanceAt (a : Nat) (s : State) :
    core (advanceAt a s) a = { core s a with pc := (core s a).pc + 1, wait := .none, afterGbar := false } := core_goAt ..

/-- Behind an operation of its L1 the core goes on from its place, with its registers. -/
theorem Behind.goesOn {a : Nat} {s u : State} (h : Behind a s u) : (Machine.core (advanceAt a u) a).pc = (Machine.core s a).pc + 1 ∧
    (Machine.core (advanceAt a u) a).wait = .none ∧ ∀ r, rdS (Machine.core (advanceAt a u) a) r = rdS (Machine.core s a) r := by
  rw [core_advanceAt, h.pc_eq]
  exact ⟨rfl, rfl, h.rdS_eq⟩

theorem behind_acquire (s : State) (a : Nat) (sc : Scope) : Behind a s (acquire s a sc) := by
  unfold acquire
  split
  · exact behind_refl a s
  · exact behind_dropClean s a true

theorem mem_acquire (s : State) (a : Nat) (sc : Scope) : (acquire s a sc).mem = s.mem := by
  unfold acquire
  split <;> rfl

theorem waits_acquire (s : State) (a : Nat) (sc : Scope) : (acquire s a sc).waits = s.waits := by
  unfold acquire
  split <;> rfl

/-! ## RDV, WAITTL and MAPWAIT (R118, R124, R125) -/

section
variable {s : State}

theorem exec_rdv_idle {o : RdvOp} (h : Ready s [] [] [] o.g) (hi : enginesIdle (tile s s.cur) o.e = true) :
    exec (.rdv o) s = .next (advance s) := by
  change execRdv o s = _
  rw [execRdv, word_ready h, if_pos hi]

theorem exec_rdvComplete_idle {a : Nat} {e : EMask} (hw : (core s a).wait = .rdv e) (hi : enginesIdle (tile s a) e = true) :
    exec (.rdvComplete a) s = .next (advanceAt a s) := by
  change execRdvComplete a s = _
  rw [execRdvComplete, hw]
  exact if_pos hi

theorem exec_waittl_reached {o : WaitTlOp} (h : Ready s [] [o.a.val] [o.a.val] o.g) (hc : o.tl = .c → isSeq s.cur = true)
    (hn : (sreg s o.a).toNat ≤ (timelineAt s s.cur o.tl).toNat) : exec (.waittl o) s = .next (advance (acquire s s.cur o.scope)) := by
  change execWaittl o s = _
  rw [execWaittl, word_ready h, needs_arrived h.arrived]
  have hlegal : ¬(o.tl = .c ∧ (!isSeq s.cur) = true) := fun ⟨hl, hs⟩ => by rw [hc hl] at hs; cases hs
  exact (if_neg hlegal).trans (if_pos hn)

theorem exec_waittlComplete_reached {a n : Nat} {l : Timeline} {sc : Scope} (hw : (core s a).wait = .waittl l n sc)
    (hn : n ≤ (timelineAt s a l).toNat) : exec (.waittlComplete a) s = .next (advanceAt a (acquire s a sc)) := by
  change execWaittlComplete a s = _
  rw [execWaittlComplete, hw]
  exact if_pos hn

/-- MAPWAIT of a declared slot on a compute tile: its token at once, or the slot's ready event is to write it. -/
theorem exec_mapwait_ready {o : MapWaitOp} (h : Ready s [] [o.d.val] [] o.g) (hm : o.slot.val < (hdr s s.cur).maps) (hq : isSeq s.cur = false)
    (hd : tokPending (core s s.cur) o.d = false) : exec (.mapwait o) s =
      if (slotOf s s.cur o.slot).ready then .next (advance (writeToken s s.cur o.d 0 (slotOf s s.cur o.slot).readyCount))
      else if o.d.val = 0 then stall (.mapwait o.slot) s
      else done (fun c => markTok o.d { c with mapTok := c.mapTok ++ [(o.d.val, o.slot.val)] }) s := by
  change execMapwait o s = _
  rw [execMapwait, if_neg (Nat.not_le.2 hm), wordX_ready h, hq, writes_free hd]
  rfl

theorem tokenValue_done (count : Nat) : tokenValue 0 count = BitVec.ofNat 64 (2 ^ 63 + count % 2 ^ 48) := by simp [tokenValue]

theorem onlyCore_writeToken (s : State) (a r status count : Nat) : OnlyCore a s (writeToken s a r status count) := by
  unfold writeToken
  split
  · exact onlyCore_refl s a
  · exact onlyCore_modCore ..

/-- A token comes into its register, which is pending no longer. -/
theorem core_writeToken (s : State) (a : Nat) {r : Nat} (hr : r ≠ 0) (status count : Nat) : core (writeToken s a r status count) a =
    { clearTok r (wrS r (tokenValue status count) (core s a)) with latch := true } := by
  rw [writeToken, if_neg hr, core_modCore_self]

theorem writeToken_zero (s : State) (a status count : Nat) : writeToken s a 0 status count = s := rfl

theorem tokPending_clearTok (r : Nat) (c : Core) : tokPending (clearTok r c) r = false := by
  simp [tokPending, clearTok]

theorem tokPending_markTok {r : Nat} (h0 : r ≠ 0) (hr : r < 64) (c : Core) : tokPending (markTok r c) r = true := by
  simp [tokPending, markTok, h0, hr]

/-- What a token leaves of its core: it is in its register, s0 apart, and every other register and the place are as before. -/
theorem regs_writeToken (s : State) (a r status count : Nat) :
    (core (writeToken s a r status count) a).pc = (core s a).pc ∧
    rdS (core (writeToken s a r status count) a) r = (if r = 0 then 0 else tokenValue status count) ∧
    ∀ q, q ≠ r → rdS (core (writeToken s a r status count) a) q = rdS (core s a) q := by
  by_cases hr : r = 0
  · subst hr
    exact ⟨rfl, (if_pos rfl).symm, fun _ _ => rfl⟩
  · rw [core_writeToken s a hr]
    generalize tokenValue status count = v
    exact ⟨wrS_pc .., rdS_wrS_self .., fun q hq => rdS_wrS_ne _ _ hq⟩

theorem cur_writeToken (s : State) (a r status count : Nat) : (writeToken s a r status count).cur = s.cur := by
  unfold writeToken
  split <;> rfl

theorem advance_eq {u : State} {a : Nat} (h : u.cur = a) : advance u = advanceAt a u := by
  subst h
  rfl

/-- The ready event of a slot whose token one register awaits. -/
theorem exec_mapwaitReady_token {a k r : Nat} (ht : (core s a).mapTok = [(r, k)]) (hr : (slotOf s a k).ready = true)
    (hw : (core s a).wait ≠ .mapwait k) : ∃ f : Core → Core, (∀ c, f c = { c with mapTok := c.mapTok.filter (fun q => q.2 != k) }) ∧
      exec (.mapwaitReady a k) s = .next (modCore (writeToken s a r 0 (slotOf s a k).readyCount) a f) := by
  refine ⟨_, fun _ => rfl, ?_⟩
  change execMapwaitReady a k s = _
  rw [execMapwaitReady, if_pos hr, ht]
  simp only [List.filter_cons, List.filter_nil, beq_self_eq_true, if_true, List.foldl_cons, List.foldl_nil, core_modCore_self]
  by_cases h0 : r = 0
  · subst h0
    rw [writeToken_zero, if_neg hw]
  · rw [core_writeToken s a h0, if_neg (by simpa using hw)]

/-- The ready event of a slot at which the core itself waits. -/
theorem exec_mapwaitReady_waits {a k : Nat} (ht : (core s a).mapTok = []) (hr : (slotOf s a k).ready = true)
    (hw : (core s a).wait = .mapwait k) : ∃ f : Core → Core, (∀ c, f c = { c with mapTok := c.mapTok.filter (fun q => q.2 != k) }) ∧
      exec (.mapwaitReady a k) s = .next (advanceAt a (modCore s a f)) := by
  refine ⟨_, fun _ => rfl, ?_⟩
  change execMapwaitReady a k s = _
  rw [execMapwaitReady, if_pos hr, ht]
  simp only [List.filter_nil, List.foldl_nil, core_modCore_self, hw, if_true]

end

/-! ## Semaphores at their homes (R127, R128) -/

section
variable {s : State} {a ga n : Nat}

theorem semHeld_iff : semHeld s a ga n = true ↔ ∃ m, (⟨a, ga, n, m⟩ : HeldWait) ∈ s.waits := by
  rw [semHeld, List.any_eq_true]
  constructor
  · rintro ⟨⟨a', ga', n', m⟩, hw, h⟩
    simp only [Bool.and_eq_true, beq_iff_eq] at h
    obtain ⟨⟨rfl, rfl⟩, rfl⟩ := h
    exact ⟨m, hw⟩
  · rintro ⟨m, hm⟩
    exact ⟨_, hm, by simp⟩

/-- The home has answered: an update has crossed the threshold, and the way back passes. -/
theorem semAnswered_iff (hl : lostAt s a ga = false) (hu : unroutedAt s ga = none) :
    semAnswered s a ga n = true ↔ (⟨a, ga, n, true⟩ : HeldWait) ∈ s.waits ∧ wayOpen s a (servedBy ga) = true := by
  have hmet : s.waits.any (fun w => w.agent == a && w.ga == ga && w.n == n && w.met) = true ↔ (⟨a, ga, n, true⟩ : HeldWait) ∈ s.waits := by
    rw [List.any_eq_true]
    constructor
    · rintro ⟨⟨a', ga', n', m⟩, hw, h⟩
      simp only [Bool.and_eq_true, beq_iff_eq] at h
      obtain ⟨⟨⟨rfl, rfl⟩, rfl⟩, rfl⟩ := h
      exact hw
    · exact fun h => ⟨_, h, by simp⟩
  rw [semAnswered, hl, hu, ← hmet]
  simp

/-- The agent has its answer: it goes on, and its wait is forgotten. -/
theorem semGo_goesOn (s : State) (a ga : Nat) (sc : Scope) : (core (semGo a ga sc s) a).pc = (core s a).pc + 1 ∧
    (core (semGo a ga sc s) a).wait = .none ∧ (semGo a ga sc s).mem = s.mem ∧ (∀ r, rdS (core (semGo a ga sc s) a) r = rdS (core s a) r) ∧
    ∀ w ∈ (semGo a ga sc s).waits, w.agent ≠ a := by
  have hw : Behind a s (withdraw s a) := behind_memory a s s.mem s.memPoison _
  have hb : Behind a s (dropLine (acquire (withdraw s a) a sc) a ga) := (hw.trans (behind_acquire ..)).trans (behind_modCore fun _ => rfl)
  obtain ⟨hpc, hwait, hregs⟩ := hb.goesOn
  refine ⟨hpc, hwait, mem_acquire .., hregs, fun w h => ?_⟩
  have h : w ∈ (acquire (withdraw s a) a sc).waits := h
  rw [waits_acquire] at h
  simpa using (List.mem_filter.1 h).2

/-- A SEMWAIT that stands: its core stands at its place, and waits for this semaphore. -/
theorem stall_stands {u : State} (hb : Behind s.cur s u) (w : Wait) :
    ∃ t, stall w u = .next t ∧ (core t s.cur).pc = (core s s.cur).pc ∧ t.mem = u.mem ∧ (core t s.cur).wait = w ∧ t.waits = u.waits := by
  refine ⟨_, rfl, ?_⟩
  rw [hb.cur, core_modCore_self]
  exact ⟨hb.pc_eq, rfl, rfl, rfl⟩

/-- SEMWAIT where the home can be read. -/
theorem semWait_readable (va : Nat) (sc : Scope) (h : SemReadable s s.cur ga) : semWait va ga n sc s =
    if semAnswered s s.cur ga n then .next (semGo s.cur ga sc s)
    else if semHeld s s.cur ga n then stall (.semwait va ga n sc) s
    else if wayOpen s s.cur (servedBy ga) then semAsk (.semwait va ga n sc) ga n sc s else stall (.semwait va ga n sc) s := by
  obtain ⟨hl, hu, hp⟩ := h
  simp [semWait, hl, hu, hp]

theorem semAsk_reached {w : Wait} {sc : Scope} (h : n ≤ readN s.mem ga 8) :
    semAsk w ga n sc s = .next (semGo s.cur ga sc (reachHome s s.cur ga)) :=
  if_pos (by rw [(counted_reachHome s s.cur ga).mem]; exact h)

/-- The home is asked, and holds the wait. -/
theorem semAsk_held {w : Wait} {sc : Scope} (h : readN s.mem ga 8 < n) :
    ∃ t, semAsk w ga n sc s = .next t ∧ (core t s.cur).pc = (core s s.cur).pc ∧ t.mem = s.mem ∧ (core t s.cur).wait = w ∧
      (⟨s.cur, ga, n, false⟩ : HeldWait) ∈ t.waits := by
  have hc := counted_reachHome s s.cur ga
  have hb : Behind s.cur s { withdraw (reachHome s s.cur ga) s.cur with
      waits := (withdraw (reachHome s s.cur ga) s.cur).waits ++ [⟨s.cur, ga, n, false⟩] } :=
    (hc.homes.behind _).trans (behind_memory s.cur (reachHome s s.cur ga) (reachHome s s.cur ga).mem (reachHome s s.cur ga).memPoison _)
  obtain ⟨t, ht, hpc, hmem, hw, hwaits⟩ := stall_stands hb w
  refine ⟨t, ?_, hpc, hmem.trans hc.mem, hw, by rw [hwaits]; exact List.mem_append_right _ (List.mem_singleton.2 rfl)⟩
  rw [← ht]
  exact if_neg (by rw [hc.mem]; exact Nat.not_le.2 h)

end

/-- A word of a translated address goes on past its wait, its registers and memory as they were; the homes hold no wait of its agent. -/
def GoesPast (i : Instr) (s s1 : State) : Prop :=
  ∃ t, exec i s = .next t ∧ (core t s.cur).pc = (core s s.cur).pc + 1 ∧ t.mem = s1.mem ∧
    (∀ r, rdS (core t s.cur) r = rdS (core s s.cur) r) ∧ ∀ w ∈ t.waits, w.agent ≠ s.cur

/-- It stands at its place and waits, and the homes hold the waits that `p` names. -/
def StandsAt (i : Instr) (s s1 : State) (w : Wait) (p : List HeldWait → Prop) : Prop :=
  ∃ t, exec i s = .next t ∧ (core t s.cur).pc = (core s s.cur).pc ∧ t.mem = s1.mem ∧ (core t s.cur).wait = w ∧ p t.waits

section
variable {i : Instr} {s s1 : State} (htr : Translated s s1)
include htr

theorem goesPast_of_semGo {u : State} {ga : Nat} {sc : Scope} (hb : Behind s.cur s1 u) (hmem : u.mem = s1.mem)
    (hi : exec i s = .next (semGo s.cur ga sc u)) : GoesPast i s s1 := by
  obtain ⟨hpc, -, hm, hregs, hwaits⟩ := semGo_goesOn u s.cur ga sc
  refine ⟨_, hi, ?_, hm.trans hmem, fun r => ?_, hwaits⟩
  · rw [hpc, hb.pc_eq, htr.core_eq s.cur]
  · rw [hregs, hb.rdS_eq, htr.core_eq s.cur]
    rfl

theorem standsAt_of_stall {w : Wait} (hi : exec i s = stall w s1) : StandsAt i s s1 w (· = s1.waits) := by
  obtain ⟨t, ht, hpc, hm, hw, hwaits⟩ := stall_stands (behind_refl s1.cur s1) w
  rw [htr.cur] at hpc hw
  exact ⟨t, hi.trans ht, hpc.trans (by rw [htr.core_eq s.cur]), hm, hw, hwaits⟩

theorem standsAt_of_semAsk {w : Wait} {sc : Scope} {ga n : Nat} (hlt : readN s1.mem ga 8 < n) (hi : exec i s = semAsk w ga n sc s1) :
    StandsAt i s s1 w ((⟨s.cur, ga, n, false⟩ : HeldWait) ∈ ·) := by
  obtain ⟨t, ht, hpc, hm, hw, hin⟩ := semAsk_held (w := w) (sc := sc) hlt
  rw [htr.cur] at hpc hw hin
  exact ⟨t, hi.trans ht, hpc.trans (by rw [htr.core_eq s.cur]), hm, hw, hin⟩

end

/-- SEMWAIT with its checks behind it. -/
theorem exec_semwait_passes {s s1 : State} {o : SemOp} {ga e : Nat} (h : Ready s [] [o.a, o.b] [o.a, o.b] o.g)
    (hva : effective s o.a o.off % 8 = 0) (ht : asks s (effective s o.a o.off) false = (.ok ga e, s1))
    (hk : (hdr s1 s.cur).killable = false → eW e = true ∧ eClass e = 2) :
    exec (.semwait o) s = semWait (effective s o.a o.off) ga (rdS (core s1 s.cur) o.b).toNat o.scope s1 := by
  change execSemwait o s = _
  rw [asks] at ht
  rw [execSemwait, word_ready h, needs_arrived h.arrived]
  simp only [addrOf_eq_effective, hva, ht, ne_eq, not_true_eq_false, if_false]
  rw [if_neg (fun hf => ?_), if_neg (fun hf => ?_)]
  all_goals
    cases hkill : (hdr s1 s.cur).killable
    · simp [hkill, hk hkill] at hf
    · simp [hkill] at hf

/-- SEMINC with its checks behind it. -/
theorem exec_seminc_passes {s s1 : State} {o : SemOp} {ga e : Nat} (h : Ready s [] [o.a, o.b] [o.a, o.b] o.g)
    (hva : effective s o.a o.off % 8 = 0) (ht : asks s (effective s o.a o.off) true = (.ok ga e, s1))
    (hc : eClass e = 2) (hk : (hdr s1 s.cur).killable = false) : exec (.seminc o) s =
      afterCo true s1 fun u => reaching (effective s o.a o.off) ga u fun u =>
        .next (advance (dropLine (semAdd u s.cur ga (rdS (core u s.cur) o.b)) s.cur ga)) := by
  change execSeminc o s = _
  rw [asks] at ht
  rw [execSeminc, word_ready h, needs_arrived h.arrived]
  simp only [addrOf_eq_effective, hva, ht, ne_eq, not_true_eq_false, if_false]
  exact if_neg (by simp [hc, hk])

theorem semAdd_eq (s : State) (a ga : Nat) (x : Word) : semAdd s a ga x = homeWrite s a ga 8 ((readN s.mem ga 8 + x.toNat) % 2 ^ 64) := by
  simp [semAdd, homeAtomic, aopNew, Nat.mod_eq_of_lt x.isLt]

/-- A write answers the waits held at the home that it reaches, unless their semaphore is poisoned (R128, R384). -/
theorem waits_homeWrite (s : State) (a ga n x : Nat) : (homeWrite s a ga n x).waits = s.waits.map (fun w =>
    if !poisonedAt (homeWrite s a ga n x).memPoison 32 w.ga 8 ∧ w.n ≤ readN (homeWrite s a ga n x).mem w.ga 8 then { w with met := true }
    else w) := by
  rw [← (counted_homeLines s a (linesIn ga n)).waits]
  rfl

/-- Where a SEMINC has performed: the semaphore has grown, wrapping, and the waits that it has reached are answered. -/
theorem dropLine_semAdd (s : State) (a ga : Nat) (x : Word) : ∃ u, dropLine (semAdd s a ga x) a ga = u ∧ Behind a s u ∧
    u.mem = writeN s.mem ga 8 ((readN s.mem ga 8 + x.toNat) % 2 ^ 64) ∧
    u.waits = s.waits.map (fun w => if !poisonedAt u.memPoison 32 w.ga 8 ∧ w.n ≤ readN u.mem w.ga 8 then { w with met := true } else w) := by
  refine ⟨_, rfl, ?_⟩
  rw [semAdd_eq, dropLine]
  exact ⟨((homes_homeWrite ..).behind a).trans (behind_modCore fun _ => rfl), mem_homeWrite .., waits_homeWrite ..⟩

theorem coPending_of_answered {s : State} {a : Nat} (h : ∀ q ∈ (core s a).co, q.ans ≠ none) : coPending s a = false := by
  simpa [coPending, Option.ne_none_iff_isSome] using h

/-! ## LAUNCHQ (R129, R388, R389) -/

theorem bits_low (b : Nat) : bits b 1 0 = b % 4 ∧ bits b 5 2 = b / 4 % 16 := by simp [bits]

theorem bits_class {b : Nat} (h : b < 256) : bits b 7 6 = b / 64 := by
  simp only [bits]
  exact Nat.mod_eq_of_lt (by omega)

theorem queueOf_putQueue (s : State) (d k : Nat) (q : Queue) : queueOf (putQueue s d k q) d k = q := by
  rw [queueOf, putQueue, modDie, die_putDie_self, lookup_insAt_self]
  rfl

section
variable {s : State} {o : RRR} (h : Ready s [] [o.d.val, o.a.val, o.b.val] [o.a.val, o.b.val] o.g)
  (hd : tokPending (core s s.cur) o.d = false) (hb : (sreg s o.b).toNat < 256) (ha : (sreg s o.a).toNat % 64 = 0)
  (hk : (hdr s s.cur).killable = false)
include h hd hb ha hk

/-- LAUNCHQ of an aligned descriptor and a class, by a task that is not killable, waits for the AMOS.COs before it. -/
theorem exec_launchq_waits (hco : coPending s s.cur = true) : exec (.launchq o) s = stallWord .ownAtomic s := by
  change execLaunchq o s = _
  rw [execLaunchq, word_ready h, writes_free hd, needs_arrived h.arrived]
  exact (if_neg (Nat.not_le.2 hb)).trans ((if_neg (not_not.2 ha)).trans ((if_neg (by rw [hk]; decide)).trans (afterCo_waits (rel := true) hco _)))

variable (hco : coPending s s.cur = false)
include hco

/-- With nothing before it, it fails where no path reaches its die, waits where the path retrains, and finds its queue full or not. -/
theorem exec_launchq_goes : exec (.launchq o) s =
    let d := (sreg s o.b).toNat % 4
    let k := (sreg s o.b).toNat / 4 % 16
    let q := queueOf s d k
    if !diePath s (dieOf s.cur) d then .next (wrote (raiseLost (draw s).2 s.cur (sreg s o.a).toNat) o.d (draw s).1)
    else if !pathOpen s (dieOf s.cur) d then stall .sends s
    else if 256 ≤ q.entries.length then .next (wrote s o.d 0)
    else .next (wrote (putQueue s d k
      { q with entries := q.entries ++ [⟨(sreg s o.a).toNat, (ctxOf s s.cur).pa, (sreg s o.b).toNat / 64, q.next⟩], next := (q.next + 1) % 2 ^ 48 })
      o.d (BitVec.ofNat 64 (2 ^ 63 + q.next))) := by
  change execLaunchq o s = _
  rw [execLaunchq, word_ready h, writes_free hd, needs_arrived h.arrived]
  refine (if_neg (Nat.not_le.2 hb)).trans ((if_neg (not_not.2 ha)).trans ((if_neg (by rw [hk]; decide)).trans ((afterCo_free (rel := true) hco _).trans ?_)))
  change (rdS (core s s.cur) o.b).toNat < 256 at hb
  simp only [bits_low, bits_class hb, done]
  rfl

end

/-- Settles O15: each wait's equation where it is over; SEMWAIT by whether its home holds it, has answered it, and can be reached. -/
theorem waitsAndSemaphores : Obligations.WaitsAndSemaphores := by
  unfold Obligations.WaitsAndSemaphores
  refine ⟨⟨fun s o => exec_rdv_idle, fun s a e => exec_rdvComplete_idle, ?waittl, ?waittlComplete, ?mapwait, ?mapwaitToken, ?mapwaitReady,
    ?mapwaitStands, ?semwait, ?semwaitWake⟩, ?seminc, ?launchq⟩
  case waittl =>
    intro s o h hc hn
    obtain ⟨hpc, -, hregs⟩ := (behind_acquire s s.cur o.scope).goesOn
    have hexec := exec_waittl_reached h hc hn
    rw [advance_eq (behind_acquire s s.cur o.scope).cur] at hexec
    exact ⟨_, hexec, hpc, mem_acquire .., hregs⟩
  case waittlComplete =>
    intro s a n l c hw hn
    obtain ⟨hpc, hwait, -⟩ := (behind_acquire s a c).goesOn
    exact ⟨_, exec_waittlComplete_reached hw hn, hpc, hwait, mem_acquire ..⟩
  case mapwait =>
    intro s o h hm hq hd hready
    have hexec := exec_mapwait_ready h hm hq hd
    rw [if_pos hready, advance_eq (cur_writeToken ..)] at hexec
    obtain ⟨hpc, hself, hother⟩ := regs_writeToken s s.cur o.d 0 (slotOf s s.cur o.slot).readyCount
    rw [tokenValue_done] at hself
    refine ⟨_, hexec, ?_⟩
    rw [core_advanceAt]
    refine ⟨congrArg (· + 1) hpc, hself.trans ?_, hother, (onlyCore_writeToken ..).trans (onlyCore_goAt ..)⟩
    simp only [Fin.val_eq_zero_iff]
  case mapwaitToken =>
    intro s o h hm hq hd hready
    have hexec := exec_mapwait_ready h hm hq hd
    rw [hready, if_neg Bool.false_ne_true] at hexec
    refine ⟨fun hne => ?_, fun hz => ?_⟩
    · have hv : o.d.val ≠ 0 := fun h => hne (Fin.val_eq_zero_iff.1 h)
      rw [if_neg hv, done, advance_eq (modCore_cur ..)] at hexec
      refine ⟨_, hexec, ?_⟩
      rw [core_advanceAt, core_modCore_self]
      refine ⟨congrArg (· + 1) (markTok_pc ..), tokPending_markTok hv o.d.isLt _, markTok_mapTok .., fun r => ?_,
        (onlyCore_modCore ..).trans (onlyCore_goAt ..)⟩
      simp only [rdS, markTok_s]
    · rw [if_pos (Fin.val_eq_zero_iff.2 hz)] at hexec
      exact hexec
  case mapwaitReady =>
    intro s a k r ht hr h0 hw
    obtain ⟨f, hf, hexec⟩ := exec_mapwaitReady_token ht hr hw
    obtain ⟨hpc, hself, hother⟩ := regs_writeToken s a r 0 (slotOf s a k).readyCount
    rw [if_neg h0, tokenValue_done] at hself
    refine ⟨_, hexec, ?_⟩
    rw [core_modCore_self, hf]
    refine ⟨?_, ?_, hself, hother, hpc, (onlyCore_writeToken ..).trans (onlyCore_modCore ..)⟩
    · simp [core_writeToken s a h0, ht]
    · rw [core_writeToken s a h0]
      exact tokPending_clearTok ..
  case mapwaitStands =>
    intro s a k hw hr ht
    obtain ⟨f, hf, hexec⟩ := exec_mapwaitReady_waits ht hr hw
    refine ⟨_, hexec, ?_⟩
    rw [core_advanceAt, core_modCore_self, hf]
    exact ⟨rfl, rfl, (onlyCore_modCore ..).trans (onlyCore_goAt ..)⟩
  case semwait =>
    intro s s1 o ga e h hva htrans hcheck hread n open_ goesOn stands
    have htr := translated_of_eq htrans
    have hcur : s1.cur = s.cur := htr.cur
    have hreg : rdS (core s1 s.cur) o.b = sreg s o.b := by rw [htr.core_eq s.cur]; rfl
    have hexec := (exec_semwait_passes h hva htrans (by rw [htr.hdr_eq]; exact hcheck)).trans
      (semWait_readable _ _ (hcur.symm ▸ hread))
    rw [hreg, hcur] at hexec
    have hanswered := semAnswered_iff (n := n) hread.1 hread.2.1
    refine ⟨fun hheld => ?_, fun hheld => ?_⟩
    · have hnone : ¬semAnswered s1 s.cur ga n = true := fun ha => by
        rw [Bool.eq_false_iff, ne_eq, semHeld_iff] at hheld
        exact hheld ⟨true, (hanswered.1 ha).1⟩
      rw [if_neg hnone, hheld, if_neg Bool.false_ne_true] at hexec
      refine ⟨fun ho hle => ?_, fun ho hlt => standsAt_of_semAsk htr hlt (hexec.trans (if_pos ho)),
        fun ho => standsAt_of_stall htr (hexec.trans (if_neg ho))⟩
      have hc := counted_reachHome s1 s.cur ga
      rw [if_pos ho, semAsk_reached hle, hcur] at hexec
      exact goesPast_of_semGo htr (hc.homes.behind _) hc.mem hexec
    · refine ⟨fun ha => goesPast_of_semGo htr (behind_refl ..) rfl (hexec.trans (if_pos (hanswered.2 ha))), fun ha => standsAt_of_stall htr ?_⟩
      rw [if_neg (fun h => ha (hanswered.1 h)), if_pos hheld] at hexec
      exact hexec
  case semwaitWake =>
    intro s a va ga n c hw
    have hexec : exec (.semwaitWake a) s = if semAnswered s a ga n then .next (semGo a ga c s) else .next s := by
      change execSemwaitWake a s = _
      rw [execSemwaitWake, hw]
    refine ⟨fun hin hl hu ho => ?_, fun hnot => hexec.trans (if_neg fun ha => hnot ?_)⟩
    · obtain ⟨hpc, hwait, hm, -, hwaits⟩ := semGo_goesOn s a ga c
      exact ⟨_, hexec.trans (if_pos ((semAnswered_iff hl hu).2 ⟨hin, ho⟩)), hpc, hwait, hm, hwaits⟩
    · simp only [semAnswered, Bool.and_eq_true, Bool.not_eq_true', Option.isNone_iff_eq_none] at ha
      obtain ⟨⟨⟨hany, hl⟩, hu⟩, ho⟩ := ha
      refine ((semAnswered_iff hl hu).1 ?_).1
      simp [semAnswered, hany, hl, hu, ho]
  case seminc =>
    intro s s1 o ga e h hva htrans hc hk hco
    have htr := translated_of_eq htrans
    have hcur : s1.cur = s.cur := htr.cur
    have hreg : rdS (core s1 s.cur) o.b = sreg s o.b := by rw [htr.core_eq s.cur]; rfl
    have hfree : coPending s1 s1.cur = false := by rw [hcur, htr.coPending_eq, coPending_of_answered hco]
    have hgo := (exec_seminc_passes h hva htrans hc (by rw [htr.hdr_eq]; exact hk)).trans (afterCo_free (rel := true) hfree _)
    refine ⟨fun hl => ?_, fun hl hu => ?_, fun hl hu => ?_⟩
    · rw [reaching_lost (hcur.symm ▸ hl), hcur] at hgo
      exact raisesLost_of_exec htr hgo
    · obtain ⟨dev, hdev⟩ := Option.ne_none_iff_exists'.1 hu
      rw [reaching_unrouted (hcur.symm ▸ hl) hdev] at hgo
      exact discards_of_exec htr hgo
    · rw [reaching_served (hcur.symm ▸ hl) hu, hreg] at hgo
      obtain ⟨u, hu, hb, hmem, hwaits⟩ := dropLine_semAdd s1 s.cur ga (sreg s o.b)
      obtain ⟨hpc, -, hregs⟩ := hb.goesOn
      rw [hu, advance_eq (hb.cur.trans hcur)] at hgo
      refine ⟨_, hgo, ?_, ?_, fun x hx => ?_, fun r => ?_, fun w hw hmet => ?_, fun hp w hw hga hn => ?_⟩
      · rw [hpc, htr.core_eq s.cur]
      · rw [advanceAt_mem, hmem, readN_writeN]
        exact Nat.mod_eq_of_lt (Nat.mod_lt _ (by decide))
      · rw [advanceAt_mem, hmem, getB_writeN_outside _ _ _ _ _ hx]
      · rw [hregs, htr.core_eq s.cur]
        rfl
      · rw [advanceAt_waits, hwaits]
        refine List.mem_map.2 ⟨w, hw, ?_⟩
        split
        · rw [← hmet]
        · rfl
      · rw [advanceAt_waits, hwaits]
        refine List.mem_map.2 ⟨w, hw, if_pos ⟨?_, ?_⟩⟩
        · rw [hga, Bool.not_eq_true']
          exact hp
        · rw [hga]
          exact hn
  case launchq =>
    intro s o h hd hb ha hk
    refine ⟨fun hco => (exec_launchq_waits h hd hb ha hk hco).trans (stallWord_eq ..), fun hco => ?_⟩
    have hexec := exec_launchq_goes h hd hb ha hk hco
    dsimp only at hexec
    refine ⟨fun hpath hopen => ?_, fun hopen => ?_⟩
    · rw [hpath, hopen] at hexec
      exact hexec
    · cases hpath : diePath s (dieOf s.cur) ((sreg s o.b).toNat % 4)
      case false =>
        rw [hpath] at hexec
        refine ⟨_, hexec, ?_⟩
        have hraise : core (raiseLost (draw s).2 s.cur (sreg s o.a).toNat) s.cur = _ := core_modCore_self ..
        have hcore := core_wrote (raiseLost (draw s).2 s.cur (sreg s o.a).toNat) o.d (draw s).1
        rw [show (raiseLost (draw s).2 s.cur (sreg s o.a).toNat).cur = s.cur from rfl, hraise] at hcore
        rw [hcore]
        refine ⟨rfl, rfl, fun r hr => rdS_wrS_ne _ _ hr, fun _ => ⟨rfl, ?_⟩, fun h => absurd h Bool.false_ne_true, fun h => absurd h Bool.false_ne_true⟩
        rw [wrS_async, BitVec.ofNat_toNat, BitVec.setWidth_eq]
        rfl
      case true =>
        rw [hpath, hopen hpath] at hexec
        by_cases hfull : 256 ≤ (queueOf s ((sreg s o.b).toNat % 4) ((sreg s o.b).toNat / 4 % 16)).entries.length
        · refine ⟨_, hexec.trans (if_pos hfull), ?_⟩
          rw [core_wrote]
          refine ⟨rfl, rfl, fun r hr => rdS_wrS_ne _ _ hr, fun h => absurd h.symm Bool.false_ne_true,
            fun _ hroom => absurd hfull (Nat.not_le.2 hroom), fun _ _ => ⟨rfl, ?_⟩⟩
          exact (rdS_wrS_self ..).trans (ite_self _)
        · refine ⟨_, hexec.trans (if_neg hfull), ?_⟩
          have hcore (q : Queue) (v : Word) : core (wrote (putQueue s ((sreg s o.b).toNat % 4) ((sreg s o.b).toNat / 4 % 16) q) o.d v) s.cur =
            { wrS o.d v (core s s.cur) with pc := (core s s.cur).pc + 1, wait := .none, afterGbar := false } := core_wrote ..
          rw [hcore]
          refine ⟨rfl, rfl, fun r hr => rdS_wrS_ne _ _ hr, fun h => absurd h.symm Bool.false_ne_true, fun _ _ => ⟨?_, ?_⟩,
            fun _ h => absurd h hfull⟩
          · exact congrArg Queue.entries (queueOf_putQueue ..)
          · refine (rdS_wrS_self ..).trans ?_
            simp only [Fin.val_eq_zero_iff]

end Sys2Proof.Machine
end

section
/-! PROOFS. LD and the responses of loads, AMOs and AMOS.COs (R90, R99, R100, R110, R364, R388 to R393). -/

namespace Sys2Proof.Machine

/-! ## Responses on their way (R90, R393) -/

section
variable {a d va home : Nat} {x : Word} {s u : State}

theorem core_respond (s : State) (a d : Nat) (x : Word) (home va : Nat) : core (respond s a d x home va) a =
    { supersede d (core s a) with
      resp := (supersede d (core s a)).resp ++ [⟨d, x, (die s (dieOf a)).incarn, home, va, (core s a).pc, false⟩] } := core_modCore_self ..

theorem length_resp_supersede (d : Nat) (c : Core) : (supersede d c).resp.length = c.resp.length := List.length_map ..

/-- No older response writes the register any more. -/
theorem dst_supersede {d : Nat} {c : Core} {r : Resp} (h : r ∈ (supersede d c).resp) (hd : r.dst = d) : d = 0 := by
  obtain ⟨q, -, rfl⟩ := List.mem_map.1 h
  split at hd
  · exact hd.symm
  · contradiction

/-- A word that goes on with its response on the way: what is on its way, and what the word leaves. -/
structure Awaits (a d : Nat) (x : Word) (home va : Nat) (s t : State) : Prop where
  pc : (core t a).pc = (core s a).pc + 1
  regs : ∀ r, rdS (core t a) r = rdS (core s a) r
  last : (core t a).resp.getLast? = some ⟨d, x, (die s (dieOf a)).incarn, home, va, (core s a).pc, false⟩
  length : (core t a).resp.length = (core s a).resp.length + 1
  older : ∀ r ∈ (core t a).resp.dropLast, r.dst = d → d = 0

theorem awaits_respond (hb : Behind a s u) (hcur : u.cur = a) : Awaits a d x home va s (advance (respond u a d x home va)) := by
  have hcore : core (advance (respond u a d x home va)) a = _ := advance_eq (u := respond u a d x home va) hcur ▸ core_advanceAt ..
  rw [core_respond, hb.incarn, hb.pc_eq] at hcore
  refine ⟨?_, fun r => ?_, ?_, ?_, fun r hr hd => ?_⟩
  · rw [hcore]
    exact congrArg (· + 1) hb.pc_eq
  · rw [hcore]
    exact hb.rdS_eq r
  · rw [hcore]
    exact List.getLast?_concat ..
  · rw [hcore, ← hb.resp_eq]
    exact List.length_append.trans (congrArg (· + 1) (length_resp_supersede ..))
  · rw [hcore] at hr
    exact dst_supersede (by rwa [List.dropLast_concat] at hr) hd

/-- A word that goes on with its register written. -/
theorem regs_wrote (hb : Behind a s u) (hcur : u.cur = a) (d : Nat) (v : Word) : (core (wrote u d v) a).pc = (core s a).pc + 1 ∧
    rdS (core (wrote u d v) a) d = (if d = 0 then 0 else v) ∧ ∀ r, r ≠ d → rdS (core (wrote u d v) a) r = rdS (core s a) r := by
  subst hcur
  rw [core_wrote]
  exact ⟨congrArg (· + 1) hb.pc_eq, rdS_wrS_self .., fun r hr => (rdS_wrS_ne _ _ hr).trans (hb.rdS_eq r)⟩

end

/-! ## What the L1 answers (R100, R286) -/

section
variable {s : State} {a ga n e : Nat} {acq : Bool}

theorem loadL1_own (h : allOwn (core s a) ga n = true) : loadL1 s a ga n e acq = (true, viewN s a ga n, s) := if_pos h

theorem loadL1_miss (h : allOwn (core s a) ga n = false) (hm : cleanLine (core s a) ga e = none ∨ acq = true) :
    loadL1 s a ga n e acq = (false, viewN s a ga n, fillL1 (serveRead s a ga e) a ga e) := by
  cases hl : cleanLine (core s a) ga e with
  | none => simp [loadL1, h, hl]
  | some l =>
    have hacq := hm.resolve_left (by rw [hl]; exact Option.some_ne_none l)
    simp [loadL1, h, hl, hacq]

/-- A clean line answers, or where the home holds another value it may be asked. -/
theorem loadL1_line {l : Nat} (h : allOwn (core s a) ga n = false) (hl : cleanLine (core s a) ga e = some l) :
    (∃ u, loadL1 s a ga n e false = (true, lineN (core s a) l ga n, u) ∧ (u = s ∨ u = (draw s).2)) ∨
      (lineN (core s a) l ga n ≠ viewN s a ga n ∧
        loadL1 s a ga n e false = (false, viewN (draw s).2 a ga n, fillL1 (serveRead (draw s).2 a ga e) a ga e)) := by
  by_cases heq : lineN (core s a) l ga n = viewN s a ga n
  · exact .inl ⟨s, by simp [loadL1, h, hl, heq], .inl rfl⟩
  · by_cases hdraw : (draw s).1.toNat % 2 = 0
    · exact .inl ⟨(draw s).2, by simp [loadL1, h, hl, heq, hdraw], .inr rfl⟩
    · exact .inr ⟨heq, by simp [loadL1, h, hl, heq, hdraw]⟩

end

/-- A load that acquires beyond its tile. -/
def acquires (o : LoadOp) : Bool := isAcq o.ord && o.scope != .tile

theorem acquires_iff (o : LoadOp) : acquires o = true ↔ (o.ord = .acq ∨ o.ord = .ar) ∧ o.scope ≠ .tile := by simp [acquires, isAcq]

/-- The state in which a load looks at its L1: one that acquires has dropped its clean lines. -/
def beforeLoad (o : LoadOp) (a : Nat) (s : State) : State := if acquires o then dropClean s a true else s

theorem behind_beforeLoad (o : LoadOp) (a : Nat) (s : State) : Behind a s (beforeLoad o a s) := by
  unfold beforeLoad
  split
  · exact behind_dropClean ..
  · exact behind_refl ..

theorem mem_beforeLoad (o : LoadOp) (a : Nat) (s : State) : (beforeLoad o a s).mem = s.mem := by
  unfold beforeLoad
  split <;> rfl

/-- The clean lines that a load drops are none of the tile's own bytes. -/
theorem core_beforeLoad (o : LoadOp) (a : Nat) (s : State) : ∃ cl, core (beforeLoad o a s) a = { core s a with clean := cl } := by
  unfold beforeLoad
  split
  · exact ⟨_, core_modCore_self ..⟩
  · exact ⟨_, rfl⟩

theorem spills_of_beforeLoad {o : LoadOp} {a : Nat} {s t : State} (h : Spills a (beforeLoad o a s) t) : Spills a s t := by
  obtain ⟨cl, hc⟩ := core_beforeLoad o a s
  have hb := behind_beforeLoad o a s
  unfold Spills at h
  rw [hc, mem_beforeLoad] at h
  simp only [hb.route] at h
  exact h

theorem ownByte_beforeLoad (o : LoadOp) (a : Nat) (s : State) (x : Nat) : ownByte (core (beforeLoad o a s) a) x = ownByte (core s a) x := by
  obtain ⟨cl, hc⟩ := core_beforeLoad o a s
  rw [hc]
  rfl

theorem viewN_beforeLoad (o : LoadOp) (a : Nat) (s : State) (ga n : Nat) : viewN (beforeLoad o a s) a ga n = viewN s a ga n :=
  viewN_congr (ownByte_beforeLoad o a s) (mem_beforeLoad o a s) ga n

theorem allOwn_congr {c d : Core} (h : ∀ x, ownByte d x = ownByte c x) (ga n : Nat) : allOwn d ga n = allOwn c ga n := by
  induction n generalizing ga with
  | zero => rfl
  | succ n ih => rw [allOwn, allOwn, h, ih]

/-! ## LD (R99, R100, R364) -/

section
variable {s s1 : State} {o : LoadOp} {ga e x : Nat} {u : State} (h : Ready s [] [o.d, o.a] [o.a] o.g) (hd : tokPending (core s s.cur) o.d = false)
  (hva : effective s o.a o.off % sizeBytes o.size = 0) (ht : asks s (effective s o.a o.off) false = (.ok ga e, s1))
  (hp : poisonG s1 s.cur ga (sizeBytes o.size) = false)
include h hd hva ht hp

theorem exec_ld_hit (hL : loadL1 (beforeLoad o s.cur s1) s.cur ga (sizeBytes o.size) e (acquires o) = (true, x, u)) :
    exec (.ld o) s = .next (wrote u o.d (extended (sizeBytes o.size) o.u x)) := by
  change execLd o s = _
  rw [asks] at ht
  rw [beforeLoad, acquires] at hL
  rw [execLd, word_ready h, writes_free hd, needs_arrived h.arrived]
  simp only [addrOf_eq_effective, hva, ht, hp, hL, ne_eq, not_true_eq_false, if_false, Bool.false_eq_true]
  rfl

theorem exec_ld_asks (hu : unroutedAt s1 ga = none)
    (hL : loadL1 (beforeLoad o s.cur s1) s.cur ga (sizeBytes o.size) e (acquires o) = (false, x, u)) :
    exec (.ld o) s = .next (advance (respond u s.cur o.d (extended (sizeBytes o.size) o.u x) (servedBy ga) (effective s o.a o.off))) := by
  change execLd o s = _
  rw [asks] at ht
  rw [← (behind_beforeLoad o s.cur s1).route] at hu
  rw [beforeLoad, acquires] at hL hu
  rw [execLd, word_ready h, writes_free hd, needs_arrived h.arrived]
  simp only [addrOf_eq_effective, hva, ht, hp, hL, hu, ne_eq, not_true_eq_false, if_false, Bool.false_eq_true]

theorem exec_ld_discarded {dev : Nat} (hu : unroutedAt s1 ga = some dev)
    (hL : loadL1 (beforeLoad o s.cur s1) s.cur ga (sizeBytes o.size) e (acquires o) = (false, x, u)) :
    exec (.ld o) s = .next (advance (respond (discarded (draw { beforeLoad o s.cur s1 with free := u.free }).2 dev) s.cur o.d
      (draw { beforeLoad o s.cur s1 with free := u.free }).1 (8 + dev) (effective s o.a o.off))) := by
  change execLd o s = _
  rw [asks] at ht
  rw [← (behind_beforeLoad o s.cur s1).route] at hu
  rw [beforeLoad, acquires] at hL hu
  rw [execLd, word_ready h, writes_free hd, needs_arrived h.arrived]
  simp only [addrOf_eq_effective, hva, ht, hp, hL, hu, ne_eq, not_true_eq_false, if_false, Bool.false_eq_true]
  rfl

/-- A load that its L1 answers writes its register at once. -/
theorem ld_answered (hu : u = beforeLoad o s.cur s1 ∨ u = (draw (beforeLoad o s.cur s1)).2)
    (hL : loadL1 (beforeLoad o s.cur s1) s.cur ga (sizeBytes o.size) e (acquires o) = (true, x, u)) :
    ∃ t, exec (.ld o) s = .next t ∧ t.mem = s1.mem ∧ (core t s.cur).pc = (core s1 s.cur).pc + 1 ∧
      rdS (core t s.cur) o.d = (if o.d.val = 0 then 0 else extended (sizeBytes o.size) o.u x) ∧
      ∀ r, r ≠ o.d.val → rdS (core t s.cur) r = rdS (core s1 s.cur) r := by
  have hb := behind_beforeLoad o s.cur s1
  have hbu : Behind s.cur s1 u ∧ u.mem = s1.mem := by
    obtain rfl | rfl := hu
    · exact ⟨hb, mem_beforeLoad ..⟩
    · exact ⟨hb.trans ((homes_draw _).behind _), mem_beforeLoad ..⟩
  exact ⟨_, exec_ld_hit h hd hva ht hp hL, hbu.2, regs_wrote hbu.1 (hbu.1.cur.trans (translated_of_eq ht).cur) ..⟩

/-- A load that its L1 does not answer goes on with a response on its way, which a peer without a route never sends. -/
theorem ld_asked {p : State} (hh : Homes (beforeLoad o s.cur s1) p) (hm : p.mem = (beforeLoad o s.cur s1).mem)
    (hL : loadL1 (beforeLoad o s.cur s1) s.cur ga (sizeBytes o.size) e (acquires o) =
      (false, x, fillL1 (serveRead p s.cur ga e) s.cur ga e)) :
    ∃ t home y, exec (.ld o) s = .next t ∧ Awaits s.cur o.d y home (effective s o.a o.off) s1 t ∧
      (unroutedAt s1 ga = none → Spills s.cur s1 t ∧ y = extended (sizeBytes o.size) o.u x ∧ home = servedBy ga) ∧
      ∀ dev, unroutedAt s1 ga = some dev → home = 8 + dev := by
  have hcur : s1.cur = s.cur := (translated_of_eq ht).cur
  have hb := behind_beforeLoad o s.cur s1
  cases hu : unroutedAt s1 ga with
  | none =>
    have hserve := hh.trans (counted_serveRead p s.cur ga e).homes
    have hfill := hb.trans ((hserve.behind s.cur).trans (behind_fillL1 (serveRead p s.cur ga e) s.cur ga e))
    have hspills := spills_of_beforeLoad (spills_fillL1 hserve ((counted_serveRead ..).mem.trans hm) ga e)
    have hexec := exec_ld_asks h hd hva ht hp hu hL
    generalize fillL1 (serveRead p s.cur ga e) s.cur ga e = u at hexec hfill hspills
    exact ⟨_, _, _, hexec, awaits_respond hfill (hfill.cur.trans hcur), fun _ => ⟨hspills, rfl, rfl⟩, fun _ h => absurd h.symm (Option.some_ne_none _)⟩
  | some dev =>
    have hexec := exec_ld_discarded h hd hva ht hp hu hL
    have hdrawn : Homes (beforeLoad o s.cur s1) (draw { beforeLoad o s.cur s1 with free := (fillL1 (serveRead p s.cur ga e) s.cur ga e).free }).2 :=
      ⟨rfl, rfl, rfl, fun _ => rfl, fun _ _ => rfl, fun _ => rfl⟩
    have hgone := hb.trans ((hdrawn.trans (homes_discarded _ dev)).behind s.cur)
    generalize discarded (draw { beforeLoad o s.cur s1 with free := (fillL1 (serveRead p s.cur ga e) s.cur ga e).free }).2 dev = u at hexec hgone
    exact ⟨_, _, _, hexec, awaits_respond hgone (hgone.cur.trans hcur), fun h => absurd h (Option.some_ne_none dev), fun _ h => congrArg (8 + ·) (Option.some.inj h)⟩

end

/-! ## Responses that come (R90, R110, R388 to R393) -/

/-- A response in its register. -/
def landed (d : Nat) (x : Word) (c : Core) : Core := if d = 0 then c else { c with s := setAt 0 c.s d x }

/-- It reads as if a word had written it. -/
theorem rdS_landed (d : Nat) (x : Word) (c : Core) (q : Nat) : rdS (landed d x c) q = rdS (wrS d x c) q := by
  unfold landed wrS
  split <;> rfl

theorem resp_landed (d : Nat) (x : Word) (c : Core) : (landed d x c).resp = c.resp := by
  unfold landed
  split <;> rfl

theorem async_landed (d : Nat) (x : Word) (c : Core) : (landed d x c).async = c.async := by
  unfold landed
  split <;> rfl

section
variable {s : State} {a k : Nat} {r : Resp} (hr : (core s a).resp[k]? = some r)
include hr

theorem exec_memoryResponse_stale (hi : r.inc ≠ (die s (dieOf a)).incarn) : exec (.memoryResponse a k) s =
    .next (bump (modCore s a (fun c => { c with resp := c.resp.eraseIdx k })) (dieOf a) 0x08) := by
  change execMemoryResponse a k s = _
  simp only [execMemoryResponse, hr]
  exact if_pos hi

variable (hi : r.inc = (die s (dieOf a)).incarn) (hu : unanswered s r = false)
include hi hu

theorem exec_memoryResponse_waits (hw : respWaits s a r = true) : exec (.memoryResponse a k) s = .next s := by
  change execMemoryResponse a k s = _
  simp only [execMemoryResponse, hr]
  exact (if_neg (not_not.2 hi)).trans ((if_neg (by rw [hu]; decide)).trans (if_pos hw))

theorem exec_memoryResponse_sound (hw : respWaits s a r = false) (hb : brokenResp s a r = false) : exec (.memoryResponse a k) s =
    .next (modCore (modCore s a (fun c => { c with resp := c.resp.eraseIdx k })) a (landed r.dst r.value)) := by
  change execMemoryResponse a k s = _
  simp only [execMemoryResponse, hr]
  exact (if_neg (not_not.2 hi)).trans ((if_neg (by rw [hu]; decide)).trans ((if_neg (by rw [hw]; decide)).trans (if_neg (by rw [hb]; decide))))

/-- Poisoned data leaves a free value, and a trap falls due. -/
theorem exec_memoryResponse_broken (hw : respWaits s a r = false) (hb : brokenResp s a r = true) : exec (.memoryResponse a k) s =
    .next (raiseAsync (modCore (draw (modCore s a (fun c => { c with resp := c.resp.eraseIdx k }))).2 a (landed r.dst (draw s).1)) a 0x16
      (BitVec.ofNat 64 r.va) (trapSrc 0 r.pc 0)) := by
  change execMemoryResponse a k s = _
  simp only [execMemoryResponse, hr]
  exact (if_neg (not_not.2 hi)).trans ((if_neg (by rw [hu]; decide)).trans ((if_neg (by rw [hw]; decide)).trans (if_pos hb)))

end

theorem core_draw (s : State) (a : Nat) : core (draw s).2 a = core s a := rfl

theorem core_raiseAsync (s : State) (a cause : Nat) (info src : Word) : core (raiseAsync s a cause info src) a =
    { core s a with async := (core s a).async ++ [⟨cause, info, src⟩], latch := true } := core_modCore_self ..

theorem trapSrc_core (pc : Nat) : trapSrc 0 pc 0 = BitVec.ofNat 64 (pc % 2 ^ 13 * 2 ^ 48) := by simp [trapSrc]

/-- What an answer puts into its register: the old value, or 0 where there is none. -/
def answerValue (dw : Bool) (v : Option Word) : Word := v.elim 0 fun x => oldValue dw x.toNat

/-- An answered AMOS.CO: its old value or none comes over a path that does not retrain. -/
theorem exec_amosCoResponse_answered {s : State} {a k : Nat} {r : CoResp} {v : Option Word} (hr : (core s a).co[k]? = some r)
    (hv : r.ans = some v) : exec (.amosCoResponse a k) s =
      let there := diePath s r.die (dieOf a)
      let w := if there then v else none
      if there && !pathOpen s r.die (dieOf a) then .next s
      else .next (modCore s a (fun c => { c with
        co := c.co.eraseIdx k
        s := if r.dst = 0 then c.s else setAt 0 c.s r.dst (answerValue r.dw w)
        amiss := if w.isNone then c.amiss + 1 else c.amiss })) := by
  change execAmosCoResponse a k s = _
  simp only [execAmosCoResponse, hr, coAnswer, hv]
  cases (if diePath s r.die (dieOf a) then v else none) <;> rfl

/-- What AMOS.CO returns: the old value, sign-extended for .W. -/
theorem oldValue_eq (dw : Bool) (x : Word) : oldValue dw x.toNat = if dw then x else BitVec.ofInt 64 (signed 32 x.toNat) := by
  cases dw <;> simp [oldValue, extended, sextN]

/-- Settles O8: a load by what its L1 answers, a response by whether it comes and what it brings. -/
theorem loadsReadWhatTheTileSees : Obligations.LoadsReadWhatTheTileSees := by
  unfold Obligations.LoadsReadWhatTheTileSees
  refine ⟨?load, ?memoryResponse, ?amosCoResponse⟩
  case load =>
    intro s s1 o ga e n va ext v acq awaits h hd hva ht hp
    have htr := translated_of_eq ht
    have hpc1 : (core s1 s.cur).pc = (core s s.cur).pc := by rw [htr.core_eq s.cur]
    have hreg1 (r : Nat) : rdS (core s1 s.cur) r = rdS (core s s.cur) r := by rw [htr.core_eq s.cur]; rfl
    have hown := allOwn_congr (ownByte_beforeLoad o s.cur s1) ga n
    have hview := viewN_beforeLoad o s.cur s1 ga n
    have hzero : (o.d.val = 0) = (o.d = 0) := propext Fin.val_eq_zero_iff
    have hanswered {x : Nat} {u : State} (hu : u = beforeLoad o s.cur s1 ∨ u = (draw (beforeLoad o s.cur s1)).2)
        (hL : loadL1 (beforeLoad o s.cur s1) s.cur ga n e (acquires o) = (true, x, u)) := ld_answered h hd hva ht hp hu hL
    have hasked {x : Nat} {p : State} (hh : Homes (beforeLoad o s.cur s1) p) (hm : p.mem = (beforeLoad o s.cur s1).mem)
        (hL : loadL1 (beforeLoad o s.cur s1) s.cur ga n e (acquires o) = (false, x, fillL1 (serveRead p s.cur ga e) s.cur ga e)) :=
      ld_asked h hd hva ht hp hh hm hL
    have hcomes {t : State} {home : Nat} {y : Word} (haw : Awaits s.cur o.d y home va s1 t) : awaits t y home :=
      ⟨haw.last.trans (by rw [hpc1]), haw.length, fun r hr hdst => Fin.val_eq_zero_iff.1 (haw.older r hr hdst)⟩
    cases hall : allOwn (core s1 s.cur) ga n with
    | true =>
      obtain ⟨t, hexec, hmem, hpc, hself, hother⟩ := hanswered (.inl rfl) (loadL1_own (hown.trans hall))
      rw [hview] at hself
      simp only [hzero] at hself
      exact ⟨t, hexec, hpc.trans (congrArg (· + 1) hpc1), fun r hr => (hother r hr).trans (hreg1 r), fun _ _ x => .inl (by rw [hmem]),
        fun _ => hself, fun h => absurd h.symm Bool.false_ne_true, fun h => absurd h.symm Bool.false_ne_true⟩
    | false =>
      have hbytes : allOwn (core (beforeLoad o s.cur s1) s.cur) ga n = false := hown.trans hall
      have hmiss {x : Nat} {p : State} (hx : x = viewN s1 s.cur ga n) (hh : Homes (beforeLoad o s.cur s1) p)
          (hm : p.mem = (beforeLoad o s.cur s1).mem)
          (hL : loadL1 (beforeLoad o s.cur s1) s.cur ga n e (acquires o) = (false, x, fillL1 (serveRead p s.cur ga e) s.cur ga e)) :
          ∃ t, exec (.ld o) s = .next t ∧ (core t s.cur).pc = (core s s.cur).pc + 1 ∧
            (∀ r, r ≠ o.d.val → rdS (core t s.cur) r = rdS (core s s.cur) r) ∧ (unroutedAt s1 ga = none → Spills s.cur s1 t) ∧
            (unroutedAt s1 ga = none → awaits t v (servedBy ga)) ∧ ∀ dev, unroutedAt s1 ga = some dev → ∃ y, awaits t y (8 + dev) := by
        obtain ⟨t, home, y, hexec, haw, hnone, hsome⟩ := hasked hh hm hL
        refine ⟨t, hexec, haw.pc.trans (congrArg (· + 1) hpc1), fun r _ => (haw.regs r).trans (hreg1 r), fun hu => (hnone hu).1,
          fun hu => ?_, fun dev hu => ⟨y, hsome dev hu ▸ hcomes haw⟩⟩
        obtain ⟨-, rfl, rfl⟩ := hnone hu
        rw [hx] at haw
        exact hcomes haw
      have hserved (hm : cleanLine (core (beforeLoad o s.cur s1) s.cur) ga e = none ∨ acquires o = true) :=
        hmiss hview (homes_refl _) rfl (loadL1_miss hbytes hm)
      by_cases hacq : acquires o = true
      · obtain ⟨t, hexec, hpc, hregs, hmem, hcome⟩ := hserved (.inr hacq)
        exact ⟨t, hexec, hpc, hregs, hmem, fun h => absurd h Bool.false_ne_true, fun _ _ => hcome,
          fun _ _ _ hnot => absurd ((acquires_iff o).1 hacq) hnot⟩
      · have hsame : beforeLoad o s.cur s1 = s1 := if_neg hacq
        have hfalse : acquires o = false := Bool.eq_false_iff.2 hacq
        rw [hsame] at hserved hanswered hbytes
        cases hl : cleanLine (core s1 s.cur) ga e with
        | none =>
          obtain ⟨t, hexec, hpc, hregs, hmem, hcome⟩ := hserved (.inl hl)
          exact ⟨t, hexec, hpc, hregs, hmem, fun h => absurd h Bool.false_ne_true, fun _ _ => hcome,
            fun _ _ h => absurd h.symm (Option.some_ne_none _)⟩
        | some l =>
          have hnot : ¬(some l = none ∨ acq) := fun h => h.elim (Option.some_ne_none l) fun h => hacq ((acquires_iff o).2 h)
          obtain ⟨u, hL, hu⟩ | ⟨hne, hL⟩ := loadL1_line hbytes hl
          · obtain ⟨t, hexec, hmem, hpc, hself, hother⟩ := hanswered hu (hfalse ▸ hL)
            simp only [hzero] at hself
            refine ⟨t, hexec, hpc.trans (congrArg (· + 1) hpc1), fun r hr => (hother r hr).trans (hreg1 r), fun _ _ x => .inl (by rw [hmem]),
              fun h => absurd h Bool.false_ne_true, fun _ h => absurd h hnot, fun _ m hm _ => ?_⟩
            cases hm
            exact .inl hself
          · obtain ⟨t, hexec, hpc, hregs, hmem, hcome⟩ := hmiss (viewN_congr (s := s1) (t := (draw s1).2) (fun _ => rfl) rfl ga n)
              (by rw [hsame]; exact homes_draw s1) (by rw [hsame]; rfl) (by rw [hsame, hfalse]; exact hL)
            refine ⟨t, hexec, hpc, hregs, hmem, fun h => absurd h Bool.false_ne_true, fun _ h => absurd h hnot, fun _ m hm _ => ?_⟩
            cases hm
            exact .inr ⟨hne, hcome⟩
  case memoryResponse =>
    intro s a k r hr
    refine ⟨fun hi => ?_, fun hi hu => ⟨exec_memoryResponse_waits hr hi hu, fun hb hw => ?_, fun hb hw => ?_⟩⟩
    · have hcore : core (bump (modCore s a (fun c => { c with resp := c.resp.eraseIdx k })) (dieOf a) 0x08) a =
          { core s a with resp := (core s a).resp.eraseIdx k } := (homes_bump ..).core_eq a |>.trans (core_modCore_self ..)
      refine ⟨_, exec_memoryResponse_stale hr hi, ?_⟩
      beta_reduce
      rw [hcore]
      exact ⟨⟨rfl, fun _ _ => rfl⟩, rfl, counter_bump ..⟩
    · refine ⟨_, exec_memoryResponse_sound hr hi hu hw hb, ?_⟩
      beta_reduce
      rw [core_modCore_self, core_modCore_self]
      refine ⟨⟨resp_landed .., fun q hq => (rdS_landed ..).trans (rdS_wrS_ne _ _ hq)⟩, (rdS_landed ..).trans (rdS_wrS_self ..), async_landed .., rfl⟩
    · have hcore : core (draw (modCore s a (fun c => { c with resp := c.resp.eraseIdx k }))).2 a =
          { core s a with resp := (core s a).resp.eraseIdx k } := (core_draw ..).trans (core_modCore_self ..)
      refine ⟨_, exec_memoryResponse_broken hr hi hu hw hb, ?_⟩
      beta_reduce
      rw [core_raiseAsync, core_modCore_self, hcore]
      refine ⟨⟨resp_landed .., fun q hq => (rdS_landed ..).trans (rdS_wrS_ne _ _ hq)⟩, ?_, rfl⟩
      rw [async_landed, trapSrc_core]
  case amosCoResponse =>
    intro s a k r v hr hv
    have hexec := exec_amosCoResponse_answered hr hv
    refine ⟨fun hthere hopen => ?_, fun hopen => ⟨_, hexec.trans (if_neg ?_), ?_⟩⟩
    · refine hexec.trans (if_pos ?_)
      rw [hopen, Bool.and_eq_true]
      exact ⟨hthere, rfl⟩
    · rw [Bool.and_eq_true, Bool.not_eq_true']
      rintro ⟨hthere, hclosed⟩
      rw [hopen hthere] at hclosed
      exact Bool.false_ne_true hclosed.symm
    · rw [core_modCore_self]
      have hregs (y : Word) (q : Nat) : rdS { core s a with s := if r.dst = 0 then (core s a).s else setAt 0 (core s a).s r.dst y } q =
          rdS (wrS r.dst y (core s a)) q := by
        rw [← rdS_landed, landed]
        split <;> rfl
      refine ⟨rfl, rfl, fun q hq => (hregs _ q).trans (rdS_wrS_ne _ _ hq), (hregs _ r.dst).trans ((rdS_wrS_self ..).trans ?_), ?_⟩
      · generalize (if diePath s r.die (dieOf a) then v else none) = w
        cases w with
        | none => rfl
        | some x => simp only [answerValue, Option.elim_some, oldValue_eq]
      · generalize (if diePath s r.die (dieOf a) then v else none) = w
        cases w <;> simp

end Sys2Proof.Machine
end

section
/-! PROOFS. The completion of a matrix record in a tile whose engines a budget overrun holds (R187, R341). -/

namespace Sys2Proof.Machine

/-- Tile 0 has an MNOP in progress, its passes made, and its matrix engine stands still where a budget overrun has stopped it. -/
def matrixHeldInRecord : State :=
  { State.reset with tiles := [(0, { Tile.reset with mat := { Mat.reset with
      accepted := 1, busy := [⟨1, 0, Push.none, false, false⟩], paused := true } })] }

/-- A matrix engine that an overrun holds completes nothing. -/
theorem matrixRecordComplete_of_paused {s : State} {a k : Nat} (h : (tile s a).mat.paused = true) :
    exec (.matrixRecordComplete a k) s = .next s := by
  change execMatrixRecordComplete a k s = _
  simp only [execMatrixRecordComplete]
  cases (tile s a).mat.busy[k]? with
  | none => rfl
  | some d => simp [h]

/-- Refutes O31: the one record in progress would complete whatever holds the engine, and an engine that a budget overrun has stopped does
not complete it. In `matrixHeldInRecord` the record stays in progress. -/
theorem not_matrixNopEndAndRepeat : ¬ Obligations.MatrixNopEndAndRepeat := by
  unfold Obligations.MatrixNopEndAndRepeat
  rintro ⟨⟨-, -, completes⟩, -⟩
  obtain ⟨t, hexec, hbusy, -⟩ := completes matrixHeldInRecord 0 ⟨1, 0, Push.none, false, false⟩
    rfl rfl rfl rfl (by decide) (by decide) rfl
  rw [matrixRecordComplete_of_paused rfl] at hexec
  rw [← Host.Outcome.next.inj hexec] at hbusy
  exact absurd hbusy (by decide)

end Sys2Proof.Machine
end

section
/-! PROOFS. The pushes of a move engine that a budget overrun holds (R69, R341). -/

namespace Sys2Proof.Machine

/-- Tile 0's move engine waits for room to push, and stands still where a budget overrun has stopped it. -/
def moveHeldAtPush : State :=
  { State.reset with tiles := [(0, { Tile.reset with mov := { Mov.reset with push := some { Push.none with xm := true }, paused := true } })] }

/-- An engine that stands still makes no pushes. -/
theorem fifoPush_of_standsStill {s : State} {a : Nat} {e : Engine} (h : standsStill (tile s a) e = true) :
    exec (.fifoPush a e) s = .next s := by
  change execFifoPush a e s = _
  unfold execFifoPush
  cases heldPush (tile s a) e with
  | none => rfl
  | some p => simp [h]

/-- Refutes O35: an engine that waits for room would make its pushes once there is room even where a budget overrun has stopped it. In
`moveHeldAtPush` the FIFO has room, and the push goes on waiting. -/
theorem not_moveRecordsAcceptAndComplete : ¬ Obligations.MoveRecordsAcceptAndComplete := by
  unfold Obligations.MoveRecordsAcceptAndComplete
  rintro ⟨-, ⟨-, pushes⟩, -⟩
  obtain ⟨t, hexec, -, hheld, -⟩ := pushes moveHeldAtPush 0 .x { Push.none with xm := true } rfl (by decide)
  rw [fifoPush_of_standsStill rfl] at hexec
  rw [← Host.Outcome.next.inj hexec] at hheld
  exact absurd hheld (by decide)

end Sys2Proof.Machine
end

section
/-! PROOFS. RESUME of a halted tile whose task has overrun its budget (R341, R361). -/

namespace Sys2Proof.Machine

/-- A running task on tile 0, of context 0. -/
def taskOnTile0 : Task :=
  ⟨.running, .queue 0 0 0, ⟨0, 0, 0, 0, 0, 0, 1, 1, false, false, 0, 0, 0⟩, .full, .none, 0, 0, 0, 0, 1, 1, 0, 0, true, [], none, true, [],
    [], false, [], [], []⟩

/-- The device is up, and tile 0 has halted; its task has overrun its budget since, and the trap of the overrun waits. -/
def haltedAndOverrun : State :=
  { State.reset with
    tiles := [(0, { Tile.reset with
      core := { Core.reset with run := .halted, async := [⟨0x0F, 0, 0⟩] }
      mat := { Mat.reset with paused := true }
      mov := { Mov.reset with paused := true }
      vec := { Vec.reset with trapped := true }
      task := some 0 })]
    tasks := [(0, taskOnTile0)]
    dev := { Dev.reset with stage := .up } }

/-- RESUME of tile 0 and context 0. -/
def resumeTile0 : Word := 0x1000000000000000

/-- The matrix engine of tile 0 stands still after an outcome. -/
def matrixHeldAfter (o : Out) : Bool := match o with | .next t => (tile t 0).mat.paused | _ => false

/-- The engines of a tile that has still to take the trap of an overrun stay held. -/
theorem matrixHeldAfter_resume : matrixHeldAfter (exec (.cmdResume resumeTile0) haltedAndOverrun) = true := by decide +kernel

/-- Refutes O51: RESUME would set every engine going, and those of a tile whose overrun trap waits stay held until it is taken (R341). In
`haltedAndOverrun` the matrix engine stands still after the RESUME. -/
theorem not_hostCommandsAndRegisters : ¬ Obligations.HostCommandsAndRegisters := by
  unfold Obligations.HostCommandsAndRegisters
  rintro ⟨commands, -⟩
  obtain ⟨resumes, -⟩ := commands haltedAndOverrun resumeTile0 taskOnTile0 0 (by decide +kernel)
  obtain ⟨t, hexec, -, -, -, -, -, -, -, -, hpaused, -⟩ :=
    resumes (by decide +kernel) (by decide +kernel) (by decide +kernel)
  have hheld : (tile t 0).mat.paused = true := by
    simpa only [hexec, matrixHeldAfter] using matrixHeldAfter_resume
  have hfree : (tile t 0).mat.paused = false := hpaused
  rw [hfree] at hheld
  exact Bool.noConfusion hheld

end Sys2Proof.Machine
end

section
/-! PROOFS. The region that REPLST shows is the one the walk has just read its table in (R304, R319, R320). -/

namespace Sys2Proof.Machine

/-- Three levels of table from PA 0, in frames 0, 1 and 2 of 8 KiB; the page of VA 0 is LOCAL, of 64 MiB, at PA 0: it holds the table. -/
def tableInItsPage : Mem :=
  writeN (writeN (writeN [] 0 8 (6 * 2 ^ 61 + 1 * 2 ^ 13)) 8192 8 (6 * 2 ^ 61 + 2 * 2 ^ 13)) 16384 8 (2 * 2 ^ 61 + 2 * 2 ^ 57)

/-- Tile 0 of die 1 runs; the table and what it maps are at home on die 0. -/
def walkerAfar : State :=
  { State.reset with cur := 64, tiles := [(64, { Tile.reset with core := { Core.reset with run := .running } })], mem := tableInItsPage }

/-- REPLST to s1. -/
def replstToS1 : GetOwnOp := ⟨⟨false, 0⟩, 1⟩

/-- The reads that REPLST shows in s1 of the core of agent 64 after an outcome. -/
def readsShownAfter (o : Out) : Nat := match o with | .next t => bits (rdS (core t 64) 1).toNat 47 32 | _ => 0

theorem readsShownAfter_replst : readsShownAfter (exec (.getsysReplst replstToS1) walkerAfar) = 3 := by decide +kernel

theorem replst_ready : Ready walkerAfar [] [replstToS1.d.val] [] replstToS1.g := by
  refine ⟨?_, ?_, ?_, ?_⟩ <;> decide +kernel

/-- The walk that REPLST makes for VA 0. -/
def walkAfar : Option Nat × State :=
  walk walkerAfar walkerAfar.cur (ctxOf walkerAfar walkerAfar.cur) (core walkerAfar walkerAfar.cur).replva.toNat true

/-- The leaf that the walk finds. -/
theorem walkAfar_leaf : walkAfar.1 = some (2 * 2 ^ 61 + 2 * 2 ^ 57) := by decide +kernel

theorem walkAfar_cur : walkAfar.2.cur = 64 := by decide +kernel

/-- Refutes O21: REPLST would show the region as it stood before its own walk, and the walk's reads of the table count in the region they
go to (R304, R319). In `walkerAfar` the three entries read lie in the region shown, which had no read before. -/
theorem not_systemRegistersAndTlbs : ¬ Obligations.SystemRegistersAndTlbs := by
  unfold Obligations.SystemRegistersAndTlbs
  rintro ⟨-, ⟨-, -, -, replst⟩, -⟩
  obtain ⟨-, -, walked⟩ := replst walkerAfar replstToS1 replst_ready (by decide +kernel)
  have hwalk : walkAfar = (some (2 * 2 ^ 61 + 2 * 2 ^ 57), walkAfar.2) :=
    Prod.mk.eta.symm.trans (congrArg (Prod.mk · walkAfar.2) walkAfar_leaf)
  obtain ⟨-, shown⟩ := walked (by decide +kernel) walkAfar.2 (2 * 2 ^ 61 + 2 * 2 ^ 57) hwalk
  obtain ⟨-, counted⟩ := shown (by decide +kernel)
  obtain ⟨x, hexec, -, -, -, -, -, hreads, -⟩ := counted (by decide +kernel) (by decide +kernel)
  obtain ⟨-, hs1, -⟩ := regs_wrote (behind_refl 64 walkAfar.2) walkAfar_cur replstToS1.d x
  have hthree : bits (rdS (core (wrote walkAfar.2 replstToS1.d x) 64) 1).toNat 47 32 = 3 := by
    simpa only [hexec, readsShownAfter] using readsShownAfter_replst
  have hx : rdS (core (wrote walkAfar.2 replstToS1.d x) 64) 1 = x := hs1
  have hnone : bits x.toNat 47 32 = 0 := hreads.trans (by decide +kernel)
  rw [hx, hnone] at hthree
  exact absurd hthree (by decide)

end Sys2Proof.Machine
end

section
/-! PROOFS. EXIT of the last tile of a gang, another tile of which has stood at its EXIT with bytes still to publish (R119, R131, R344). -/

namespace Sys2Proof.Machine

/-- Node 0 launches a task and feeds node 1, a quorum join that has an arrival; node 2 ends. -/
def partWithJoin : Part where
  gid := 1
  ctx := 0
  dies := 1
  nodes := [(0, ⟨.launch 0 0 0 0 0, 0, 1, 0, 0, true, 0, 0, 0, 0⟩), (1, ⟨.join 2 1 4 0 0 0, 1, 1, 1, 0, false, 1, 1, 1, 0⟩),
    (2, ⟨.endNode 0, 2, 0, 1, 0, false, 0, 0, 0, 0⟩)]
  edges := [(0, 1), (0, 2)]

/-- The task of node 0, on tiles 0 and 1; it has arrived at the join. -/
def taskPastJoin : Task :=
  ⟨.running, .node 0 1 0 1, ⟨0, 0, 0, 0, 0, 0, 2, 1, false, false, 0, 0, 0⟩, .full, .none, 0, 0, 0, 0, 2, 1, 0, 0, true, [1], none, false,
    [], [], false, [], [], []⟩

/-- Tile 1 came to its EXIT before the arrival and holds its PHASE, one byte not yet published; tile 0 has just asked the join by QARRIVE
and stands at its EXIT with nothing to publish. -/
def lastTileAtExit : State :=
  { State.reset with
    tiles := [(0, { Tile.reset with task := some 0, core := { Core.reset with run := .running } }),
      (1, { Tile.reset with task := some 0, core := { Core.reset with run := .running, wait := .hold, unpub := [(64, 5)] } })]
    tasks := [(0, taskPastJoin)]
    parts := [(1, partWithJoin)]
    runs := [(1, ⟨1, .going, []⟩)]
    nextTask := 1 }

/-- EXIT without a guard. -/
def plainExit : NoOp := ⟨⟨false, 0⟩⟩

/-- Byte 64 of memory after an outcome. -/
def byte64After (o : Out) : Byte := match o with | .next t => getB t.mem 64 | _ => 0

theorem byte64After_exit : byte64After (exec (.exit plainExit) lastTileAtExit) = 5 := by decide +kernel

theorem exit_ready : Ready lastTileAtExit [] [] [] plainExit.g := by
  refine ⟨?_, ?_, ?_, ?_⟩ <;> decide +kernel

/-- No join is left to ask: the one that the task feeds it has arrived at. -/
theorem nextJoin_taskPastJoin : taskOf lastTileAtExit 0 = some taskPastJoin ∧ nextJoin lastTileAtExit taskPastJoin = none := by
  decide +kernel

/-- Refutes O18: an EXIT would publish its own tile's bytes and no other, and the EXIT of the last tile of a gang also begins the PHASEs
that the gang's other tiles hold (R344). In `lastTileAtExit` the byte of tile 1 comes to memory with the EXIT of tile 0. -/
theorem not_arrivalAndExit : ¬ Obligations.ArrivalAndExit := by
  unfold Obligations.ArrivalAndExit
  rintro ⟨-, exits, -⟩
  obtain ⟨⟨t, hexec, -, hpub, -⟩, -⟩ := exits lastTileAtExit plainExit exit_ready (by decide +kernel) (by decide +kernel)
    (by decide +kernel) (by decide +kernel)
    (fun u hu => by obtain rfl := Option.some.inj (hu.symm.trans nextJoin_taskPastJoin.1); exact nextJoin_taskPastJoin.2)
  obtain ⟨-, hkept⟩ := hpub.bytes (by decide +kernel) (by decide +kernel)
  have hbefore : getB t.mem 64 = 0 := (hkept 64 (by decide +kernel)).trans (by decide +kernel)
  have hafter : getB t.mem 64 = 5 := by simpa only [hexec, byte64After] using byte64After_exit
  rw [hbefore] at hafter
  exact absurd hafter (by decide)

end Sys2Proof.Machine
end

section
/-! PROOFS. NOP, FENCE, WFE, and the publications of PHASE (R130, R131, R145, R290, R388). -/

namespace Sys2Proof.Machine

/-! ## FENCE and WFE (R130, R145) -/

theorem onlyCore_dropClean (s : State) (a : Nat) (hc : Bool) : OnlyCore a s (dropClean s a hc) := onlyCore_modCore ..

theorem onlyCore_acquire (s : State) (a : Nat) (sc : Scope) : OnlyCore a s (acquire s a sc) := by
  unfold acquire
  split
  · exact onlyCore_refl ..
  · exact onlyCore_dropClean ..

/-- A view boundary drops clean lines alone. -/
theorem unpub_acquire (s : State) (a : Nat) (sc : Scope) : (core (acquire s a sc) a).unpub = (core s a).unpub := by
  unfold acquire
  split
  · rfl
  · rw [dropClean, core_modCore_self]

/-- The state in which a FENCE goes on: one that acquires has passed a view boundary. -/
def pastFence (o : FenceOp) (s : State) : State := if isAcq o.ord then acquire s s.cur o.scope else s

theorem exec_fence {s : State} {o : FenceOp} (h : Ready s [] [] [] o.g) (hco : ∀ q ∈ (core s s.cur).co, q.ans ≠ none) :
    exec (.fence o) s = .next (advance (pastFence o s)) := by
  change execFence o s = _
  rw [execFence, word_ready h, afterCo_free (by rw [coPending_of_answered hco]; rfl)]
  rfl

theorem fence_goesOn (s : State) (o : FenceOp) : Behind s.cur s (pastFence o s) ∧ OnlyCore s.cur s (pastFence o s) ∧
    (core (pastFence o s) s.cur).unpub = (core s s.cur).unpub := by
  unfold pastFence
  split
  · exact ⟨behind_acquire .., onlyCore_acquire .., unpub_acquire ..⟩
  · exact ⟨behind_refl .., onlyCore_refl .., rfl⟩

theorem fence_effect {s : State} {o : FenceOp} (h : Ready s [] [] [] o.g) (hco : ∀ q ∈ (core s s.cur).co, q.ans ≠ none) :
    ∃ t, exec (.fence o) s = .next t ∧ (core t s.cur).pc = (core s s.cur).pc + 1 ∧ (core t s.cur).unpub = (core s s.cur).unpub ∧
      (∀ r, rdS (core t s.cur) r = rdS (core s s.cur) r) ∧ TrapRegsKept (core s s.cur) (core t s.cur) ∧ OnlyCore s.cur s t := by
  obtain ⟨hb, honly, hunpub⟩ := fence_goesOn s o
  refine ⟨_, exec_fence h hco, ?_⟩
  rw [advance_eq hb.cur, core_advanceAt]
  exact ⟨congrArg (· + 1) hb.pc_eq, hunpub, hb.rdS_eq, hb.trapRegsKept.goes _, honly.trans (onlyCore_goAt ..)⟩

theorem wfe_effect {s : State} {o : NoOp} (h : Ready s [] [] [] o.g) (hl : (core s s.cur).latch = true) :
    ∃ t, exec (.wfe o) s = .next t ∧ (core t s.cur).pc = (core s s.cur).pc + 1 ∧ (core t s.cur).latch = false ∧
      (∀ r, rdS (core t s.cur) r = rdS (core s s.cur) r) ∧ TrapRegsKept (core s s.cur) (core t s.cur) ∧ OnlyCore s.cur s t := by
  refine ⟨advance (modCore s s.cur (fun c => { c with latch := false })), ?_, ?_⟩
  · change execWfe o s = _
    rw [execWfe, word_ready h, if_pos hl]
    rfl
  · have hcore : core (advance (modCore s s.cur (fun c => { c with latch := false }))) s.cur =
        { core s s.cur with latch := false, pc := (core s s.cur).pc + 1, wait := .none, afterGbar := false } := by
      rw [advance_eq (modCore_cur ..), core_advanceAt, core_modCore_self]
    rw [hcore]
    exact ⟨rfl, rfl, fun _ => rfl, ⟨rfl, rfl, rfl, rfl, rfl, rfl, rfl, rfl⟩, (onlyCore_modCore ..).trans (onlyCore_goAt ..)⟩

/-! ## PHASE (R131, R290, R388) -/

theorem pubAt_beginPublish (s : State) (a : Nat) :
    (core (beginPublish s a) a).pubAt = ((core s a).unpub.map (fun e => servedBy e.1)).eraseDups := by
  rw [beginPublish, core_modCore_self]

theorem mem_pubAt_beginPublish (s : State) (a n : Nat) :
    n ∈ (core (beginPublish s a) a).pubAt ↔ ∃ e ∈ (core s a).unpub, servedBy e.1 = n := by
  rw [pubAt_beginPublish, List.mem_eraseDups, List.mem_map]

/-- The mark of progress is no part of what a publication speaks of. -/
theorem Published.of_progress {s t : State} {a : Nat} (h : Published a (progress s a) t) : Published a s t where
  left := h.left
  kept := h.kept.trans (congrArg Core.recUnpub (core_progress s a))
  bytes := by
    have hbytes := h.bytes
    rw [core_progress] at hbytes
    exact hbytes

theorem exec_phase {s : State} {o : NoOp} (h : Ready s [] [] [] o.g) :
    exec (.phase o) s = stall (.phase .phase) (beginPublish (progress s s.cur) s.cur) := by
  change execPhase o s = _
  rw [execPhase, word_ready h]

theorem phase_effect {s : State} {o : NoOp} (h : Ready s [] [] [] o.g) :
    ∃ t, exec (.phase o) s = .next t ∧ (core t s.cur).wait = .phase .phase ∧ (core t s.cur).pc = (core s s.cur).pc ∧
      Published s.cur s t ∧ (∀ n, n ∈ (core t s.cur).pubAt ↔ ∃ e ∈ (core s s.cur).unpub, servedBy e.1 = n) ∧
      (∀ r, rdS (core t s.cur) r = rdS (core s s.cur) r) := by
  have hb : Behind s.cur (progress s s.cur) (beginPublish (progress s s.cur) s.cur) := behind_beginPublish ..
  have hpub : Published s.cur s (beginPublish (progress s s.cur) s.cur) := (published_beginPublish ..).of_progress
  have hpc := hb.pc_eq
  have hregs := hb.rdS_eq
  have hat := mem_pubAt_beginPublish (progress s s.cur) s.cur
  rw [core_progress] at hpc hregs hat
  refine ⟨_, exec_phase h, ?_⟩
  rw [hb.cur, progress_cur, core_modCore_self]
  exact ⟨rfl, hpc, hpub.modCore (fun _ => rfl) fun _ => rfl, hat, hregs⟩

theorem pubAnswered_iff (s : State) (a : Nat) : pubAnswered s a = true ↔ ∀ n ∈ (core s a).pubAt, wayOpen s a n = true := by
  rw [pubAnswered, List.all_eq_true]

/-- The boundary that a publication sets once it has performed. -/
def phaseBoundary (s : State) (a : Nat) : State := modCore (dropClean s a false) a (fun c => { c with pubAt := [] })

theorem core_phaseBoundary (s : State) (a : Nat) :
    core (phaseBoundary s a) a = { core s a with clean := (core s a).clean.filter (fun l => l.2.1 != 1 && !(false && l.2.1 == 2)), pubAt := [] } := by
  rw [phaseBoundary, core_modCore_self, dropClean, core_modCore_self]

theorem exec_phasePerformed {s : State} {a : Nat} (hw : (core s a).wait = .phase .phase) (h : ∀ n ∈ (core s a).pubAt, wayOpen s a n = true) :
    exec (.phasePerformed a) s = .next (advanceAt a (phaseBoundary s a)) := by
  change execPhasePerformed a s = _
  simp only [execPhasePerformed, hw, (pubAnswered_iff s a).2 h]
  rfl

theorem phasePerformed_waits {s : State} {a : Nat} {f : PhaseFor} (hw : (core s a).wait = .phase f)
    (h : ∃ n ∈ (core s a).pubAt, wayOpen s a n = false) : exec (.phasePerformed a) s = .next s := by
  have hno : pubAnswered s a = false := by
    obtain ⟨n, hn, hway⟩ := h
    exact Bool.eq_false_iff.2 fun hall => Bool.false_ne_true (hway.symm.trans ((pubAnswered_iff s a).1 hall n hn))
  change execPhasePerformed a s = _
  simp only [execPhasePerformed, hw, hno]
  rfl

theorem phasePerformed_effect {s : State} {a : Nat} (hw : (core s a).wait = .phase .phase)
    (h : ∀ n ∈ (core s a).pubAt, wayOpen s a n = true) :
    ∃ t, exec (.phasePerformed a) s = .next t ∧ (core t a).wait = .none ∧ (core t a).pc = (core s a).pc + 1 ∧ t.mem = s.mem ∧
      (core t a).pubAt = [] ∧ (∀ c l, (c, l) ∈ (core t a).clean → l.1 ≠ 1) ∧ (∀ r, rdS (core t a) r = rdS (core s a) r) := by
  refine ⟨_, exec_phasePerformed hw h, ?_⟩
  rw [core_advanceAt, core_phaseBoundary]
  refine ⟨rfl, rfl, rfl, rfl, fun c l hl => ?_, fun _ => rfl⟩
  have hkeep := (List.mem_filter.1 hl).2
  simpa using hkeep

/-! ## O16 -/

/-- Settles O16: NOP and WFE by their words; FENCE drops clean lines at most; PHASE publishes in the step that issues it, and goes on once
every home it wrote to can answer. -/
theorem publishingWords : Obligations.PublishingWords := by
  unfold Obligations.PublishingWords
  refine ⟨⟨fun s o h => ?nop, fun s o h hco => fence_effect h hco, fun s o h hl => wfe_effect h hl, fun s o h hl => ?wfe⟩,
    fun s o h => phase_effect h, fun s a hw => ⟨phasePerformed_effect hw, phasePerformed_waits hw⟩⟩
  case nop => exact word_ready h fun s => .next (advance s)
  case wfe =>
    change execWfe o s = _
    rw [execWfe, word_ready h, if_neg (by rw [hl]; exact Bool.false_ne_true)]
    rfl

end Sys2Proof.Machine
end

section
/-! PROOFS. TRAP, BRK, ERET and HALT (R137, R138, R140, R141, R146, R179). -/

namespace Sys2Proof.Machine

/-! ## The core that has taken a trap (R137, R138) -/

/-- A trap writes the trap registers and IN, and the core goes on at its handler or stops for the reeve core. -/
theorem core_takeTrap (s : State) (a cause pc : Nat) (info src : Word) : core (takeTrap s a cause pc info src) a =
    { core s a with
      trapCause := BitVec.ofNat 8 cause, trapPc := BitVec.ofNat 64 pc, trapInfo := info, trapSrc := src, trapIn := true
      wait := .none, afterGbar := false
      pc := if toHandler (core s a) cause then (core s a).trapVec.toNat else pc
      run := if toHandler (core s a) cause then .running else .reeve false } := by
  rw [core, takeTrap, tile_modTile_self]
  rfl

theorem toHandler_iff {c : Core} {cause : Nat} (h : systemCause cause = false) :
    toHandler c cause = true ↔ c.trapVecEn = true ∧ c.trapIn = false := by
  simp [toHandler, h]

/-- The acting core's word has trapped: what TRAP and BRK leave, by their cause, the place they return to and their code. -/
def Entered (s t : State) (cause pc : Nat) (info : Word) : Prop :=
  (core t s.cur).trapCause = BitVec.ofNat 8 cause ∧ (core t s.cur).trapPc = BitVec.ofNat 64 pc ∧ (core t s.cur).trapInfo = info ∧
  (core t s.cur).trapSrc = BitVec.ofNat 64 ((core s s.cur).pc % 2 ^ 13 * 2 ^ 48) ∧ (core t s.cur).trapIn = true ∧
  ((core s s.cur).trapVecEn = true → (core s s.cur).trapIn = false →
    (core t s.cur).pc = (core s s.cur).trapVec.toNat ∧ (core t s.cur).run = .running) ∧
  ((core s s.cur).trapVecEn = false ∨ (core s s.cur).trapIn = true → (core t s.cur).run = .reeve false) ∧
  (∀ r, rdS (core t s.cur) r = rdS (core s s.cur) r) ∧ (∀ p, rdP (core t s.cur) p = rdP (core s s.cur) p) ∧ OnlyCore s.cur s t

/-- A word with no load outstanding takes its trap at once, by the handler where one is installed and none runs. -/
theorem trapAt_enters {s : State} {cause : Nat} (hresp : (core s s.cur).resp = []) (hcause : systemCause cause = false) (pc : Nat)
    (info : Word) : ∃ t, trapAt cause pc info s = .next t ∧ Entered s t cause pc info := by
  refine ⟨_, trapAt_now hresp cause pc info, ?_⟩
  unfold Entered
  rw [core_takeTrap, core_progress, trapSrc_core]
  refine ⟨rfl, rfl, rfl, rfl, rfl, fun hen hin => ?_, fun hno => ?_, fun _ => rfl, fun _ => rfl,
    (onlyCore_progress ..).trans (onlyCore_takeTrap ..)⟩
  · simp only [(toHandler_iff hcause).2 ⟨hen, hin⟩, if_true, and_self]
  · have hstop : ¬ toHandler (core s s.cur) cause = true := by
      rw [toHandler_iff hcause]
      rintro ⟨hen, hin⟩
      rcases hno with hoff | hon
      · exact Bool.false_ne_true (hoff.symm.trans hen)
      · exact Bool.false_ne_true (hin.symm.trans hon)
    simp only [if_neg hstop]

theorem exec_trap {s : State} {o : CodeOp} (h : Ready s [] [] [] o.g) :
    exec (.trap o) s = trapAt 0x0E ((core s s.cur).pc + 1) (BitVec.ofNat 64 o.code.toNat) s := by
  change execTrap o s = _
  rw [execTrap, word_ready h]

theorem exec_brk {s : State} {o : CodeOp} (h : Ready s [] [] [] o.g) :
    exec (.brk o) s = trapAt 0x0D (core s s.cur).pc (BitVec.ofNat 64 o.code.toNat) s := by
  change execBrk o s = _
  rw [execBrk, word_ready h]
  rfl

/-! ## ERET (R140, R179) -/

/-- The records parked or held go on, and the flight buffer is in flight again. -/
theorem tile_returnTo (s : State) (a : Nat) (clearIn : Bool) : tile (returnTo s a clearIn) a =
    { tile s a with
      mat := { (tile s a).mat with parked := false, paused := false, held := none }
      mov := { (tile s a).mov with parked := none, paused := false, held := none }
      vec := { (tile s a).vec with
        trapped := false
        held := none
        flight := (tile s a).vec.flight ++ (tile s a).vec.buffer.map (fun f => { f with due := f.due + (tile s a).vec.slot })
        buffer := [] }
      core := { core s a with
        trapIn := if clearIn then false else (core s a).trapIn
        landTrap := if clearIn then false else (core s a).landTrap
        pc := (core s a).trapPc.toNat, run := .running, wait := .none, afterGbar := false } } := by
  rw [returnTo, modCore, tile_modTile_self, restartEngines, tile_modTile_self]
  rfl

theorem onlyTile_returnTo (s : State) (a : Nat) (clearIn : Bool) : OnlyTile a s (returnTo s a clearIn) :=
  (onlyTile_modTile s a _).trans (onlyCore_modCore ..).toOnlyTile

theorem exec_eret_returns {s : State} {o : NoOp} (h : Ready s [] [] [] o.g) (hin : (core s s.cur).trapIn = true) :
    exec (.eret o) s = .next (returnTo (progress s s.cur) s.cur true) := by
  change execEret o s = _
  rw [execEret, word_ready h, if_pos hin]

theorem exec_eret_traps {s : State} {o : NoOp} (h : Ready s [] [] [] o.g) (hin : (core s s.cur).trapIn = false) :
    exec (.eret o) s = trapWord 0x01 0x71 s := by
  change execEret o s = _
  rw [execEret, word_ready h, if_neg (by rw [hin]; exact Bool.false_ne_true)]

/-! ## Events leave the tiles and the tasks as they are (R363) -/

theorem writeRecord_tasks (s : State) (g : List Nat) : (writeRecord s g).tasks = s.tasks := by
  unfold writeRecord; dsimp only; split <;> rfl

theorem evTask_tiles (s : State) (type cause a g1 g2 g3 : Nat) : (evTask s type cause a g1 g2 g3).tiles = s.tiles := by
  unfold evTask; split <;> exact writeRecord_tiles ..

theorem evTask_tasks (s : State) (type cause a g1 g2 g3 : Nat) : (evTask s type cause a g1 g2 g3).tasks = s.tasks := by
  unfold evTask; split <;> exact writeRecord_tasks ..

/-! ## HALT (R146) -/

/-- The tile as HALT leaves it, before its event. -/
def haltedTile (s : State) : State :=
  modTile (advance s) s.cur (fun t => { holdCount t with core := { t.core with trapPc := BitVec.ofNat 64 ((core s s.cur).pc + 1), run := .halted } })

theorem exec_halt {s : State} {o : NoOp} (h : Ready s [] [] [] o.g) :
    exec (.halt o) s = .next (evTask (haltedTile s) 0x02 0 s.cur ((core s s.cur).pc + 1) 0 0) := by
  change execHalt o s = _
  rw [execHalt, word_ready h]
  rfl

/-- HALT stops the core after itself, with TRAPPC alone of the trap registers written, and leaves the engines as they were. -/
theorem tile_haltedTile (s : State) : ∃ p st rep, tile (haltedTile s) s.cur = { tile s s.cur with
    progress := p, stalled := st, reported := rep
    core := { core s s.cur with
      trapPc := BitVec.ofNat 64 ((core s s.cur).pc + 1), run := .halted, pc := (core s s.cur).pc + 1, wait := .none, afterGbar := false } } := by
  obtain ⟨p, st, rep, h⟩ := holdCount_eq (tile (advance s) s.cur)
  refine ⟨p, st, rep, ?_⟩
  rw [haltedTile, tile_modTile_self, h, tile_advance]

/-! ## O19 -/

/-- Settles O19: TRAP and BRK take their traps at once, ERET returns or traps, and HALT stops the core after itself. -/
theorem trapsAndReturns : Obligations.TrapsAndReturns := by
  unfold Obligations.TrapsAndReturns
  refine ⟨fun s o h hresp => ?traps, fun s o h hin => ?returns, fun s o h hin hresp => ?illegal, fun s o h => ?halts⟩
  case traps =>
    have hinfo : BitVec.ofNat 64 o.code.toNat = o.code.zeroExtend 64 := BitVec.ofNat_toNat ..
    rw [exec_trap h, exec_brk h, hinfo]
    exact ⟨trapAt_enters hresp (by decide) _ _, trapAt_enters hresp (by decide) _ _⟩
  case returns =>
    refine ⟨_, exec_eret_returns h hin, ?_⟩
    rw [core, tile_returnTo, core_progress, tile_progress]
    exact ⟨rfl, rfl, rfl, rfl, rfl, rfl, rfl, rfl, rfl, rfl, rfl, rfl, rfl, rfl, fun _ => rfl,
      (onlyCore_progress ..).toOnlyTile.trans (onlyTile_returnTo ..)⟩
  case illegal =>
    obtain ⟨t, hexec, hcause, hinfo, -, hin', -⟩ := trapsBy_trapWord s 0x01 0x71 hresp
    exact ⟨t, (exec_eret_traps h hin).trans hexec, hcause, hinfo, hin'⟩
  case halts =>
    obtain ⟨p, st, rep, ht⟩ := tile_haltedTile s
    refine ⟨_, exec_halt h, ?_⟩
    have htile : tile (evTask (haltedTile s) 0x02 0 s.cur ((core s s.cur).pc + 1) 0 0) s.cur = tile (haltedTile s) s.cur := by
      rw [tile, evTask_tiles]
      rfl
    rw [core, htile, ht]
    exact ⟨rfl, rfl, rfl, rfl, rfl, rfl, rfl, rfl, rfl, fun _ => rfl⟩

end Sys2Proof.Machine
end

section
/-! PROOFS. Runs that stop, become ordinary, and raise what they hold: the rules of the operations behind RESOLVE, EXIT, kills and ends
(R116, R117, R257, R268, R269). -/

namespace Sys2Proof.Machine

/-! ## Operations on one tile's engines -/

/-- Of one tile, the engines become as given and SPECWR too; the core stands at its place, and nothing beyond the tile changes. -/
structure EnginesBecome (a : Nat) (s t : State) (v : Vec) (m : Mat) (x : Mov) (w : Word) : Prop extends OnlyTile a s t where
  cur : t.cur = s.cur
  vec : (tile t a).vec = v
  mat : (tile t a).mat = m
  mov : (tile t a).mov = x
  specwr : (core t a).specwr = w
  pc : (core t a).pc = (core s a).pc

/-- Neither an engine nor SPECWR changes. -/
def EnginesStay (a : Nat) (s t : State) : Prop := EnginesBecome a s t (tile s a).vec (tile s a).mat (tile s a).mov (core s a).specwr

theorem EnginesBecome.trans {a : Nat} {s t u : State} {v v' : Vec} {m m' : Mat} {x x' : Mov} {w w' : Word} (h : EnginesBecome a s t v m x w)
    (k : EnginesBecome a t u v' m' x' w') : EnginesBecome a s u v' m' x' w' where
  toOnlyTile := h.toOnlyTile.trans k.toOnlyTile
  cur := k.cur.trans h.cur
  vec := k.vec
  mat := k.mat
  mov := k.mov
  specwr := k.specwr
  pc := k.pc.trans h.pc

/-- Engines that stay are as they have become before. -/
theorem EnginesBecome.then_stay {a : Nat} {s t u : State} {v : Vec} {m : Mat} {x : Mov} {w : Word} (h : EnginesBecome a s t v m x w)
    (k : EnginesStay a t u) : EnginesBecome a s u v m x w := by
  have hk := h.trans k
  rwa [h.vec, h.mat, h.mov, h.specwr] at hk

theorem EnginesStay.trans {a : Nat} {s t u : State} (h : EnginesStay a s t) (k : EnginesStay a t u) : EnginesStay a s u :=
  EnginesBecome.then_stay h k

theorem enginesStay_refl (a : Nat) (s : State) : EnginesStay a s s := ⟨onlyTile_refl s a, rfl, rfl, rfl, rfl, rfl, rfl⟩

theorem enginesStay_modCore {s : State} {a : Nat} {f : Core → Core} (hw : ∀ c, (f c).specwr = c.specwr) (hp : ∀ c, (f c).pc = c.pc) :
    EnginesStay a s (modCore s a f) where
  toOnlyTile := (onlyCore_modCore s a f).toOnlyTile
  cur := rfl
  vec := (onlyCore_modCore s a f).vec
  mat := (onlyCore_modCore s a f).mat
  mov := (onlyCore_modCore s a f).mov
  specwr := by rw [core_modCore_self, hw]
  pc := by rw [core_modCore_self, hp]

/-- A change of a tile's engines alone. -/
theorem enginesBecome_modTile {s : State} {a : Nat} {f : Tile → Tile} (hc : ∀ t, (f t).core = t.core) :
    EnginesBecome a s (modTile s a f) (f (tile s a)).vec (f (tile s a)).mat (f (tile s a)).mov (core s a).specwr where
  toOnlyTile := onlyTile_modTile s a f
  cur := rfl
  vec := by rw [tile_modTile_self]
  mat := by rw [tile_modTile_self]
  mov := by rw [tile_modTile_self]
  specwr := by rw [core, tile_modTile_self, hc]; rfl
  pc := by rw [core, tile_modTile_self, hc]; rfl

theorem enginesBecome_modVec (s : State) (a : Nat) (f : Vec → Vec) :
    EnginesBecome a s (modVec s a f) (f (tile s a).vec) (tile s a).mat (tile s a).mov (core s a).specwr :=
  enginesBecome_modTile (f := fun t => { t with vec := f t.vec }) fun _ => rfl

theorem enginesBecome_modMat (s : State) (a : Nat) (f : Mat → Mat) :
    EnginesBecome a s (modMat s a f) (tile s a).vec (f (tile s a).mat) (tile s a).mov (core s a).specwr :=
  enginesBecome_modTile (f := fun t => { t with mat := f t.mat }) fun _ => rfl

theorem enginesBecome_modMov (s : State) (a : Nat) (f : Mov → Mov) :
    EnginesBecome a s (modMov s a f) (tile s a).vec (tile s a).mat (f (tile s a).mov) (core s a).specwr :=
  enginesBecome_modTile (f := fun t => { t with mov := f t.mov }) fun _ => rfl

theorem EnginesBecome.then_modVec {a : Nat} {s t : State} {v : Vec} {m : Mat} {x : Mov} {w : Word} (h : EnginesBecome a s t v m x w)
    (f : Vec → Vec) : EnginesBecome a s (modVec t a f) (f v) m x w := by
  have hk := h.trans (enginesBecome_modVec t a f)
  rwa [h.vec, h.mat, h.mov, h.specwr] at hk

theorem EnginesBecome.then_modMat {a : Nat} {s t : State} {v : Vec} {m : Mat} {x : Mov} {w : Word} (h : EnginesBecome a s t v m x w)
    (f : Mat → Mat) : EnginesBecome a s (modMat t a f) v (f m) x w := by
  have hk := h.trans (enginesBecome_modMat t a f)
  rwa [h.vec, h.mat, h.mov, h.specwr] at hk

theorem EnginesBecome.then_modMov {a : Nat} {s t : State} {v : Vec} {m : Mat} {x : Mov} {w : Word} (h : EnginesBecome a s t v m x w)
    (f : Mov → Mov) : EnginesBecome a s (modMov t a f) v m (f x) w := by
  have hk := h.trans (enginesBecome_modMov t a f)
  rwa [h.vec, h.mat, h.mov, h.specwr] at hk

theorem enginesStay_setLatch (s : State) (a : Nat) : EnginesStay a s (setLatch s a) :=
  enginesStay_modCore (fun _ => rfl) fun _ => rfl

theorem enginesBecome_countSpec (s : State) (a n : Nat) : EnginesBecome a s (countSpec s a n) (tile s a).vec (tile s a).mat (tile s a).mov
    ((core s a).specwr + BitVec.ofNat 64 n) where
  toOnlyTile := (onlyCore_modCore ..).toOnlyTile
  cur := rfl
  vec := (onlyCore_modCore ..).vec
  mat := (onlyCore_modCore ..).mat
  mov := (onlyCore_modCore ..).mov
  specwr := by rw [countSpec, core_modCore_self]
  pc := by rw [countSpec, core_modCore_self]

theorem enginesStay_writeToken (s : State) (a r status count : Nat) : EnginesStay a s (writeToken s a r status count) := by
  unfold writeToken
  split
  · exact enginesStay_refl a s
  · exact enginesStay_modCore (fun c => by simp) fun c => by simp

/-! ## The parked move record (R254, R257) -/

theorem enginesStay_discardRecord (s : State) (a cause : Nat) (b : MovDone) : EnginesStay a s (discardRecord s a cause b) := by
  unfold discardRecord
  split
  · exact enginesStay_refl a s
  · exact enginesBecome_modTile fun _ => rfl

theorem enginesStay_discardUnaccepted (s : State) (a cause pc : Nat) : EnginesStay a s (discardUnaccepted s a cause pc) := by
  simp only [discardUnaccepted]
  split
  · split
    · split
      · exact enginesBecome_modTile fun _ => rfl
      · exact enginesStay_refl a s
    · exact enginesStay_refl a s
  · exact enginesStay_refl a s

/-- The move engine whose parked record has been discarded: its run is over, and the timeline has reached the record. -/
def discardedMov (m : Mov) : Mov :=
  { m with
    run := none, parked := none, popped := false, held := none, rep := none, resume := 0, fetch := none, pre := none
    tl := match m.busy with | some b => BitVec.ofNat 64 b.n | none => m.tl
    busy := none }

/-- The completion record and the token of a parked record that is discarded. -/
def discardReport (s : State) (a cause treg pc : Nat) (busy : Option MovDone) : State :=
  setLatch (writeToken (modCore (match busy with | some b => discardRecord s a cause b | none => discardUnaccepted s a cause pc) a closeRecord)
    a treg cause (match busy with | some b => b.bits / 8 | none => 0)) a

theorem enginesStay_discardReport (s : State) (a cause treg pc : Nat) (busy : Option MovDone) :
    EnginesStay a s (discardReport s a cause treg pc busy) := by
  have hrecord : EnginesStay a s (match busy with | some b => discardRecord s a cause b | none => discardUnaccepted s a cause pc) := by
    cases busy
    · exact enginesStay_discardUnaccepted ..
    · exact enginesStay_discardRecord ..
  unfold discardReport
  refine EnginesStay.trans (EnginesStay.trans (hrecord.trans (enginesStay_modCore ?_ ?_)) (enginesStay_writeToken ..)) (enginesStay_setLatch ..)
  all_goals exact fun _ => rfl

theorem discardMov_eq {s : State} {a cause treg : Nat} {r : RunState} (hp : (tile s a).mov.parked = some (cause, treg))
    (hr : (tile s a).mov.run = some r) :
    discardMov s a = modMov (discardReport s a cause treg r.pc (tile s a).mov.busy) a discardedMov := by
  simp only [discardMov, hp, hr]
  rfl

theorem enginesBecome_discardMov {s : State} {a : Nat} (hp : (tile s a).mov.parked.isSome = true) (hr : (tile s a).mov.run.isSome = true) :
    EnginesBecome a s (discardMov s a) (tile s a).vec (tile s a).mat (discardedMov (tile s a).mov) (core s a).specwr := by
  obtain ⟨⟨cause, treg⟩, hp⟩ := Option.isSome_iff_exists.1 hp
  obtain ⟨r, hr⟩ := Option.isSome_iff_exists.1 hr
  rw [discardMov_eq hp hr]
  exact (enginesStay_discardReport ..).then_modMov discardedMov

/-! ## The three engines stop (R116, R268, R341) -/

/-- The pieces that the move engine's run has written, those of the record in progress among them. -/
def writesMade (m : Mov) : Nat := m.runWrites + (match m.busy with | some b => b.writes | none => 0)

/-- The move engine that stops: its push dropped and its writes counted, before its record is looked at. -/
def haltedMov (m : Mov) : Mov :=
  { m with push := none, paused := false, runWrites := 0, busy := m.busy.map (fun b => { b with writes := 0 }) }

/-- The move engine whose run has been cancelled. -/
def stoppedMov (m : Mov) : Mov :=
  if m.parked.isSome then discardedMov (haltedMov m)
  else if m.busy.isNone then { haltedMov m with run := none, popped := false, rep := none, fetch := none }
  else { haltedMov m with run := m.run.map (fun r => { r with stop := true }) }

theorem stopMov_eq {s : State} {a : Nat} (hr : (tile s a).mov.run.isSome = true) :
    stopMov s a =
      let u := modMov (countSpec s a (writesMade (tile s a).mov)) a haltedMov
      if (tile s a).mov.parked.isSome then discardMov u a
      else if (tile s a).mov.busy.isNone then modMov u a (fun m => { m with run := none, popped := false, rep := none, fetch := none })
      else modMov u a (fun m => { m with run := m.run.map (fun r => { r with stop := true }) }) := by
  obtain ⟨r, hr⟩ := Option.isSome_iff_exists.1 hr
  simp only [stopMov, hr, Option.isNone_some]
  rfl

theorem enginesBecome_stopMov {s : State} {a : Nat} (hr : (tile s a).mov.run.isSome = true) :
    EnginesBecome a s (stopMov s a) (tile s a).vec (tile s a).mat (stoppedMov (tile s a).mov)
      ((core s a).specwr + BitVec.ofNat 64 (writesMade (tile s a).mov)) := by
  have hu := (enginesBecome_countSpec s a (writesMade (tile s a).mov)).then_modMov haltedMov
  rw [stopMov_eq hr]
  unfold stoppedMov
  dsimp only
  split
  next hp =>
    have hd := enginesBecome_discardMov (s := modMov (countSpec s a (writesMade (tile s a).mov)) a haltedMov) (a := a)
      (by rw [hu.mov]; exact hp) (by rw [hu.mov]; exact hr)
    rw [hu.vec, hu.mat, hu.mov, hu.specwr] at hd
    exact hu.trans hd
  next =>
    split
    · exact hu.then_modMov _
    · exact hu.then_modMov _

/-- The run, if there is one, is of an entry that fits. -/
def fits (p : RunEntry → Bool) : Option RunState → Bool
  | some r => p r.e
  | none => false

theorem isSome_of_fits {p : RunEntry → Bool} {r : Option RunState} (h : fits p r = true) : r.isSome = true := by
  cases r
  · exact absurd h Bool.false_ne_true
  · rfl

/-- An engine that has no run any more sets the event latch (R145). -/
def latchIdle (r : Option RunState) (s : State) (a : Nat) : State := if r.isNone then setLatch s a else s

theorem enginesStay_latchIdle (r : Option RunState) (s : State) (a : Nat) : EnginesStay a s (latchIdle r s a) := by
  unfold latchIdle
  split
  · exact enginesStay_setLatch s a
  · exact enginesStay_refl a s

/-- `stopIf` for the vector engine. -/
def stopVecIf (s : State) (a : Nat) (e : EMask) (p : RunEntry → Bool) : State :=
  if e.v && fits p (tile s a).vec.run then latchIdle (tile (modVec s a stopVec) a).vec.run (modVec s a stopVec) a else s

/-- `stopIf` for the matrix engine. -/
def stopMatIf (s : State) (a : Nat) (e : EMask) (p : RunEntry → Bool) : State :=
  if e.m && fits p (tile s a).mat.run then latchIdle (tile (modMat s a stopMat) a).mat.run (modMat s a stopMat) a else s

/-- `stopIf` for the move engine. -/
def stopMovIf (s : State) (a : Nat) (e : EMask) (p : RunEntry → Bool) : State :=
  if e.x && fits p (tile s a).mov.run then latchIdle (tile (stopMov s a) a).mov.run (stopMov s a) a else s

theorem stopIf_eq (s : State) (a : Nat) (e : EMask) (p : RunEntry → Bool) :
    stopIf s a e p = stopMovIf (stopMatIf (stopVecIf s a e p) a e p) a e p := rfl

theorem enginesBecome_stopVecIf (s : State) (a : Nat) (e : EMask) (p : RunEntry → Bool) : EnginesBecome a s (stopVecIf s a e p)
    (if e.v && fits p (tile s a).vec.run then stopVec (tile s a).vec else (tile s a).vec) (tile s a).mat (tile s a).mov (core s a).specwr := by
  unfold stopVecIf
  split
  · exact (enginesBecome_modVec ..).then_stay (enginesStay_latchIdle ..)
  · exact enginesStay_refl a s

theorem enginesBecome_stopMatIf (s : State) (a : Nat) (e : EMask) (p : RunEntry → Bool) : EnginesBecome a s (stopMatIf s a e p)
    (tile s a).vec (if e.m && fits p (tile s a).mat.run then stopMat (tile s a).mat else (tile s a).mat) (tile s a).mov (core s a).specwr := by
  unfold stopMatIf
  split
  · exact (enginesBecome_modMat ..).then_stay (enginesStay_latchIdle ..)
  · exact enginesStay_refl a s

theorem enginesBecome_stopMovIf (s : State) (a : Nat) (e : EMask) (p : RunEntry → Bool) : EnginesBecome a s (stopMovIf s a e p)
    (tile s a).vec (tile s a).mat (if e.x && fits p (tile s a).mov.run then stoppedMov (tile s a).mov else (tile s a).mov)
    (if e.x && fits p (tile s a).mov.run then (core s a).specwr + BitVec.ofNat 64 (writesMade (tile s a).mov) else (core s a).specwr) := by
  unfold stopMovIf
  split
  next h =>
    exact (enginesBecome_stopMov (isSome_of_fits (Bool.and_eq_true_iff.1 h).2)).then_stay (enginesStay_latchIdle ..)
  next => exact enginesStay_refl a s

theorem enginesBecome_stopIf (s : State) (a : Nat) (e : EMask) (p : RunEntry → Bool) : EnginesBecome a s (stopIf s a e p)
    (if e.v && fits p (tile s a).vec.run then stopVec (tile s a).vec else (tile s a).vec)
    (if e.m && fits p (tile s a).mat.run then stopMat (tile s a).mat else (tile s a).mat)
    (if e.x && fits p (tile s a).mov.run then stoppedMov (tile s a).mov else (tile s a).mov)
    (if e.x && fits p (tile s a).mov.run then (core s a).specwr + BitVec.ofNat 64 (writesMade (tile s a).mov) else (core s a).specwr) := by
  have hv := enginesBecome_stopVecIf s a e p
  have hm := enginesBecome_stopMatIf (stopVecIf s a e p) a e p
  rw [hv.vec, hv.mat, hv.mov, hv.specwr] at hm
  have hvm := hv.trans hm
  have hx := enginesBecome_stopMovIf (stopMatIf (stopVecIf s a e p) a e p) a e p
  rw [hvm.vec, hvm.mat, hvm.mov, hvm.specwr] at hx
  rw [stopIf_eq]
  exact hvm.trans hx

/-! ## Queues, and what a cancel leaves (R116, R117) -/

/-- The vector engine whose queue has lost the entries that fit, where it is named. -/
def unqueuedVec (on : Bool) (p : RunEntry → Bool) (v : Vec) : Vec := if on then { v with queue := v.queue.filter (fun r => !p r) } else v

/-- The matrix engine whose queue has lost the entries that fit, where it is named. -/
def unqueuedMat (on : Bool) (p : RunEntry → Bool) (m : Mat) : Mat := if on then { m with queue := m.queue.filter (fun r => !p r) } else m

/-- The move engine whose queue has lost the entries that fit, where it is named. -/
def unqueuedMov (on : Bool) (p : RunEntry → Bool) (m : Mov) : Mov := if on then { m with queue := m.queue.filter (fun r => !p r) } else m

theorem enginesBecome_unqueue (s : State) (a : Nat) (e : EMask) (p : RunEntry → Bool) : EnginesBecome a s (unqueue s a e p)
    (unqueuedVec e.v p (tile s a).vec) (unqueuedMat e.m p (tile s a).mat) (unqueuedMov e.x p (tile s a).mov) (core s a).specwr :=
  enginesBecome_modTile (f := fun t => { t with vec := unqueuedVec e.v p t.vec, mat := unqueuedMat e.m p t.mat, mov := unqueuedMov e.x p t.mov })
    fun _ => rfl

/-- The vector engine after a cancel: entries that fit are gone, and a started run that fits stops. -/
def cancelledVec (on : Bool) (p : RunEntry → Bool) (v : Vec) : Vec :=
  if on && fits p v.run then stopVec (unqueuedVec on p v) else unqueuedVec on p v

/-- The matrix engine after a cancel, likewise. -/
def cancelledMat (on : Bool) (p : RunEntry → Bool) (m : Mat) : Mat :=
  if on && fits p m.run then stopMat (unqueuedMat on p m) else unqueuedMat on p m

/-- The move engine after a cancel, likewise. -/
def cancelledMov (on : Bool) (p : RunEntry → Bool) (m : Mov) : Mov :=
  if on && fits p m.run then stoppedMov (unqueuedMov on p m) else unqueuedMov on p m

@[simp] theorem unqueuedVec_run (on : Bool) (p : RunEntry → Bool) (v : Vec) : (unqueuedVec on p v).run = v.run := by cases on <;> rfl

@[simp] theorem unqueuedMat_run (on : Bool) (p : RunEntry → Bool) (m : Mat) : (unqueuedMat on p m).run = m.run := by cases on <;> rfl

@[simp] theorem unqueuedMov_run (on : Bool) (p : RunEntry → Bool) (m : Mov) : (unqueuedMov on p m).run = m.run := by cases on <;> rfl

@[simp] theorem writesMade_unqueuedMov (on : Bool) (p : RunEntry → Bool) (m : Mov) : writesMade (unqueuedMov on p m) = writesMade m := by
  cases on <;> rfl

theorem enginesBecome_cancelRuns (s : State) (a : Nat) (e : EMask) (p : RunEntry → Bool) : EnginesBecome a s (cancelRuns s a e p)
    (cancelledVec e.v p (tile s a).vec) (cancelledMat e.m p (tile s a).mat) (cancelledMov e.x p (tile s a).mov)
    (if e.x && fits p (tile s a).mov.run then (core s a).specwr + BitVec.ofNat 64 (writesMade (tile s a).mov) else (core s a).specwr) := by
  have hq := enginesBecome_unqueue s a e p
  have hs := enginesBecome_stopIf (unqueue s a e p) a e p
  rw [hq.vec, hq.mat, hq.mov, hq.specwr, unqueuedVec_run, unqueuedMat_run, unqueuedMov_run, writesMade_unqueuedMov] at hs
  exact hq.trans hs

end Sys2Proof.Machine
end

section
/-! PROOFS. Asynchronous traps at boundaries, and what the reeve core makes of a trap that has come to it (R137, R138, R354). -/

namespace Sys2Proof.Machine

/-! ## The trap that is due (R137, R138) -/

/-- TRAPSRC of an asynchronous trap taken by an agent. -/
def sourceOf (s : State) (a : Nat) (q : Pending) : Word := if q.cause = 0x11 ∨ q.cause = 0x0F then trapSrc 0 (core s a).pc 0 else q.src

theorem exec_asyncTrapTaken {s : State} {a : Nat} {q : Pending} {qs : List Pending} (hq : (core s a).async = q :: qs)
    (hrun : (core s a).run = .running) (hwait : (core s a).wait = .none) : exec (.asyncTrapTaken a) s =
      .next (takeTrap (modCore s a (fun c => { c with async := qs })) a q.cause (core s a).pc q.info (sourceOf s a q)) := by
  change execAsyncTrapTaken a s = _
  simp only [execAsyncTrapTaken, hq]
  exact if_pos ⟨hrun, by rw [hwait]; rfl⟩

theorem asyncTrapTaken_effect {s : State} {a : Nat} {q : Pending} {qs : List Pending} (hq : (core s a).async = q :: qs)
    (hrun : (core s a).run = .running) (hwait : (core s a).wait = .none) :
    ∃ t, exec (.asyncTrapTaken a) s = .next t ∧ (core t a).async = qs ∧ (core t a).trapCause = BitVec.ofNat 8 q.cause ∧
      (core t a).trapInfo = q.info ∧
      (core t a).trapSrc = (if q.cause = 0x11 ∨ q.cause = 0x0F then BitVec.ofNat 64 ((core s a).pc % 2 ^ 13 * 2 ^ 48) else q.src) ∧
      (core t a).trapPc = BitVec.ofNat 64 (core s a).pc ∧
      (core t a).trapIn = true ∧ (∀ r, rdS (core t a) r = rdS (core s a) r) ∧ OnlyCore a s t := by
  refine ⟨_, exec_asyncTrapTaken hq hrun hwait, ?_⟩
  rw [core_takeTrap, core_modCore_self, ← trapSrc_core]
  exact ⟨rfl, rfl, rfl, rfl, rfl, rfl, fun _ => rfl, (onlyCore_modCore ..).trans (onlyCore_takeTrap ..)⟩

/-! ## Tiles that stop or are killed leave the tasks as they are (R342, R354) -/

theorem tasks_stopTile (s : State) (a : Nat) : (stopTile s a).tasks = s.tasks :=
  (enginesBecome_cancelRuns s a allEngines (fun _ => true)).tasks

theorem tasks_killTile (s : State) (a : Nat) : (killTile s a).tasks = s.tasks := by
  simp only [killTile, modCore_tasks, tasks_stopTile, modVec_tasks, dropClean]

theorem tasks_killIfDue (s : State) (a : Nat) : (killIfDue s a).tasks = s.tasks := by
  unfold killIfDue overTile
  split
  · split
    · exact tasks_killTile s a
    · exact tasks_stopTile s a
  · rfl

theorem tasks_foldl_killIfDue (as : List Nat) (s : State) : (as.foldl killIfDue s).tasks = s.tasks := by
  induction as generalizing s with
  | nil => rfl
  | cons a as ih => exact (ih _).trans (tasks_killIfDue s a)

/-- A task that ends on the reeve core's account holds the cause. -/
theorem lookup_endTask {s : State} {u : Nat} {k : Task} (h : lookup s.tasks u = some k) (cause : Nat) :
    lookup (endTask s u cause).tasks u = some { k with killed := some (cause, .ended) } := by
  simp only [endTask, h, modTask, tasks_foldl_killIfDue, putTask]
  exact lookup_insAt_self ..

/-! ## The reeve core's policy (R354) -/

/-- The causes and policies that leave a trapped tile stopped (R354). -/
def StaysStopped (s : State) (a : Nat) (k : Task) : Prop :=
  k.killed.isSome ∨ (core s a).trapCause.toNat = 0x10 ∨ (core s a).trapCause.toNat = 0x14 ∨
    ((core s a).trapCause.toNat = 0x0F ∧ k.hdr.killable) ∨ k.ctx.tpol = 1

/-- The record of a trap that comes to the reeve core. -/
def trapReported (s : State) (a : Nat) : State :=
  evTask s 0x01 (core s a).trapCause.toNat a (core s a).trapPc.toNat (core s a).trapInfo.toNat (core s a).trapSrc.toNat

theorem trapReported_tiles (s : State) (a : Nat) : (trapReported s a).tiles = s.tiles := evTask_tiles ..

theorem trapReported_tasks (s : State) (a : Nat) : (trapReported s a).tasks = s.tasks := evTask_tasks ..

section
variable {s : State} {a u : Nat} {k : Task} (hrun : (core s a).run = .reeve false) (hu : (tile s a).task = some u)
  (hk : lookup s.tasks u = some k)
include hu hk

theorem taskOf_eq : taskOf s a = some k := by
  rw [taskOf, hu]
  exact hk

include hrun

theorem exec_trapToReeveCore_stays (h : StaysStopped s a k) : exec (.trapToReeveCore a) s = .next (stayStopped (trapReported s a) a) := by
  change execTrapToReeveCore a s = _
  simp only [execTrapToReeveCore, hrun, hu, taskOf_eq hu hk, if_true]
  exact if_pos h

theorem exec_trapToReeveCore_ends (h : ¬ StaysStopped s a k) : exec (.trapToReeveCore a) s =
    .next (endTask (modCore (trapReported s a) a (fun c => { c with run := .reeve true })) u (core s a).trapCause.toNat) := by
  change execTrapToReeveCore a s = _
  simp only [execTrapToReeveCore, hrun, hu, taskOf_eq hu hk, if_true]
  exact if_neg h

end

/-- A tile stays stopped where its task has not been ended and no kill is due. -/
theorem stayStopped_eq {s : State} {a : Nat} {k : Task} (hk : taskOf s a = some k) (hkill : k.killed = none) (hdue : killDue s a = false) :
    stayStopped s a = modCore s a (fun c => { c with run := .reeve true }) := by
  have htask : taskOf (modCore s a (fun c => { c with run := .reeve true })) a = some k := by
    rw [← hk, taskOf, taskOf, modCore, tile_modTile_self]
    rfl
  have hnotDue : killDue (modCore s a (fun c => { c with run := .reeve true })) a = false := by
    rw [← hdue, killDue, killDue, hdr, hdr, htask, hk, modCore, tile_modTile_self]
  simp only [stayStopped, htask, hkill, hnotDue]
  rfl

/-! ## O20 -/

/-- Settles O20: the first asynchronous trap is taken where the core stands; the reeve core leaves the tile stopped or ends its task, whose
tiles stop or are killed without a change of the tasks. -/
theorem asynchronousTraps : Obligations.AsynchronousTraps := by
  unfold Obligations.AsynchronousTraps
  refine ⟨fun s a q qs hq hrun hwait => asyncTrapTaken_effect hq hrun hwait, fun s a u k hrun hu hk hstay hdue hkill => ?stays,
    fun s a u k hrun hu hk hkill hend => ?ends⟩
  case stays =>
    have htile : tile (trapReported s a) a = tile s a := by rw [tile, trapReported_tiles]; rfl
    have hu' : (tile (trapReported s a) a).task = some u := by rw [htile, hu]
    have htask : taskOf (trapReported s a) a = some k := taskOf_eq hu' (by rw [trapReported_tasks, hk])
    have hnotDue : killDue (trapReported s a) a = false := by
      rw [← hdue, killDue, killDue, hdr, hdr, htask, htile, taskOf_eq hu hk]
    refine ⟨_, exec_trapToReeveCore_stays hrun hu hk (.inr hstay), ?_⟩
    rw [stayStopped_eq htask hkill hnotDue, core_modCore_self, core, htile]
    exact ⟨rfl, rfl⟩
  case ends =>
    obtain ⟨hnot10, hnot14, hover, hpol⟩ := hend
    have hnot : ¬ StaysStopped s a k := by
      rintro (hsome | h10 | h14 | ⟨h0F, hkillable⟩ | h1)
      · rw [hkill] at hsome; exact Bool.false_ne_true hsome
      · exact hnot10 h10
      · exact hnot14 h14
      · exact Bool.false_ne_true ((hover h0F).symm.trans hkillable)
      · exact hpol h1
    exact ⟨_, exec_trapToReeveCore_ends hrun hu hk hnot, lookup_endTask (by rw [modCore_tasks, trapReported_tasks, hk]) _⟩

end Sys2Proof.Machine
end

section
/-! PROOFS. FORK and FORKS queue runs, RUN_START starts them, RESOLVE and CANCEL settle them (R114 to R117, R148, R268, R269, R287). -/

namespace Sys2Proof.Machine

/-! ## FORK and FORKS (R114, R115, R287) -/

/-- Every named engine's entry point lies below the header's count (R114). -/
def EntriesInside (h : Header) (e : EMask) (x m v : Nat) : Prop :=
  (e.x = true → x < h.xrecs) ∧ (e.m = true → m < h.mrecs) ∧ (e.v = true → v < h.vpairs)

/-- Every named queue holds at most seven entries (R21). -/
def QueuesHaveRoom (t : Tile) (e : EMask) : Prop :=
  (e.x = true → t.mov.queue.length < 8) ∧ (e.m = true → t.mat.queue.length < 8) ∧ (e.v = true → t.vec.queue.length < 8)

theorem entryBeyond_none {h : Header} {e : EMask} {x m v : Nat} (hin : EntriesInside h e x m v) : entryBeyond h e x m v = none := by
  obtain ⟨hx, hm, hv⟩ := hin
  unfold entryBeyond
  rw [if_neg fun hc => Nat.not_lt.2 hc.2 (hx hc.1), if_neg fun hc => Nat.not_lt.2 hc.2 (hm hc.1), if_neg fun hc => Nat.not_lt.2 hc.2 (hv hc.1)]

theorem implies_of_guarded {b : Bool} {p : Prop} [Decidable p] (h : b = true → p) : (!b || decide p) = true := by
  cases b
  · rfl
  · simpa using h rfl

theorem queuesFree_of_room {t : Tile} {e : EMask} (h : QueuesHaveRoom t e) : queuesFree t e = true := by
  obtain ⟨hx, hm, hv⟩ := h
  rw [queuesFree, implies_of_guarded hx, implies_of_guarded hm, implies_of_guarded hv]
  rfl

theorem queued_queueRuns (t : Tile) (e : EMask) (x m v : Nat) (p0 p1 : Word) (tag : Nat) (bank : Bank) :
    Queued t (queueRuns e x m v p0 p1 tag bank t) e x m v p0 p1 tag bank := by
  obtain ⟨ex, em, ev⟩ := e
  refine ⟨?_, ?_, ?_⟩
  · cases ex <;> rfl
  · cases em <;> rfl
  · cases ev <;> rfl

section
variable {s : State} {op : Nat} {feats : List Nat} {spec : Bool} {g : Guard} {d a : Nat} {e : EMask} {tag x m v : Nat} {bank : Bank}
  (h : Ready s feats [d, a] [d, a] g) (hq : isSeq s.cur = false) (hin : EntriesInside (hdr s s.cur) e x m v)
include h hq hin

/-- The checks behind it, the word waits for the core's AMOS.COs and for room. -/
theorem forkWord_checked : forkWord op feats spec g d a e tag x m v bank s = afterCo true s fun s =>
    if queuesFree (tile s s.cur) e then
      .next (advance (modTile s s.cur (fun t => queueRuns e x m v (rdS t.core d) (rdS t.core a) tag bank t)))
    else stall .fork s := by
  rw [forkWord, word_ready h, needs_arrived h.arrived, hq, entryBeyond_none hin]
  rfl

theorem forkWord_waits (hco : coPending s s.cur = true) : forkWord op feats spec g d a e tag x m v bank s =
    .next (modCore s s.cur (fun c => { c with wait := wordWait .ownAtomic c.wait })) := by
  rw [forkWord_checked h hq hin, afterCo_waits (by rw [hco]; rfl)]
  rfl

/-- With room, one run is queued on each named engine and the core goes on. -/
theorem forkWord_queues (hroom : QueuesHaveRoom (tile s s.cur) e) (hco : coPending s s.cur = false) :
    ∃ t, forkWord op feats spec g d a e tag x m v bank s = .next t ∧
      Queued (tile s s.cur) (tile t s.cur) e x m v (rdS (core s s.cur) d) (rdS (core s s.cur) a) tag bank ∧
      (core t s.cur).pc = (core s s.cur).pc + 1 ∧ (core t s.cur).wait = .none ∧ (∀ r, rdS (core t s.cur) r = rdS (core s s.cur) r) ∧
      OnlyTile s.cur s t := by
  refine ⟨advance (modTile s s.cur (fun t => queueRuns e x m v (rdS t.core d) (rdS t.core a) tag bank t)), ?_, ?_⟩
  · rw [forkWord_checked h hq hin, afterCo_free (by rw [hco]; rfl), if_pos (queuesFree_of_room hroom)]
  · have ht := tile_advance (modTile s s.cur (fun t => queueRuns e x m v (rdS t.core d) (rdS t.core a) tag bank t))
    rw [modTile_cur, core, tile_modTile_self] at ht
    have hc := congrArg Tile.core ht
    rw [← core] at hc
    rw [hc, ht]
    exact ⟨queued_queueRuns (tile s s.cur) e x m v _ _ tag bank, rfl, rfl, fun _ => rfl, (onlyTile_modTile ..).trans (onlyCore_advance (modTile s s.cur _)).toOnlyTile⟩

end

/-- A stalled FORK that finds room issues again. -/
theorem forkQueueEntryFree_fork {s : State} {a : Nat} {o : ForkOp} (hw : (core s a).wait = .fork)
    (hdec : decodeAt s a (core s a).pc = .ok (.fork o)) (hroom : QueuesHaveRoom (tile s a) o.e) :
    exec (.forkQueueEntryFree a) s = execFork o { s with cur := a } := by
  change execForkQueueEntryFree a s = _
  simp only [execForkQueueEntryFree, hw, if_true, hdec, queuesFree_of_room hroom]

theorem forkQueueEntryFree_forks {s : State} {a : Nat} {o : ForkSOp} (hw : (core s a).wait = .fork)
    (hdec : decodeAt s a (core s a).pc = .ok (.forks o)) (hroom : QueuesHaveRoom (tile s a) o.e) :
    exec (.forkQueueEntryFree a) s = execForks o { s with cur := a } := by
  change execForkQueueEntryFree a s = _
  simp only [execForkQueueEntryFree, hw, if_true, hdec, queuesFree_of_room hroom]

/-! ## RUN_START (R114, R148) -/

theorem half_low (w : Word) : BitVec.ofNat 32 (w.toNat / 2 ^ (32 * 0)) = w.truncate 32 := by
  apply BitVec.eq_of_toNat_eq
  simp

theorem half_high (w : Word) : BitVec.ofNat 32 (w.toNat / 2 ^ (32 * 1)) = (w >>> 32).truncate 32 := by
  apply BitVec.eq_of_toNat_eq
  simp [Nat.shiftRight_eq_div_pow]

theorem rdK_wrK_self {n : Nat} (hn : n ≠ 0) (x : Lane) (v : Vec) : rdK (wrK n x v) n = x := by
  simp only [rdK, wrK, if_neg hn]
  exact getAt_setAt_self ..

theorem rdK_wrK_ne {n k : Nat} (x : Lane) (v : Vec) (h : k ≠ n) : rdK (wrK n x v) k = rdK v k := by
  unfold rdK wrK
  split
  · rfl
  · split
    · rfl
    · exact getAt_setAt_ne 0 v.k x h

/-- The parameters stand in k12 to k15, and the lower k registers stay. -/
theorem rdK_runParams (r : RunEntry) (v : Vec) : rdK (runParams r v) 12 = r.p0.truncate 32 ∧
    rdK (runParams r v) 13 = (r.p0 >>> 32).truncate 32 ∧ rdK (runParams r v) 14 = r.p1.truncate 32 ∧
    rdK (runParams r v) 15 = (r.p1 >>> 32).truncate 32 ∧ ∀ k, k < 12 → rdK (runParams r v) k = rdK v k := by
  unfold runParams
  refine ⟨?_, ?_, ?_, ?_, fun k hk => ?_⟩
  · rw [rdK_wrK_ne _ _ (by decide), rdK_wrK_ne _ _ (by decide), rdK_wrK_ne _ _ (by decide), rdK_wrK_self (by decide)]
    exact half_low _
  · rw [rdK_wrK_ne _ _ (by decide), rdK_wrK_ne _ _ (by decide), rdK_wrK_self (by decide)]
    exact half_high _
  · rw [rdK_wrK_ne _ _ (by decide), rdK_wrK_self (by decide)]
    exact half_low _
  · rw [rdK_wrK_self (by decide)]
    exact half_high _
  · rw [rdK_wrK_ne _ _ (by omega), rdK_wrK_ne _ _ (by omega), rdK_wrK_ne _ _ (by omega), rdK_wrK_ne _ _ (by omega)]

section
variable {s : State} {a : Nat} {r : RunEntry} {rs : List RunEntry}

theorem exec_runStart_v (hq : (tile s a).vec.queue = r :: rs) (hb : vecBusy (tile s a).vec = false) : exec (.runStart a .v) s =
    .next (modVec s a (fun v => { runParams r v with queue := rs, run := some ⟨r, r.entry, false⟩, draining := false })) := by
  change execRunStart a .v s = _
  simp only [execRunStart, startRun, hq, hb]
  rfl

theorem exec_runStart_m (hq : (tile s a).mat.queue = r :: rs) (hb : matBusy (tile s a).mat = false) : exec (.runStart a .m) s =
    .next (modMat s a (fun m => { m with queue := rs, run := some ⟨r, r.entry, false⟩, popped := false, rep := none, o0 := 0, o1 := 0 })) := by
  change execRunStart a .m s = _
  simp only [execRunStart, startRun, hq, hb]
  rfl

theorem exec_runStart_x (hq : (tile s a).mov.queue = r :: rs) (hb : movBusy (tile s a).mov = false) : exec (.runStart a .x) s =
    .next (modMov s a (fun m => { m with
      queue := rs, run := some ⟨r, r.entry, false⟩, popped := false, rep := none, o0 := 0, o1 := 0, runWrites := 0, asked := none })) := by
  change execRunStart a .x s = _
  simp only [execRunStart, startRun, hq, hb]
  rfl

end

/-! ## CANCEL (R117) -/

theorem queue_unqueuedVec (on : Bool) (p : RunEntry → Bool) (v : Vec) :
    (unqueuedVec on p v).queue = if on then v.queue.filter (fun r => !p r) else v.queue := by cases on <;> rfl

theorem queue_unqueuedMat (on : Bool) (p : RunEntry → Bool) (m : Mat) :
    (unqueuedMat on p m).queue = if on then m.queue.filter (fun r => !p r) else m.queue := by cases on <;> rfl

theorem queue_unqueuedMov (on : Bool) (p : RunEntry → Bool) (m : Mov) :
    (unqueuedMov on p m).queue = if on then m.queue.filter (fun r => !p r) else m.queue := by cases on <;> rfl

theorem core_unqueue (s : State) (a : Nat) (e : EMask) (p : RunEntry → Bool) : core (unqueue s a e p) a = core s a := by
  rw [core, unqueue, tile_modTile_self]
  rfl

/-- A word goes on after its work on the engines. -/
theorem EnginesBecome.advanced {s u : State} {v : Vec} {m : Mat} {x : Mov} {w : Word} (h : EnginesBecome s.cur s u v m x w) :
    (tile (advance u) s.cur).vec = v ∧ (tile (advance u) s.cur).mat = m ∧ (tile (advance u) s.cur).mov = x ∧
      core (advance u) s.cur = { core u s.cur with pc := (core s s.cur).pc + 1, wait := .none, afterGbar := false } ∧
      OnlyTile s.cur s (advance u) := by
  have ho := onlyCore_goAt s.cur ((core u s.cur).pc + 1) u
  rw [advance_eq h.cur, core_advanceAt, h.pc]
  exact ⟨ho.vec.trans h.vec, ho.mat.trans h.mat, ho.mov.trans h.mov, rfl, h.toOnlyTile.trans ho.toOnlyTile⟩

theorem exec_cancel {s : State} {o : CancelOp} (h : Ready s [] [] [] o.g) :
    exec (.cancel o) s = .next (advance (unqueue s s.cur o.e (fun r => r.tag == o.tag.val))) := by
  change execCancel o s = _
  rw [execCancel, word_ready h]

/-! ## Runs that become ordinary, and the faults they hold (R116, R269) -/

/-- An entry that fits becomes ordinary. -/
def ordinaryIf (p : RunEntry → Bool) (r : RunEntry) : RunEntry := if p r then { r with bank := Bank.none } else r

/-- The started run becomes ordinary where its entry fits. -/
def ordinaryRunIf (p : RunEntry → Bool) (r : RunState) : RunState := { r with e := ordinaryIf p r.e }

/-- The vector engine whose entries and run that fit have become ordinary. -/
def committedVec (on : Bool) (p : RunEntry → Bool) (v : Vec) : Vec :=
  if on then { v with queue := v.queue.map (ordinaryIf p), run := v.run.map (ordinaryRunIf p) } else v

/-- The same of the matrix engine. -/
def committedMat (on : Bool) (p : RunEntry → Bool) (m : Mat) : Mat :=
  if on then { m with queue := m.queue.map (ordinaryIf p), run := m.run.map (ordinaryRunIf p) } else m

/-- The same of the move engine. -/
def committedMov (on : Bool) (p : RunEntry → Bool) (m : Mov) : Mov :=
  if on then { m with queue := m.queue.map (ordinaryIf p), run := m.run.map (ordinaryRunIf p) } else m

theorem enginesBecome_commitRuns (s : State) (a : Nat) (e : EMask) (p : RunEntry → Bool) : EnginesBecome a s (commitRuns s a e p)
    (committedVec e.v p (tile s a).vec) (committedMat e.m p (tile s a).mat) (committedMov e.x p (tile s a).mov) (core s a).specwr :=
  enginesBecome_modTile (f := fun t => { t with vec := committedVec e.v p t.vec, mat := committedMat e.m p t.mat, mov := committedMov e.x p t.mov })
    fun _ => rfl

/-- The run, if there is one, is ordinary. -/
def isOrdinary : Option RunState → Bool
  | some r => r.e.bank == Bank.none
  | none => false

/-- The fault that a run holds and that is taken now. -/
def faultDue (r : Option RunState) (h : Option Pending) : List Pending := if isOrdinary r then h.toList else []

/-- The vector engine whose held fault is taken, if its run is ordinary. -/
def releasedVec (v : Vec) : Vec := if isOrdinary v.run then { v with held := none } else v

/-- The same of the matrix engine. -/
def releasedMat (m : Mat) : Mat := if isOrdinary m.run then { m with held := none } else m

/-- The same of the move engine. -/
def releasedMov (m : Mov) : Mov := if isOrdinary m.run then { m with held := none } else m

/-- A held fault is raised. -/
def raiseHeld (s : State) (a : Nat) : Option Pending → State
  | some q => raiseAsync s a q.cause q.info q.src
  | none => s

theorem enginesStay_raiseHeld (s : State) (a : Nat) (h : Option Pending) : EnginesStay a s (raiseHeld s a h) := by
  cases h with
  | none => exact enginesStay_refl a s
  | some q =>
    simp only [raiseHeld, raiseAsync]
    refine enginesStay_modCore ?_ ?_ <;> exact fun _ => rfl

theorem async_raiseHeld (s : State) (a : Nat) (h : Option Pending) : (core (raiseHeld s a h) a).async = (core s a).async ++ h.toList := by
  cases h
  · exact (List.append_nil _).symm
  · exact congrArg (fun t => t.core.async) (tile_raiseAsync_self ..)

/-- `releaseHeld` for one engine: its run, what it holds, and the change that forgets it. -/
def releaseOne (f : State → State) (r : Option RunState) (h : Option Pending) (s : State) (a : Nat) : State :=
  if isOrdinary r then f (raiseHeld s a h) else s

theorem releaseHeld_eq (s : State) (a : Nat) : releaseHeld s a =
    releaseOne (fun s => modMov s a (fun m => { m with held := none })) (tile s a).mov.run (tile s a).mov.held
      (releaseOne (fun s => modMat s a (fun m => { m with held := none })) (tile s a).mat.run (tile s a).mat.held
        (releaseOne (fun s => modVec s a (fun v => { v with held := none })) (tile s a).vec.run (tile s a).vec.held s a) a) a := rfl

theorem async_releaseOne {f : State → State} {a : Nat} (hf : ∀ s, (core (f s) a).async = (core s a).async) (r : Option RunState)
    (h : Option Pending) (s : State) : (core (releaseOne f r h s a) a).async = (core s a).async ++ faultDue r h := by
  unfold releaseOne faultDue
  split
  · rw [hf, async_raiseHeld]
  · exact (List.append_nil _).symm

/-- Every fault that is due is raised. -/
theorem async_releaseHeld (s : State) (a : Nat) : (core (releaseHeld s a) a).async = (core s a).async ++
    faultDue (tile s a).vec.run (tile s a).vec.held ++ faultDue (tile s a).mat.run (tile s a).mat.held ++
      faultDue (tile s a).mov.run (tile s a).mov.held := by
  have hv (s : State) : (core (modVec s a (fun v => { v with held := none })) a).async = (core s a).async := by rw [core, tile_modVec_self]; rfl
  have hm (s : State) : (core (modMat s a (fun m => { m with held := none })) a).async = (core s a).async := by rw [core, tile_modMat_self]; rfl
  have hx (s : State) : (core (modMov s a (fun m => { m with held := none })) a).async = (core s a).async := by rw [core, tile_modMov_self]; rfl
  rw [releaseHeld_eq, async_releaseOne hx, async_releaseOne hm, async_releaseOne hv]

/-- One engine is released: where its run is ordinary, it becomes what `f` makes of it. -/
theorem enginesBecome_releaseOne {f : State → State} {a : Nat} {s t : State} {v v' : Vec} {m m' : Mat} {x x' : Mov} {w : Word}
    (ht : EnginesBecome a s t v m x w) (hf : ∀ u, EnginesBecome a s u v m x w → EnginesBecome a s (f u) v' m' x' w) (r : Option RunState)
    (h : Option Pending) : EnginesBecome a s (releaseOne f r h t a) (if isOrdinary r then v' else v) (if isOrdinary r then m' else m)
      (if isOrdinary r then x' else x) w := by
  unfold releaseOne
  split
  · exact hf _ (ht.then_stay (enginesStay_raiseHeld ..))
  · exact ht

theorem enginesBecome_releaseHeld (s : State) (a : Nat) : EnginesBecome a s (releaseHeld s a) (releasedVec (tile s a).vec)
    (releasedMat (tile s a).mat) (releasedMov (tile s a).mov) (core s a).specwr := by
  have hv := enginesBecome_releaseOne (enginesStay_refl a s) (fun _ hu => hu.then_modVec fun v => { v with held := none })
    (tile s a).vec.run (tile s a).vec.held
  have hm := enginesBecome_releaseOne hv (fun _ hu => hu.then_modMat fun m => { m with held := none }) (tile s a).mat.run (tile s a).mat.held
  have hx := enginesBecome_releaseOne hm (fun _ hu => hu.then_modMov fun m => { m with held := none }) (tile s a).mov.run (tile s a).mov.held
  simp only [ite_self] at hx
  exact hx

/-! ## RESOLVE on one engine (R116, R268, R269) -/

section
variable (on : Bool) (keep drop : RunEntry → Bool)

/-- The vector engine after RESOLVE, before the faults it holds are looked at. -/
def settledVec (v : Vec) : Vec := committedVec on keep (cancelledVec on drop v)

/-- The matrix engine after RESOLVE, likewise. -/
def settledMat (m : Mat) : Mat := committedMat on keep (cancelledMat on drop m)

/-- The move engine after RESOLVE, likewise. -/
def settledMov (m : Mov) : Mov := committedMov on keep (cancelledMov on drop m)

/-- A queue after RESOLVE. -/
def settledQueue (q : List RunEntry) : List RunEntry := (q.filter (fun r => !drop r)).map (ordinaryIf keep)

end

theorem queue_foldl_landFlight (fs : List Flight) (v : Vec) : (fs.foldl landFlight v).queue = v.queue := by
  induction fs generalizing v with
  | nil => rfl
  | cons f fs ih => exact ih _

theorem queue_flushBuffer (v : Vec) : (flushBuffer v).queue = v.queue := by
  have hflush (rs : List Nat) (u : Vec) :
      (rs.foldl (fun u r => (u.buffer.filter (fun f => f.due == r)).foldl landFlight u) u).queue = u.queue := by
    induction rs generalizing u with
    | nil => rfl
    | cons r rs ih => exact (ih _).trans (queue_foldl_landFlight ..)
  simp only [flushBuffer, hflush]

@[simp] theorem queue_stopVec (v : Vec) : (stopVec v).queue = v.queue := by
  unfold stopVec
  split
  · simp only [queue_flushBuffer]
  · split <;> rfl

@[simp] theorem queue_stopMat (m : Mat) : (stopMat m).queue = m.queue := by
  have hdiscard (m : Mat) : (discardMat m).queue = m.queue := by unfold discardMat; split <;> rfl
  simp only [stopMat]
  split
  · rfl
  · split
    · exact hdiscard _
    · exact hdiscard _

@[simp] theorem queue_stoppedMov (m : Mov) : (stoppedMov m).queue = m.queue := by
  unfold stoppedMov
  split
  · rfl
  · split <;> rfl

section
variable (on : Bool) (keep drop : RunEntry → Bool)

theorem queue_cancelledVec (v : Vec) : (cancelledVec on drop v).queue = (unqueuedVec on drop v).queue := by
  unfold cancelledVec; split <;> simp

theorem queue_cancelledMat (m : Mat) : (cancelledMat on drop m).queue = (unqueuedMat on drop m).queue := by
  unfold cancelledMat; split <;> simp

theorem queue_cancelledMov (m : Mov) : (cancelledMov on drop m).queue = (unqueuedMov on drop m).queue := by
  unfold cancelledMov; split <;> simp

theorem queue_settledVec (v : Vec) : (releasedVec (settledVec on keep drop v)).queue = if on then settledQueue keep drop v.queue else v.queue := by
  have hreleased (v : Vec) : (releasedVec v).queue = v.queue := by unfold releasedVec; split <;> rfl
  rw [hreleased, settledVec, committedVec]
  cases on <;> simp [queue_cancelledVec, queue_unqueuedVec, settledQueue]

theorem queue_settledMat (m : Mat) : (releasedMat (settledMat on keep drop m)).queue = if on then settledQueue keep drop m.queue else m.queue := by
  have hreleased (m : Mat) : (releasedMat m).queue = m.queue := by unfold releasedMat; split <;> rfl
  rw [hreleased, settledMat, committedMat]
  cases on <;> simp [queue_cancelledMat, queue_unqueuedMat, settledQueue]

theorem queue_settledMov (m : Mov) : (releasedMov (settledMov on keep drop m)).queue = if on then settledQueue keep drop m.queue else m.queue := by
  have hreleased (m : Mov) : (releasedMov m).queue = m.queue := by unfold releasedMov; split <;> rfl
  rw [hreleased, settledMov, committedMov]
  cases on <;> simp [queue_cancelledMov, queue_unqueuedMov, settledQueue]

end

/-- The run with its entry ordinary. -/
def ordinaryRun (r : RunState) : RunState := { r with e := { r.e with bank := Bank.none } }

theorem mem_faultDue {r : RunState} {q : Pending} : q ∈ faultDue (some (ordinaryRun r)) (some q) := List.mem_singleton.2 rfl

section
variable {keep drop : RunEntry → Bool} {r : RunState}

theorem ordinaryRunIf_fits (hk : keep r.e = true) : ordinaryRunIf keep r = ordinaryRun r := by
  rw [ordinaryRunIf, ordinaryIf, if_pos hk]
  rfl

theorem ordinaryRunIf_other (hk : keep r.e = false) : ordinaryRunIf keep r = r := by
  rw [ordinaryRunIf, ordinaryIf, if_neg (by rw [hk]; exact Bool.false_ne_true)]

theorem isOrdinary_other (h : r.e.bank ≠ .none) : isOrdinary (some r) = false := by simpa [isOrdinary] using h

/-! ### A run of the bank kept becomes ordinary -/

section
variable (hk : keep r.e = true) (hd : drop r.e = false)
include hk hd

theorem settledVec_keep {v : Vec} (hr : v.run = some r) :
    (settledVec true keep drop v).run = some (ordinaryRun r) ∧ (settledVec true keep drop v).held = v.held := by
  simp [settledVec, committedVec, cancelledVec, fits, unqueuedVec, hr, hd, ordinaryRunIf_fits hk]

theorem settledMat_keep {m : Mat} (hr : m.run = some r) :
    (settledMat true keep drop m).run = some (ordinaryRun r) ∧ (settledMat true keep drop m).held = m.held := by
  simp [settledMat, committedMat, cancelledMat, fits, unqueuedMat, hr, hd, ordinaryRunIf_fits hk]

theorem settledMov_keep {m : Mov} (hr : m.run = some r) :
    (settledMov true keep drop m).run = some (ordinaryRun r) ∧ (settledMov true keep drop m).held = m.held := by
  simp [settledMov, committedMov, cancelledMov, fits, unqueuedMov, hr, hd, ordinaryRunIf_fits hk]

end

theorem releasedVec_ordinary {v : Vec} (h : v.run = some (ordinaryRun r)) :
    (releasedVec v).run = some (ordinaryRun r) ∧ (releasedVec v).held = none := by
  rw [releasedVec, if_pos (by rw [h]; rfl)]
  exact ⟨h, rfl⟩

theorem releasedMat_ordinary {m : Mat} (h : m.run = some (ordinaryRun r)) :
    (releasedMat m).run = some (ordinaryRun r) ∧ (releasedMat m).held = none := by
  rw [releasedMat, if_pos (by rw [h]; rfl)]
  exact ⟨h, rfl⟩

theorem releasedMov_ordinary {m : Mov} (h : m.run = some (ordinaryRun r)) :
    (releasedMov m).run = some (ordinaryRun r) ∧ (releasedMov m).held = none := by
  rw [releasedMov, if_pos (by rw [h]; rfl)]
  exact ⟨h, rfl⟩

/-! ### A run of the other bank stops -/

theorem stopVec_cases {v : Vec} (hr : v.run = some r) :
    if v.trapped = true then (stopVec v).run = none ∧ (stopVec v).buffer = []
    else (stopVec v).run = some { r with stop := true } ∧ (stopVec v).draining = true ∧ (stopVec v).push = none ∧
      (stopVec v).flight = v.flight := by
  unfold stopVec
  split
  · exact ⟨rfl, rfl⟩
  · simp [hr]

theorem repeating_discardMat (m : Mat) : repeating (discardMat m) = (repeating m && !m.parked) := by
  unfold discardMat
  split
  next hp => simp [repeating, hp]
  next hp => simp [hp]

theorem discardMat_fields (m : Mat) : (discardMat m).run = m.run ∧ (discardMat m).busy = m.busy ∧ (discardMat m).push = m.push ∧
    (discardMat m).paused = m.paused ∧ (discardMat m).parked = false := by
  unfold discardMat
  split
  next => exact ⟨rfl, rfl, rfl, rfl, rfl⟩
  next hp => exact ⟨rfl, rfl, rfl, rfl, Bool.eq_false_iff.2 hp⟩

/-- The matrix engine that stops, its push dropped and a parked record discarded, before what is in progress is looked at. -/
def haltedMat (m : Mat) : Mat := discardMat { m with push := none, paused := false }

theorem stopMat_eq {m : Mat} (hr : m.run = some r) : stopMat m =
    if (haltedMat m).busy.isEmpty ∧ !repeating (haltedMat m) then { haltedMat m with run := none, popped := false, rep := none }
    else { haltedMat m with run := (haltedMat m).run.map (fun r => { r with stop := true }) } := by
  unfold stopMat
  rw [if_neg (by rw [hr]; exact Bool.false_ne_true)]
  rfl

theorem stopMat_cases {m : Mat} (hr : m.run = some r) :
    (stopMat m).push = none ∧ (stopMat m).parked = false ∧ (stopMat m).paused = false ∧
      if m.busy = [] ∧ (repeating m = false ∨ m.parked = true) then (stopMat m).run = none
      else (stopMat m).run = some { r with stop := true } ∧ (stopMat m).busy = m.busy := by
  obtain ⟨hrun, hbusy, hpush, hpaused, hparked⟩ := discardMat_fields { m with push := none, paused := false }
  have hiff : ((haltedMat m).busy.isEmpty = true ∧ (!repeating (haltedMat m)) = true) ↔
      m.busy = [] ∧ (repeating m = false ∨ m.parked = true) := by
    rw [haltedMat, hbusy, repeating_discardMat]
    change m.busy.isEmpty = true ∧ (!(repeating m && !m.parked)) = true ↔ _
    simp [Bool.not_and]
  simp only [stopMat_eq hr, ← hiff]
  split
  next => exact ⟨hpush, hparked, hpaused, rfl⟩
  next => exact ⟨hpush, hparked, hpaused, congrArg (Option.map _) (hrun.trans hr), hbusy⟩

theorem stoppedMov_cases {m : Mov} (hr : m.run = some r) :
    (stoppedMov m).push = none ∧ (stoppedMov m).parked = none ∧ (stoppedMov m).paused = false ∧
      if m.busy = none ∨ m.parked ≠ none then (stoppedMov m).run = none
      else (stoppedMov m).run = some { r with stop := true } ∧ (stoppedMov m).busy = m.busy.map (fun b => { b with writes := 0 }) := by
  unfold stoppedMov
  cases hp : m.parked with
  | some x => simp [discardedMov, haltedMov]
  | none =>
    cases hb : m.busy with
    | none => simp [haltedMov, hp]
    | some b => simp [haltedMov, hp, hb, hr]

/-! ### Nothing of a run that stays speculative, or is over, is raised -/

theorem releasedVec_other {v : Vec} (h : isOrdinary v.run = false) : releasedVec v = v := by
  rw [releasedVec, if_neg (by rw [h]; exact Bool.false_ne_true)]

theorem releasedMat_other {m : Mat} (h : isOrdinary m.run = false) : releasedMat m = m := by
  rw [releasedMat, if_neg (by rw [h]; exact Bool.false_ne_true)]

theorem releasedMov_other {m : Mov} (h : isOrdinary m.run = false) : releasedMov m = m := by
  rw [releasedMov, if_neg (by rw [h]; exact Bool.false_ne_true)]

section
variable (hk : keep r.e = false) (hd : drop r.e = true) (hb : r.e.bank ≠ .none)
include hk hd hb

theorem settledVec_drop {v : Vec} (hr : v.run = some r) :
    if v.trapped = true then (releasedVec (settledVec true keep drop v)).run = none ∧ (releasedVec (settledVec true keep drop v)).buffer = []
    else (releasedVec (settledVec true keep drop v)).run = some { r with stop := true } ∧
      (releasedVec (settledVec true keep drop v)).draining = true ∧ (releasedVec (settledVec true keep drop v)).push = none ∧
      (releasedVec (settledVec true keep drop v)).flight = v.flight := by
  have hcancel : cancelledVec true drop v = stopVec (unqueuedVec true drop v) := by simp [cancelledVec, hr, fits, hd]
  have hstop := stopVec_cases (v := unqueuedVec true drop v) (r := r) hr
  rw [settledVec, hcancel]
  generalize stopVec (unqueuedVec true drop v) = w at hstop
  change if v.trapped = true then _ else _ at hstop
  split at hstop
  next ht =>
    obtain ⟨hrun, hbuf⟩ := hstop
    rw [if_pos ht, releasedVec_other (by simp [committedVec, hrun, isOrdinary])]
    simp [committedVec, hrun, hbuf]
  next ht =>
    obtain ⟨hrun, hdrain, hpush, hflight⟩ := hstop
    have hother : ordinaryRunIf keep { r with stop := true } = { r with stop := true } := ordinaryRunIf_other hk
    rw [if_neg ht, releasedVec_other (by simp [committedVec, hrun, hother, isOrdinary, hb])]
    simp only [committedVec, if_true, hrun, Option.map_some, hother]
    exact ⟨trivial, hdrain, hpush, hflight⟩

theorem settledMat_drop {m : Mat} (hr : m.run = some r) :
    (releasedMat (settledMat true keep drop m)).push = none ∧ (releasedMat (settledMat true keep drop m)).parked = false ∧
    (releasedMat (settledMat true keep drop m)).paused = false ∧
      if m.busy = [] ∧ (repeating m = false ∨ m.parked = true) then (releasedMat (settledMat true keep drop m)).run = none
      else (releasedMat (settledMat true keep drop m)).run = some { r with stop := true } ∧
        (releasedMat (settledMat true keep drop m)).busy = m.busy := by
  have hcancel : cancelledMat true drop m = stopMat (unqueuedMat true drop m) := by simp [cancelledMat, hr, fits, hd]
  obtain ⟨hpush, hparked, hpaused, hstop⟩ := stopMat_cases (m := unqueuedMat true drop m) (r := r) hr
  rw [settledMat, hcancel]
  generalize stopMat (unqueuedMat true drop m) = w at hpush hparked hpaused hstop
  change if m.busy = [] ∧ (repeating m = false ∨ m.parked = true) then _ else _ at hstop
  split at hstop
  next ht =>
    rw [if_pos ht, releasedMat_other (by simp [committedMat, hstop, isOrdinary])]
    simp [committedMat, hstop, hpush, hparked, hpaused]
  next ht =>
    obtain ⟨hrun, hbusy⟩ := hstop
    have hother : ordinaryRunIf keep { r with stop := true } = { r with stop := true } := ordinaryRunIf_other hk
    rw [if_neg ht, releasedMat_other (by simp [committedMat, hrun, hother, isOrdinary, hb])]
    simp only [committedMat, if_true, hrun, Option.map_some, hother]
    exact ⟨hpush, hparked, hpaused, trivial, hbusy⟩

theorem settledMov_drop {m : Mov} (hr : m.run = some r) :
    (releasedMov (settledMov true keep drop m)).push = none ∧ (releasedMov (settledMov true keep drop m)).parked = none ∧
    (releasedMov (settledMov true keep drop m)).paused = false ∧
      if m.busy = none ∨ m.parked ≠ none then (releasedMov (settledMov true keep drop m)).run = none
      else (releasedMov (settledMov true keep drop m)).run = some { r with stop := true } ∧
        (releasedMov (settledMov true keep drop m)).busy = m.busy.map (fun b => { b with writes := 0 }) := by
  have hcancel : cancelledMov true drop m = stoppedMov (unqueuedMov true drop m) := by simp [cancelledMov, hr, fits, hd]
  obtain ⟨hpush, hparked, hpaused, hstop⟩ := stoppedMov_cases (m := unqueuedMov true drop m) (r := r) hr
  rw [settledMov, hcancel]
  generalize stoppedMov (unqueuedMov true drop m) = w at hpush hparked hpaused hstop
  change if m.busy = none ∨ m.parked ≠ none then _ else _ at hstop
  split at hstop
  next ht =>
    rw [if_pos ht, releasedMov_other (by simp [committedMov, hstop, isOrdinary])]
    simp [committedMov, hstop, hpush, hparked, hpaused]
  next ht =>
    obtain ⟨hrun, hbusy⟩ := hstop
    have hother : ordinaryRunIf keep { r with stop := true } = { r with stop := true } := ordinaryRunIf_other hk
    rw [if_neg ht, releasedMov_other (by simp [committedMov, hrun, hother, isOrdinary, hb])]
    simp only [committedMov, if_true, hrun, Option.map_some, hother]
    exact ⟨hpush, hparked, hpaused, trivial, hbusy⟩

end

end

/-! ## RESOLVE (R116) -/

/-- The bank that RESOLVE keeps. -/
def bankKept (o : ResolveOp) : Bank := if o.bank then .b else .a

/-- The bank that RESOLVE cancels. -/
def bankDropped (o : ResolveOp) : Bank := if o.bank then .a else .b

/-- An entry of the tag and of the bank kept. -/
def isKept (o : ResolveOp) (r : RunEntry) : Bool := r.tag == o.tag.val && r.bank == bankKept o

/-- An entry of the tag and of the bank cancelled. -/
def isDropped (o : ResolveOp) (r : RunEntry) : Bool := r.tag == o.tag.val && r.bank == bankDropped o

/-- The state in which RESOLVE goes on. -/
def resolved (o : ResolveOp) (s : State) : State :=
  releaseHeld (commitRuns (cancelRuns s s.cur o.e (isDropped o)) s.cur o.e (isKept o)) s.cur

theorem cancelRuns_cur (s : State) (a : Nat) (e : EMask) (p : RunEntry → Bool) : (cancelRuns s a e p).cur = s.cur :=
  (enginesBecome_cancelRuns s a e p).cur

theorem exec_resolve {s : State} {o : ResolveOp} (h : Ready s [6] [] [] o.g) (hq : isSeq s.cur = false) :
    exec (.resolve o) s = .next (advance (resolved o s)) := by
  change execResolve o s = _
  rw [execResolve, word_ready h, hq]
  simp only [Bool.false_eq_true, if_false, cancelRuns_cur]
  rfl

theorem enginesBecome_resolved (o : ResolveOp) (s : State) : EnginesBecome s.cur s (resolved o s)
    (releasedVec (settledVec o.e.v (isKept o) (isDropped o) (tile s s.cur).vec))
    (releasedMat (settledMat o.e.m (isKept o) (isDropped o) (tile s s.cur).mat))
    (releasedMov (settledMov o.e.x (isKept o) (isDropped o) (tile s s.cur).mov))
    (if o.e.x && fits (isDropped o) (tile s s.cur).mov.run then (core s s.cur).specwr + BitVec.ofNat 64 (writesMade (tile s s.cur).mov)
      else (core s s.cur).specwr) := by
  have hc := enginesBecome_cancelRuns s s.cur o.e (isDropped o)
  have hm := enginesBecome_commitRuns (cancelRuns s s.cur o.e (isDropped o)) s.cur o.e (isKept o)
  rw [hc.vec, hc.mat, hc.mov, hc.specwr] at hm
  have hcm := hc.trans hm
  have hr := enginesBecome_releaseHeld (commitRuns (cancelRuns s s.cur o.e (isDropped o)) s.cur o.e (isKept o)) s.cur
  rw [hcm.vec, hcm.mat, hcm.mov, hcm.specwr] at hr
  exact hcm.trans hr

/-- RESOLVE raises what the runs that it makes ordinary hold. -/
theorem async_resolved (o : ResolveOp) (s : State) : ∃ before, (core (resolved o s) s.cur).async = before ++
    faultDue (settledVec o.e.v (isKept o) (isDropped o) (tile s s.cur).vec).run (settledVec o.e.v (isKept o) (isDropped o) (tile s s.cur).vec).held ++
    faultDue (settledMat o.e.m (isKept o) (isDropped o) (tile s s.cur).mat).run (settledMat o.e.m (isKept o) (isDropped o) (tile s s.cur).mat).held ++
    faultDue (settledMov o.e.x (isKept o) (isDropped o) (tile s s.cur).mov).run (settledMov o.e.x (isKept o) (isDropped o) (tile s s.cur).mov).held := by
  have hc := enginesBecome_cancelRuns s s.cur o.e (isDropped o)
  have hm := enginesBecome_commitRuns (cancelRuns s s.cur o.e (isDropped o)) s.cur o.e (isKept o)
  rw [hc.vec, hc.mat, hc.mov, hc.specwr] at hm
  have h := async_releaseHeld (commitRuns (cancelRuns s s.cur o.e (isDropped o)) s.cur o.e (isKept o)) s.cur
  rw [hm.vec, hm.mat, hm.mov] at h
  exact ⟨_, h⟩

section
variable {o : ResolveOp} {r : RunEntry} (ht : r.tag = o.tag.val)
include ht

theorem isKept_of_bank (hb : r.bank = bankKept o) : isKept o r = true ∧ isDropped o r = false := by
  unfold isKept isDropped bankDropped
  rw [ht, hb, bankKept]
  cases o.bank <;> simp

theorem isDropped_of_bank (hb : r.bank = bankDropped o) : isKept o r = false ∧ isDropped o r = true ∧ r.bank ≠ .none := by
  unfold isKept isDropped bankKept
  rw [ht, hb, bankDropped]
  cases o.bank <;> simp

end

/-- The queues after RESOLVE. -/
theorem resolve_queues {s : State} {o : ResolveOp} (h : Ready s [6] [] [] o.g) (hq : isSeq s.cur = false) :
    ∃ t, exec (.resolve o) s = .next t ∧ (core t s.cur).pc = (core s s.cur).pc + 1 ∧
      (tile t s.cur).vec.queue =
        (if o.e.v then settledQueue (isKept o) (isDropped o) (tile s s.cur).vec.queue else (tile s s.cur).vec.queue) ∧
      (tile t s.cur).mat.queue =
        (if o.e.m then settledQueue (isKept o) (isDropped o) (tile s s.cur).mat.queue else (tile s s.cur).mat.queue) ∧
      (tile t s.cur).mov.queue =
        (if o.e.x then settledQueue (isKept o) (isDropped o) (tile s s.cur).mov.queue else (tile s s.cur).mov.queue) ∧
      t.mem = s.mem ∧ (∀ b, b ≠ s.cur → tile t b = tile s b) := by
  obtain ⟨hvec, hmat, hmov, hcore, honly⟩ := (enginesBecome_resolved o s).advanced
  refine ⟨_, exec_resolve h hq, ?_⟩
  rw [hvec, hmat, hmov, hcore, queue_settledVec, queue_settledMat, queue_settledMov]
  exact ⟨rfl, rfl, rfl, rfl, honly.mem, honly.others⟩

/-! ## O14 -/

/-- Settles O14: FORK and FORKS by their checks and waits, a stalled one as it issues again; RUN_START by its queue's head; RESOLVE and
CANCEL engine by engine: entries first, then the started run, then the faults held. -/
theorem runsAreQueuedAndResolved : Obligations.RunsAreQueuedAndResolved := by
  unfold Obligations.RunsAreQueuedAndResolved
  refine ⟨⟨fun s o h hq hin hco => forkWord_waits h hq hin hco, fun s o h hq hin hco => forkWord_waits h hq hin hco,
    fun s o h hq hroom hin hco => ?fork, fun s o h hq hroom hin hco => ?forks, fun s a o hw hdec h hq hroom hin hco => ?forkFree,
    fun s a o hw hdec h hq hroom hin hco => ?forksFree, fun s a r rs hq hb => ?startV, fun s a r rs hq hb => ?startM,
    fun s a r rs hq hb => ?startX⟩, fun s o h hq => resolve_queues h hq, fun s o h hq => ?resolve, fun s o h => ?cancel⟩
  case fork =>
    obtain ⟨t, hexec, hqueued, hpc, -, hregs, honly⟩ := forkWord_queues (op := 0x60) (spec := false) (tag := o.tag) (bank := .none) h hq hin hroom hco
    exact ⟨t, hexec, hqueued, hpc, hregs, honly⟩
  case forks =>
    obtain ⟨t, hexec, hqueued, hpc, -, hregs, honly⟩ :=
      forkWord_queues (op := 0x61) (spec := true) (tag := o.tag) (bank := if o.bank then .b else .a) h hq hin hroom hco
    exact ⟨t, hexec, hqueued, hpc, hregs, honly⟩
  case forkFree =>
    obtain ⟨t, hexec, hqueued, hpc, hwait, -, honly⟩ :=
      forkWord_queues (op := 0x60) (spec := false) (tag := o.tag) (bank := .none) h hq hin hroom hco
    exact ⟨t, (forkQueueEntryFree_fork hw hdec hroom).trans hexec, hqueued, hpc, hwait, honly.mem⟩
  case forksFree =>
    obtain ⟨t, hexec, hqueued, hpc, hwait, -, honly⟩ :=
      forkWord_queues (op := 0x61) (spec := true) (tag := o.tag) (bank := if o.bank then .b else .a) h hq hin hroom hco
    exact ⟨t, (forkQueueEntryFree_forks hw hdec hroom).trans hexec, hqueued, hpc, hwait, honly.mem⟩
  case startV =>
    refine ⟨_, exec_runStart_v hq hb, ?_⟩
    rw [tile_modVec_self]
    obtain ⟨h12, h13, h14, h15, hlow⟩ := rdK_runParams r (tile s a).vec
    exact ⟨rfl, rfl, h12, h13, h14, h15, hlow, onlyTile_modTile ..⟩
  case startM =>
    refine ⟨_, exec_runStart_m hq hb, ?_⟩
    rw [tile_modMat_self]
    exact ⟨rfl, rfl, onlyTile_modTile ..⟩
  case startX =>
    refine ⟨_, exec_runStart_x hq hb, ?_⟩
    rw [tile_modMov_self]
    exact ⟨rfl, rfl, onlyTile_modMov ..⟩
  case resolve =>
    obtain ⟨hvec, hmat, hmov, hcore, -⟩ := (enginesBecome_resolved o s).advanced
    obtain ⟨before, hasync⟩ := async_resolved o s
    have hspec := (enginesBecome_resolved o s).specwr
    refine ⟨_, exec_resolve h hq, ?_⟩
    dsimp only
    rw [hvec, hmat, hmov, hcore]
    refine ⟨fun hon r hr ht hb => ?_, fun hon r hr ht hb => ?_, fun hon r hr ht hb => ?_, fun hon r hr ht hb => ?_,
      fun hon r hr ht hb => ?_, fun hon r hr ht hb => ?_⟩
    · obtain ⟨hk, hd⟩ := isKept_of_bank ht hb
      obtain ⟨hrun, hheld⟩ := settledVec_keep hk hd hr
      rw [hon] at hasync ⊢
      refine ⟨(releasedVec_ordinary hrun).1, (releasedVec_ordinary hrun).2, fun q hq => ?_⟩
      change q ∈ (core (resolved o s) s.cur).async
      rw [hasync, hrun, hheld, hq]
      simp [mem_faultDue]
    · obtain ⟨hk, hd⟩ := isKept_of_bank ht hb
      obtain ⟨hrun, hheld⟩ := settledMat_keep hk hd hr
      rw [hon] at hasync ⊢
      refine ⟨(releasedMat_ordinary hrun).1, (releasedMat_ordinary hrun).2, fun q hq => ?_⟩
      change q ∈ (core (resolved o s) s.cur).async
      rw [hasync, hrun, hheld, hq]
      simp [mem_faultDue]
    · obtain ⟨hk, hd⟩ := isKept_of_bank ht hb
      obtain ⟨hrun, hheld⟩ := settledMov_keep hk hd hr
      rw [hon] at hasync ⊢
      refine ⟨(releasedMov_ordinary hrun).1, (releasedMov_ordinary hrun).2, fun q hq => ?_⟩
      change q ∈ (core (resolved o s) s.cur).async
      rw [hasync, hrun, hheld, hq]
      simp [mem_faultDue]
    · obtain ⟨hk, hd, hspeculative⟩ := isDropped_of_bank ht hb
      rw [hon]
      exact settledVec_drop hk hd hspeculative hr
    · obtain ⟨hk, hd, hspeculative⟩ := isDropped_of_bank ht hb
      rw [hon]
      exact settledMat_drop hk hd hspeculative hr
    · obtain ⟨hk, hd, hspeculative⟩ := isDropped_of_bank ht hb
      rw [hon] at hspec ⊢
      obtain ⟨hpush, hparked, hpaused, hstop⟩ := settledMov_drop hk hd hspeculative hr
      refine ⟨hpush, hparked, hpaused, hspec.trans ?_, hstop⟩
      rw [hr]
      exact if_pos hd
  case cancel =>
    obtain ⟨hvec, hmat, hmov, hcore, honly⟩ := (enginesBecome_unqueue s s.cur o.e (fun r => r.tag == o.tag.val)).advanced
    refine ⟨_, exec_cancel h, ?_⟩
    rw [hvec, hmat, hmov, hcore, core_unqueue, queue_unqueuedVec, queue_unqueuedMat, queue_unqueuedMov]
    exact ⟨rfl, rfl, rfl, rfl, fun _ => rfl, honly⟩

end Sys2Proof.Machine
end

section
/-! PROOFS. Barriers, communication steps, safe points and kill points (R132 to R135, R273, R296). -/

namespace Sys2Proof.Machine

/-! ## Folds over operations of one tile each -/

section
variable {f : Nat → State → State} (hf : ∀ b s c, c ≠ b → tile (f b s) c = tile s c)
include hf

theorem tile_foldl_others {as : List Nat} {c : Nat} (hc : c ∉ as) (s : State) : tile (as.foldl (fun s b => f b s) s) c = tile s c := by
  induction as generalizing s with
  | nil => rfl
  | cons a as ih =>
    rw [List.mem_cons, not_or] at hc
    exact (ih hc.2 _).trans (hf a s c hc.1)

/-- A tile named once has its own operation applied, to a state in which it stands as at the beginning. -/
theorem tile_foldl_own {as : List Nat} (hnd : as.Nodup) {c : Nat} (hc : c ∈ as) (s : State) :
    ∃ u, tile u c = tile s c ∧ tile (as.foldl (fun s b => f b s) s) c = tile (f c u) c := by
  induction as generalizing s with
  | nil => cases hc
  | cons a as ih =>
    obtain ⟨ha, hnd⟩ := List.nodup_cons.1 hnd
    by_cases hac : c = a
    · subst hac
      exact ⟨s, rfl, tile_foldl_others hf ha _⟩
    · obtain ⟨u, hu, h⟩ := ih hnd ((List.mem_cons.1 hc).resolve_left hac) (f a s)
      exact ⟨u, hu.trans (hf a s c hac), h⟩

end

theorem mem_foldl_kept {f : Nat → State → State} (hf : ∀ b s, (f b s).mem = s.mem) (as : List Nat) (s : State) :
    (as.foldl (fun s b => f b s) s).mem = s.mem := by
  induction as generalizing s with
  | nil => rfl
  | cons a as ih => exact (ih _).trans (hf a s)

/-! ## A barrier lets an agent go (R132) -/

theorem onlyTile_passBar (a : Nat) (s : State) : OnlyTile a s (passBar a s) := by
  unfold passBar
  exact ((onlyCore_dropClean s a true).toOnlyTile.trans (onlyTile_modTile ..)).trans
    ((onlyCore_goAt ..).toOnlyTile.trans (onlyCore_modCore ..).toOnlyTile)

/-- The core goes on behind its GBAR, its clean lines of other tiles' data dropped. -/
theorem core_passBar (a : Nat) (s : State) : ∃ clean, core (passBar a s) a =
    { core s a with clean := clean, pc := (core s a).pc + 1, wait := .none, afterGbar := true } := by
  have harrived : core (modTile (dropClean s a true) a (fun t => { t with arrived := t.arrived.filter (· != (core s a).pc) })) a =
      { core s a with clean := (core s a).clean.filter (fun l => l.2.1 != 1 && !(true && l.2.1 == 2)) } := by
    rw [core, tile_modTile_self, ← core, dropClean, core_modCore_self]
  unfold passBar
  rw [core_modCore_self, core_advanceAt, harrived]
  exact ⟨_, rfl⟩

/-- What the release of a barrier does with one tile: `s` is the state in which the barrier is looked at. -/
def releaseTile (s : State) (n b : Nat) (u : State) : State := if (core s b).wait = .gbar n ∧ barComplete s b n then passBar b u else u

theorem releaseBar_eq (a n : Nat) (s : State) : releaseBar a n s = (gang s a).foldl (fun u b => releaseTile s n b u) s := rfl

theorem tile_releaseTile_ne (s : State) (n b : Nat) (u : State) {c : Nat} (hc : c ≠ b) : tile (releaseTile s n b u) c = tile u c := by
  unfold releaseTile
  split
  · exact (onlyTile_passBar b u).others c hc
  · rfl

theorem mem_releaseBar (a n : Nat) (s : State) : (releaseBar a n s).mem = s.mem := by
  rw [releaseBar_eq]
  refine mem_foldl_kept (f := releaseTile s n) (fun b u => ?_) _ s
  unfold releaseTile
  split
  · exact (onlyTile_passBar b u).mem
  · rfl

/-- A tile that waits at a complete generation goes on. -/
theorem core_releaseBar {s : State} {a n b : Nat} (hnd : (gang s a).Nodup) (hb : b ∈ gang s a) (hw : (core s b).wait = .gbar n)
    (hc : barComplete s b n = true) : ∃ clean, core (releaseBar a n s) b =
      { core s b with clean := clean, pc := (core s b).pc + 1, wait := .none, afterGbar := true } := by
  obtain ⟨u, hu, h⟩ := tile_foldl_own (f := releaseTile s n) (fun b u c hne => tile_releaseTile_ne s n b u hne) hnd hb s
  obtain ⟨clean, hpass⟩ := core_passBar b u
  refine ⟨clean, ?_⟩
  rw [releaseBar_eq, core, h, releaseTile, if_pos ⟨hw, hc⟩, ← core, hpass, core, hu]
  rfl

/-! ## A complete generation (R132, R273, R296) -/

theorem barComplete_of {s : State} {a n : Nat} (hsync : s.sync = [])
    (h : ∀ b ∈ gang s a, hasExited s b = true ∨ (arrivals s a n ≤ arrivals s b n ∧ stepGoing s b = false)) : barComplete s a n = true := by
  have hall : (gang s a).all (fun b => hasExited s b || (decide (arrivals s a n ≤ arrivals s b n) && !stepGoing s b)) = true := by
    rw [List.all_eq_true]
    intro b hb
    rcases h b hb with he | ⟨ha, hs⟩
    · simp [he]
    · simp [ha, hs]
  have hnone : syncPending s (gang s a) = false := by rw [syncPending, hsync]; rfl
  simp only [barComplete, hall, hnone]
  rfl

/-! ## GBAR (R132) -/

/-- The acting core has arrived at a barrier and waits there. -/
def atBar (n : Nat) (s : State) : State := modCore (arriveBar s.cur n s) s.cur (fun c => { c with wait := .gbar n })

theorem exec_gbar {s : State} {o : GBarOp} (h : Ready s [] [] [] o.g) (hn : o.n.val < (hdr s s.cur).barriers) (hq : isSeq s.cur = false)
    (hco : ∀ q ∈ (core s s.cur).co, q.ans ≠ none) : exec (.gbar o) s = .next (releaseBar s.cur o.n (atBar o.n s)) := by
  change execGbar o s = _
  rw [execGbar, if_neg (Nat.not_le.2 hn), wordX_ready h, hq, if_neg Bool.false_ne_true, afterCo_free (by rw [coPending_of_answered hco]; rfl)]
  rfl

theorem onlyTile_atBar (n : Nat) (s : State) : OnlyTile s.cur s (atBar n s) := (onlyTile_modTile ..).trans (onlyCore_modCore ..).toOnlyTile

/-- An arrival changes neither the place of the core, its run state, the task nor an open step. -/
theorem tile_atBar (n : Nat) (s : State) : core (atBar n s) s.cur = { core s s.cur with wait := .gbar n } ∧
    (tile (atBar n s) s.cur).task = (tile s s.cur).task ∧ (tile (atBar n s) s.cur).stepOpen = (tile s s.cur).stepOpen := by
  have h := tile_modTile_self s s.cur (fun t => if t.arrived.contains t.core.pc then t
    else { t with arrived := t.core.pc :: t.arrived, bars := insAt t.bars n (getAt 0 t.bars n + 1), progress := true })
  rw [← arriveBar] at h
  rw [atBar, core_modCore_self, modCore, tile_modTile_self, core, h]
  split <;> exact ⟨rfl, rfl, rfl⟩

/-- The first arrival at a place counts. -/
theorem arrivals_atBar {n : Nat} {s : State} (h : (tile s s.cur).arrived.contains (core s s.cur).pc = false) :
    arrivals (atBar n s) s.cur n = arrivals s s.cur n + 1 := by
  have ht : tile (arriveBar s.cur n s) s.cur = { tile s s.cur with
      arrived := (core s s.cur).pc :: (tile s s.cur).arrived
      bars := insAt (tile s s.cur).bars n (getAt 0 (tile s s.cur).bars n + 1)
      progress := true } := by
    rw [arriveBar, tile_modTile_self]
    exact if_neg fun hc => Bool.false_ne_true (h.symm.trans hc)
  rw [arrivals, atBar, modCore, tile_modTile_self, ht]
  exact getAt_insAt_self ..

theorem taskOf_atBar (n : Nat) (s : State) (b : Nat) : taskOf (atBar n s) b = taskOf s b := by
  have htask : (tile (atBar n s) b).task = (tile s b).task := by
    by_cases hb : b = s.cur
    · rw [hb, (tile_atBar n s).2.1]
    · rw [(onlyTile_atBar n s).others b hb]
  rw [taskOf, taskOf, htask, (onlyTile_atBar n s).tasks]

theorem gang_atBar (n : Nat) (s : State) (b : Nat) : gang (atBar n s) b = gang s b := by rw [gang, gang, taskOf_atBar]

theorem stepGoing_atBar (n : Nat) (s : State) (b : Nat) : stepGoing (atBar n s) b = stepGoing s b := by
  have hopen : (tile (atBar n s) b).stepOpen = (tile s b).stepOpen := by
    by_cases hb : b = s.cur
    · rw [hb, (tile_atBar n s).2.2]
    · rw [(onlyTile_atBar n s).others b hb]
  rw [stepGoing, stepGoing, hopen, (onlyTile_atBar n s).now]

theorem arrivals_atBar_ne {n : Nat} {s : State} {b : Nat} (hb : b ≠ s.cur) : arrivals (atBar n s) b n = arrivals s b n := by
  rw [arrivals, arrivals, (onlyTile_atBar n s).others b hb]

theorem core_atBar_ne {n : Nat} {s : State} {b : Nat} (hb : b ≠ s.cur) : core (atBar n s) b = core s b :=
  congrArg Tile.core ((onlyTile_atBar n s).others b hb)

section
variable {s : State} {o : GBarOp} (h : Ready s [] [] [] o.g) (hn : o.n.val < (hdr s s.cur).barriers) (hq : isSeq s.cur = false)
  (hco : ∀ q ∈ (core s s.cur).co, q.ans ≠ none) (hsync : s.sync = [])
include h hn hq hco hsync

/-- A gang of one goes on at once. -/
theorem gbar_alone (hgang : gang s s.cur = [s.cur]) (hstep : stepGoing s s.cur = false) :
    ∃ t, exec (.gbar o) s = .next t ∧ (core t s.cur).pc = (core s s.cur).pc + 1 ∧ (core t s.cur).afterGbar = true ∧ t.mem = s.mem ∧
      (∀ r, rdS (core t s.cur) r = rdS (core s s.cur) r) := by
  have hg : gang (atBar o.n s) s.cur = [s.cur] := (gang_atBar ..).trans hgang
  have hcomplete : barComplete (atBar o.n s) s.cur o.n = true := by
    refine barComplete_of hsync fun b hb => .inr ?_
    obtain rfl := List.mem_singleton.1 (hg ▸ hb)
    exact ⟨le_rfl, (stepGoing_atBar ..).trans hstep⟩
  obtain ⟨clean, hcore⟩ := core_releaseBar (by rw [hg]; exact List.nodup_singleton _) (by rw [hg]; exact List.mem_singleton_self _)
    (by rw [(tile_atBar o.n s).1]) hcomplete
  refine ⟨_, exec_gbar h hn hq hco, ?_⟩
  rw [hcore, (tile_atBar o.n s).1]
  exact ⟨rfl, rfl, (mem_releaseBar ..).trans (onlyTile_atBar o.n s).mem, fun _ => rfl⟩

/-- The last arrival of a gang lets every tile go on. -/
theorem gbar_last (hnd : (gang s s.cur).Nodup)
    (hfirst : (tile s s.cur).arrived.contains (core s s.cur).pc = false)
    (hothers : ∀ b ∈ gang s s.cur, stepGoing s b = false ∧ (b ≠ s.cur → gang s b = gang s s.cur ∧ (core s b).wait = .gbar o.n ∧
      arrivals s b o.n = arrivals s s.cur o.n + 1)) :
    ∃ t, exec (.gbar o) s = .next t ∧ t.mem = s.mem ∧ ∀ b ∈ gang s s.cur,
      (core t b).pc = (core s b).pc + 1 ∧ (core t b).wait = .none ∧ (core t b).afterGbar = true := by
  have hcount (b : Nat) (hb : b ∈ gang s s.cur) : arrivals (atBar o.n s) b o.n = arrivals s s.cur o.n + 1 := by
    by_cases hbc : b = s.cur
    · rw [hbc, arrivals_atBar hfirst]
    · rw [arrivals_atBar_ne hbc, ((hothers b hb).2 hbc).2.2]
  have hgang (b : Nat) (hb : b ∈ gang s s.cur) : gang (atBar o.n s) b = gang s s.cur := by
    rw [gang_atBar]
    by_cases hbc : b = s.cur
    · rw [hbc]
    · exact ((hothers b hb).2 hbc).1
  have hcomplete (b : Nat) (hb : b ∈ gang s s.cur) : barComplete (atBar o.n s) b o.n = true := by
    refine barComplete_of hsync fun c hc => .inr ?_
    rw [hgang b hb] at hc
    exact ⟨by rw [hcount b hb, hcount c hc], (stepGoing_atBar ..).trans (hothers c hc).1⟩
  have hstands (b : Nat) (hb : b ∈ gang s s.cur) : (core (atBar o.n s) b).wait = .gbar o.n ∧ (core (atBar o.n s) b).pc = (core s b).pc := by
    by_cases hbc : b = s.cur
    · rw [hbc, (tile_atBar o.n s).1]
      exact ⟨rfl, rfl⟩
    · rw [core_atBar_ne hbc]
      exact ⟨((hothers b hb).2 hbc).2.1, rfl⟩
  refine ⟨_, exec_gbar h hn hq hco, (mem_releaseBar ..).trans (onlyTile_atBar o.n s).mem, fun b hb => ?_⟩
  obtain ⟨hwait, hpc⟩ := hstands b hb
  obtain ⟨clean, hcore⟩ := core_releaseBar (by rw [gang_atBar]; exact hnd) (by rw [gang_atBar]; exact hb) hwait (hcomplete b hb)
  rw [hcore, hpc]
  exact ⟨rfl, rfl, rfl⟩

end

/-- A release lets every tile go on that waits at a complete generation. -/
theorem gbarRelease_effect {s : State} {a n : Nat} (hnd : (gang s a).Nodup) (hsync : s.sync = [])
    (hgang : ∀ b ∈ gang s a, gang s b = gang s a ∧ (hasExited s b = true ∨ stepGoing s b = false)) :
    ∃ t, exec (.gbarRelease a n) s = .next t ∧ t.mem = s.mem ∧ ∀ b ∈ gang s a, (core s b).wait = .gbar n →
      (∀ c ∈ gang s a, hasExited s c = true ∨ arrivals s b n ≤ arrivals s c n) →
      (core t b).pc = (core s b).pc + 1 ∧ (core t b).wait = .none ∧ (core t b).afterGbar = true := by
  refine ⟨releaseBar a n s, rfl, mem_releaseBar .., fun b hb hw hcount => ?_⟩
  have hcomplete : barComplete s b n = true := by
    refine barComplete_of hsync fun c hc => ?_
    rw [(hgang b hb).1] at hc
    rcases hcount c hc, (hgang c hc).2 with ⟨he | ha, hx | hs⟩
    · exact .inl he
    · exact .inl he
    · exact .inl hx
    · exact .inr ⟨ha, hs⟩
  obtain ⟨clean, hcore⟩ := core_releaseBar hnd hb hw hcomplete
  rw [hcore]
  exact ⟨rfl, rfl, rfl⟩

/-! ## Steps (R133) -/

/-- The state in which an SSTEP goes on: its step is open from the next cycle. -/
def stepOpened (n : BitVec 32) (s : State) : State :=
  if n = 0 then s else modTile s s.cur (fun t => { t with stepOpen := some ⟨s.now + 1, n.toNat, 0⟩ })

section
variable {s : State} {o : SStepOp} (h : Ready s [7] [] [] o.g) (hq : isSeq s.cur = false) (hafter : (core s s.cur).afterGbar = true)
  (hsync : s.sync = [])
include h hq hafter hsync

theorem exec_sstep : exec (.sstep o) s = if stepGoing s s.cur then stall .sstep s else .next (advance (stepOpened o.n s)) := by
  have hnone : syncPending s [s.cur] = false := by rw [syncPending, hsync]; rfl
  change execSstep o s = _
  rw [execSstep, word_ready h]
  have hmark : (tile s s.cur).core.afterGbar = true := hafter
  simp only [hq, hmark, hnone, Bool.or_false, Bool.not_true, Bool.false_eq_true, if_false]
  rfl

theorem sstep_effect (hstep : stepGoing s s.cur = false) :
    ∃ t, exec (.sstep o) s = .next t ∧ (core t s.cur).pc = (core s s.cur).pc + 1 ∧
      (tile t s.cur).stepOpen = (if o.n = 0 then (tile s s.cur).stepOpen else some ⟨s.now + 1, o.n.toNat, 0⟩) ∧ OnlyTile s.cur s t := by
  have hopened : (stepOpened o.n s).cur = s.cur ∧ core (stepOpened o.n s) s.cur = core s s.cur ∧
      (tile (stepOpened o.n s) s.cur).stepOpen = (if o.n = 0 then (tile s s.cur).stepOpen else some ⟨s.now + 1, o.n.toNat, 0⟩) ∧
      OnlyTile s.cur s (stepOpened o.n s) := by
    unfold stepOpened
    split
    · exact ⟨rfl, rfl, rfl, onlyTile_refl ..⟩
    · rw [core, tile_modTile_self]
      exact ⟨rfl, rfl, rfl, onlyTile_modTile ..⟩
  obtain ⟨hcur, hcore, hopen, honly⟩ := hopened
  refine ⟨advance (stepOpened o.n s), ?_, ?_⟩
  · rw [exec_sstep h hq hafter hsync, hstep]
    rfl
  · rw [advance_eq hcur, core_advanceAt, hcore]
    refine ⟨rfl, ?_, honly.trans (onlyCore_goAt ..).toOnlyTile⟩
    rw [← hopen, advanceAt, goAt, tile_modTile_self]

end

theorem communicationStepEnd_effect {s : State} {a : Nat} {st : StepOpen} (hopen : (tile s a).stepOpen = some st)
    (hover : st.start + st.n ≤ s.now) :
    ∃ t, exec (.communicationStepEnd a) s = .next t ∧ (tile t a).stepOpen = none ∧ core t a = core s a ∧ OnlyTile a s t := by
  refine ⟨modTile s a (fun t => { t with stepOpen := none }), ?_, ?_⟩
  · change execCommunicationStepEnd a s = _
    simp only [execCommunicationStepEnd, hopen, if_pos hover]
  · rw [core, tile_modTile_self]
    exact ⟨rfl, rfl, onlyTile_modTile ..⟩

/-! ## Safe points and kill points (R134, R135) -/

theorem safept_passes {s : State} {o : SafeMasks} (hmask : maskBeyond (hdr s s.cur) o = none) (hkill : killDue s s.cur = false)
    (hpre : (tile s s.cur).preemptAt = none) : exec (.safept o) s = .next (goTo ((core s s.cur).pc + 4) s) := by
  change execSafept o s = _
  simp only [execSafept, hmask, hkill, hpre, Bool.false_eq_true, if_false]

theorem killpt_passes {s : State} {o : NoOp} (h : Ready s [] [] [] o.g) (hq : isSeq s.cur = false) (hkill : killDue s s.cur = false) :
    exec (.killpt o) s = .next (advance s) := by
  change execKillpt o s = _
  rw [execKillpt, word_ready h, hq, hkill]
  rfl

/-- Going on to a word has no other effect. -/
theorem goAt_effect (s : State) (a pc : Nat) : (∀ r, rdS (core (goAt a pc s) a) r = rdS (core s a) r) ∧ (core (goAt a pc s) a).pc = pc ∧
    TrapRegsKept (core s a) (core (goAt a pc s) a) ∧ OnlyCore a s (goAt a pc s) := by
  rw [core_goAt]
  exact ⟨fun _ => rfl, rfl, ⟨rfl, rfl, rfl, rfl, rfl, rfl, rfl, rfl⟩, onlyCore_goAt ..⟩

/-! ## O17 -/

/-- Settles O17: a barrier's release is a fold over the gang in which each tile that waits at a complete generation goes on; steps, safe
points and kill points by their words. -/
theorem barriersStepsSafePoints : Obligations.BarriersStepsSafePoints := by
  unfold Obligations.BarriersStepsSafePoints
  refine ⟨⟨fun s o h hn hq hgang hco hsync hstep => gbar_alone h hn hq hco hsync hgang hstep,
    fun s o h hn hq hsync hco hnd _ hfirst hothers => gbar_last h hn hq hco hsync hnd hfirst hothers,
    fun s a n hnd hsync hgang => gbarRelease_effect hnd hsync hgang, fun s o h hq hafter hsync => ⟨sstep_effect h hq hafter hsync, fun hgoing => ?waits⟩,
    fun s a st hopen hover => communicationStepEnd_effect hopen hover⟩,
    fun s o hmask hkill hpre => safept_passes hmask hkill hpre, fun s o h hq hkill => killpt_passes h hq hkill, goAt_effect⟩
  case waits =>
    rw [exec_sstep h hq hafter hsync, hgoing]
    rfl

end Sys2Proof.Machine
end

section
/-! PROOFS. Slots of a V pair: their checks, what the scalar slot leaves, and the result that a vector slot leaves in flight (R65, R69, R75,
R150 to R157). -/

namespace Sys2Proof.Machine

/-! ## What each vector-slot instruction means -/

theorem exec_vnop (o : VNone) (s : State) : exec (.vnop o) s = execVnop o s := rfl
theorem exec_vld (o : VMem) (s : State) : exec (.vld o) s = execVld o s := rfl
theorem exec_vst (o : VMem) (s : State) : exec (.vst o) s = execVst o s := rfl
theorem exec_vldx (o : VIndexed) (s : State) : exec (.vldx o) s = execVldx o s := rfl
theorem exec_vstx (o : VIndexed) (s : State) : exec (.vstx o) s = execVstx o s := rfl
theorem exec_vldb (o : VNarrow) (s : State) : exec (.vldb o) s = execVldb o s := rfl
theorem exec_vstN (o : VNarrow) (s : State) : exec (.vstN o) s = execVstN o s := rfl
theorem exec_vperm (o : VRRR) (s : State) : exec (.vperm o) s = execVperm o s := rfl
theorem exec_vsel (o : VRRR) (s : State) : exec (.vsel o) s = execVsel o s := rfl
theorem exec_vrot (o : VLaneImm) (s : State) : exec (.vrot o) s = execVrot o s := rfl
theorem exec_vbcast (o : VLaneImm) (s : State) : exec (.vbcast o) s = execVbcast o s := rfl
theorem exec_vbcastK (o : VBcastK) (s : State) : exec (.vbcastK o) s = execVbcastK o s := rfl
theorem exec_mand (o : MaskRRR) (s : State) : exec (.mand o) s = execMand o s := rfl
theorem exec_mor (o : MaskRRR) (s : State) : exec (.mor o) s = execMor o s := rfl
theorem exec_mxor (o : MaskRRR) (s : State) : exec (.mxor o) s = execMxor o s := rfl
theorem exec_mnot (o : MaskRR) (s : State) : exec (.mnot o) s = execMnot o s := rfl
theorem exec_vicmp (o : VICmpOp) (s : State) : exec (.vicmp o) s = execVicmp o s := rfl
theorem exec_vcmp (o : VCmpOp) (s : State) : exec (.vcmp o) s = execVcmp o s := rfl
theorem exec_viadd (o : VInt2) (s : State) : exec (.viadd o) s = execViadd o s := rfl
theorem exec_visub (o : VInt2) (s : State) : exec (.visub o) s = execVisub o s := rfl
theorem exec_vimul (o : VInt2) (s : State) : exec (.vimul o) s = execVimul o s := rfl
theorem exec_vand (o : VInt2) (s : State) : exec (.vand o) s = execVand o s := rfl
theorem exec_vor (o : VInt2) (s : State) : exec (.vor o) s = execVor o s := rfl
theorem exec_vxor (o : VInt2) (s : State) : exec (.vxor o) s = execVxor o s := rfl
theorem exec_vshl (o : VInt2) (s : State) : exec (.vshl o) s = execVshl o s := rfl
theorem exec_vshr (o : VInt2) (s : State) : exec (.vshr o) s = execVshr o s := rfl
theorem exec_vsra (o : VInt2) (s : State) : exec (.vsra o) s = execVsra o s := rfl
theorem exec_vimin (o : VInt2) (s : State) : exec (.vimin o) s = execVimin o s := rfl
theorem exec_vimax (o : VInt2) (s : State) : exec (.vimax o) s = execVimax o s := rfl
theorem exec_viminu (o : VInt2) (s : State) : exec (.viminu o) s = execViminu o s := rfl
theorem exec_vimaxu (o : VInt2) (s : State) : exec (.vimaxu o) s = execVimaxu o s := rfl
theorem exec_vadd (o : VFloat2) (s : State) : exec (.vadd o) s = execVadd o s := rfl
theorem exec_vsub (o : VFloat2) (s : State) : exec (.vsub o) s = execVsub o s := rfl
theorem exec_vmul (o : VFloat2) (s : State) : exec (.vmul o) s = execVmul o s := rfl
theorem exec_vmin (o : VFloat2) (s : State) : exec (.vmin o) s = execVmin o s := rfl
theorem exec_vmax (o : VFloat2) (s : State) : exec (.vmax o) s = execVmax o s := rfl
theorem exec_vfma (o : VFloat3) (s : State) : exec (.vfma o) s = execVfma o s := rfl
theorem exec_vabs (o : VFloat1) (s : State) : exec (.vabs o) s = execVabs o s := rfl
theorem exec_vneg (o : VFloat1) (s : State) : exec (.vneg o) s = execVneg o s := rfl
theorem exec_vrcp (o : VFloat1) (s : State) : exec (.vrcp o) s = execVrcp o s := rfl
theorem exec_vrsq (o : VFloat1) (s : State) : exec (.vrsq o) s = execVrsq o s := rfl
theorem exec_vexp2 (o : VFloat1) (s : State) : exec (.vexp2 o) s = execVexp2 o s := rfl
theorem exec_vlog2 (o : VFloat1) (s : State) : exec (.vlog2 o) s = execVlog2 o s := rfl
theorem exec_vred (o : VFloat1) (s : State) : exec (.vred o) s = execVred o s := rfl
theorem exec_vcvt (o : VCvtOp) (s : State) : exec (.vcvt o) s = execVcvt o s := rfl
theorem exec_vpack (o : VPackOp) (s : State) : exec (.vpack o) s = execVpack o s := rfl
theorem exec_vunpk (o : VUnpkOp) (s : State) : exec (.vunpk o) s = execVunpk o s := rfl
theorem exec_vrns (o : VRR) (s : State) : exec (.vrns o) s = execVrns o s := rfl
theorem exec_vredI32 (o : VRR) (s : State) : exec (.vredI32 o) s = execVredI32 o s := rfl
theorem exec_vscan (o : VRR) (s : State) : exec (.vscan o) s = execVscan o s := rfl
theorem exec_vscanI32 (o : VRR) (s : State) : exec (.vscanI32 o) s = execVscanI32 o s := rfl
theorem exec_vcrt (o : VCrtOp) (s : State) : exec (.vcrt o) s = execVcrt o s := rfl

/-! ## The checks of a slot -/

theorem vecChecks_ready {s : State} {feats regs : List Nat} {g : VGuard} {tok : VTok} (h : SlotReady s feats regs g tok) (k : State → Out) :
    vecChecks feats regs s k = k s := by
  have hfeats : feats.find? (fun n => !feature s n) = none := by
    rw [List.find?_eq_none]; intro n hn; simp [h.enabled n hn]
  have hregs : regs.find? (fun r => decide ((hdr s s.cur).vregs ≤ r)) = none := by
    rw [List.find?_eq_none]; intro r hr; simp [h.declared r hr]
  simp only [vecChecks, hfeats, hregs]

theorem kslot_ready {s : State} {feats regs : List Nat} {g : VGuard} (h : SlotReady s feats regs g noTok) (k : State → Out) :
    kslot feats regs g s k = k s := by
  rw [kslot, vecChecks_ready h, if_pos h.guard]

theorem kop_ready {s : State} {g : VGuard} (h : SlotReady s [] [] g noTok) (f : Vec → Vec) : kop g s f = .next (scalarDone s f) :=
  kslot_ready h _

/-- A vector slot whose checks pass issues. -/
theorem vslotX_ready {s : State} {feats regs : List Nat} {c : VCtl} (h : SlotReady s feats regs c.g c.tok) {own : State → Option (Nat × Word)}
    (hown : own s = none) (f : State → Issued) : vslotX feats regs none c s own f = vecIssue c f s := by
  simp [vslotX, h.tokens, vecChecks_ready h, h.guard, hown]

theorem vslot_ready {s : State} {feats regs : List Nat} {c : VCtl} (h : SlotReady s feats regs c.g c.tok) (f : State → Issued) :
    vslot feats regs c s f = vecIssue c f s := vslotX_ready h rfl f

/-! ## The scalar slot (R152, R157) -/

theorem onlyTile_modVec (s : State) (a : Nat) (f : Vec → Vec) : OnlyTile a s (modVec s a f) := onlyTile_modTile ..

theorem tile_scalarDone (s : State) (f : Vec → Vec) : tile (scalarDone s f) s.cur =
    { tile s s.cur with progress := true, vec := vecGo (vecPc (vec s) + 1) (f (vec s)) } := by
  rw [scalarDone, tile_modVec_self, tile_progress]; rfl

theorem vec_scalarDone (s : State) (f : Vec → Vec) : vec (scalarDone s f) = vecGo (vecPc (vec s) + 1) (f (vec s)) := by
  rw [vec, show (scalarDone s f).cur = s.cur from rfl, tile_scalarDone]

theorem onlyTile_scalarDone (s : State) (f : Vec → Vec) : OnlyTile s.cur s (scalarDone s f) :=
  (onlyCore_progress s s.cur).toOnlyTile.trans (onlyTile_modVec ..)

/-! ## The vector slot (R69, R150, R153) -/

/-- The pops of a slot are made. -/
def slotPopped (c : VCtl) (s : State) : State :=
  modTile s s.cur (fun t => { t with fifo := popFrom t.fifo (popsOf c.tok), progress := true })

theorem tile_slotPopped (c : VCtl) (s : State) : tile (slotPopped c s) s.cur =
    { tile s s.cur with fifo := popFrom (tile s s.cur).fifo (popsOf c.tok), progress := true } := tile_modTile_self ..

theorem vec_slotPopped (c : VCtl) (s : State) : vec (slotPopped c s) = vec s := by
  rw [vec, show (slotPopped c s).cur = s.cur from rfl, tile_slotPopped]; rfl

/-- The registers that a slot reads are those at its issue (R152). -/
theorem tile_at_slotPopped (c : VCtl) (s : State) : (tile (slotPopped c s) (slotPopped c s).cur).vec = vec s := vec_slotPopped c s

theorem pad_at_slotPopped (c : VCtl) (s : State) : (tile (slotPopped c s) (slotPopped c s).cur).pad = (tile s s.cur).pad := by
  rw [show (slotPopped c s).cur = s.cur from rfl, tile_slotPopped]

theorem onlyTile_slotPopped (c : VCtl) (s : State) : OnlyTile s.cur s (slotPopped c s) := onlyTile_modTile ..

/-- A slot's own effect before its result goes: its pops are made, and of the rest the generator alone may have stepped (R55). -/
structure SlotEffect (c : VCtl) (s w : State) (seed : BitVec 32) : Prop where
  cur : w.cur = s.cur
  tile : tile w s.cur = { tile (slotPopped c s) s.cur with vec := { vec s with seed := seed } }
  only : OnlyTile s.cur s w

theorem slotEffect_popped (c : VCtl) (s : State) : SlotEffect c s (slotPopped c s) (vec s).seed :=
  ⟨rfl, by rw [tile_slotPopped]; rfl, onlyTile_slotPopped c s⟩

/-- The result of a slot as it goes in flight: with the pushes and the place of its pair. -/
def sentFlight (c : VCtl) (s : State) (fl : Flight) : Flight := { fl with push := pushesOf c.tok, unit := vecPc (vec s) }

theorem vecIssue_some {c : VCtl} {s w : State} {fl : Flight} {F : State → Issued} (hF : F (slotPopped c s) = ⟨w, some fl⟩) :
    vecIssue c F s = .next (modVec w s.cur (fun v => { v with flight := v.flight ++ [sentFlight c s fl] })) := by
  have hpc : vecPc (tile (slotPopped c s) s.cur).vec = vecPc (vec s) := by rw [tile_slotPopped]; rfl
  simp only [slotPopped] at hF hpc
  simp only [vecIssue, hF, hpc]
  rfl

theorem vecIssue_none {c : VCtl} {s w : State} {F : State → Issued} (hF : F (slotPopped c s) = ⟨w, none⟩) :
    vecIssue c F s = .next (pushOrHold (modVec w s.cur (fun v => { v with unit := vecPc (vec s) })) s.cur .v (pushesOf c.tok)) := by
  have hpc : vecPc (tile (slotPopped c s) s.cur).vec = vecPc (vec s) := by rw [tile_slotPopped]; rfl
  simp only [slotPopped] at hF hpc
  simp only [vecIssue, hF, hpc]

/-- What stands after a slot with a result has issued. -/
theorem issued_effect {c : VCtl} {s w : State} {seed : BitVec 32} {fl : Flight} {F : State → Issued} (hw : SlotEffect c s w seed)
    (hF : F (slotPopped c s) = ⟨w, some fl⟩) : ∃ t, vecIssue c F s = .next t ∧ t.cur = s.cur ∧ OnlyTile s.cur s t ∧
      tile t s.cur = { tile (slotPopped c s) s.cur with
        vec := { vec s with seed := seed, flight := (vec s).flight ++ [sentFlight c s fl] } } :=
  ⟨_, vecIssue_some hF, hw.cur, hw.only.trans (onlyTile_modTile ..), by rw [tile_modVec_self, hw.tile]⟩

/-- A slot whose result is lanes of d. -/
theorem sends_of_issue {i : Instr} {c : VCtl} {s w : State} {seed : BitVec 32} {fl : Flight} {F : State → Issued} {lat d : Nat} {mask : Word}
    {f : Nat → Lane} (hi : exec i s = vecIssue c F s) (hw : SlotEffect c s w seed) (hF : F (slotPopped c s) = ⟨w, some fl⟩)
    (hdue : fl.due = (vec s).slot + lat) (hm : fl.m = none)
    (hv : ∀ k x, (k, x) ∈ fl.v ↔ ∃ l < 64, mask.getLsbD l = true ∧ k = 64 * d + l ∧ x = f l) : Sends i s c lat d mask f fl.flags := by
  obtain ⟨t, ht, hcur, honly, htile⟩ := issued_effect hw hF
  rw [tile_slotPopped] at htile
  refine ⟨t, sentFlight c s fl, hi.trans ht, ?_⟩
  rw [vec, hcur, htile]
  exact ⟨rfl, hdue, hm, hv, rfl, rfl, rfl, ⟨rfl, rfl, rfl, rfl, rfl, rfl, rfl, rfl⟩, rfl, rfl, honly⟩

theorem seed_of_issue {i : Instr} {c : VCtl} {s w : State} {seed : BitVec 32} {fl : Flight} {F : State → Issued}
    (hi : exec i s = vecIssue c F s) (hw : SlotEffect c s w seed) (hF : F (slotPopped c s) = ⟨w, some fl⟩) :
    ∃ t, exec i s = .next t ∧ (vec t).seed = seed := by
  obtain ⟨t, ht, hcur, -, htile⟩ := issued_effect hw hF
  exact ⟨t, hi.trans ht, by rw [vec, hcur, htile]⟩

/-! ## Results (R150, R155) -/

theorem mem_lanesOf {mask : Word} {l : Nat} : l ∈ lanesOf mask ↔ l < 64 ∧ mask.getLsbD l = true := by
  simp [lanesOf]

theorem mem_lanesFlight (v : Vec) (lat d : Nat) (mask : Word) (f : Nat → Lane × Flags) (k : Nat) (x : Lane) :
    (k, x) ∈ (lanesFlight v lat d mask f).v ↔ ∃ l < 64, mask.getLsbD l = true ∧ k = 64 * d + l ∧ x = (f l).1 := by
  simp only [lanesFlight, List.map_map, List.mem_map, mem_lanesOf, Function.comp_apply, Prod.mk.injEq, and_assoc, eq_comm]

theorem flags_lanesFlight (v : Vec) (lat d : Nat) (mask : Word) (f : Nat → Lane × Flags) :
    (lanesFlight v lat d mask f).flags = laneFlags mask (fun l => (f l).2) := by
  simp only [lanesFlight, List.foldl_map, laneFlags]

theorem laneFlags_congr {mask : Word} {g h : Nat → Flags} (hgh : ∀ l < 64, g l = h l) : laneFlags mask g = laneFlags mask h :=
  List.foldl_ext _ _ 0 fun b a ha => by rw [hgh a (mem_lanesOf.1 ha).1]

theorem laneFlags_zero (mask : Word) : laneFlags mask (fun _ => 0) = 0 := by
  simp [laneFlags]

/-- A slot that computes lanes from the registers at issue sends them (R152). -/
theorem sends_laneSlot {i : Instr} {s : State} {c : VCtl} {feats regs : List Nat} {lat d : Nat} {m : Fin 8} {F : Vec → Nat → Lane × Flags}
    {f : Nat → Lane} {g : Nat → Flags} (h : SlotReady s feats (d :: regs) c.g c.tok) (hi : exec i s = laneSlot feats regs c lat d m s F)
    (hf : ∀ l < 64, F (vec s) l = (f l, g l)) : Sends i s c lat d (rdM (vec s) m) f (laneFlags (rdM (vec s) m) g) := by
  have hs := sends_of_issue (hi.trans (vslot_ready h _)) (slotEffect_popped c s) (mask := rdM (vec s) m) (lat := lat) (d := d) (f := f)
    (fl := lanesFlight (vec s) lat d (rdM (vec s) m) (F (vec s)))
    (by simp only [tile_at_slotPopped]) rfl rfl fun k x => by
      rw [mem_lanesFlight]
      refine exists_congr fun l => and_congr_right fun hl => ?_
      rw [hf l hl]
  rw [flags_lanesFlight] at hs
  rwa [laneFlags_congr (h := g) fun l hl => by rw [hf l hl]] at hs

/-- The same for a slot without flags. -/
theorem sends_laneSlot_quiet {i : Instr} {s : State} {c : VCtl} {feats regs : List Nat} {lat d : Nat} {m : Fin 8}
    {F : Vec → Nat → Lane × Flags} {f : Nat → Lane} (h : SlotReady s feats (d :: regs) c.g c.tok)
    (hi : exec i s = laneSlot feats regs c lat d m s F) (hf : ∀ l < 64, F (vec s) l = (f l, 0)) :
    Sends i s c lat d (rdM (vec s) m) f 0 := by
  have hs := sends_laneSlot h hi hf
  rwa [laneFlags_zero] at hs

end Sys2Proof.Machine
end

section
/-! PROOFS. The scalar slot: what its words write (R54, R147, R157, R158). -/

namespace Sys2Proof.Machine

/-! ## Words of any width as numbers (R157, R169) -/

theorem bv_add_eq_ofNat {w : Nat} (x y : BitVec w) : x + y = BitVec.ofNat w (x.toNat + y.toNat) := by
  rw [BitVec.ofNat_add, BitVec.ofNat_toNat, BitVec.ofNat_toNat, BitVec.setWidth_eq, BitVec.setWidth_eq]

theorem bv_mul_eq_ofNat {w : Nat} (x y : BitVec w) : x * y = BitVec.ofNat w (x.toNat * y.toNat) := by
  rw [BitVec.ofNat_mul, BitVec.ofNat_toNat, BitVec.ofNat_toNat, BitVec.setWidth_eq, BitVec.setWidth_eq]

theorem bv_sub_eq_ofInt {w : Nat} (x y : BitVec w) : x - y = BitVec.ofInt w (x.toInt - y.toInt) := by
  apply BitVec.eq_of_toInt_eq
  rw [BitVec.toInt_sub, BitVec.toInt_ofInt]

theorem bv_shiftLeft_eq_ofNat {w : Nat} (x : BitVec w) (n : Nat) : x <<< n = BitVec.ofNat w (x.toNat * 2 ^ n) := by
  apply BitVec.eq_of_toNat_eq
  rw [BitVec.toNat_shiftLeft, BitVec.toNat_ofNat, Nat.shiftLeft_eq]

theorem bv_ushiftRight_eq_ofNat {w : Nat} (x : BitVec w) (n : Nat) : x >>> n = BitVec.ofNat w (x.toNat / 2 ^ n) := by
  apply BitVec.eq_of_toNat_eq
  rw [BitVec.toNat_ushiftRight, BitVec.toNat_ofNat, Nat.shiftRight_eq_div_pow,
    Nat.mod_eq_of_lt (Nat.lt_of_le_of_lt (Nat.div_le_self ..) x.isLt)]

theorem bv_sshiftRight_eq_ofInt {w : Nat} (x : BitVec w) (n : Nat) : x.sshiftRight n = BitVec.ofInt w (x.toInt / 2 ^ n) := by
  rw [← BitVec.ofInt_toInt (x := x.sshiftRight n), BitVec.toInt_sshiftRight, Int.shiftRight_eq_div_pow]
  rfl

/-- The conditions of R97 on 32-bit values. -/
theorem condInt_eq (c : Cond) (x y : Lane) : condInt c x y = (match c with
    | .eq => decide (x = y) | .ne => decide (x ≠ y) | .lt => decide (x.toInt < y.toInt) | .ltu => decide (x.toNat < y.toNat)
    | .le => decide (x.toInt ≤ y.toInt) | .leu => decide (x.toNat ≤ y.toNat)) := by
  cases c
  case eq => exact beq_eq_decide ..
  case ne => simp [condInt, bne, beq_eq_decide]
  all_goals rfl

/-! ## The scalar registers of the vector engine (R147) -/

theorem rdG_wrG_self {n : Nat} (hn : n ≠ 0) (h8 : n < 8) (b : Bool) (v : Vec) : rdG (wrG n b v) n = b := by
  cases b <;> simp [rdG, wrG, hn, h8]

theorem rdG_wrG_ne {n k : Nat} (h : k ≠ n) (b : Bool) (v : Vec) : rdG (wrG n b v) k = rdG v k := by
  have hbit : (1#8 <<< n).getLsbD k = false := by
    simp only [BitVec.getLsbD_shiftLeft, BitVec.getLsbD_one, Bool.and_eq_false_iff]
    by_cases hk : k < n
    · simp [hk]
    · simp [show ¬ k - n = 0 by omega]
  by_cases hn : n = 0
  · simp only [wrG, if_pos hn]
  have hbits : (if b then v.g ||| (1#8 <<< n) else v.g &&& ~~~(1#8 <<< n)).getLsbD k = v.g.getLsbD k := by
    cases b
    · rw [if_neg (by decide), BitVec.getLsbD_and, BitVec.getLsbD_not, hbit]
      by_cases hk : k < 8
      · simp [hk]
      · simp [BitVec.getLsbD_of_ge v.g k (by omega)]
    · rw [if_pos rfl, BitVec.getLsbD_or, hbit, Bool.or_false]
  simp only [rdG, wrG, if_neg hn, hbits]

/-- A write of a k register changes no other part of the engine. -/
theorem wrK_eq (n : Nat) (x : Lane) (v : Vec) : ∃ k, wrK n x v = { v with k := k } := by
  by_cases hn : n = 0
  · exact ⟨v.k, by simp [wrK, hn]⟩
  · exact ⟨_, by rw [wrK, if_neg hn]⟩

/-- A scalar slot's outcome rests on what it makes of the engine alone. -/
theorem scalarDone_congr {s : State} {f g : Vec → Vec} (h : f (vec s) = g (vec s)) :
    Host.Outcome.next (φ := Fault) (ρ := Refusal) (scalarDone s f) = .next (scalarDone s g) := by
  have hv : (tile (progress s s.cur) s.cur).vec = vec s := (onlyCore_progress s s.cur).vec
  simp only [scalarDone, modVec, modTile, hv, h]

/-! ## O22 -/

/-- Settles O22: each word is `kop` of its operation, or a slot that changes the loop counters or the generator. -/
theorem scalarSlots : Obligations.ScalarSlots := by
  unfold Obligations.ScalarSlots
  refine ⟨⟨fun s o h => ?binary, fun s o h => (kop_ready h _).trans ?kaddi, fun s o h => kop_ready h _, fun s o h => kop_ready h _,
    fun s o h => (kop_ready h _).trans ?kcmp, fun s o h hp => ?kfrom, fun s o h => ⟨_, kop_ready h _, ?set⟩,
    fun s o h => ⟨_, kslot_ready h _, ?seed⟩⟩, fun v n k x b => ?registers, fun s r n x hr => ?frame⟩
  case binary =>
    intro x y r
    have hr {i : Instr} {f : Vec → Lane} (hi : exec i s = kop o.g s fun v => wrK o.d (f v) v) {z : Lane} (hz : f (vec s) = z) : r i z :=
      hi.trans ((kop_ready h _).trans (scalarDone_congr (by rw [hz])))
    exact ⟨hr rfl (bv_add_eq_ofNat ..), hr rfl (bv_sub_eq_ofInt ..), hr rfl rfl, hr rfl rfl, hr rfl rfl, hr rfl (bv_shiftLeft_eq_ofNat ..),
      hr rfl (bv_ushiftRight_eq_ofNat ..)⟩
  case kaddi =>
    refine scalarDone_congr (congrArg (wrK o.d · (vec s)) ?_)
    rw [BitVec.ofInt_add, BitVec.ofInt_toInt, BitVec.signExtend]
  case kcmp =>
    exact scalarDone_congr (congrArg (wrG o.d · (vec s)) (condInt_eq ..))
  case kfrom =>
    change (tile s s.cur).vec.poison = [] at hp
    change execKfrom o s = _
    rw [execKfrom, kslot_ready h, hp]
    exact scalarDone_congr (f := fun v => wrK o.d (rdV v o.v o.lane) v) rfl
  case set =>
    rw [vec_scalarDone, vec_scalarDone]
    exact ⟨(getAt_setAt_self ..).trans (by rw [BitVec.ofNat_toNat]), fun n hn => getAt_setAt_ne _ _ _ hn, rfl,
      onlyTile_scalarDone ..⟩
  case seed =>
    exact ⟨by rw [← scalarDone, vec_scalarDone]; rfl, onlyTile_scalarDone ..⟩
  case registers =>
    exact ⟨rfl, rfl, rfl, rfl, rfl, fun hn => rdK_wrK_self hn x v, fun h => rdK_wrK_ne x v h, fun hn h8 => rdG_wrG_self hn h8 b v,
      fun h => rdG_wrG_ne h b v⟩
  case frame =>
    intro t
    obtain ⟨k, hk⟩ := wrK_eq n x (vec s)
    have hv : vec t = vecGo (vecPc (vec s) + 1) { vec s with k := k } := by rw [vec_scalarDone, hk]
    have ht := tile_scalarDone s (wrK n x)
    rw [hv, ht]
    refine ⟨?_, rfl, rfl, rfl, rfl, rfl, rfl, rfl, fun _ => rfl, onlyTile_scalarDone ..⟩
    simp [vecGo, hr, vecPc]

end Sys2Proof.Machine
end

section
/-! PROOFS. Integers, lane movement, masks and compares of the vector slot (R152, R156, R168 to R170, R176). -/

namespace Sys2Proof.Machine

/-! ## Integers (R169) -/

/-- A two-operand integer instruction sends its operation of each lane's operands, without a flag. -/
theorem sends_intOp {i : Instr} {s : State} {o : VInt2} (h : SlotReady s [] (o.d.val :: o.a.val :: namesB o.b) o.c.g o.c.tok) {lat : Nat}
    {F : Lane → Lane → Lane} (hi : exec i s = intOp lat o s F) {f : Nat → Lane}
    (hf : ∀ l, F (rdV (vec s) o.a l) (operandB (vec s) o.b l) = f l) : Sends i s o.c lat o.d (rdM (vec s) o.mask) f 0 :=
  sends_laneSlot_quiet h hi fun l _ => Prod.ext ((congrArg (F _) (by cases o.b <;> rfl)).trans (hf l)) rfl

/-- Settles O27: each instruction is `intOp` of its operation on 32-bit values. -/
theorem vectorIntegers : Obligations.VectorIntegers := by
  unfold Obligations.VectorIntegers
  intro s o h x y n r
  have hr {i : Instr} {lat : Nat} {F : Lane → Lane → Lane} (hi : exec i s = intOp lat o s F) {f : Nat → Lane}
      (hf : ∀ l, F (x l) (y l) = f l) : r i lat f := sends_intOp h hi hf
  refine ⟨hr (exec_viadd o s) fun _ => ?iadd, hr (exec_visub o s) fun _ => ?isub, hr (exec_vimul o s) fun _ => ?imul,
    hr (exec_vand o s) fun _ => ?and, hr (exec_vor o s) fun _ => ?or, hr (exec_vxor o s) fun _ => ?xor,
    hr (exec_vshl o s) fun _ => ?shl, hr (exec_vshr o s) fun _ => ?shr, hr (exec_vsra o s) fun _ => ?sra,
    hr (exec_vimin o s) fun _ => ?imin, hr (exec_vimax o s) fun _ => ?imax, hr (exec_viminu o s) fun _ => ?iminu,
    hr (exec_vimaxu o s) fun _ => ?imaxu⟩
  case iadd => exact bv_add_eq_ofNat ..
  case isub => exact bv_sub_eq_ofInt ..
  case imul => exact bv_mul_eq_ofNat ..
  case shl => exact bv_shiftLeft_eq_ofNat ..
  case shr => exact bv_ushiftRight_eq_ofNat ..
  case sra => exact bv_sshiftRight_eq_ofInt ..
  case imin | imax => simp only [BitVec.sle, decide_eq_true_eq]
  case iminu | imaxu => simp only [BitVec.ule, decide_eq_true_eq]
  all_goals rfl

/-! ## Masks (R170) -/

/-- A slot whose result is mask bits. -/
theorem sendsMask_of_slot {i : Instr} {s : State} {c : VCtl} {feats regs : List Nat} {d : Nat} {mask : Vec → Word} {x : Vec → Word}
    {f : Nat → Bool} (h : SlotReady s feats regs c.g c.tok)
    (hi : exec i s = vslot feats regs c s fun s =>
      ⟨s, some (maskFlight (tile s s.cur).vec 2 d (mask (tile s s.cur).vec) (x (tile s s.cur).vec))⟩)
    (hf : ∀ l < 64, (x (vec s)).getLsbD l = f l) : SendsMask i s c d (mask (vec s)) f := by
  obtain ⟨t, ht, hcur, honly, htile⟩ := issued_effect (slotEffect_popped c s)
    (fl := maskFlight (vec s) 2 d (mask (vec s)) (x (vec s))) (F := fun s =>
      ⟨s, some (maskFlight (tile s s.cur).vec 2 d (mask (tile s s.cur).vec) (x (tile s s.cur).vec))⟩) (by simp only [tile_at_slotPopped])
  rw [tile_slotPopped] at htile
  refine ⟨t, sentFlight c s (maskFlight (vec s) 2 d (mask (vec s)) (x (vec s))), x (vec s), hi.trans ((vslot_ready h _).trans ht), ?_⟩
  rw [vec, hcur, htile]
  exact ⟨rfl, rfl, rfl, rfl, hf, rfl, rfl, rfl, ⟨rfl, rfl, rfl, rfl, rfl, rfl, rfl, rfl⟩, rfl, rfl, honly⟩

/-- The sum of the powers of two that a Boolean function selects is below the next power, and its bits are the function's. -/
theorem bitSum_spec (f : Nat → Bool) (n : Nat) : (List.range n).foldl (fun n i => n + natOf (f i) * 2 ^ i) 0 < 2 ^ n ∧
    ∀ l < n, ((List.range n).foldl (fun n i => n + natOf (f i) * 2 ^ i) 0).testBit l = f l := by
  induction n with
  | zero => simp
  | succ n ih =>
    obtain ⟨hlt, hbits⟩ := ih
    rw [List.range_succ, List.foldl_append, List.foldl_cons, List.foldl_nil]
    generalize (List.range n).foldl (fun n i => n + natOf (f i) * 2 ^ i) 0 = y at hlt hbits
    have hn : natOf (f n) ≤ 1 := by cases f n <;> decide
    refine ⟨?_, fun l hl => ?_⟩
    · have : natOf (f n) * 2 ^ n ≤ 1 * 2 ^ n := Nat.mul_le_mul_right _ hn
      rw [Nat.pow_succ]
      omega
    · rw [Nat.add_comm, Nat.mul_comm, Nat.testBit_two_pow_mul_add _ hlt]
      split
      next h => exact hbits l h
      next h =>
        obtain rfl : l = n := by omega
        cases f l <;> simp [natOf]

theorem getLsbD_wordOf (f : Nat → Bool) {l : Nat} (hl : l < 64) : (wordOf f).getLsbD l = f l := by
  rw [wordOf, BitVec.getLsbD_ofNat, (bitSum_spec f 64).2 l hl]
  simp [hl]

/-- A compare writes the mask bits of the lanes its mask selects. -/
theorem sendsMask_compare {i : Instr} {s : State} {c : VCtl} {feats regs : List Nat} {d : Nat} {m : Fin 8} {p : Vec → Nat → Bool}
    {f : Nat → Bool} (h : SlotReady s feats regs c.g c.tok)
    (hi : exec i s = vslot feats regs c s fun s =>
      ⟨s, some (maskFlight (tile s s.cur).vec 2 d (rdM (tile s s.cur).vec m) (wordOf (p (tile s s.cur).vec)))⟩)
    (hf : ∀ l, p (vec s) l = f l) : SendsMask i s c d (rdM (vec s) m) f :=
  sendsMask_of_slot (mask := (rdM · m)) (x := fun v => wordOf (p v)) h hi fun l hl => (getLsbD_wordOf _ hl).trans (hf l)

theorem sendsMask_maskOp {i : Instr} {s : State} {c : VCtl} {d : Nat} {x : Vec → Word} {f : Nat → Bool} (h : SlotReady s [] [] c.g c.tok)
    (hi : exec i s = maskOp c d s x) (hf : ∀ l < 64, (x (vec s)).getLsbD l = f l) : SendsMask i s c d (BitVec.allOnes 64) f :=
  sendsMask_of_slot (mask := fun _ => BitVec.allOnes 64) h hi hf

/-! ## Lane movement and selection (R168, R176) -/

/-- VSEL writes every lane. -/
theorem sends_vsel {s : State} {o : VRRR} (h : SlotReady s [] [o.d.val, o.a.val, o.b.val] o.c.g o.c.tok) :
    Sends (.vsel o) s o.c 2 o.d (BitVec.allOnes 64)
      (fun l => if (rdM (vec s) o.mask).getLsbD l then rdV (vec s) o.a l else rdV (vec s) o.b l) 0 := by
  have hs := sends_of_issue ((exec_vsel o s).trans (vslot_ready h _)) (slotEffect_popped o.c s) (mask := BitVec.allOnes 64) (lat := 2) (d := o.d)
    (f := fun l => if (rdM (vec s) o.mask).getLsbD l then rdV (vec s) o.a l else rdV (vec s) o.b l)
    (fl := lanesFlight (vec s) 2 o.d (BitVec.allOnes 64)
      (fun l => (if (rdM (vec s) o.mask).getLsbD l then rdV (vec s) o.a l else rdV (vec s) o.b l, 0)))
    (by simp only [tile_at_slotPopped]) rfl rfl fun k x => mem_lanesFlight ..
  rwa [flags_lanesFlight, laneFlags_zero] at hs

/-- Settles O26: lane movement is `laneSlot`, mask operations and compares send words of bits. -/
theorem laneMovementAndMasks : Obligations.LaneMovementAndMasks := by
  unfold Obligations.LaneMovementAndMasks
  refine ⟨⟨fun s o h => ⟨sends_laneSlot_quiet h (exec_vperm o s) fun _ _ => ?vperm, sends_vsel h⟩,
    fun s o h => ⟨sends_laneSlot_quiet h (exec_vrot o s) fun _ _ => ?vrot, sends_laneSlot_quiet h (exec_vbcast o s) fun _ _ => ?vbcast⟩,
    fun s o h => sends_laneSlot_quiet h (exec_vbcastK o s) fun _ _ => ?vbcastK⟩,
    fun s o h => ?binary,
    fun s o h => sendsMask_maskOp h (exec_mnot o s) fun l hl => ?mnot, fun s o h => ?vicmp,
    fun s o h => ?vcmp⟩
  case binary =>
    intro x y r
    have hr {i : Instr} {w : Vec → Word} (hi : exec i s = maskOp o.c o.d s w) {f : Nat → Bool} (hf : ∀ l, (w (vec s)).getLsbD l = f l) :
        r i f := sendsMask_maskOp h hi fun l _ => hf l
    exact ⟨hr (exec_mand o s) fun _ => BitVec.getLsbD_and, hr (exec_mor o s) fun _ => BitVec.getLsbD_or,
      hr (exec_mxor o s) fun _ => BitVec.getLsbD_xor⟩
  case mnot => rw [BitVec.getLsbD_not, decide_eq_true hl, Bool.true_and]
  case vicmp =>
    exact sendsMask_compare (p := fun v l => condInt o.cond (rdV v o.a l) (rdV v o.b l)) h (exec_vicmp o s) fun l => condInt_eq ..
  case vcmp =>
    exact sendsMask_compare (p := fun v l => condFloat o.cond (vval o.t (cmpElem o.t o.hi (rdV v o.a l)))
      (vval o.t (cmpElem o.t o.hi (rdV v o.b l)))) h (exec_vcmp o s) fun l => rfl
  all_goals rfl

end Sys2Proof.Machine
end

section
/-! PROOFS. KEND in a vector engine that stands at a trap, its results captured in the flight buffer (R160, R177 to R179). -/

namespace Sys2Proof.Machine

/-- Tile 0's vector engine stands before pair 9, where a precise trap has stopped it: one result, still due, is in the flight buffer. -/
def vectorHeldAtPair : State :=
  { State.reset with tiles := [(0, { Tile.reset with vec := { Vec.reset with
      run := some ⟨⟨0, 0, 0, 0, .none⟩, 9, false⟩, trapped := true, buffer := [⟨2, [(64, 7)], none, 0, Push.none, 8⟩] } })] }

/-- KEND by itself: the engine goes on to the next pair and drains. -/
def kendBegun (s : State) : State :=
  modVec (progress s s.cur) s.cur (fun v => { vecGo (vecPc v + 1) v with draining := true })

theorem exec_kend_ready {s : State} {o : KNone} (h : SlotReady s [] [] o.g noTok) :
    exec (.kend o) s = .next (retire (kendBegun s) s.cur .v) := by
  change execKend o s = _
  rw [execKend, kslot_ready h]
  rfl

theorem tile_kendBegun (s : State) : tile (kendBegun s) s.cur =
    { tile s s.cur with progress := true, vec := { vecGo (vecPc (vec s) + 1) (vec s) with draining := true } } := by
  rw [kendBegun, tile_modVec_self, tile_progress]; rfl

/-- A run does not retire while its engine stands at a trap (R178). -/
theorem retire_of_trapped {s : State} {a : Nat} (h : (tile s a).vec.trapped = true) : retire s a .v = s := by
  simp [retire, h]

/-- Refutes O23: with nothing in flight and no push waiting KEND would leave the engine idle, and in an engine that stands at a trap, whose
results have moved into the flight buffer, the run goes on. In `vectorHeldAtPair` it does. -/
theorem not_vectorControlFlow : ¬ Obligations.VectorControlFlow := by
  unfold Obligations.VectorControlFlow
  rintro ⟨-, -, kend, -⟩
  have hready : SlotReady vectorHeldAtPair [] [] ⟨false, 0⟩ noTok := ⟨by decide, by decide, by decide, by decide⟩
  obtain ⟨ends, -⟩ := kend vectorHeldAtPair ⟨⟨false, 0⟩⟩ _ hready rfl
  obtain ⟨t, hexec, hrun, -⟩ := ends rfl rfl
  have htile := tile_kendBegun vectorHeldAtPair
  rw [exec_kend_ready hready, retire_of_trapped (by rw [htile]; rfl)] at hexec
  rw [← Host.Outcome.next.inj hexec, vec, show (kendBegun vectorHeldAtPair).cur = vectorHeldAtPair.cur from rfl, htile] at hrun
  exact absurd hrun (by decide)

end Sys2Proof.Machine
end

section
/-! PROOFS. Loads of the vector slot, their checks, and slots without a result (R153, R161 to R164, R177). -/

namespace Sys2Proof.Machine

/-! ## Slots without a result: their pushes go at once (R69, R153) -/

theorem tile_pushOrHold_v (s : State) (a : Nat) (p : Push) : tile (pushOrHold s a .v p) a =
    if roomFor (tile s a).fifo p then { tile s a with fifo := pushInto (tile s a).fifo p }
    else { tile s a with vec := { (tile s a).vec with push := some p } } := by
  rw [pushOrHold]
  split
  · exact tile_modTile_self ..
  · exact tile_modVec_self ..

theorem onlyTile_pushOrHold_v (s : State) (a : Nat) (p : Push) : OnlyTile a s (pushOrHold s a .v p) := by
  rw [pushOrHold]
  split
  · exact onlyTile_modTile ..
  · exact onlyTile_modVec ..

theorem pushOrHold_v_cur (s : State) (a : Nat) (p : Push) : (pushOrHold s a .v p).cur = s.cur := by
  rw [pushOrHold]
  split <;> rfl

/-- From s to w a slot has written the scratchpad, which is as given, and of the rest of the part nothing but poison marks. -/
structure PadBecomes (s w : State) (p : Mem) : Prop where
  cur : w.cur = s.cur
  written : ∃ q, tile w s.cur = { tile s s.cur with pad := p, padPoison := q }
  only : OnlyTile s.cur s w

theorem PadBecomes.refl (s : State) : PadBecomes s s (tile s s.cur).pad := ⟨rfl, ⟨(tile s s.cur).padPoison, rfl⟩, onlyTile_refl ..⟩

theorem PadBecomes.trans {s u w : State} {p q : Mem} (h : PadBecomes s u p) (k : PadBecomes u w q) : PadBecomes s w q := by
  obtain ⟨x, hx⟩ := h.written
  obtain ⟨y, hy⟩ := k.written
  have hcur := h.cur
  refine ⟨k.cur.trans hcur, ⟨y, ?_⟩, h.only.trans (hcur ▸ k.only)⟩
  rw [hcur, hx] at hy
  exact hy

/-- What stands after a slot without a result: its pops and what it wrote, and its pushes, where they had room. -/
theorem unsent_effect {c : VCtl} {s w : State} {p : Mem} {F : State → Issued} (hF : F (slotPopped c s) = ⟨w, none⟩)
    (hw : PadBecomes (slotPopped c s) w p) : ∃ t, vecIssue c F s = .next t ∧ (vec t).flight = (vec s).flight ∧
      RegistersKept (vec s) (vec t) ∧ (tile t s.cur).core = (tile s s.cur).core ∧ (tile t s.cur).pad = p ∧ OnlyTile s.cur s t ∧
      (roomFor (popFrom (tile s s.cur).fifo (popsOf c.tok)) (pushesOf c.tok) = true →
        (tile t s.cur).fifo = pushInto (popFrom (tile s s.cur).fifo (popsOf c.tok)) (pushesOf c.tok)) := by
  obtain ⟨q, htile⟩ := hw.written
  have hcur : w.cur = s.cur := hw.cur
  have honly := ((onlyTile_slotPopped c s).trans hw.only).trans ((onlyTile_modVec w s.cur fun v => { v with unit := vecPc (vec s) }).trans
    (onlyTile_pushOrHold_v _ s.cur (pushesOf c.tok)))
  have ht := tile_pushOrHold_v (modVec w s.cur fun v => { v with unit := vecPc (vec s) }) s.cur (pushesOf c.tok)
  rw [tile_modVec_self, show tile w s.cur = _ from htile, show (slotPopped c s).cur = s.cur from rfl, tile_slotPopped] at ht
  refine ⟨_, vecIssue_none hF, ?_⟩
  rw [vec, pushOrHold_v_cur, show (modVec w s.cur _).cur = s.cur from hcur]
  generalize pushOrHold _ _ _ _ = t at ht honly
  by_cases hroom : roomFor (popFrom (tile s s.cur).fifo (popsOf c.tok)) (pushesOf c.tok) = true
  · rw [if_pos hroom] at ht
    rw [ht]
    exact ⟨rfl, ⟨rfl, rfl, rfl, rfl, rfl, rfl, rfl, rfl⟩, rfl, rfl, honly, fun _ => rfl⟩
  · rw [if_neg hroom] at ht
    rw [ht]
    exact ⟨rfl, ⟨rfl, rfl, rfl, rfl, rfl, rfl, rfl, rfl⟩, rfl, rfl, honly, fun h => absurd h hroom⟩

/-! ## The checks of an access (R164, R384) -/

theorem find?_lanesOf {mask : Word} {bad : Nat → Bool} {l : Nat} (h : FirstLane mask bad l) : (lanesOf mask).find? bad = some l := by
  obtain ⟨hl, hmask, hbad, hfirst⟩ := h
  rw [lanesOf, List.find?_filter, List.find?_range_eq_some]
  refine ⟨by simp [hmask, hbad], List.mem_range.2 hl, fun j hj => ?_⟩
  cases hm : mask.getLsbD j
  · rfl
  · simp [hfirst j hj hm]

theorem find?_lanesOf_none {mask : Word} {bad : Nat → Bool} (h : NoLane mask bad) : (lanesOf mask).find? bad = none := by
  rw [List.find?_eq_none]
  intro l hl
  obtain ⟨hl, hmask⟩ := mem_lanesOf.1 hl
  simp [h l hl hmask]

/-- An active lane's access is aligned where it must be. -/
def laneSkewed (word : Bool) (f : Nat → LaneAccess) (l : Nat) : Bool := word && (f l).addr % 4 != 0

/-- A lane's access leaves the scratchpad the header declares. -/
def laneBeyond (s : State) (f : Nat → LaneAccess) (l : Nat) : Bool :=
  decide ((f l).addr < 0) || decide (((hdr s s.cur).scratch : Int) < (f l).addr + (f l).n)

theorem memCheck_skewed {s : State} {mask : Word} {word reads : Bool} {f : Nat → LaneAccess} {l : Nat}
    (h : FirstLane mask (laneSkewed word f) l) : memCheck s mask word reads f = some (0x05, BitVec.ofInt 64 (f l).addr) := by
  have hf := find?_lanesOf h
  unfold laneSkewed at hf
  simp only [memCheck, hf]

theorem memCheck_beyond {s : State} {mask : Word} {word reads : Bool} {f : Nat → LaneAccess} {l : Nat} (h : NoLane mask (laneSkewed word f))
    (hl : FirstLane mask (laneBeyond s f) l) : memCheck s mask word reads f = some (0x04, BitVec.ofInt 64 (f l).addr) := by
  have hn := find?_lanesOf_none h
  have hf := find?_lanesOf hl
  unfold laneSkewed at hn
  unfold laneBeyond at hf
  simp only [memCheck, hn, hf]

theorem memCheck_passes {s : State} {mask : Word} {word reads : Bool} {f : Nat → LaneAccess} (h : NoLane mask (laneSkewed word f))
    (hb : NoLane mask (laneBeyond s f)) (hp : reads = true → (tile s s.cur).padPoison = []) : memCheck s mask word reads f = none := by
  have hn := find?_lanesOf_none h
  have hf := find?_lanesOf_none hb
  have hpoison : (lanesOf mask).find? (fun i => reads && padPoisoned s s.cur (f i).addr.toNat (f i).n) = none := by
    rw [List.find?_eq_none]
    intro i _
    cases reads
    · simp
    · simp [padPoisoned, hp rfl, poisonedAt]
  unfold laneSkewed at hn
  unfold laneBeyond at hf
  simp only [memCheck, hn, hf, hpoison]

/-- A slot whose own check fails traps. -/
theorem vecTraps_of_own {i : Instr} {s : State} {regs : List Nat} {c : VCtl} (h : SlotReady s [] regs c.g c.tok) {cause : Nat} {info : Word}
    {own : State → Option (Nat × Word)} {F : State → Issued} (hi : exec i s = vslotX [] regs none c s own F)
    (hown : own s = some (cause, info)) : VecTraps i s cause info := by
  have hs : exec i s = vecTrap cause info s := by
    rw [hi]
    simp [vslotX, h.tokens, vecChecks_ready h, h.guard, hown]
  rw [VecTraps, hs]
  exact vecTrapsBy_vecTrap rfl rfl (onlyTile_refl ..) cause info

/-- The slots that access the scratchpad make the checks of R164 over the lanes their mask selects. -/
theorem laneTraps_of_memCheck {i : Instr} {s : State} {regs : List Nat} {c : VCtl} (h : SlotReady s [] regs c.g c.tok) {m : Fin 8}
    {word reads : Bool} {f : State → Nat → LaneAccess} {F : State → Issued}
    (hi : exec i s = vslotX [] regs none c s (fun s => memCheck s (maskNow s m) word reads (f s)) F) {addr : Nat → Int} {n : Nat → Nat}
    (hf : ∀ l, f s l = ⟨addr l, n l⟩) : LaneTraps i s (rdM (vec s) m) word addr n := by
  have hskew : laneSkewed word (f s) = fun l => word && decide (addr l % 4 ≠ 0) := by
    funext l
    simp [laneSkewed, hf, bne, beq_eq_decide]
  have hbeyond : laneBeyond s (f s) = fun l => decide (addr l < 0) || decide (((hdr s s.cur).scratch : Int) < addr l + n l) := by
    funext l
    rw [laneBeyond, hf]
  refine ⟨fun l hl => vecTraps_of_own h hi ?_, fun l hno hl => vecTraps_of_own h hi ?_⟩
  · rw [← hskew] at hl
    exact (memCheck_skewed hl).trans (by rw [hf])
  · rw [← hskew] at hno
    rw [← hbeyond] at hl
    exact (memCheck_beyond hno hl).trans (by rw [hf])

/-- Lanes whose accesses are aligned where they must be and lie in the scratchpad pass the checks. -/
theorem memCheck_of_lanes {s : State} {mask : Word} {word reads : Bool} {f : Nat → LaneAccess} (hp : reads = true → (tile s s.cur).padPoison = [])
    (h : ∀ l < 64, mask.getLsbD l = true → (word = true → (f l).addr % 4 = 0) ∧ 0 ≤ (f l).addr ∧ (f l).addr + (f l).n ≤ (hdr s s.cur).scratch) :
    memCheck s mask word reads f = none := by
  refine memCheck_passes (fun l hl hm => ?_) (fun l hl hm => ?_) hp
  · obtain ⟨haligned, -, -⟩ := h l hl hm
    cases word
    · rfl
    · simp [laneSkewed, haligned rfl]
  · obtain ⟨-, hlow, hhigh⟩ := h l hl hm
    simp only [laneBeyond, Bool.or_eq_false_iff, decide_eq_false_iff_not]
    omega

end Sys2Proof.Machine
end

section
/-! PROOFS. Bits of the scratchpad, dense runs of elements, and the loads (R26, R161 to R164). -/

namespace Sys2Proof.Machine

/-! ## Bits of bytes (R26) -/

/-- Bit i of the bytes from an address on, lowest first. -/
def bitFrom (m : Mem) (a i : Nat) : Bool := (getB m (a + i / 8)).getLsbD (i % 8)

theorem testBit_readN (m : Mem) (a n i : Nat) : (readN m a n).testBit i = (decide (i < 8 * n) && bitFrom m a i) := by
  induction n generalizing a i with
  | zero => simp [readN]
  | succ n ih =>
    rw [readN, Nat.add_comm, show (256 : Nat) = 2 ^ 8 from rfl, Nat.testBit_two_pow_mul_add _ (getB m a).isLt]
    split
    next h =>
      rw [bitFrom, Nat.div_eq_of_lt h, Nat.mod_eq_of_lt h, decide_eq_true (by omega), Bool.true_and]
      rfl
    next h =>
      rw [ih, bitFrom, bitFrom, show a + 1 + (i - 8) / 8 = a + i / 8 by omega, show (i - 8) % 8 = i % 8 by omega,
        show decide (i - 8 < 8 * n) = decide (i < 8 * (n + 1)) from decide_eq_decide.2 (by omega)]

theorem bitFrom_writeN_inside (m : Mem) (a n x i : Nat) (h : i < 8 * n) : bitFrom (writeN m a n x) a i = x.testBit i := by
  rw [bitFrom, getB_writeN_inside _ _ _ _ _ (by omega), BitVec.getLsbD_ofNat, decide_eq_true (by omega), Bool.true_and,
    show (256 : Nat) ^ (i / 8) = 2 ^ (8 * (i / 8)) by rw [Nat.pow_mul], Nat.testBit_div_two_pow, Nat.mod_add_div]

/-! ## Elements of a dense run (R26, R163) -/

/-- Bit k of a run that begins at a base. -/
def runBit (m : Mem) (base : Int) (k : Nat) : Bool := (getB m (base + (k / 8 : Nat)).toNat).getLsbD (k % 8)

theorem bitFrom_eq_runBit (m : Mem) {base : Int} {k i : Nat} (h : 0 ≤ base + (k / 8 : Nat)) :
    bitFrom m (base + (k / 8 : Nat)).toNat (k % 8 + i) = runBit m base (k + i) := by
  rw [bitFrom, runBit, show (base + (k / 8 : Nat)).toNat + (k % 8 + i) / 8 = (base + ((k + i) / 8 : Nat)).toNat by omega,
    show (k % 8 + i) % 8 = (k + i) % 8 by omega]

/-- Bits of an element of w bits that begins at bit k of a run, read with the n bytes that hold it. -/
theorem testBit_runElem (m : Mem) {base : Int} {k w n : Nat} (h : 0 ≤ base + (k / 8 : Nat)) (hn : k % 8 + w ≤ 8 * n) (j : Nat) :
    (readN m (base + (k / 8 : Nat)).toNat n / 2 ^ (k % 8) % 2 ^ w).testBit j = (decide (j < w) && runBit m base (k + j)) := by
  rw [Nat.testBit_mod_two_pow, Nat.testBit_div_two_pow, testBit_readN, Nat.add_comm j, bitFrom_eq_runBit m h]
  by_cases hj : j < w
  · simp [hj, show k % 8 + j < 8 * n by omega]
  · simp [hj]

/-- An element's value does not rest on how many bytes are read with it. -/
theorem runElem_bytes (m : Mem) {base : Int} {k w n n' : Nat} (h : 0 ≤ base + (k / 8 : Nat)) (hn : k % 8 + w ≤ 8 * n)
    (hn' : k % 8 + w ≤ 8 * n') : readN m (base + (k / 8 : Nat)).toNat n / 2 ^ (k % 8) % 2 ^ w =
      readN m (base + (k / 8 : Nat)).toNat n' / 2 ^ (k % 8) % 2 ^ w :=
  Nat.eq_of_testBit_eq fun j => by rw [testBit_runElem m h hn, testBit_runElem m h hn']

theorem nbits_cases (w : NWidth) : nbits w = 8 ∨ nbits w = 4 ∨ nbits w = 6 := by
  cases w <;> simp [nbits]

/-- The bytes of an element of the narrow forms hold it, and are those from its first bit to its last. -/
theorem narrowBytes (w : NWidth) (i : Nat) :
    i * nbits w % 8 + nbits w ≤ 8 * ((i * nbits w + nbits w - 1) / 8 - i * nbits w / 8 + 1) ∧ i * nbits w % 8 + nbits w ≤ 16 ∧
      (i * nbits w + nbits w - 1) / 8 - i * nbits w / 8 + 1 = (i * nbits w + nbits w + 7) / 8 - i * nbits w / 8 ∧
      i * nbits w / 8 ≤ (i * nbits w + nbits w + 7) / 8 := by
  obtain h | h | h := nbits_cases w <;> rw [h] <;> omega

/-! ## The loads (R161 to R163) -/

/-- A load of words sends what stands at its lanes' addresses. -/
theorem sends_loadWords {i : Instr} {s : State} {c : VCtl} {regs : List Nat} {lat d : Nat} {m : Fin 8} {f : Vec → Nat → LaneAccess}
    {own : State → Option (Nat × Word)} (h : SlotReady s [] regs c.g c.tok) (hi : exec i s = vslotX [] regs none c s own (loadWords lat d m f))
    (hown : own s = none) : Sends i s c lat d (rdM (vec s) m)
      (fun l => BitVec.ofNat 32 (readN (tile s s.cur).pad (f (vec s) l).addr.toNat 4)) 0 := by
  have hs := sends_of_issue (hi.trans (vslotX_ready h hown _)) (slotEffect_popped c s) (mask := rdM (vec s) m) (lat := lat) (d := d)
    (f := fun l => BitVec.ofNat 32 (readN (tile s s.cur).pad (f (vec s) l).addr.toNat 4))
    (fl := lanesFlight (vec s) lat d (rdM (vec s) m) (fun l => (BitVec.ofNat 32 (readN (tile s s.cur).pad (f (vec s) l).addr.toNat 4), 0)))
    (by simp only [loadWords, tile_at_slotPopped, laneWord, padRead, pad_at_slotPopped]) rfl rfl fun k x => mem_lanesFlight ..
  rwa [flags_lanesFlight, laneFlags_zero] at hs

/-- VLDB sends the elements of its run, zero-extended. -/
theorem sends_vldb {s : State} {o : VNarrow} (h : SlotReady s [] [o.r.val] o.c.g o.c.tok)
    (hown : memCheck s (maskNow s o.mask) false true (narrowLane (vec s) o) = none) :
    Sends (.vldb o) s o.c 6 o.r (rdM (vec s) o.mask) (fun l => BitVec.ofNat 32 (narrowCode s o l)) 0 := by
  have hcode (l : Nat) : narrowCode (slotPopped o.c s) o l = narrowCode s o l := by
    simp only [narrowCode, padRead, tile_at_slotPopped, pad_at_slotPopped]
    rfl
  have hs := sends_of_issue ((exec_vldb o s).trans (vslotX_ready h hown _)) (slotEffect_popped o.c s) (mask := rdM (vec s) o.mask) (lat := 6)
    (d := o.r) (f := fun l => BitVec.ofNat 32 (narrowCode s o l))
    (fl := lanesFlight (vec s) 6 o.r (rdM (vec s) o.mask) (fun l => (BitVec.ofNat 32 (narrowCode s o l), 0)))
    (by simp only [tile_at_slotPopped, hcode]) rfl rfl fun k x => mem_lanesFlight ..
  rwa [flags_lanesFlight, laneFlags_zero] at hs

theorem Sends.congr {i : Instr} {s : State} {c : VCtl} {lat d : Nat} {mask : Word} {f g : Nat → Lane} {flags : Flags}
    (h : Sends i s c lat d mask f flags) (hfg : ∀ l < 64, mask.getLsbD l = true → f l = g l) : Sends i s c lat d mask g flags := by
  obtain ⟨t, fl, ht, hflight, hdue, hm, hv, hrest⟩ := h
  refine ⟨t, fl, ht, hflight, hdue, hm, fun k x => (hv k x).trans ?_, hrest⟩
  refine exists_congr fun l => and_congr_right fun hl => and_congr_right fun hmask => ?_
  rw [hfg l hl hmask]

/-- An access of an element of the narrow forms touches the bytes of its bits. -/
theorem narrowLane_eq (v : Vec) (o : VNarrow) (l : Nat) : narrowLane v o l =
    ⟨((rdK v o.k).toNat : Int) + o.off.toInt + (l * nbits o.w / 8 : Nat), (l * nbits o.w + nbits o.w + 7) / 8 - l * nbits o.w / 8⟩ := by
  obtain ⟨-, -, hn, -⟩ := narrowBytes o.w l
  rw [narrowLane, hn]
  rfl

/-- The narrow accesses of lanes that lie in the scratchpad pass the checks. -/
theorem memCheck_narrow {s : State} {o : VNarrow} {reads : Bool} (hp : reads = true → (tile s s.cur).padPoison = [])
    (h : ∀ l < 64, (rdM (vec s) o.mask).getLsbD l = true → 0 ≤ ((rdK (vec s) o.k).toNat : Int) + o.off.toInt + (l * nbits o.w / 8 : Nat) ∧
      ((rdK (vec s) o.k).toNat : Int) + o.off.toInt + ((l * nbits o.w + nbits o.w + 7) / 8 : Nat) ≤ (hdr s s.cur).scratch) :
    memCheck s (maskNow s o.mask) false reads (narrowLane (vec s) o) = none := by
  refine memCheck_of_lanes hp fun l hl hm => ?_
  obtain ⟨hlow, hhigh⟩ := h l hl hm
  obtain ⟨-, -, -, hle⟩ := narrowBytes o.w l
  rw [narrowLane_eq]
  exact ⟨fun h => absurd h (by decide), hlow, by dsimp only; omega⟩

/-- Settles O24: VNOP has no result; the loads' own check is `memCheck`, and what passes it is read lane by lane. -/
theorem vectorLoads : Obligations.VectorLoads := by
  unfold Obligations.VectorLoads
  refine ⟨fun s o h hroom => ?vnop, fun s o h => ?vld, fun s o h => ?vldx, fun s o h => ?vldb,
    fun s o h => laneTraps_of_memCheck h (exec_vld o s) fun _ => rfl,
    fun s o h => laneTraps_of_memCheck h (exec_vldx o s) fun _ => rfl,
    fun s o h => laneTraps_of_memCheck h (exec_vldb o s) (narrowLane_eq (vec s) o)⟩
  case vnop =>
    obtain ⟨t, ht, hflight, hregs, -, -, honly, hfifo⟩ := unsent_effect (F := fun s => ⟨s, none⟩) rfl (PadBecomes.refl (slotPopped o.c s))
    exact ⟨t, (exec_vnop o s).trans ((vslot_ready h _).trans ht), hfifo hroom, hflight, hregs, honly⟩
  case vld =>
    intro base mask hin hp
    refine sends_loadWords (f := fun v => unitLane v o) h (exec_vld o s) (memCheck_of_lanes (fun _ => hp) fun l hl hm => ?_)
    obtain ⟨haligned, hlow, hhigh⟩ := hin l hl hm
    exact ⟨fun _ => by change (base + 4 * l) % 4 = 0; omega, hlow, hhigh⟩
  case vldx =>
    intro at_ mask hin hp
    refine sends_loadWords (f := fun v => indexLane v o) h (exec_vldx o s) (memCheck_of_lanes (fun _ => hp) fun l hl hm => ?_)
    obtain ⟨haligned, hlow, hhigh⟩ := hin l hl hm
    exact ⟨fun _ => haligned, hlow, hhigh⟩
  case vldb =>
    intro base w mask hin hp
    refine (sends_vldb h (memCheck_narrow (fun _ => hp) hin)).congr fun l hl hm => congrArg (BitVec.ofNat 32) ?_
    obtain ⟨hbytes, hbytes2, -, -⟩ := narrowBytes o.w l
    exact runElem_bytes _ (hin l hl hm).1 hbytes hbytes2

end Sys2Proof.Machine
end

section
/-! PROOFS. Stores of the vector slot (R161 to R164). -/

namespace Sys2Proof.Machine

/-! ## The scratchpad after stores -/

/-- A slot that stores. -/
theorem stores_of_issue {i : Instr} {s w : State} {c : VCtl} {F : State → Issued} {p : Mem} {pad : Mem → Prop}
    (hi : exec i s = vecIssue c F s) (hF : F (slotPopped c s) = ⟨w, none⟩) (hw : PadBecomes (slotPopped c s) w p) (hp : pad p) :
    Stores i s pad := by
  obtain ⟨t, ht, hflight, hregs, hcore, hpad, honly, -⟩ := unsent_effect hF hw
  exact ⟨t, hi.trans ht, hflight, hpad ▸ hp, hregs, hcore, honly⟩

theorem PadBecomes.vec {s w : State} {p : Mem} (h : PadBecomes s w p) : (tile w w.cur).vec = Machine.vec s := by
  obtain ⟨q, hq⟩ := h.written
  rw [h.cur, hq]
  rfl

theorem PadBecomes.pad {s w : State} {p : Mem} (h : PadBecomes s w p) : (tile w w.cur).pad = p := by
  obtain ⟨q, hq⟩ := h.written
  rw [h.cur, hq]

theorem padBecomes_modTile {s : State} {f : Tile → Tile} {p : Mem} (h : ∃ q, f (tile s s.cur) = { tile s s.cur with pad := p, padPoison := q }) :
    PadBecomes s (modTile s s.cur f) p := by
  obtain ⟨q, hq⟩ := h
  exact ⟨rfl, ⟨q, (tile_modTile_self ..).trans hq⟩, onlyTile_modTile ..⟩

/-- The scratchpad after lanes' words are written, one after the other. -/
def padStored (addr val : Nat → Nat) (ls : List Nat) (m : Mem) : Mem := ls.foldl (fun m l => writeN m (addr l) 4 (val l)) m

theorem padBecomes_stored (addr val : Nat → Nat) (ls : List Nat) (s : State) :
    PadBecomes s (ls.foldl (fun s l => padWrite s s.cur (addr l) 4 (val l)) s) (padStored addr val ls (tile s s.cur).pad) := by
  induction ls generalizing s with
  | nil => exact PadBecomes.refl s
  | cons l ls ih =>
    have hstep : PadBecomes s (padWrite s s.cur (addr l) 4 (val l)) (writeN (tile s s.cur).pad (addr l) 4 (val l)) :=
      padBecomes_modTile ⟨_, rfl⟩
    have hrest := ih (padWrite s s.cur (addr l) 4 (val l))
    rw [hstep.pad] at hrest
    exact hstep.trans hrest

/-- A byte that none of the words touches stays. -/
theorem getB_padStored_outside {addr val : Nat → Nat} {ls : List Nat} {x : Nat} (h : ∀ l ∈ ls, x < addr l ∨ addr l + 4 ≤ x) (m : Mem) :
    getB (padStored addr val ls m) x = getB m x := by
  induction ls generalizing m with
  | nil => rfl
  | cons l ls ih =>
    refine (ih (fun j hj => h j (List.mem_cons_of_mem _ hj)) _).trans ?_
    exact getB_writeN_outside _ _ _ _ _ (h l (List.mem_cons_self ..))

theorem readN_padStored_outside {addr val : Nat → Nat} {ls : List Nat} {a : Nat} (h : ∀ l ∈ ls, a + 4 ≤ addr l ∨ addr l + 4 ≤ a) (m : Mem) :
    readN (padStored addr val ls m) a 4 = readN m a 4 := by
  induction ls generalizing m with
  | nil => rfl
  | cons l ls ih =>
    refine (ih (fun j hj => h j (List.mem_cons_of_mem _ hj)) _).trans ?_
    exact readN_writeN_outside _ _ _ _ _ _ (h l (List.mem_cons_self ..))

/-- Of the words written at one address the last stays: the highest lane's, as lanes rise (R162). -/
theorem readN_padStored {addr val : Nat → Nat} {ls : List Nat} (hrise : ls.Pairwise (· < ·)) (haligned : ∀ l ∈ ls, addr l % 4 = 0) {l : Nat}
    (hl : l ∈ ls) (hlast : ∀ j ∈ ls, l < j → addr j ≠ addr l) (hval : val l < 2 ^ 32) (m : Mem) :
    readN (padStored addr val ls m) (addr l) 4 = val l := by
  induction ls generalizing m with
  | nil => cases hl
  | cons j ls ih =>
    obtain ⟨hj, hrise⟩ := List.pairwise_cons.1 hrise
    obtain rfl | hl := List.mem_cons.1 hl
    · change readN (padStored addr val ls (writeN m (addr l) 4 (val l))) (addr l) 4 = _
      rw [readN_padStored_outside (fun k hk => ?_), readN_writeN, Nat.mod_eq_of_lt (hval.trans_eq (by norm_num))]
      have hne := hlast k (List.mem_cons_of_mem _ hk) (hj k hk)
      have hk4 := haligned k (List.mem_cons_of_mem _ hk)
      have hl4 := haligned l (List.mem_cons_self ..)
      omega
    · exact ih hrise (fun k hk => haligned k (List.mem_cons_of_mem _ hk)) hl (fun k hk => hlast k (List.mem_cons_of_mem _ hk)) _

theorem pairwise_lanesOf (mask : Word) : (lanesOf mask).Pairwise (· < ·) := List.Pairwise.filter _ List.pairwise_lt_range

/-! ## Stores of words (R161, R162) -/

theorem padBecomes_storeWords (r : Nat) (m : Fin 8) (f : Vec → Nat → LaneAccess) (s : State) : PadBecomes s (storeWords r m f s).s
    (padStored (fun l => (f (vec s) l).addr.toNat) (fun l => (rdV (vec s) r l).toNat) (lanesOf (rdM (vec s) m)) (tile s s.cur).pad) :=
  padBecomes_stored ..

theorem padBecomes_storeRow (r : Nat) (m : Fin 8) (f : Vec → Nat → LaneAccess) (s : State) : PadBecomes s (storeRow r m f s).s
    (padStored (fun l => (f (vec s) l).addr.toNat) (fun l => (rdV (vec s) r l).toNat) (lanesOf (rdM (vec s) m)) (tile s s.cur).pad) := by
  have hwords := padBecomes_storeWords r m f s
  have hclear := padBecomes_modTile (s := (storeWords r m f s).s) (p := (tile (storeWords r m f s).s (storeWords r m f s).s.cur).pad)
    (f := clearWords ((lanesOf (rdM (vec s) m)).map (fun i => (f (vec s) i).addr.toNat))) ⟨_, rfl⟩
  rw [hwords.pad] at hclear
  have hs := hwords.trans hclear
  rwa [hwords.cur] at hs

section
variable {s : State} {mask : Word} {addr : Nat → Int} {r : Nat}
  (hin : ∀ l < 64, mask.getLsbD l = true → addr l % 4 = 0 ∧ 0 ≤ addr l ∧ addr l + 4 ≤ (hdr s s.cur).scratch)
include hin

/-- The words of the active lanes stand where their lanes say, the highest lane's where several name one word. -/
theorem readN_storedLanes {l : Nat} (hl : l < 64) (hm : mask.getLsbD l = true)
    (hlast : ∀ j < 64, l < j → mask.getLsbD j = true → addr j ≠ addr l) (m : Mem) :
    readN (padStored (fun l => (addr l).toNat) (fun l => (rdV (vec s) r l).toNat) (lanesOf mask) m) (addr l).toNat 4 =
      (rdV (vec s) r l).toNat := by
  refine readN_padStored (addr := fun l => (addr l).toNat) (pairwise_lanesOf mask) (fun j hj => ?_) (mem_lanesOf.2 ⟨hl, hm⟩)
    (fun j hj hlj => ?_) (rdV (vec s) r l).isLt m
  · obtain ⟨hj, hjm⟩ := mem_lanesOf.1 hj
    obtain ⟨haligned, hlow, -⟩ := hin j hj hjm
    omega
  · obtain ⟨hj, hjm⟩ := mem_lanesOf.1 hj
    obtain ⟨-, hlowj, -⟩ := hin j hj hjm
    obtain ⟨-, hlow, -⟩ := hin l hl hm
    have hne := hlast j hj hlj hjm
    omega

/-- A byte that no active lane's word touches stays. -/
theorem getB_storedLanes {x : Nat} (hx : ∀ l < 64, mask.getLsbD l = true → (x : Int) < addr l ∨ addr l + 4 ≤ x) (m : Mem) (val : Nat → Nat) :
    getB (padStored (fun l => (addr l).toNat) val (lanesOf mask) m) x = getB m x := by
  refine getB_padStored_outside (fun l hl => ?_) m
  obtain ⟨hl, hm⟩ := mem_lanesOf.1 hl
  obtain ⟨-, hlow, -⟩ := hin l hl hm
  have := hx l hl hm
  omega

end

/-! ## Narrow stores (R163) -/

/-- A number with a field of w bits from bit sh on replaced. -/
def withField (old sh w x : Nat) : Nat := old - old / 2 ^ sh % 2 ^ w * 2 ^ sh + x % 2 ^ w * 2 ^ sh

theorem testBit_withField (old sh w x i : Nat) :
    (withField old sh w x).testBit i = if sh ≤ i ∧ i < sh + w then x.testBit (i - sh) else old.testBit i := by
  have hsplit : old = 2 ^ sh * (2 ^ w * (old / 2 ^ sh / 2 ^ w) + old / 2 ^ sh % 2 ^ w) + old % 2 ^ sh := by
    rw [Nat.div_add_mod, Nat.div_add_mod]
  have hnew : withField old sh w x = 2 ^ sh * (2 ^ w * (old / 2 ^ sh / 2 ^ w) + x % 2 ^ w) + old % 2 ^ sh := by
    rw [withField, Nat.mul_comm _ (2 ^ sh), Nat.mul_comm _ (2 ^ sh)]
    generalize hf : old / 2 ^ sh % 2 ^ w = f at *
    conv_lhs => rw [hsplit]
    rw [Nat.mul_add, Nat.mul_add]
    omega
  have hlow : old % 2 ^ sh < 2 ^ sh := Nat.mod_lt _ (Nat.two_pow_pos sh)
  rw [hnew, Nat.testBit_two_pow_mul_add _ hlow, Nat.testBit_two_pow_mul_add _ (Nat.mod_lt _ (Nat.two_pow_pos w))]
  by_cases h1 : i < sh
  · simp [h1, show ¬ sh ≤ i by omega]
  by_cases h2 : i < sh + w
  · simp [h1, h2, show sh ≤ i by omega, show i - sh < w by omega]
  · simp only [h1, h2, show ¬ i - sh < w by omega, if_false, and_false]
    rw [Nat.testBit_div_two_pow, Nat.testBit_div_two_pow, show i - sh - w + w + sh = i by omega]

/-- The scratchpad after element l of the run takes a lane's low bits. -/
def elemPut (base : Int) (w : Nat) (val : Nat → Nat) (m : Mem) (l : Nat) : Mem :=
  let a := (base + (l * w / 8 : Nat)).toNat
  let n := (l * w + w - 1) / 8 - l * w / 8 + 1
  writeN m a n (withField (readN m a n) (l * w % 8) w (val l))

/-- A field of w bits at bit p of a run ends within its last byte. -/
theorem field_fits {w : Nat} (hw : 0 < w) (p : Nat) : p % 8 + w ≤ 8 * ((p + w - 1) / 8 - p / 8 + 1) := by omega

theorem runBit_elemPut {base : Int} {w l k : Nat} (hw : 0 < w) (hl : 0 ≤ base + (l * w / 8 : Nat)) (hk : 0 ≤ base + (k / 8 : Nat))
    (val : Nat → Nat) (m : Mem) : runBit (elemPut base w val m l) base k = if k / w = l then (val l).testBit (k % w) else runBit m base k := by
  have hfield : k / w = l ↔ l * w ≤ k ∧ k < l * w + w := by
    rw [Nat.div_eq_iff hw]
    omega
  have hfits := field_fits hw (l * w)
  have hmod (h : k / w = l) : k % w = k - l * w := by rw [← h, Nat.mod_eq_sub_div_mul]
  rw [elemPut]
  generalize hn : (l * w + w - 1) / 8 - l * w / 8 + 1 = n at hfits
  by_cases hin : l * w / 8 ≤ k / 8 ∧ k / 8 < l * w / 8 + n
  · have hbit (m : Mem) : runBit m base k = bitFrom m (base + (l * w / 8 : Nat)).toNat (k - 8 * (l * w / 8)) := by
      rw [runBit, bitFrom, show (base + (l * w / 8 : Nat)).toNat + (k - 8 * (l * w / 8)) / 8 = (base + (k / 8 : Nat)).toNat by omega,
        show (k - 8 * (l * w / 8)) % 8 = k % 8 by omega]
    have hlt : k - 8 * (l * w / 8) < 8 * n := by omega
    rw [hbit, bitFrom_writeN_inside _ _ _ _ _ hlt, testBit_withField, testBit_readN, decide_eq_true hlt, Bool.true_and, ← hbit]
    by_cases hkl : k / w = l
    · obtain ⟨hlow, hhigh⟩ := hfield.1 hkl
      rw [if_pos hkl, if_pos (by omega), hmod hkl]
      congr 1
      omega
    · have hno : ¬ (l * w ≤ k ∧ k < l * w + w) := fun h => hkl (hfield.2 h)
      rw [if_neg hkl, if_neg (by omega)]
  · have hno : ¬ (l * w ≤ k ∧ k < l * w + w) := by omega
    rw [if_neg (fun h => hno (hfield.1 h)), runBit, runBit, getB_writeN_outside _ _ _ _ _ (by omega)]

/-- The bits of a run after several elements are stored: those of the elements named, and the others as before. -/
theorem runBit_elemsPut {base : Int} {w k : Nat} (hw : 0 < w) (hk : 0 ≤ base + (k / 8 : Nat)) (val : Nat → Nat) {ls : List Nat}
    (hls : ∀ l ∈ ls, 0 ≤ base + (l * w / 8 : Nat)) (m : Mem) :
    runBit (ls.foldl (elemPut base w val) m) base k = if k / w ∈ ls then (val (k / w)).testBit (k % w) else runBit m base k := by
  induction ls generalizing m with
  | nil => rfl
  | cons l ls ih =>
    rw [List.foldl_cons, ih (fun j hj => hls j (List.mem_cons_of_mem _ hj)), runBit_elemPut hw (hls l (List.mem_cons_self ..)) hk]
    by_cases hl : k / w = l
    · simp [hl]
    · simp [hl]

/-- An element of a run after the active lanes' low bits are stored: its lane's, or as before. -/
theorem elem_elemsPut {base : Int} {w l : Nat} {mask : Word} (hw : 0 < w) (hls : ∀ l ∈ lanesOf mask, 0 ≤ base + (l * w / 8 : Nat)) (hl : l < 64)
    (hbase : 0 ≤ base + (l * w / 8 : Nat)) (hfit : l * w % 8 + w ≤ 16) (val : Nat → Nat) (m : Mem) :
    readN ((lanesOf mask).foldl (elemPut base w val) m) (base + (l * w / 8 : Nat)).toNat 2 / 2 ^ (l * w % 8) % 2 ^ w =
      if mask.getLsbD l then val l % 2 ^ w else readN m (base + (l * w / 8 : Nat)).toNat 2 / 2 ^ (l * w % 8) % 2 ^ w := by
  refine Nat.eq_of_testBit_eq fun j => ?_
  rw [testBit_runElem _ hbase hfit, apply_ite (Nat.testBit · j), Nat.testBit_mod_two_pow, testBit_runElem _ hbase hfit]
  by_cases hj : j < w
  · have hlane : (l * w + j) / w = l := by rw [Nat.mul_comm, Nat.mul_add_div hw, Nat.div_eq_of_lt hj, Nat.add_zero]
    have hplace : (l * w + j) % w = j := by rw [Nat.mul_comm, Nat.mul_add_mod, Nat.mod_eq_of_lt hj]
    rw [runBit_elemsPut hw (by omega) val hls, hlane, hplace]
    simp [hj, hl, mem_lanesOf]
  · simp [hj]

/-- A byte that no stored element touches stays. -/
theorem getB_elemsPut {base : Int} {w x : Nat} (val : Nat → Nat) {ls : List Nat}
    (h : ∀ l ∈ ls, 0 ≤ base + (l * w / 8 : Nat) ∧
      ((x : Int) < base + (l * w / 8 : Nat) ∨ base + (l * w / 8 : Nat) + ((l * w + w - 1) / 8 - l * w / 8 + 1 : Nat) ≤ x)) (m : Mem) :
    getB (ls.foldl (elemPut base w val) m) x = getB m x := by
  induction ls generalizing m with
  | nil => rfl
  | cons l ls ih =>
    rw [List.foldl_cons, ih (fun j hj => h j (List.mem_cons_of_mem _ hj))]
    have := h l (List.mem_cons_self ..)
    exact getB_writeN_outside _ _ _ _ _ (by omega)

/-- The values that a narrow store's lanes hold, and the base of its run. -/
def narrowVal (v : Vec) (o : VNarrow) (l : Nat) : Nat := (rdV v o.r l).toNat

theorem padBecomes_narrowPut (o : VNarrow) (ls : List Nat) (s : State) : PadBecomes s (ls.foldl (narrowPut o) s)
    (ls.foldl (elemPut (vecBase (vec s) o.k o.off) (nbits o.w) (narrowVal (vec s) o)) (tile s s.cur).pad) := by
  induction ls generalizing s with
  | nil => exact PadBecomes.refl s
  | cons l ls ih =>
    have hstep : PadBecomes s (narrowPut o s l)
        (elemPut (vecBase (vec s) o.k o.off) (nbits o.w) (narrowVal (vec s) o) (tile s s.cur).pad l) := by
      unfold narrowPut
      exact padBecomes_modTile ⟨_, rfl⟩
    have hrest := ih (narrowPut o s l)
    rw [hstep.pad, Machine.vec, hstep.vec] at hrest
    exact hstep.trans hrest

theorem padBecomes_narrowClear (o : VNarrow) (s : State) : PadBecomes s (narrowClear o s) (tile s s.cur).pad := by
  unfold narrowClear
  exact padBecomes_modTile ⟨_, rfl⟩

/-- What a narrow store leaves of the scratchpad. -/
theorem padBecomes_vstN (o : VNarrow) (s : State) : PadBecomes s ((lanesOf (maskNow s o.mask)).foldl (narrowPut o) (narrowClear o s))
    ((lanesOf (rdM (vec s) o.mask)).foldl (elemPut (vecBase (vec s) o.k o.off) (nbits o.w) (narrowVal (vec s) o)) (tile s s.cur).pad) := by
  have hclear := padBecomes_narrowClear o s
  have hput := padBecomes_narrowPut o (lanesOf (maskNow s o.mask)) (narrowClear o s)
  rw [hclear.pad, Machine.vec, hclear.vec] at hput
  exact hclear.trans hput

/-! ## O25 -/

/-- Settles O25: a store's own check is `memCheck`; words are written lane after lane, elements bit by bit of their run. -/
theorem vectorStores : Obligations.VectorStores := by
  unfold Obligations.VectorStores
  refine ⟨fun s o h => ?vst, fun s o h => ?vstx, fun s o h => ?vstN,
    fun s o h => laneTraps_of_memCheck h (exec_vst o s) fun _ => rfl,
    fun s o h => laneTraps_of_memCheck h (exec_vstx o s) fun _ => rfl,
    fun s o h => laneTraps_of_memCheck h (exec_vstN o s) (narrowLane_eq (vec s) o)⟩
  case vst =>
    intro base mask hin
    have hlanes : ∀ l < 64, mask.getLsbD l = true → (base + 4 * l) % 4 = 0 ∧ 0 ≤ base + 4 * l ∧ base + 4 * l + 4 ≤ (hdr s s.cur).scratch :=
      fun l hl hm => by
        have := hin l hl hm
        omega
    refine stores_of_issue ((exec_vst o s).trans (vslotX_ready h (memCheck_of_lanes (fun h => absurd h (by decide)) fun l hl hm => ?_) _)) rfl
      (padBecomes_storeRow o.r o.mask (fun v => unitLane v o) _) ?_
    · obtain ⟨haligned, hlow, hhigh⟩ := hlanes l hl hm
      exact ⟨fun _ => haligned, hlow, hhigh⟩
    rw [vec_slotPopped, pad_at_slotPopped]
    refine ⟨fun l hl hm => ?_, fun x hx => ?_⟩
    · exact readN_storedLanes (addr := fun l => base + 4 * l) hlanes hl hm (fun j _ hj _ => by omega) _
    · exact getB_storedLanes (addr := fun l => base + 4 * l) hlanes hx _ _
  case vstx =>
    intro at_ mask hin
    refine stores_of_issue ((exec_vstx o s).trans (vslotX_ready h
      (memCheck_of_lanes (f := indexLane (vec s) o) (fun h => absurd h (by decide)) fun l hl hm => ?_) _)) rfl
      (padBecomes_storeWords o.r o.mask (fun v => indexLane v o) _) ?_
    · obtain ⟨haligned, hlow, hhigh⟩ := hin l hl hm
      exact ⟨fun _ => haligned, hlow, hhigh⟩
    rw [vec_slotPopped, pad_at_slotPopped]
    refine ⟨fun l hl hm hlast => ?_, fun x hx => ?_⟩
    · exact readN_storedLanes (addr := at_) hin hl hm hlast _
    · exact getB_storedLanes (addr := at_) hin hx _ _
  case vstN =>
    intro base mask w elem hin
    have hw : 0 < nbits o.w := by obtain hw | hw | hw := nbits_cases o.w <;> omega
    refine stores_of_issue ((exec_vstN o s).trans (vslotX_ready h (memCheck_narrow (fun h => absurd h (by decide)) hin) _)) rfl
      (padBecomes_vstN o _) ?_
    rw [vec_slotPopped, pad_at_slotPopped]
    have hls : ∀ l ∈ lanesOf mask, 0 ≤ base + (l * nbits o.w / 8 : Nat) := fun l hl => (hin l (mem_lanesOf.1 hl).1 (mem_lanesOf.1 hl).2).1
    refine ⟨fun l hl hbase => ?elem, fun x hx => getB_elemsPut _ (fun l hl => ?outside) _⟩
    case elem =>
      obtain ⟨-, hfit, -, -⟩ := narrowBytes o.w l
      exact elem_elemsPut hw hls hl hbase hfit _ _
    case outside =>
      obtain ⟨hl, hm⟩ := mem_lanesOf.1 hl
      obtain ⟨-, -, hbytes, hle⟩ := narrowBytes o.w l
      have hx : (x : Int) < base + (l * nbits o.w / 8 : Nat) ∨ base + ((l * nbits o.w + nbits o.w + 7) / 8 : Nat) ≤ x := hx l hl hm
      refine ⟨(hin l hl hm).1, ?_⟩
      change (x : Int) < base + _ ∨ base + _ + _ ≤ (x : Int)
      omega

end Sys2Proof.Machine
end

section
/-! PROOFS. Write-back: the results that are due, in the order their pairs issued (R69, R150, R153, R155, R268). -/

namespace Sys2Proof.Machine

/-! ## What several results leave of the registers -/

/-- In a fold whose steps each set a value or leave it, the last that sets it stays. -/
theorem foldl_eq_last {α β γ : Type} {step : β → α → β} {p : β → γ} {g : α → Option γ} (h : ∀ b a, p (step b a) = (g a).getD (p b)) (l : List α)
    (b : β) : p (l.foldl step b) = (l.filterMap g).getLast?.getD (p b) := by
  induction l generalizing b with
  | nil => rfl
  | cons a l ih =>
    rw [List.foldl_cons, ih, h]
    cases hg : g a with
    | none => rw [List.filterMap_cons_none hg]; rfl
    | some y => rw [List.filterMap_cons_some hg, List.getLast?_cons]; rfl

theorem landFlight_v (fs : List Flight) (v : Vec) :
    (fs.foldl landFlight v).v = (fs.flatMap (·.v)).foldl (fun m e => setAt 0 m e.1 e.2) v.v := by
  induction fs generalizing v with
  | nil => rfl
  | cons f fs ih => rw [List.foldl_cons, ih, List.flatMap_cons, List.foldl_append]; rfl

/-- A lane after several results: what the last that writes it gives (R155). -/
theorem getAt_landFlight_v (fs : List Flight) (v : Vec) (k : Nat) : getAt 0 (fs.foldl landFlight v).v k =
    (((fs.flatMap (·.v)).filter (fun e => e.1 == k)).getLast?.map (·.2)).getD (getAt 0 v.v k) := by
  have hset (m : SMap Lane) (e : Nat × Lane) : getAt 0 (setAt 0 m e.1 e.2) k = (if e.1 = k then some e.2 else none).getD (getAt 0 m k) := by
    split
    next h => rw [← h]; exact getAt_setAt_self ..
    next h => exact getAt_setAt_ne _ _ _ (Ne.symm h)
  have hlist (l : List (Nat × Lane)) : l.filterMap (fun e => if e.1 = k then some e.2 else none) = (l.filter (fun e => e.1 == k)).map (·.2) := by
    rw [← List.filterMap_eq_map, ← List.filterMap_eq_filter, List.filterMap_filterMap]
    refine List.filterMap_congr fun e _ => ?_
    by_cases h : e.1 = k <;> simp [h, Option.guard]
  rw [landFlight_v, foldl_eq_last (p := fun m => getAt 0 m k) hset, hlist, List.getLast?_map]

/-- The bit that a result writes of a mask register, if any. -/
def maskBit (n l : Nat) (f : Flight) : Option Bool :=
  match f.m with
  | some (k, which, y) => if k = n ∧ which.getLsbD l = true then some (y.getLsbD l) else none
  | none => none

theorem getLsbD_landFlight_m {n l : Nat} (hn : n ≠ 0) (hl : l < 64) (v : Vec) (f : Flight) :
    (getAt 0 (landFlight v f).m n).getLsbD l = (maskBit n l f).getD ((getAt 0 v.m n).getLsbD l) := by
  simp only [landFlight, maskBit]
  cases hm : f.m with
  | none => rfl
  | some r =>
    obtain ⟨k, which, y⟩ := r
    by_cases hk : k = n
    · subst k
      simp only [if_neg hn, getAt_setAt_self, BitVec.getLsbD_or, BitVec.getLsbD_and, BitVec.getLsbD_not, hl, decide_true, Bool.true_and]
      cases hw : which.getLsbD l <;> simp
    · simp only [hk, false_and, if_false]
      split
      · rfl
      · rw [getAt_setAt_ne _ _ _ (Ne.symm hk)]; rfl

theorem flags_landFlight (fs : List Flight) (v : Vec) : (fs.foldl landFlight v).flags = fs.foldl (fun g f => g ||| f.flags) v.flags := by
  induction fs generalizing v with
  | nil => rfl
  | cons f fs ih => rw [List.foldl_cons, ih]; rfl

/-- What results write does not rest on what is in flight. -/
theorem foldl_landFlight_flight (fs : List Flight) (v : Vec) (fl : List Flight) (u : Nat) :
    fs.foldl landFlight { v with flight := fl, unit := u } = { fs.foldl landFlight v with flight := fl, unit := u } := by
  induction fs generalizing v with
  | nil => rfl
  | cons f fs ih => exact ih (landFlight v f)

/-! ## The results left in flight -/

theorem foldl_erase_cons {x : Flight} {ds : List Flight} (h : x ∉ ds) (l : List Flight) :
    ds.foldl List.erase (x :: l) = x :: ds.foldl List.erase l := by
  induction ds generalizing l with
  | nil => rfl
  | cons d ds ih =>
    have hd := List.ne_of_not_mem_cons h
    rw [List.foldl_cons, List.foldl_cons, List.erase_cons_tail (by simpa using hd), ih (List.not_mem_of_not_mem_cons h)]

/-- Once every result that is due is taken out, those not due stay, in their order. -/
theorem foldl_erase_filter (p : Flight → Bool) (l : List Flight) : (l.filter p).foldl List.erase l = l.filter (fun f => !p f) := by
  induction l with
  | nil => rfl
  | cons f l ih =>
    cases hf : p f
    · rw [List.filter_cons_of_neg (by simp [hf]), List.filter_cons_of_pos (by simp [hf]), foldl_erase_cons (by simp [hf]), ih]
    · rw [List.filter_cons_of_pos hf, List.filter_cons_of_neg (by simp [hf]), List.foldl_cons, List.erase_cons_head, ih]

/-! ## One result lands (R69, R150, R268) -/

/-- The run of the vector engine has been stopped. -/
def vecStop (v : Vec) : Bool := match v.run with | some r => r.stop | none => false

/-- A result lands and leaves the flight. -/
def landOne (s : State) (a : Nat) (f : Flight) : State :=
  progress (modVec s a (fun v => { landFlight v f with flight := v.flight.erase f, unit := f.unit })) a

/-- A result that is due lands, and its tokens are pushed, held, or not made. -/
def landStep (s : State) (a : Nat) (f : Flight) : State :=
  if vecStop (tile s a).vec then landOne s a f else pushOrHold (landOne s a f) a .v f.push

theorem tile_landOne (s : State) (a : Nat) (f : Flight) : tile (landOne s a f) a = { tile s a with
    progress := true
    vec := { landFlight (tile s a).vec f with flight := (tile s a).vec.flight.erase f, unit := f.unit } } := by
  rw [landOne, tile_progress, tile_modVec_self]

theorem landDue_cons (s : State) (a : Nat) (f : Flight) (fs : List Flight) : landDue s a (f :: fs) =
    if (tile s a).vec.push.isNone ∧ f.due ≤ (tile s a).vec.slot then landDue (landStep s a f) a fs else landDue s a fs := by
  have hrun : vecStop (tile (modVec s a fun v => { landFlight v f with flight := v.flight.erase f, unit := f.unit }) a).vec =
      vecStop (tile s a).vec := by
    rw [tile_modVec_self]; rfl
  rw [landDue]
  split
  · rw [landStep, ← hrun]
    rfl
  · rfl

/-- While a push waits no result lands. -/
theorem landDue_held {s : State} {a : Nat} (h : (tile s a).vec.push ≠ none) (fs : List Flight) : landDue s a fs = s := by
  induction fs with
  | nil => rfl
  | cons f fs ih => rw [landDue_cons, if_neg (fun hc => h (Option.isNone_iff_eq_none.1 hc.1)), ih]

theorem slot_landStep (s : State) (a : Nat) (f : Flight) : (tile (landStep s a f) a).vec.slot = (tile s a).vec.slot := by
  rw [landStep]
  split
  · rw [tile_landOne]; rfl
  · rw [tile_pushOrHold_v, tile_landOne]
    split <;> rfl

theorem landDue_filter (s : State) (a : Nat) (fs : List Flight) :
    landDue s a fs = landDue s a (fs.filter (fun f => decide (f.due ≤ (tile s a).vec.slot))) := by
  induction fs generalizing s with
  | nil => rfl
  | cons f fs ih =>
    rw [landDue_cons, List.filter_cons]
    by_cases hdue : f.due ≤ (tile s a).vec.slot
    · rw [if_pos (decide_eq_true hdue), landDue_cons]
      split
      · rw [ih (landStep s a f), slot_landStep]
      · exact ih s
    · rw [if_neg (fun h => hdue h.2), if_neg (by simpa using hdue), ih s]

theorem pushInto_none (f : Fifos) : pushInto f Push.none = f := rfl

theorem roomFor_none (f : Fifos) : roomFor f Push.none = true := rfl

/-- From s to t results have landed in the vector engine: their writes stand, they have left the flight, and the FIFOs and the push that
waits are as given. -/
structure ResultsLanded (a : Nat) (s t : State) (fs : List Flight) (fifo : Fifos) (push : Option Push) : Prop where
  mem : t.mem = s.mem
  engine : ∃ p u, tile t a = { tile s a with
    progress := p
    fifo := fifo
    vec := { fs.foldl landFlight (tile s a).vec with flight := fs.foldl List.erase (tile s a).vec.flight, unit := u, push := push } }

/-- With nothing to push, or in a stopped run, every result that is due lands. -/
theorem landed_all {s : State} {a : Nat} (hpush : (tile s a).vec.push = none) {fs : List Flight}
    (hdue : ∀ f ∈ fs, f.due ≤ (tile s a).vec.slot) (hquiet : vecStop (tile s a).vec = true ∨ ∀ f ∈ fs, f.push = Push.none) :
    ResultsLanded a s (landDue s a fs) fs (tile s a).fifo none := by
  induction fs generalizing s with
  | nil => exact ⟨rfl, ⟨(tile s a).progress, (tile s a).vec.unit, by rw [← hpush]; rfl⟩⟩
  | cons f fs ih =>
    have hstep : tile (landStep s a f) a = tile (landOne s a f) a ∧ (landStep s a f).mem = s.mem := by
      rw [landStep]
      split
      · exact ⟨rfl, rfl⟩
      next hstop =>
        have hnone : f.push = Push.none := hquiet.resolve_left hstop f (List.mem_cons_self ..)
        rw [hnone, tile_pushOrHold_v, if_pos (roomFor_none _), pushInto_none]
        exact ⟨rfl, rfl⟩
    obtain ⟨htile, hmem⟩ := hstep
    rw [tile_landOne] at htile
    rw [landDue_cons, if_pos ⟨by rw [hpush]; rfl, hdue f (List.mem_cons_self ..)⟩]
    have hrest := ih (s := landStep s a f) (by rw [htile]; exact hpush) (fun g hg => by rw [htile]; exact hdue g (List.mem_cons_of_mem _ hg))
      (by rw [htile]; exact hquiet.imp id fun h g hg => h g (List.mem_cons_of_mem _ hg))
    obtain ⟨hmem', p, u, ht⟩ := hrest
    refine ⟨hmem'.trans hmem, ⟨p, u, ?_⟩⟩
    rw [ht, htile]
    dsimp only
    rw [foldl_landFlight_flight]
    rfl

/-- The push of a result that lands in a run that goes on is made where it has room, and is held where not. -/
theorem landed_pushed {s : State} {a : Nat} (hstop : vecStop (tile s a).vec = false) (f : Flight) :
    ResultsLanded a s (landStep s a f) [f]
      (if roomFor (tile s a).fifo f.push then pushInto (tile s a).fifo f.push else (tile s a).fifo)
      (if roomFor (tile s a).fifo f.push then (tile s a).vec.push else some f.push) := by
  have htile := tile_pushOrHold_v (landOne s a f) a f.push
  rw [tile_landOne] at htile
  have hs : landStep s a f = pushOrHold (landOne s a f) a .v f.push := by rw [landStep, hstop]; rfl
  have hmem : (pushOrHold (landOne s a f) a .v f.push).mem = s.mem := (onlyTile_pushOrHold_v _ _ _).mem
  rw [hs]
  refine ⟨hmem, ⟨true, f.unit, htile.trans ?_⟩⟩
  by_cases hroom : roomFor (tile s a).fifo f.push = true
  · rw [if_pos hroom, if_pos hroom, if_pos hroom]
    rfl
  · rw [if_neg hroom, if_neg hroom, if_neg hroom]
    rfl

/-- A run that retires leaves what has been written, the FIFOs and the push that waits. -/
theorem retire_keeps (s : State) (a : Nat) : (retire s a .v).mem = s.mem ∧ ∃ run draining core,
    tile (retire s a .v) a = { tile s a with vec := { (tile s a).vec with run := run, draining := draining }, core := core } := by
  simp only [retire]
  split
  · refine ⟨rfl, none, false, { core s a with latch := true }, ?_⟩
    rw [setLatch, modCore, tile_modTile_self, tile_modVec_self]
    rfl
  · exact ⟨rfl, (tile s a).vec.run, (tile s a).vec.draining, (tile s a).core, rfl⟩

/-- The flags, lanes and mask bits that results leave in the vector engine, and what else of the part they leave. -/
structure ResultsWritten (a : Nat) (s t : State) (fs : List Flight) : Prop where
  lanes : ∀ k, getAt 0 (tile t a).vec.v k =
    (((fs.flatMap (·.v)).filter (fun e => e.1 == k)).getLast?.map (·.2)).getD (getAt 0 (tile s a).vec.v k)
  masks : ∀ n l, n ≠ 0 → l < 64 → (getAt 0 (tile t a).vec.m n).getLsbD l =
    ((fs.filterMap (maskBit n l)).getLast?).getD ((getAt 0 (tile s a).vec.m n).getLsbD l)
  flags : (tile t a).vec.flags = fs.foldl (fun g f => g ||| f.flags) (tile s a).vec.flags
  mem : t.mem = s.mem
  pad : (tile t a).pad = (tile s a).pad

/-- What results leave once they have landed and a drained run has retired. -/
theorem written_of_landed {a : Nat} {s t : State} {fs : List Flight} {fifo : Fifos} {push : Option Push}
    (h : ResultsLanded a s t fs fifo push) : ResultsWritten a s (retire t a .v) fs ∧ (tile (retire t a .v) a).fifo = fifo ∧
      (tile (retire t a .v) a).vec.push = push ∧ (tile (retire t a .v) a).vec.flight = fs.foldl List.erase (tile s a).vec.flight := by
  obtain ⟨hmem, p, u, ht⟩ := h
  obtain ⟨hrmem, run, draining, c, hr⟩ := retire_keeps t a
  rw [hr, ht]
  refine ⟨⟨?_, ?_, ?_, hrmem.trans hmem, ?_⟩, rfl, rfl, rfl⟩
  · rw [hr, ht]
    exact getAt_landFlight_v fs (tile s a).vec
  · intro n l hn hl
    rw [hr, ht]
    exact foldl_eq_last (step := landFlight) (p := fun v => (getAt 0 v.m n).getLsbD l) (getLsbD_landFlight_m hn hl) fs (tile s a).vec
  · rw [hr, ht]
    exact flags_landFlight fs (tile s a).vec
  · rw [hr, ht]

theorem exec_vectorWriteback (a : Nat) (s : State) :
    exec (.vectorWriteback a) s = .next (retire (landDue s a (tile s a).vec.flight) a .v) := rfl

theorem vecStop_iff (v : Vec) : vecStop v = true ↔ ∃ r, v.run = some r ∧ r.stop = true := by
  unfold vecStop
  cases v.run <;> simp

/-- Settles O30: the results that are due land one by one, until a push has to wait. -/
theorem writebackWritesTheActiveLanes : Obligations.WritebackWritesTheActiveLanes := by
  unfold Obligations.WritebackWritesTheActiveLanes
  intro s a x due stopped lane bit writes
  have hwrites {t : State} {fs : List Flight} (h : ResultsWritten a s t fs) : writes t fs :=
    ⟨h.lanes, h.masks, h.flags, h.mem, h.pad⟩
  have hfilter : landDue s a x.flight = landDue s a due := landDue_filter s a x.flight
  have hdue : ∀ f ∈ due, f.due ≤ x.slot := fun f hf => of_decide_eq_true (List.mem_filter.1 hf).2
  refine ⟨_, exec_vectorWriteback a s, fun hpush hquiet => ?all, fun hpush hgoing f hf hroom => ?room, fun hpush hgoing f fs hf hroom => ?held,
    fun hpush => ?waiting⟩
  case all =>
    have hland := landed_all (s := s) (a := a) hpush hdue (hquiet.imp (vecStop_iff x).2 id)
    rw [← hfilter] at hland
    obtain ⟨hw, hfifo, hp, hflight⟩ := written_of_landed hland
    exact ⟨hwrites hw, hfifo, hp, hflight.trans (foldl_erase_filter ..)⟩
  case room =>
    have hland := landed_pushed (s := s) (a := a) (Bool.eq_false_iff.2 fun h => hgoing ((vecStop_iff x).1 h)) f
    rw [if_pos hroom, if_pos hroom] at hland
    have hone : landDue s a x.flight = landStep s a f := by
      rw [hfilter, hf, landDue_cons, if_pos ⟨by rw [show (tile s a).vec.push = none from hpush]; rfl, hdue f (by rw [hf]; simp)⟩]
      rfl
    rw [← hone] at hland
    obtain ⟨hw, hfifo, hp, hflight⟩ := written_of_landed hland
    exact ⟨hwrites hw, hfifo, hp.trans hpush, hflight⟩
  case held =>
    have hland := landed_pushed (s := s) (a := a) (Bool.eq_false_iff.2 fun h => hgoing ((vecStop_iff x).1 h)) f
    have hno : ¬ roomFor (tile s a).fifo f.push = true := by rw [hroom]; decide
    rw [if_neg hno, if_neg hno] at hland
    have hheld : (tile (landStep s a f) a).vec.push = some f.push := by
      obtain ⟨-, p, u, ht⟩ := hland
      rw [ht]
    have hone : landDue s a x.flight = landStep s a f := by
      rw [hfilter, hf, landDue_cons, if_pos ⟨by rw [show (tile s a).vec.push = none from hpush]; rfl, hdue f (by rw [hf]; simp)⟩,
        landDue_held (by rw [hheld]; exact Option.some_ne_none _)]
    rw [← hone] at hland
    obtain ⟨hw, hfifo, hp, hflight⟩ := written_of_landed hland
    exact ⟨hwrites hw, hfifo, hp, hflight⟩
  case waiting =>
    have hland : ResultsLanded a s (landDue s a x.flight) [] (tile s a).fifo x.push := by
      rw [landDue_held hpush]
      exact ⟨rfl, ⟨(tile s a).progress, x.unit, rfl⟩⟩
    obtain ⟨hw, -, hp, hflight⟩ := written_of_landed hland
    exact ⟨hwrites hw, hp, hflight⟩

end Sys2Proof.Machine
end

section
/-! PROOFS. Rounding to a spacing, and to a floating format (R29 to R31, R42 to R44). -/

namespace Sys2Proof.Machine

/-! ## Powers of two with signed exponents -/

theorem pow2_pos (k : Int) : 0 < pow2 k := Nat.two_pow_pos _

/-- The two natural powers that stand for one signed exponent. -/
theorem pow2_div_pow2 (k : Int) : (pow2 k : ℚ) / pow2 (-k) = 2 ^ k := by
  obtain h | h := le_total 0 k
  · lift k to ℕ using h
    simp [pow2]
  · obtain ⟨n, hn⟩ := Int.eq_ofNat_of_zero_le (show 0 ≤ -k by omega)
    obtain rfl : k = -(n : Int) := by omega
    simp [pow2]

theorem pow2_of_nonneg {k : Int} (h : 0 ≤ k) : (pow2 k : ℚ) = 2 ^ k := by
  lift k to ℕ using h
  simp [pow2]

/-- A fraction scaled by a power of two, as the quotient of two natural numbers. -/
theorem scaled_div (n d : Nat) (k : Int) : ((n * pow2 k : Nat) : ℚ) / (d * pow2 (-k) : Nat) = n / d * 2 ^ k := by
  push_cast
  rw [mul_div_mul_comm, pow2_div_pow2]

/-! ## The exponent of a magnitude (R42) -/

/-- The exponent is the one power of two that a magnitude reaches without its double. -/
theorem log_eq_of_bounds {a : ℚ} {x : Int} (hlow : (2 : ℚ) ^ x ≤ a) (hhigh : a < 2 ^ (x + 1)) : Int.log 2 a = x := by
  have ha : 0 < a := lt_of_lt_of_le (by positivity) hlow
  have h1 : x ≤ Int.log 2 a := (Int.zpow_le_iff_le_log (b := 2) (by norm_num) ha).1 (by exact_mod_cast hlow)
  have h2 : Int.log 2 a < x + 1 := (Int.lt_zpow_iff_log_lt (b := 2) (by norm_num) ha).1 (by exact_mod_cast hhigh)
  omega

theorem natLog2_bounds {n : Nat} (hn : n ≠ 0) : (2 : ℚ) ^ (Nat.log2 n : Int) ≤ n ∧ (n : ℚ) < 2 ^ ((Nat.log2 n : Int) + 1) := by
  constructor
  · rw [zpow_natCast]; exact_mod_cast Nat.log2_self_le hn
  · exact_mod_cast (Nat.lt_log2_self (n := n))

theorem log2Q_bounds {n d : Nat} (hn : n ≠ 0) (hd : d ≠ 0) : (2 : ℚ) ^ log2Q n d ≤ n / d ∧ (n : ℚ) / d < 2 ^ (log2Q n d + 1) := by
  obtain ⟨hn1, hn2⟩ := natLog2_bounds hn
  obtain ⟨hd1, hd2⟩ := natLog2_bounds hd
  have hd0 : (0 : ℚ) < d := by positivity
  set k : Int := (Nat.log2 n : Int) - Nat.log2 d with hk
  have hcond : d * pow2 k ≤ n * pow2 (-k) ↔ (2 : ℚ) ^ k ≤ n / d := by
    have hp : (0 : ℚ) < pow2 (-k) := by exact_mod_cast pow2_pos _
    rw [← pow2_div_pow2, div_le_div_iff₀ hp hd0, mul_comm (pow2 k : ℚ)]
    exact_mod_cast Iff.rfl
  have hupper : (n : ℚ) / d < 2 ^ (k + 1) := by
    rw [div_lt_iff₀ hd0]
    calc (n : ℚ) < 2 ^ ((Nat.log2 n : Int) + 1) := hn2
      _ = 2 ^ (k + 1) * 2 ^ (Nat.log2 d : Int) := by rw [← zpow_add₀ (by norm_num)]; congr 1; omega
      _ ≤ 2 ^ (k + 1) * d := by gcongr
  have hlower : (2 : ℚ) ^ (k - 1) ≤ n / d := by
    rw [le_div_iff₀ hd0]
    calc (2 : ℚ) ^ (k - 1) * d ≤ 2 ^ (k - 1) * 2 ^ ((Nat.log2 d : Int) + 1) := by gcongr
      _ = 2 ^ (Nat.log2 n : Int) := by rw [← zpow_add₀ (by norm_num)]; congr 1; omega
      _ ≤ n := hn1
  rw [log2Q, ← hk]
  split
  next h => exact ⟨hcond.1 h, hupper⟩
  next h =>
    refine ⟨hlower, ?_⟩
    rw [sub_add_cancel]
    exact lt_of_not_ge fun hle => h (hcond.2 hle)

/-- The model's exponent of n/d × 2^e. -/
theorem log2Q_add_eq_log {n d : Nat} (hn : n ≠ 0) (hd : d ≠ 0) (e : Int) : log2Q n d + e = Int.log 2 ((n : ℚ) / d * 2 ^ e) := by
  obtain ⟨hlow, hhigh⟩ := log2Q_bounds hn hd
  refine (log_eq_of_bounds ?_ ?_).symm
  · rw [zpow_add₀ (by norm_num)]
    gcongr
  · rw [add_right_comm, zpow_add₀ (by norm_num)]
    gcongr

/-! ## Rounding to a spacing (R42) -/

section
variable {a q : ℚ} {num den : Nat} (hq : 0 < q) (hden : 0 < den) (h : a / q = num / den)
include h

theorem floor_eq_div : ⌊a / q⌋₊ = num / den := by rw [h, Nat.floor_div_eq_div]

include hden

/-- What is left over a multiple of the spacing. -/
theorem fraction_eq : a / q - (⌊a / q⌋₊ : ℕ) = (num % den : Nat) / den := by
  have hd : (den : ℚ) ≠ 0 := by positivity
  rw [floor_eq_div h, h, eq_div_iff hd, sub_mul, div_mul_cancel₀ _ hd, sub_eq_iff_eq_add]
  exact_mod_cast (Nat.mod_add_div' num den).symm

/-- Rounding by quotient and remainder. -/
theorem rounded_eq (mode : RMode) (u : Nat) : rounded mode u a q =
    if num % den != 0 && roundsUp mode u (num / den) (num % den) den then num / den + 1 else num / den := by
  have hd : (0 : ℚ) < den := by positivity
  have hfrac := fraction_eq hden h
  have hup : ((mode = .rne ∧ (1 / 2 < a / q - (⌊a / q⌋₊ : ℕ) ∨ (a / q - (⌊a / q⌋₊ : ℕ) = 1 / 2 ∧ ⌊a / q⌋₊ % 2 = 1))) ∨
      (mode = .sr ∧ (u : ℤ) < ⌊(a / q - (⌊a / q⌋₊ : ℕ)) * 2 ^ 32⌋)) ↔
      (num % den != 0 && roundsUp mode u (num / den) (num % den) den) = true := by
    rw [hfrac, floor_eq_div h]
    generalize num % den = r
    generalize num / den = k
    cases mode
    case rne =>
      have h1 : (1 / 2 : ℚ) < r / den ↔ den < 2 * r := by
        rw [lt_div_iff₀ hd, div_mul_eq_mul_div, one_mul, div_lt_iff₀ (by norm_num), mul_comm (r : ℚ)]
        exact_mod_cast Iff.rfl
      have h2 : (r : ℚ) / den = 1 / 2 ↔ 2 * r = den := by
        rw [div_eq_div_iff hd.ne' (by norm_num), mul_comm (r : ℚ), one_mul]
        exact_mod_cast Iff.rfl
      simp only [roundsUp, h1, h2, true_and, Bool.and_eq_true, bne_iff_ne, Bool.or_eq_true, decide_eq_true_eq, beq_iff_eq,
        reduceCtorEq, false_and, or_false]
      omega
    case rtz => simp [roundsUp]
    case sr =>
      have h1 : ⌊(r : ℚ) / den * 2 ^ 32⌋ = ((r * 2 ^ 32 / den : Nat) : ℤ) := by
        rw [div_mul_eq_mul_div]
        exact_mod_cast Rat.floor_natCast_div_natCast (r * 2 ^ 32) den
      rw [h1]
      simp only [roundsUp, reduceCtorEq, false_and, true_and, false_or, Bool.and_eq_true, bne_iff_ne, decide_eq_true_eq, Nat.cast_lt]
      refine ⟨fun hu => ⟨?_, hu⟩, And.right⟩
      rintro rfl
      simp at hu
  unfold rounded
  dsimp only
  rw [if_congr hup rfl rfl, floor_eq_div h]

include hq in
theorem inexact_iff : Inexact a q ↔ num % den ≠ 0 := by
  have hd : (den : ℚ) ≠ 0 := by positivity
  rw [Inexact, not_iff_not.symm, not_not, not_not]
  have hfrac := fraction_eq hden h
  constructor
  · intro heq
    have h0 : a / q - (⌊a / q⌋₊ : ℕ) = 0 := by rw [sub_eq_zero, div_eq_iff hq.ne', heq]
    rw [hfrac, div_eq_zero_iff] at h0
    exact_mod_cast h0.resolve_right hd
  · intro heq
    rw [heq, Nat.cast_zero, zero_div, sub_eq_zero, div_eq_iff hq.ne'] at hfrac
    exact hfrac.symm

end

end Sys2Proof.Machine
end

section
/-! PROOFS. The codes of a floating format by their magnitudes, and rounding to them (R29 to R31, R42 to R44). -/

namespace Sys2Proof.Machine

/-! ## Magnitudes (R30) -/

/-- The magnitude that a code without its sign stands for: exponent field c / 2^m, fraction c % 2^m. -/
def magnitude (m bias c : Nat) : ℚ :=
  ((c % 2 ^ m + if c / 2 ^ m = 0 then 0 else 2 ^ m : Nat) : ℚ) * 2 ^ ((max (c / 2 ^ m) 1 : Nat) - (bias : Int) - m)

/-- A code by its fields. -/
theorem magnitude_fields {m bias E F : Nat} (hF : F < 2 ^ m) : magnitude m bias (E * 2 ^ m + F) =
    ((F + if E = 0 then 0 else 2 ^ m : Nat) : ℚ) * 2 ^ ((max E 1 : Nat) - (bias : Int) - m) := by
  have hdiv : (E * 2 ^ m + F) / 2 ^ m = E := by rw [Nat.mul_comm, Nat.mul_add_div (Nat.two_pow_pos m), Nat.div_eq_of_lt hF, Nat.add_zero]
  have hmod : (E * 2 ^ m + F) % 2 ^ m = F := by rw [Nat.mul_comm, Nat.mul_add_mod, Nat.mod_eq_of_lt hF]
  rw [magnitude, hdiv, hmod]

/-- The smallest magnitude of each exponent field above zero. -/
theorem magnitude_start (m bias E : Nat) : magnitude m bias ((E + 1) * 2 ^ m) = (2 : ℚ) ^ ((E : Int) + 1 - bias) := by
  have h := magnitude_fields (m := m) (bias := bias) (E := E + 1) (Nat.two_pow_pos m)
  rw [Nat.add_zero, Nat.zero_add, if_neg (Nat.succ_ne_zero E), Nat.max_eq_left (by omega), Nat.cast_pow, Nat.cast_ofNat, ← zpow_natCast,
    ← zpow_add₀ (by norm_num)] at h
  rw [h]
  congr 1
  push_cast
  ring

/-- Codes rise with their magnitudes. -/
theorem magnitude_strictMono (m bias : Nat) : StrictMono (magnitude m bias) := by
  refine strictMono_nat_of_lt_succ fun c => ?_
  obtain ⟨E, F, hF, rfl⟩ : ∃ E F, F < 2 ^ m ∧ c = E * 2 ^ m + F :=
    ⟨c / 2 ^ m, c % 2 ^ m, Nat.mod_lt _ (Nat.two_pow_pos m), (Nat.div_add_mod' ..).symm⟩
  obtain h | h := lt_or_ge (F + 1) (2 ^ m)
  · rw [Nat.add_assoc, magnitude_fields hF, magnitude_fields h]
    gcongr
    omega
  · have hF1 : F + 1 = 2 ^ m := by omega
    have hnext : E * 2 ^ m + F + 1 = (E + 1) * 2 ^ m := by rw [Nat.add_assoc, hF1, Nat.succ_mul]
    rw [hnext, magnitude_start, magnitude_fields hF]
    cases E with
    | zero =>
      calc ((F + if 0 = 0 then 0 else 2 ^ m : Nat) : ℚ) * 2 ^ ((max 0 1 : Nat) - (bias : Int) - m)
          < ((2 ^ m : Nat) : ℚ) * 2 ^ ((max 0 1 : Nat) - (bias : Int) - m) := by gcongr; simpa using hF
        _ = 2 ^ (((0 : Nat) : Int) + 1 - bias) := by
          rw [Nat.cast_pow, Nat.cast_ofNat, ← zpow_natCast, ← zpow_add₀ (by norm_num), show max 0 1 = 1 from rfl]
          congr 1
          push_cast
          ring
    | succ E =>
      calc ((F + if E + 1 = 0 then 0 else 2 ^ m : Nat) : ℚ) * 2 ^ ((max (E + 1) 1 : Nat) - (bias : Int) - m)
          < ((2 ^ (m + 1) : Nat) : ℚ) * 2 ^ ((max (E + 1) 1 : Nat) - (bias : Int) - m) := by
            gcongr
            rw [if_neg (Nat.succ_ne_zero E), Nat.pow_succ]
            omega
        _ = 2 ^ (((E + 1 : Nat) : Int) + 1 - bias) := by
          rw [Nat.cast_pow, Nat.cast_ofNat, ← zpow_natCast, ← zpow_add₀ (by norm_num), Nat.max_eq_left (by omega)]
          congr 1
          push_cast
          ring

/-- The code of k units of 2^x, x the unit of the normal range or, below it, of the subnormal range. -/
def codeOf (m bias : Nat) (x : Int) (k : Nat) : Nat := if k < 2 ^ m then k else (x + m + bias).toNat * 2 ^ m + (k - 2 ^ m)

theorem magnitude_codeOf {m bias k : Nat} {x : Int} (hx : 1 - (bias : Int) - m ≤ x) (hk : k ≤ 2 ^ (m + 1))
    (hsub : k < 2 ^ m → x = 1 - (bias : Int) - m) : magnitude m bias (codeOf m bias x k) = k * 2 ^ x := by
  rw [codeOf]
  split
  next h =>
    have hm := magnitude_fields (m := m) (bias := bias) (E := 0) h
    rw [Nat.zero_mul, Nat.zero_add] at hm
    rw [hm, hsub h]
    simp
  next h =>
    obtain ⟨E, hE⟩ := Int.eq_ofNat_of_zero_le (show 0 ≤ x + m + bias - 1 by omega)
    rw [show (x + m + bias).toNat = E + 1 by omega]
    obtain hlt | heq := Nat.lt_or_eq_of_le hk
    · have hF : k - 2 ^ m < 2 ^ m := by rw [Nat.pow_succ] at hlt; omega
      rw [magnitude_fields hF, if_neg (Nat.succ_ne_zero E), Nat.max_eq_left (by omega), Nat.sub_add_cancel (by omega)]
      congr 2
      push_cast
      omega
    · rw [heq, show 2 ^ (m + 1) - 2 ^ m = 2 ^ m by rw [Nat.pow_succ]; omega, ← Nat.succ_mul, magnitude_start, Nat.cast_pow, Nat.cast_ofNat,
        ← zpow_natCast, ← zpow_add₀ (by norm_num)]
      congr 1
      push_cast
      omega

/-! ## Rounding (R42 to R44) -/

/-- The magnitude of n/d × 2^e, the spacing it is rounded to, and the multiple of it that is taken. -/
def magOf (n d : Nat) (e : Int) : ℚ := (n : ℚ) / d * 2 ^ e
def spacing (m bias : Nat) (a : ℚ) : ℚ := 2 ^ (max (Int.log 2 a) ((1 : ℤ) - bias) - m)

theorem floor_le_rounded (mode : RMode) (u : Nat) (a q : ℚ) : ⌊a / q⌋₊ ≤ rounded mode u a q ∧ rounded mode u a q ≤ ⌊a / q⌋₊ + 1 := by
  unfold rounded
  dsimp only
  split <;> omega

/-- The multiple that is taken reaches a power of two with the magnitude, and does not pass one that the magnitude does not reach. -/
theorem rounded_pow {a : ℚ} {x : Int} (ha : 0 < a) (mode : RMode) (u j : Nat) :
    ((2 : ℚ) ^ (x + j) ≤ a → 2 ^ j ≤ rounded mode u a (2 ^ x)) ∧ (a < 2 ^ (x + j) → rounded mode u a (2 ^ x) ≤ 2 ^ j) := by
  have hq : (0 : ℚ) < 2 ^ x := by positivity
  have hpow : (2 : ℚ) ^ (x + j) = ((2 ^ j : Nat) : ℚ) * 2 ^ x := by rw [zpow_add₀ (by norm_num), mul_comm]; push_cast; rw [zpow_natCast]
  obtain ⟨hlow, hhigh⟩ := floor_le_rounded mode u a (2 ^ x)
  refine ⟨fun h => le_trans ?_ hlow, fun h => le_trans hhigh ?_⟩
  · rw [hpow, ← le_div_iff₀ hq] at h
    exact Nat.le_floor h
  · rw [hpow, ← div_lt_iff₀ hq] at h
    exact (Nat.floor_lt (by positivity)).2 h

/-- Rounding to a floating format goes to the code whose magnitude is the multiple of the spacing that R42 takes, unless that is beyond the
largest finite one. -/
theorem roundF_num (p : FFmt) (hmax : 2 ^ p.m ≤ p.max) (mode : RMode) (u : Nat) {n d : Nat} (hn : n ≠ 0) (hd : d ≠ 0) (neg : Bool) (e : Int) :
    let a := magOf n d e
    let q := spacing p.m p.bias a
    let out := roundF p mode u (.num neg n d e)
    ∃ c, magnitude p.m p.bias c = rounded mode u a q * q ∧
      (p.max < c → out = (if p.inf && mode == .rne then withSign p neg (infCode p) else withSign p neg p.max, OF ||| NX)) ∧
      (c ≤ p.max → out.1 = withSign p neg c ∧ (¬Inexact a q → out.2 = 0) ∧
        (Inexact a q → out.2 = if a < 2 ^ ((1 : ℤ) - p.bias) then NX ||| UF else NX)) := by
  intro a q out
  have hlog : log2Q n d + e = Int.log 2 a := log2Q_add_eq_log hn hd e
  have ha : 0 < a := by simp only [a, magOf]; positivity
  have hsmall : log2Q n d + e < 1 - (p.bias : Int) ↔ a < 2 ^ ((1 : ℤ) - p.bias) := by
    rw [hlog]
    exact_mod_cast (Int.lt_zpow_iff_log_lt (b := 2) (by norm_num) ha).symm
  obtain ⟨x, hx⟩ : ∃ x : Int, x = max (log2Q n d + e) (1 - (p.bias : Int)) - p.m := ⟨_, rfl⟩
  have hqx : q = 2 ^ x := by rw [hx, hlog]; rfl
  have hq0 : 0 < q := by rw [hqx]; positivity
  have hden0 : 0 < d * pow2 (x - e) := Nat.mul_pos (Nat.pos_of_ne_zero hd) (pow2_pos _)
  have hdiv : a / q = (n * pow2 (e - x) : Nat) / (d * pow2 (x - e) : Nat) := by
    rw [← neg_sub e x, scaled_div, hqx, zpow_sub₀ (by norm_num), ← mul_div_assoc]
    rfl
  have hround := rounded_eq hden0 hdiv mode u
  have hinexact := inexact_iff hq0 hden0 hdiv
  have hout : out = roundF p mode u (.num neg n d e) := rfl
  simp only [roundF, if_neg hn, ← hx] at hout
  rw [← hround] at hout
  have hk : rounded mode u a q ≤ 2 ^ (p.m + 1) := by
    rw [hqx]
    refine (rounded_pow ha mode u _).2 (lt_of_lt_of_le (Int.lt_zpow_succ_log_self (b := 2) (by norm_num) a) ?_)
    rw [Nat.cast_ofNat]
    exact zpow_le_zpow_right₀ (by norm_num) (by push_cast; omega)
  have hsub (h : rounded mode u a q < 2 ^ p.m) : x = 1 - (p.bias : Int) - p.m := by
    by_contra hne
    refine absurd h (not_lt.2 ?_)
    rw [hqx]
    refine (rounded_pow ha mode u _).1 (le_trans ?_ (Int.zpow_log_le_self (b := 2) (by norm_num) ha))
    rw [Nat.cast_ofNat]
    exact zpow_le_zpow_right₀ (by norm_num) (by omega)
  have hcode (h : a < 2 ^ ((1 : ℤ) - p.bias)) : codeOf p.m p.bias x (rounded mode u a q) ≤ p.max := by
    have hx' : x + p.m = 1 - (p.bias : Int) := by have := hsmall.2 h; omega
    have hle : rounded mode u a q ≤ 2 ^ p.m := by
      rw [hqx]
      exact (rounded_pow ha mode u _).2 (by rwa [hx'])
    rw [codeOf]
    split
    · omega
    · rw [show (x + p.m + p.bias).toNat = 1 by omega]
      omega
  refine ⟨codeOf p.m p.bias x (rounded mode u a q), ?_, fun hover => ?_, fun hfits => ?_⟩
  · rw [magnitude_codeOf (by omega) hk hsub, hqx]
  · have hbig : ¬ a < 2 ^ ((1 : ℤ) - p.bias) := fun h => absurd (hcode h) (not_le.2 hover)
    rw [codeOf] at hover
    rw [hout, if_pos hover, if_neg (fun h => hbig (hsmall.1 h))]
    refine Prod.ext rfl ?_
    change (if _ then (0 : Flags) else NX) ||| OF ||| NX = OF ||| NX
    split <;> decide
  · have hno : ¬ p.max < codeOf p.m p.bias x (rounded mode u a q) := not_lt.2 hfits
    rw [codeOf] at hno
    rw [hout, if_neg hno]
    refine ⟨rfl, fun h => ?_, fun h => ?_⟩
    · rw [hinexact, not_not] at h
      exact if_pos h
    · rw [hinexact] at h
      simp only [if_neg h, hsmall]

end Sys2Proof.Machine
end

section
/-! PROOFS. The number formats: what their codes stand for, and what rounding to them gives (R28 to R32, R42 to R44). -/

namespace Sys2Proof.Machine

/-! ## The floating formats (R29, R31, R32) -/

/-- A floating format's parameters as the model has them. -/
def Floating.fmt (f : Floating) : FFmt := ⟨f.e, f.m, f.bias, f.maxCode, f.inf, f.nan⟩

/-- What the formats of R29 have in common, beside their parameters. -/
structure FloatTable (f : Floating) : Prop where
  fmt : ffmt f.code = some f.fmt
  normal : 2 ^ f.m ≤ f.maxCode
  fits : f.maxCode < 2 ^ (f.e + f.m)
  infinity : f.inf = true → f.maxCode + 1 = (2 ^ f.e - 1) * 2 ^ f.m
  nan : f.nan.isSome = true ∧ f.inf = false ↔ f.code = E4M3
  e4m3 : f.code = E4M3 → f.e = 4 ∧ f.m = 3 ∧ f.maxCode = 0x7E
  finite : f.maxFinite = magnitude f.m f.bias f.maxCode

theorem floatTable {f : Floating} (hf : f ∈ floats) : FloatTable f := by
  simp only [floats, List.mem_cons, List.not_mem_nil, or_false] at hf
  obtain rfl | rfl | rfl | rfl | rfl | rfl | rfl | rfl := hf
  all_goals exact ⟨rfl, by decide, by decide, by decide, by decide, by decide, by norm_num [magnitude]⟩

section
variable {f : Floating} (hf : FloatTable f)
include hf

theorem value_eq_valueF (b : Nat) : value f.code b = valueF f.fmt b := by rw [value, hf.fmt]

theorem convert_eq_roundF (mode : RMode) (u : Nat) (x : Val) : convert f.code mode u x = roundF f.fmt mode u x := by rw [convert, hf.fmt]

end

theorem stands_num (neg : Bool) (n : Nat) (x : Int) : Stands (.num neg n 1 x) neg ((n : ℚ) * 2 ^ x) :=
  ⟨n, 1, x, rfl, one_ne_zero, by rw [Nat.cast_one, div_one]⟩

/-- R30: what the codes of a floating format stand for. -/
theorem value_floats {f : Floating} (hf : FloatTable f) {b : Nat} (hb : b < 2 ^ (1 + f.e + f.m)) :
    let neg := decide (2 ^ (f.e + f.m) ≤ b)
    let E := b / 2 ^ f.m % 2 ^ f.e
    let F := b % 2 ^ f.m
    if (f.inf = true ∧ E = 2 ^ f.e - 1 ∧ F ≠ 0) ∨ (f.code = E4M3 ∧ E = 15 ∧ F = 7) then value f.code b = .nan
    else if f.inf = true ∧ E = 2 ^ f.e - 1 then value f.code b = .inf neg
    else if E = 0 then Stands (value f.code b) neg ((F : ℚ) * 2 ^ ((1 : ℤ) - f.bias - f.m))
    else Stands (value f.code b) neg ((2 ^ f.m + F : ℚ) * 2 ^ ((E : ℤ) - f.bias - f.m)) := by
  intro neg E F
  have hsign : bitOf b (f.e + f.m) = neg := by
    have hlt : b / 2 ^ (f.e + f.m) < 2 := by
      rw [Nat.div_lt_iff_lt_mul (Nat.two_pow_pos _), ← Nat.pow_succ', show (f.e + f.m).succ = 1 + f.e + f.m by omega]
      exact hb
    have hone : b / 2 ^ (f.e + f.m) = 1 ↔ 2 ^ (f.e + f.m) ≤ b := by
      rw [← Nat.one_le_div_iff (Nat.two_pow_pos _)]
      omega
    rw [bitOf, Nat.mod_eq_of_lt hlt, beq_eq_decide]
    exact decide_eq_decide.2 hone
  have hnan : (f.nan.isSome && !f.inf && E == 2 ^ f.e - 1 && F == 2 ^ f.m - 1) = true ↔ f.code = E4M3 ∧ E = 15 ∧ F = 7 := by
    simp only [Bool.and_eq_true, Bool.not_eq_true', beq_iff_eq, hf.nan, and_assoc]
    refine and_congr_right fun h => ?_
    obtain ⟨he, hm, -⟩ := hf.e4m3 h
    rw [he, hm]
    exact Iff.rfl
  have hvalue : value f.code b = if f.inf && E == 2 ^ f.e - 1 && F == 0 then .inf neg else if f.inf && E == 2 ^ f.e - 1 then .nan
      else if f.nan.isSome && !f.inf && E == 2 ^ f.e - 1 && F == 2 ^ f.m - 1 then .nan
      else if E = 0 then .num neg F 1 (1 - (f.bias : Int) - f.m) else .num neg (2 ^ f.m + F) 1 ((E : Int) - f.bias - f.m) := by
    rw [value_eq_valueF hf, ← hsign]
    rfl
  rw [hvalue]
  by_cases htop : f.inf = true ∧ E = 2 ^ f.e - 1
  · obtain ⟨hinf, hE⟩ := htop
    by_cases hF : F = 0
    · simp [hinf, hE, hF]
    · simp [hinf, hE, hF]
  · have htop' : (f.inf && E == 2 ^ f.e - 1) = false := by simpa using htop
    have hpos : ¬ (f.inf = true ∧ E = 2 ^ f.e - 1 ∧ F ≠ 0) := fun h => htop ⟨h.1, h.2.1⟩
    simp only [htop', Bool.false_and, Bool.false_eq_true, if_false, hpos, false_or, if_neg htop, hnan]
    by_cases h4 : f.code = E4M3 ∧ E = 15 ∧ F = 7
    · rw [if_pos h4, if_pos h4]
    · rw [if_neg h4, if_neg h4]
      by_cases hE : E = 0
      · rw [if_pos hE, if_pos hE]
        exact stands_num ..
      · rw [if_neg hE, if_neg hE]
        exact_mod_cast stands_num neg (2 ^ f.m + F) _

/-- A finite code with a sign stands for its magnitude. -/
theorem value_withSign {f : Floating} (hf : FloatTable f) {c : Nat} (hc : c ≤ f.maxCode) (neg : Bool) :
    withSign f.fmt neg c < 2 ^ (1 + f.e + f.m) ∧ Stands (value f.code (withSign f.fmt neg c)) neg (magnitude f.m f.bias c) := by
  have hlt : c < 2 ^ (f.e + f.m) := lt_of_le_of_lt hc hf.fits
  have hpow : 2 ^ (1 + f.e + f.m) = 2 * 2 ^ (f.e + f.m) := by rw [Nat.add_assoc, Nat.pow_add, Nat.pow_one]
  obtain ⟨b, hb⟩ : ∃ b, b = withSign f.fmt neg c := ⟨_, rfl⟩
  have hb' : b = c + natOf neg * 2 ^ (f.e + f.m) := hb
  have hblt : b < 2 ^ (1 + f.e + f.m) := by cases neg <;> simp only [natOf] at hb' <;> simp at hb' <;> omega
  have hneg : decide (2 ^ (f.e + f.m) ≤ b) = neg := by
    cases neg <;> simp [natOf] at hb' ⊢ <;> omega
  have hE : b / 2 ^ f.m % 2 ^ f.e = c / 2 ^ f.m := by
    rw [hb', Nat.pow_add, ← Nat.mul_assoc, Nat.add_mul_div_right _ _ (Nat.two_pow_pos _), Nat.add_mul_mod_self_right]
    exact Nat.mod_eq_of_lt ((Nat.div_lt_iff_lt_mul (Nat.two_pow_pos _)).2 (by rwa [← Nat.pow_add]))
  have hF : b % 2 ^ f.m = c % 2 ^ f.m := by
    rw [hb', Nat.pow_add, ← Nat.mul_assoc, Nat.add_mul_mod_self_right]
  have hv := value_floats hf hblt
  rw [hneg, hE, hF] at hv
  have htop : ¬ (f.inf = true ∧ c / 2 ^ f.m = 2 ^ f.e - 1) := fun ⟨hinf, h⟩ => by
    have hmax := hf.infinity hinf
    have : c / 2 ^ f.m < 2 ^ f.e - 1 := (Nat.div_lt_iff_lt_mul (Nat.two_pow_pos _)).2 (by omega)
    omega
  have h4 : ¬ (f.code = E4M3 ∧ c / 2 ^ f.m = 15 ∧ c % 2 ^ f.m = 7) := fun ⟨hcode, h1, h2⟩ => by
    obtain ⟨-, hm, hmax⟩ := hf.e4m3 hcode
    rw [hm] at h1 h2
    omega
  rw [if_neg (fun h => h.elim (fun h => htop ⟨h.1, h.2.1⟩) h4), if_neg htop] at hv
  rw [← hb]
  refine ⟨hblt, ?_⟩
  rw [magnitude]
  by_cases h0 : c / 2 ^ f.m = 0
  · rw [if_pos h0] at hv ⊢
    rw [h0]
    exact_mod_cast hv
  · rw [if_neg h0] at hv ⊢
    rw [Nat.max_eq_left (Nat.pos_of_ne_zero h0), Nat.add_comm]
    exact_mod_cast hv

theorem withSign_eq (f : Floating) (neg : Bool) (c : Nat) : withSign f.fmt neg c = c + if neg then 2 ^ (f.e + f.m) else 0 := by
  cases neg
  · rw [withSign, natOf, if_neg (by decide), Nat.zero_mul, if_neg (by decide)]
  · rw [withSign, natOf, if_pos rfl, Nat.one_mul, if_pos rfl]
    rfl

/-- R42 to R44: what rounding to a floating format gives. -/
theorem convert_floats {f : Floating} (hf : FloatTable f) (mode : RMode) (u n : Nat) {d : Nat} (neg : Bool) (e : Int) (hd : d ≠ 0) :
    let a : ℚ := (n : ℚ) / d * 2 ^ e
    let least : ℚ := 2 ^ ((1 : ℤ) - f.bias)
    let q : ℚ := 2 ^ (max (Int.log 2 a) ((1 : ℤ) - f.bias) - f.m)
    let k := rounded mode u a q
    let sign := if neg then 2 ^ (f.e + f.m) else 0
    let out := convert f.code mode u (.num neg n d e)
    (n = 0 → out = (sign, 0)) ∧
    (n ≠ 0 → f.maxFinite < k * q →
      out = ((if f.inf = true ∧ mode = .rne then (2 ^ f.e - 1) * 2 ^ f.m else f.maxCode) + sign, OF ||| NX)) ∧
    (n ≠ 0 → k * q ≤ f.maxFinite → out.1 < 2 ^ (1 + f.e + f.m) ∧ Stands (value f.code out.1) neg (k * q) ∧
      (¬Inexact a q → out.2 = 0) ∧ (Inexact a q → out.2 = if a < least then NX ||| UF else NX)) ∧
    convert f.code mode u .nan = (match f.nan with | some c => (c, 0) | none => (0, NV)) ∧
    convert f.code mode u (.inf neg) = (if f.inf then ((2 ^ f.e - 1) * 2 ^ f.m + sign, 0) else (f.maxCode + sign, SAT)) := by
  intro a least q k sign out
  have hout : out = roundF f.fmt mode u (.num neg n d e) := convert_eq_roundF hf ..
  have hmono := magnitude_strictMono f.m f.bias
  refine ⟨fun hn => ?zero, fun hn hover => ?overflow, fun hn hfits => ?fits, convert_eq_roundF hf .., ?inf⟩
  case zero =>
    rw [hout, hn]
    simp only [roundF, if_true, withSign_eq, Nat.zero_add]
    rfl
  case overflow =>
    obtain ⟨c, hc, hbig, -⟩ := roundF_num f.fmt hf.normal mode u hn hd neg e
    have hcmax : f.maxCode < c := by
      rw [hf.finite] at hover
      exact hmono.lt_iff_lt.1 (hover.trans_eq hc.symm)
    rw [hout, hbig hcmax, withSign_eq, withSign_eq]
    by_cases h : f.inf = true ∧ mode = .rne
    · rw [if_pos h, if_pos (by rw [Bool.and_eq_true, beq_iff_eq]; exact h)]
      rfl
    · rw [if_neg h, if_neg (by rw [Bool.and_eq_true, beq_iff_eq]; exact h)]
      rfl
  case fits =>
    obtain ⟨c, hc, -, hsmall⟩ := roundF_num f.fmt hf.normal mode u hn hd neg e
    have hcmax : c ≤ f.maxCode := by
      rw [hf.finite] at hfits
      exact hmono.le_iff_le.1 (hc.trans_le hfits)
    obtain ⟨hcode, hexact, hinexact⟩ := hsmall hcmax
    obtain ⟨hlt, hstands⟩ := value_withSign hf hcmax neg
    rw [hout]
    exact ⟨by rw [hcode]; exact hlt, by rw [hcode]; exact hc ▸ hstands, hexact, hinexact⟩
  case inf =>
    rw [convert_eq_roundF hf]
    rw [roundF, withSign_eq, withSign_eq]
    rfl

/-! ## The integer formats (R28, R42 to R44) -/

theorem means_num (neg : Bool) (n d : Nat) (e : Int) (hd : d ≠ 0) :
    Means (.num neg n d e) (if neg then -((n : ℚ) / d * 2 ^ e) else (n : ℚ) / d * 2 ^ e) := ⟨neg, _, ⟨n, d, e, rfl, hd, rfl⟩, rfl⟩

/-- An integer by its sign and its magnitude. -/
theorem sign_natAbs (z : Int) : (if decide (z < 0) then -(z.natAbs : ℚ) else z.natAbs) = z := by
  rw [Nat.cast_natAbs]
  by_cases hz : z < 0
  · rw [if_pos (decide_eq_true hz), abs_of_neg hz, Int.cast_neg, neg_neg]
  · rw [if_neg (by simpa using hz), abs_of_nonneg (by omega)]

theorem means_ofInt (z : Int) : Means (Val.ofInt z) z := by
  have h := means_num (decide (z < 0)) z.natAbs 1 0 one_ne_zero
  rw [Nat.cast_one, div_one, zpow_zero, mul_one, sign_natAbs] at h
  exact h

/-- Rounding to an integer takes the multiple of one that R42 takes, with the sign. -/
theorem roundN_eq (mode : RMode) (u n : Nat) {d : Nat} (neg : Bool) (e : Int) (hd : d ≠ 0) :
    let a : ℚ := (n : ℚ) / d * 2 ^ e
    (roundN mode u neg n d e).1 = (if neg then -(rounded mode u a 1 : ℤ) else rounded mode u a 1) ∧
      ((roundN mode u neg n d e).2 = true ↔ Inexact a 1) := by
  intro a
  have hden : 0 < d * pow2 (-e) := Nat.mul_pos (Nat.pos_of_ne_zero hd) (pow2_pos _)
  have hdiv : a / 1 = (n * pow2 e : Nat) / (d * pow2 (-e) : Nat) := by rw [div_one, scaled_div]
  rw [rounded_eq hden hdiv, inexact_iff one_pos hden hdiv]
  exact ⟨rfl, bne_iff_ne⟩

/-- What the integer formats of R28 have in common, beside their parameters. -/
structure IntTable (code w : Nat) (lo hi : Int) : Prop where
  float : ffmt code = none
  range : intRange code = some (lo, hi)
  width : fmtWidth code = w
  order : lo ≤ hi
  value : ∀ b < 2 ^ w, value code b = Val.ofInt (if lo < 0 ∧ 2 ^ (w - 1) ≤ b then (b : Int) - 2 ^ w else b)

theorem signed_of_lt {w b : Nat} (hb : b < 2 ^ w) : signed w b = if 2 ^ (w - 1) ≤ b then (b : Int) - 2 ^ w else b := by
  rw [signed, Nat.mod_eq_of_lt hb]
  split
  · rw [if_neg (by omega)]
  · rw [if_pos (by omega), Nat.cast_pow, Nat.cast_ofNat]

theorem intTable {code w : Nat} {lo hi : Int} (h : (code, w, lo, hi) ∈ integers) : IntTable code w lo hi := by
  simp only [integers, List.mem_cons, List.not_mem_nil, or_false, Prod.mk.injEq] at h
  have hsigned {code w : Nat} {lo : Int} (hlo : lo < 0) (hv : ∀ b, value code b = Val.ofInt (signed w b)) :
      ∀ b < 2 ^ w, value code b = Val.ofInt (if lo < 0 ∧ 2 ^ (w - 1) ≤ b then (b : Int) - 2 ^ w else b) := fun b hb => by
    rw [hv, signed_of_lt hb]
    simp only [hlo, true_and]
  obtain ⟨rfl, rfl, rfl, rfl⟩ | ⟨rfl, rfl, rfl, rfl⟩ | ⟨rfl, rfl, rfl, rfl⟩ | ⟨rfl, rfl, rfl, rfl⟩ | ⟨rfl, rfl, rfl, rfl⟩ := h
  case inr.inl =>
    refine ⟨rfl, rfl, rfl, by decide, fun b hb => ?_⟩
    rw [if_neg (by simp), show value 0x01 b = .num false (b % 256) 1 0 from rfl, Nat.mod_eq_of_lt (show b < 256 from hb), Val.ofInt]
    simp
  all_goals exact ⟨rfl, rfl, rfl, by decide, hsigned (by decide) fun _ => rfl⟩

theorem convert_eq_roundInt {code w : Nat} {lo hi : Int} (h : IntTable code w lo hi) (mode : RMode) (u : Nat) (x : Val) :
    convert code mode u x = (((roundInt lo hi mode u x).1 % 2 ^ w).toNat, (roundInt lo hi mode u x).2) := by
  rw [convert, h.float, h.range]
  simp only [wrap, h.width]
  push_cast
  rfl

/-- R28, R42 to R44: what rounding to an integer format gives, and what its codes stand for. -/
theorem convert_integers {code w : Nat} {lo hi : Int} (h : IntTable code w lo hi) (mode : RMode) (u n : Nat) {d : Nat} (neg : Bool) (e : Int)
    (hd : d ≠ 0) :
    let a : ℚ := (n : ℚ) / d * 2 ^ e
    let v : ℤ := if neg then -(rounded mode u a 1 : ℤ) else rounded mode u a 1
    let as := fun (x : ℤ) => (x % 2 ^ w).toNat
    let out := convert code mode u (.num neg n d e)
    (v < lo → out = (as lo, SAT)) ∧ (hi < v → out = (as hi, SAT)) ∧
    (lo ≤ v → v ≤ hi → out.1 = as v ∧ (¬Inexact a 1 → out.2 = 0) ∧ (Inexact a 1 → out.2 = NX)) ∧
    convert code mode u .nan = (0, NV) ∧ convert code mode u (.inf neg) = (as (if neg then lo else hi), SAT) ∧
    (∀ b < 2 ^ w, Means (value code b) ((if lo < 0 ∧ 2 ^ (w - 1) ≤ b then (b : ℤ) - 2 ^ w else b : ℤ) : ℚ)) := by
  intro a v as out
  obtain ⟨hv, hflag⟩ := roundN_eq mode u n neg e hd
  have hv : (roundN mode u neg n d e).1 = v := hv
  have hout : out = (as (roundInt lo hi mode u (.num neg n d e)).1, (roundInt lo hi mode u (.num neg n d e)).2) := convert_eq_roundInt h ..
  have hround : roundInt lo hi mode u (.num neg n d e) = if v < lo then (lo, SAT) else if hi < v then (hi, SAT)
      else (v, if (roundN mode u neg n d e).2 then NX else 0) := by
    rw [← hv]
    rfl
  rw [hround] at hout
  have horder := h.order
  refine ⟨fun hlt => ?_, fun hlt => ?_, fun hlow hhigh => ?_, ?_, ?_, fun b hb => ?_⟩
  · rw [hout, if_pos hlt]
  · rw [hout, if_neg (by omega), if_pos hlt]
  · rw [hout, if_neg (by omega), if_neg (by omega)]
    refine ⟨rfl, fun hexact => if_neg fun hc => hexact (hflag.1 hc), fun hinexact => if_pos (hflag.2 hinexact)⟩
  · rw [convert_eq_roundInt h]
    rfl
  · rw [convert_eq_roundInt h]
    rfl
  · rw [h.value b hb]
    exact means_ofInt _

end Sys2Proof.Machine
end

section
/-! PROOFS. Exact sums and products (R43, R44). -/

namespace Sys2Proof.Machine

/-- A finite value by its sign, fraction and exponent. -/
theorem means_iff {v : Val} {q : ℚ} : Means v q ↔ ∃ neg n d e, v = .num neg n d e ∧ d ≠ 0 ∧
    q = if neg then -((n : ℚ) / d * 2 ^ e) else (n : ℚ) / d * 2 ^ e := by
  constructor
  · rintro ⟨neg, a, ⟨n, d, e, rfl, hd, rfl⟩, hq⟩
    exact ⟨neg, n, d, e, rfl, hd, hq⟩
  · rintro ⟨neg, n, d, e, rfl, hd, rfl⟩
    exact means_num neg n d e hd

/-- A zero is a value without a fraction, whatever its sign. -/
theorem signed_eq_zero {neg : Bool} {n d : Nat} {e : Int} (hd : d ≠ 0) :
    (if neg then -((n : ℚ) / d * 2 ^ e) else (n : ℚ) / d * 2 ^ e) = 0 ↔ n = 0 := by
  have h2 : (2 : ℚ) ^ e ≠ 0 := by positivity
  cases neg <;> simp [hd, h2]

/-- A numerator aligned to a lower exponent and a common denominator leaves the magnitude. -/
theorem aligned_eq {n d c : Nat} {e g : Int} (hc : c ≠ 0) (hg : g ≤ e) :
    ((alignTo n e g * c : Nat) : ℚ) / (d * c : Nat) * 2 ^ g = n / d * 2 ^ e := by
  have hc' : (c : ℚ) ≠ 0 := by exact_mod_cast hc
  rw [alignTo]
  push_cast
  rw [pow2_of_nonneg (by omega), mul_div_mul_right _ _ hc', mul_div_right_comm, mul_assoc, ← zpow_add₀ (by norm_num), sub_add_cancel]

/-- The same with a sign. -/
theorem aligned_signed {neg : Bool} {n d c : Nat} {e g : Int} (hc : c ≠ 0) (hg : g ≤ e) :
    ((if neg then -(alignTo n e g * c : Nat) else (alignTo n e g * c : Nat) : Int) : ℚ) / (d * c : Nat) * 2 ^ g =
      if neg then -((n : ℚ) / d * 2 ^ e) else (n : ℚ) / d * 2 ^ e := by
  have h := aligned_eq (n := n) (d := d) hc hg
  cases neg
  · rw [if_neg Bool.false_ne_true, if_neg Bool.false_ne_true, Int.cast_natCast]
    exact h
  · rw [if_pos rfl, if_pos rfl, ← h, Int.cast_neg, Int.cast_natCast, neg_div, neg_mul]

/-- The sign of an exact zero sum: negative where both operands are negative zeros. -/
theorem sign_of_exact_zero {s t : Bool} {n m : Nat} {p : ℚ} (hnm : n = 0 → m = 0) (hp : p = 0 ↔ n = 0) :
    (s && t && n == 0 && m == 0) = (decide (p = 0) && s && t) := by
  by_cases hn : n = 0
  · simp [hn, hnm hn, hp.2 hn]
  · simp [hn, mt hp.1 hn]

/-- A sign stands before a quotient and its scale as before its numerator. -/
theorem ite_neg_div_mul (b : Bool) (x y z : ℚ) : (if b then -x else x) / y * z = if b then -(x / y * z) else x / y * z := by
  cases b
  · rfl
  · rw [if_pos rfl, if_pos rfl, neg_div, neg_mul]

section
variable {x y : Val} {p q : ℚ} (hx : Means x p) (hy : Means y q)
include hx hy

/-- R43, R44: an exact sum of finite values, without a flag; an exact zero is −0 only where both are. -/
theorem valAdd_means : Means (valAdd x y).1 (p + q) ∧ (valAdd x y).2 = 0 ∧
    (p + q = 0 → (valAdd x y).1.isNeg = (decide (p = 0) && x.isNeg && y.isNeg)) := by
  obtain ⟨s, n, d, e, rfl, hd, rfl⟩ := means_iff.1 hx
  obtain ⟨t, m, c, f, rfl, hc, rfl⟩ := means_iff.1 hy
  have ha := aligned_signed (neg := s) (n := n) (d := d) hc (min_le_left e f)
  have hb := aligned_signed (neg := t) (n := m) (d := c) hd (min_le_right e f)
  rw [Nat.mul_comm c d] at hb
  have hp0 := signed_eq_zero (neg := s) (n := n) (e := e) hd
  have hq0 := signed_eq_zero (neg := t) (n := m) (e := f) hc
  generalize hA : (if s then -(alignTo n e (min e f) * c : Nat) else (alignTo n e (min e f) * c : Nat) : Int) = A at ha
  generalize hB : (if t then -(alignTo m f (min e f) * d : Nat) else (alignTo m f (min e f) * d : Nat) : Int) = B at hb
  have hdc : ((d * c : Nat) : ℚ) ≠ 0 := by exact_mod_cast Nat.mul_ne_zero hd hc
  have h2 : (2 : ℚ) ^ min e f ≠ 0 := by positivity
  have hsum : ((A + B : Int) : ℚ) / (d * c : Nat) * 2 ^ min e f =
      (if s then -((n : ℚ) / d * 2 ^ e) else (n : ℚ) / d * 2 ^ e) + (if t then -((m : ℚ) / c * 2 ^ f) else (m : ℚ) / c * 2 ^ f) := by
    rw [← ha, ← hb, Int.cast_add, add_div, add_mul]
  have hadd : valAdd (.num s n d e) (.num t m c f) = if A + B = 0 then (.num (s && t && n == 0 && m == 0) 0 1 0, 0)
      else (.num (decide (A + B < 0)) (A + B).natAbs (d * c) (min e f), 0) := by
    rw [← hA, ← hB]
    rfl
  have hzero : A + B = 0 ↔ ((A + B : Int) : ℚ) / (d * c : Nat) * 2 ^ min e f = 0 := by
    rw [mul_eq_zero, or_iff_left h2, div_eq_zero_iff, or_iff_left hdc, Int.cast_eq_zero]
  rw [hsum] at hzero
  rw [hadd]
  by_cases h0 : A + B = 0
  · have hpq := hzero.1 h0
    rw [if_pos h0, hpq]
    refine ⟨?_, rfl, fun _ => ?_⟩
    · simpa using means_num (s && t && n == 0 && m == 0) 0 1 0 one_ne_zero
    · exact sign_of_exact_zero (by rw [← hp0, ← hq0]; exact fun h => by rwa [h, zero_add] at hpq) hp0
  · rw [if_neg h0]
    refine ⟨?_, rfl, fun h => absurd (hzero.2 h) h0⟩
    have h := means_num (decide (A + B < 0)) (A + B).natAbs (d * c) (min e f) (Nat.mul_ne_zero hd hc)
    rw [← hsum]
    convert h using 1
    rw [← sign_natAbs (A + B), ite_neg_div_mul]

/-- R43, R44: an exact product of finite values, without a flag, its sign that of the operands' signs. -/
theorem valMul_means : Means (valMul x y).1 (p * q) ∧ (valMul x y).2 = 0 ∧ (valMul x y).1.isNeg = (x.isNeg ^^ y.isNeg) := by
  obtain ⟨s, n, d, e, rfl, hd, rfl⟩ := means_iff.1 hx
  obtain ⟨t, m, c, f, rfl, hc, rfl⟩ := means_iff.1 hy
  refine ⟨?_, rfl, rfl⟩
  have h := means_num (s != t) (n * m) (d * c) (e + f) (Nat.mul_ne_zero hd hc)
  have hmag : ((n * m : Nat) : ℚ) / (d * c : Nat) * 2 ^ (e + f) = ((n : ℚ) / d * 2 ^ e) * ((m : ℚ) / c * 2 ^ f) := by
    rw [zpow_add₀ (by norm_num)]
    push_cast
    rw [mul_div_mul_comm]
    ring
  rw [hmag] at h
  have hsign (a b : ℚ) : (if s then -a else a) * (if t then -b else b) = if s != t then -(a * b) else a * b := by
    cases s <;> cases t <;> simp
  rw [hsign]
  exact h

end

/-- Sums and products of a finite value and an infinity. -/
theorem val_inf {x : Val} {p : ℚ} (hx : Means x p) (b : Bool) : valAdd x (.inf b) = (.inf b, 0) ∧ valAdd (.inf b) x = (.inf b, 0) ∧
    (p = 0 → valMul x (.inf b) = (.nan, NV) ∧ valMul (.inf b) x = (.nan, NV)) ∧
    (p ≠ 0 → valMul x (.inf b) = (.inf (x.isNeg ^^ b), 0) ∧ valMul (.inf b) x = (.inf (x.isNeg ^^ b), 0)) := by
  obtain ⟨s, n, d, e, rfl, hd, rfl⟩ := means_iff.1 hx
  rw [ne_eq, signed_eq_zero hd]
  exact ⟨rfl, rfl, fun h => ⟨if_pos h, if_pos h⟩, fun h => ⟨if_neg h, (if_neg h).trans (by rw [Val.isNeg, bne_comm])⟩⟩

/-- Sums and products with NaN, and of infinities. -/
theorem val_special (x : Val) (b c : Bool) : valAdd .nan x = (.nan, 0) ∧ valAdd x .nan = (.nan, 0) ∧ valMul .nan x = (.nan, 0) ∧
    valMul x .nan = (.nan, 0) ∧ valAdd (.inf b) (.inf c) = (if b = c then (.inf b, 0) else (.nan, NV)) ∧
    valMul (.inf b) (.inf c) = (.inf (b ^^ c), 0) := by
  refine ⟨rfl, ?_, rfl, ?_, rfl, rfl⟩
  · cases x <;> rfl
  · cases x <;> rfl

end Sys2Proof.Machine
end

section
/-! PROOFS. The floating vector instructions, element by element (R26, R156, R165 to R167). -/

namespace Sys2Proof.Machine

/-! ## The elements of a lane (R26) -/

/-- What a function of an element gives for the low and the high half of a lane. -/
def bothHalves (f : (Nat → Nat) → Nat × Flags) : Nat × Flags :=
  ((f (· % 2 ^ 16)).1 + (f (· / 2 ^ 16)).1 * 2 ^ 16, (f (· % 2 ^ 16)).2 ||| (f (· / 2 ^ 16)).2)

/-- The two ways to take an element of 16 bits out of a lane. -/
def IsHalf (e : Nat → Nat) : Prop := e = (· % 2 ^ 16) ∨ e = (· / 2 ^ 16)

theorem bothHalves_congr {f g : (Nat → Nat) → Nat × Flags} (h : ∀ e, IsHalf e → f e = g e) : bothHalves f = bothHalves g := by
  rw [bothHalves, h _ (.inl rfl), h _ (.inr rfl)]
  rfl

/-- An element of 32 bits as a lane. -/
def asLane (r : Nat × Flags) : Lane × Flags := (BitVec.ofNat 32 r.1, r.2)

theorem isWide_iff {t : VType} : isWide t = true ↔ t = .f32 := by cases t <;> decide

section
variable {t : VType} (x y z : Lane)

theorem perElem1_wide (ht : t = .f32) (f : Nat → Nat × Flags) : perElem1 t f x = asLane (f x.toNat) := if_pos (isWide_iff.2 ht)

theorem perElem2_wide (ht : t = .f32) (f : Nat → Nat → Nat × Flags) : perElem2 t f x y = asLane (f x.toNat y.toNat) :=
  if_pos (isWide_iff.2 ht)

theorem perElem3_wide (ht : t = .f32) (f : Nat → Nat → Nat → Nat × Flags) : perElem3 t f x y z = asLane (f x.toNat y.toNat z.toNat) :=
  if_pos (isWide_iff.2 ht)

theorem perElem1_half (ht : t ≠ .f32) (f : Nat → Nat × Flags) : perElem1 t f x = asLane (bothHalves fun h => f (h x.toNat)) :=
  if_neg (mt isWide_iff.1 ht)

theorem perElem2_half (ht : t ≠ .f32) (f : Nat → Nat → Nat × Flags) :
    perElem2 t f x y = asLane (bothHalves fun h => f (h x.toNat) (h y.toNat)) := if_neg (mt isWide_iff.1 ht)

theorem perElem3_half (ht : t ≠ .f32) (f : Nat → Nat → Nat → Nat × Flags) :
    perElem3 t f x y z = asLane (bothHalves fun h => f (h x.toNat) (h y.toNat) (h z.toNat)) := if_neg (mt isWide_iff.1 ht)

end

/-- Operand b of a lane of 32 bits (R156). -/
theorem srcLane_wide {t : VType} (ht : t = .f32) (v : Vec) (b : VSrc) (l : Nat) : srcLane v (isWide t) b l = operandB v b l := by
  rw [isWide_iff.2 ht]
  cases b <;> rfl

/-- Operand b of a lane of two elements: the low half of an immediate stands in both (R156). -/
theorem srcLane_half {t : VType} (ht : t ≠ .f32) (v : Vec) (b : VSrc) (l : Nat) : srcLane v (isWide t) b l = operandB16 v b l := by
  rw [Bool.eq_false_iff.2 (mt isWide_iff.1 ht)]
  cases b with
  | reg r => rfl
  | imm x =>
    refine congrArg (BitVec.ofNat 32) ?_
    omega

theorem srcRegs_eq (b : VSrc) : srcRegs b = namesB b := by cases b <;> rfl

/-! ## What a floating instruction sends (R165) -/

/-- A slot whose lanes are given as elements with their flags. -/
theorem sends_elements {i : Instr} {s : State} {c : VCtl} {feats regs : List Nat} {lat d : Nat} {m : Fin 8} {F : Vec → Nat → Lane × Flags}
    {f : Nat → Nat × Flags} (h : SlotReady s feats (d :: regs) c.g c.tok) (hi : exec i s = laneSlot feats regs c lat d m s F)
    (hf : ∀ l, F (vec s) l = asLane (f l)) :
    Sends i s c lat d (rdM (vec s) m) (fun l => BitVec.ofNat 32 (f l).1) (laneFlags (rdM (vec s) m) fun l => (f l).2) :=
  sends_laneSlot h hi fun l _ => hf l

section
variable {s : State} {o : VFloat2} (h : SlotReady s [] (o.d.val :: o.a.val :: namesB o.b) o.c.g o.c.tok) {i : Instr} {lat : Nat}
  {F : Nat → Nat → Nat × Flags} (hi : exec i s = floatOp2 lat o s F)
include h hi

theorem sends_floatOp2_wide (ht : o.t = .f32) {f : Nat → Nat × Flags}
    (hf : ∀ l, F (rdV (vec s) o.a l).toNat (operandB (vec s) o.b l).toNat = f l) : Sends i s o.c lat o.d (rdM (vec s) o.mask)
      (fun l => BitVec.ofNat 32 (f l).1) (laneFlags (rdM (vec s) o.mask) fun l => (f l).2) :=
  sends_elements (srcRegs_eq o.b ▸ h) hi fun l => by rw [perElem2_wide _ _ ht, srcLane_wide ht, hf]

theorem sends_floatOp2_half (ht : o.t ≠ .f32) {f : Nat → (Nat → Nat) → Nat × Flags}
    (hf : ∀ l (e : Nat → Nat), F (e (rdV (vec s) o.a l).toNat) (e (operandB16 (vec s) o.b l).toNat) = f l e) :
    Sends i s o.c lat o.d (rdM (vec s) o.mask) (fun l => BitVec.ofNat 32 (bothHalves (f l)).1)
      (laneFlags (rdM (vec s) o.mask) fun l => (bothHalves (f l)).2) :=
  sends_elements (srcRegs_eq o.b ▸ h) hi fun l => by
    rw [perElem2_half _ _ ht, srcLane_half ht, ← bothHalves_congr fun e _ => hf l e]

end

section
variable {s : State} {o : VFloat1} (h : SlotReady s [] [o.d.val, o.a.val] o.c.g o.c.tok) {i : Instr} {lat : Nat}
  {F : Nat → Nat × Flags} (hi : exec i s = floatOp1 lat o s F)
include h hi

theorem sends_floatOp1_wide (ht : o.t = .f32) {f : Nat → Nat × Flags} (hf : ∀ l, F (rdV (vec s) o.a l).toNat = f l) :
    Sends i s o.c lat o.d (rdM (vec s) o.mask) (fun l => BitVec.ofNat 32 (f l).1) (laneFlags (rdM (vec s) o.mask) fun l => (f l).2) :=
  sends_elements h hi fun l => by rw [perElem1_wide _ ht, hf]

theorem sends_floatOp1_half (ht : o.t ≠ .f32) {f : Nat → (Nat → Nat) → Nat × Flags}
    (hf : ∀ l e, IsHalf e → F (e (rdV (vec s) o.a l).toNat) = f l e) :
    Sends i s o.c lat o.d (rdM (vec s) o.mask) (fun l => BitVec.ofNat 32 (bothHalves (f l)).1)
      (laneFlags (rdM (vec s) o.mask) fun l => (bothHalves (f l)).2) :=
  sends_elements h hi fun l => by rw [perElem1_half _ ht, ← bothHalves_congr fun e he => hf l e he]

end

section
variable {s : State} {o : VFloat3} (h : SlotReady s [] (o.d.val :: o.a.val :: namesB o.b ++ [o.cc.val]) o.c.g o.c.tok)
include h

theorem sends_vfma_wide (ht : o.t = .f32) {f : Nat → Nat × Flags}
    (hf : ∀ l, roundTo o.t (fmaVal (vval o.t (rdV (vec s) o.a l).toNat) (vval o.t (operandB (vec s) o.b l).toNat)
      (vval o.t (rdV (vec s) o.cc l).toNat)) = f l) :
    Sends (.vfma o) s o.c 4 o.d (rdM (vec s) o.mask) (fun l => BitVec.ofNat 32 (f l).1)
      (laneFlags (rdM (vec s) o.mask) fun l => (f l).2) :=
  sends_elements (srcRegs_eq o.b ▸ h) (exec_vfma o s) fun l => by rw [perElem3_wide _ _ _ ht, srcLane_wide ht, hf]

theorem sends_vfma_half (ht : o.t ≠ .f32) {f : Nat → (Nat → Nat) → Nat × Flags}
    (hf : ∀ l (e : Nat → Nat), roundTo o.t (fmaVal (vval o.t (e (rdV (vec s) o.a l).toNat)) (vval o.t (e (operandB16 (vec s) o.b l).toNat))
      (vval o.t (e (rdV (vec s) o.cc l).toNat))) = f l e) :
    Sends (.vfma o) s o.c 4 o.d (rdM (vec s) o.mask) (fun l => BitVec.ofNat 32 (bothHalves (f l)).1)
      (laneFlags (rdM (vec s) o.mask) fun l => (bothHalves (f l)).2) :=
  sends_elements (srcRegs_eq o.b ▸ h) (exec_vfma o s) fun l => by
    rw [perElem3_half _ _ _ ht, srcLane_half ht, ← bothHalves_congr fun e _ => hf l e]

end

/-- Setting the bit above a word. -/
theorem xor_pow_of_lt {w r : Nat} (hr : r < 2 ^ w) : r ^^^ 2 ^ w = 2 ^ w + r := by
  have h := Nat.two_pow_add_eq_or_of_lt hr 1
  rw [Nat.mul_one] at h
  rw [h, Nat.xor_comm]
  refine Nat.eq_of_testBit_eq fun i => ?_
  rw [Nat.testBit_xor, Nat.testBit_or, Nat.testBit_two_pow]
  by_cases hi : w = i
  · rw [← hi, Nat.testBit_lt_two_pow hr]
    simp
  · simp [hi]

/-- Turning the top bit of a word over. -/
theorem xor_pow_eq {w x : Nat} (hx : x < 2 ^ (w + 1)) : x ^^^ 2 ^ w = if 2 ^ w ≤ x then x - 2 ^ w else x + 2 ^ w := by
  rw [Nat.pow_succ] at hx
  by_cases h : 2 ^ w ≤ x
  · obtain ⟨r, rfl⟩ := Nat.exists_eq_add_of_le h
    rw [if_pos h, ← xor_pow_of_lt (by omega), Nat.xor_assoc, Nat.xor_self, Nat.xor_zero, xor_pow_of_lt (by omega)]
    omega
  · rw [if_neg h, xor_pow_of_lt (by omega), Nat.add_comm]

theorem half_lt {e : Nat → Nat} (he : IsHalf e) (x : Lane) : e x.toNat < 2 ^ 16 := by
  have := x.isLt
  obtain rfl | rfl := he
  · exact Nat.mod_lt _ (by decide)
  · show x.toNat / 2 ^ 16 < 2 ^ 16
    omega

theorem signBit_half {t : VType} (ht : t ≠ .f32) : signBit t = 2 ^ 15 := if_neg (mt isWide_iff.1 ht)

/-- The canonical NaN of a type of 16 bits, and its format. -/
theorem half_consts {t : VType} (ht : t ≠ .f32) : typeFmt t = (if t = .bf16 then BF16 else FP16) ∧
    nanOf t = if t = .bf16 then 0x7FC0 else 0x7E00 := by
  cases t with
  | f32 => exact absurd rfl ht
  | bf16 => exact ⟨rfl, rfl⟩
  | f16 => exact ⟨rfl, rfl⟩

/-- VMIN and VMAX without a NaN result give the element and no flag. -/
theorem ite_pair (p : Bool) (a b : Nat) (g : Flags) : (if p then (a, g) else (b, g)) = (if p then a else b, g) := by cases p <;> rfl

/-- Settles O28: each floating instruction computes its elements' exact results and rounds them once (`sends_floatOp2_wide` and its
neighbours); what codes stand for and what rounding gives is read off the format's table (`floatTable`, `intTable`). -/
theorem vectorFloats : Obligations.VectorFloats := by
  unfold Obligations.VectorFloats
  refine ⟨?wide, ?half, fun f hf b hb => value_floats (floatTable hf) hb,
    fun f hf mode u n d neg e hd => convert_floats (floatTable hf) mode u n neg e hd,
    fun ⟨code, w, lo, hi⟩ hf mode u n d neg e hd => convert_integers (intTable hf) mode u n neg e hd, ?sums, val_special⟩
  case wide =>
    intro val near
    refine ⟨fun s o ho h => ?two, fun s o ho h => ?three, fun s o ho h => ?one⟩
    case two =>
      intro x y mask r
      have hr {i : Instr} {lat : Nat} {F : Nat → Nat → Nat × Flags} (hi : exec i s = floatOp2 lat o s F) {f : Nat → Nat × Flags}
        (hf : ∀ l, F (x l).toNat (y l).toNat = f l) : r i lat f := sends_floatOp2_wide h hi ho hf
      refine ⟨hr (exec_vadd o s) fun l => ?_, hr (exec_vsub o s) fun l => ?_, hr (exec_vmul o s) fun l => ?_,
        hr (exec_vmin o s) fun l => ?min, hr (exec_vmax o s) fun l => ?max⟩
      case min | max => simp only [ho]; exact ite_pair ..
      all_goals simp only [ho]; rfl
    case three => exact sends_vfma_wide h ho fun l => by simp only [ho]; rfl
    case one =>
      intro x mask r
      have hr {i : Instr} {lat : Nat} {F : Nat → Nat × Flags} (hi : exec i s = floatOp1 lat o s F) {f : Nat → Nat × Flags}
        (hf : ∀ l, F (x l).toNat = f l) : r i lat f := sends_floatOp1_wide h hi ho hf
      refine ⟨hr (exec_vabs o s) fun l => ?_, hr (exec_vneg o s) fun l => ?neg, hr (exec_vrcp o s) fun l => ?_,
        hr (exec_vrsq o s) fun l => ?_, hr (exec_vexp2 o s) fun l => ?_, hr (exec_vlog2 o s) fun l => ?_⟩
      case neg => rw [← xor_pow_eq (x l).isLt, ho]; rfl
      all_goals simp only [ho]; rfl
  case half =>
    intro fmt val near nan halves sends
    refine ⟨fun s o ho h => ?two, fun s o ho h => ?three, fun s o ho h => ?one⟩
    case two =>
      intro x y r v
      obtain ⟨hfmt, hnan⟩ := half_consts ho
      have hr {i : Instr} {lat : Nat} {F : Nat → Nat → Nat × Flags} (hi : exec i s = floatOp2 lat o s F) {f : Nat → (Nat → Nat) → Nat × Flags}
        (hf : ∀ l (e : Nat → Nat), F (e (x l)) (e (y l)) = f l e) : r i lat f := sends_floatOp2_half h hi ho hf
      clear_value r
      refine ⟨hr (exec_vadd o s) fun l e => ?_, hr (exec_vsub o s) fun l e => ?_, hr (exec_vmul o s) fun l e => ?_,
        hr (exec_vmin o s) fun l e => ?min, hr (exec_vmax o s) fun l e => ?max⟩
      case min | max => simp only [vval, hfmt, hnan]; exact ite_pair ..
      all_goals simp only [roundTo, vval, hfmt]; rfl
    case three =>
      intro v
      have hr {f : Nat → (Nat → Nat) → Nat × Flags} (hf : ∀ l (e : Nat → Nat), roundTo o.t (fmaVal (vval o.t (e (rdV (vec s) o.a l).toNat))
        (vval o.t (e (operandB16 (vec s) o.b l).toNat)) (vval o.t (e (rdV (vec s) o.cc l).toNat))) = f l e) :
        sends s o.c o.d o.mask (.vfma o) 4 f := sends_vfma_half h ho hf
      clear_value sends
      exact hr fun l e => by simp only [roundTo, vval, (half_consts ho).1]; rfl
    case one =>
      intro x r v
      have hfmt := (half_consts ho).1
      have hr {i : Instr} {lat : Nat} {F : Nat → Nat × Flags} (hi : exec i s = floatOp1 lat o s F) {f : Nat → (Nat → Nat) → Nat × Flags}
        (hf : ∀ l e, IsHalf e → F (e (x l)) = f l e) : r i lat f := sends_floatOp1_half h hi ho hf
      clear_value r
      refine ⟨hr (exec_vabs o s) fun l e he => ?abs, hr (exec_vneg o s) fun l e he => ?neg, hr (exec_vrcp o s) fun l e he => ?_,
        hr (exec_vrsq o s) fun l e he => ?_, hr (exec_vexp2 o s) fun l e he => ?_, hr (exec_vlog2 o s) fun l e he => ?_⟩
      case abs => rw [signBit_half ho]
      case neg => rw [signBit_half ho, xor_pow_eq (half_lt he _)]
      all_goals simp only [roundTo, vval, hfmt]; rfl
  case sums =>
    intro x y p q hx hy
    obtain ⟨hsum, hsumF, hsumS⟩ := valAdd_means hx hy
    obtain ⟨hmul, hmulF, hmulS⟩ := valMul_means hx hy
    exact ⟨hsum, hsumF, hmul, hmulF, hsumS, hmulS, val_inf hx⟩

end Sys2Proof.Machine
end

section
/-! PROOFS. Conversions of the vector slot in every rounding mode (R55, R171 to R173). -/

namespace Sys2Proof.Machine

/-! ## The generator of a converting slot (R55) -/

/-- The generator after a converting slot of a rounding mode. -/
def seedAfter (r : RMode) (v : Vec) : BitVec 32 := if r = .sr then seedStep v.seed else v.seed

theorem slotEffect_srStep (c : VCtl) (r : RMode) (s : State) : SlotEffect c s (srStep r (slotPopped c s)).2 (seedAfter r (vec s)) := by
  rw [srStep, seedAfter]
  split
  · dsimp only
    refine ⟨rfl, ?_, (onlyTile_slotPopped c s).trans (onlyTile_modVec ..)⟩
    rw [tile_at_slotPopped, show (slotPopped c s).cur = s.cur from rfl, tile_modVec_self, tile_slotPopped]
    rfl
  · exact slotEffect_popped c s

theorem srStep_fst (c : VCtl) (r : RMode) (s : State) : (srStep r (slotPopped c s)).1 = if r = .sr then seedStep (vec s).seed else 0 := by
  rw [srStep, tile_at_slotPopped]
  split <;> rfl

/-- The fraction of an element: the generator's new state rotated left; without SR nothing is drawn. -/
def drawnFraction (s : State) (r : RMode) (k : Nat) : Nat := if r = .sr then ((seedStep (vec s).seed).rotateLeft (k % 32)).toNat else 0

theorem zero_rotateLeft (k : Nat) : (0 : BitVec 32).rotateLeft k = 0 := by
  simp [BitVec.rotateLeft, BitVec.rotateLeftAux]

section
variable (c : VCtl) (r : RMode) (s : State)

theorem fraction_lane {l : Nat} (hl : l < 64) : fraction (srStep r (slotPopped c s)).1 32 l = drawnFraction s r (7 * l) := by
  rw [srStep_fst, drawnFraction, fraction, if_neg (by decide), Nat.mod_eq_of_lt hl]
  split
  · rfl
  · rw [zero_rotateLeft]
    rfl

theorem fraction_half {e : Nat} (he : e < 128) :
    fraction (srStep r (slotPopped c s)).1 16 e = drawnFraction s r (7 * (e / 2) + 16 * (e % 2)) := by
  rw [srStep_fst, drawnFraction, fraction, if_pos rfl, Nat.mod_eq_of_lt (by omega : e / 2 < 64)]
  split
  · rfl
  · show (BitVec.rotateLeft 0 _).toNat = 0
    rw [zero_rotateLeft]
    rfl

end

/-- The result of a converting slot: lanes from the registers at issue and the generator's new state. -/
def convertedLanes (r : RMode) (lat d : Nat) (m : Fin 8) (G : Vec → BitVec 32 → Nat → Lane × Flags) (s : State) : Issued :=
  ⟨(srStep r s).2, some (lanesFlight (tile s s.cur).vec lat d (rdM (tile s s.cur).vec m) (G (tile s s.cur).vec (srStep r s).1))⟩

theorem sends_convertedLanes {i : Instr} {s : State} {c : VCtl} {feats regs : List Nat} {r : RMode} {lat d : Nat} {m : Fin 8}
    {G : Vec → BitVec 32 → Nat → Lane × Flags} {f : Nat → Lane × Flags} (h : SlotReady s feats regs c.g c.tok)
    (hi : exec i s = vslotX feats regs none c s (fun _ => none) (convertedLanes r lat d m G))
    (hf : ∀ l < 64, G (vec s) (srStep r (slotPopped c s)).1 l = f l) :
    Sends i s c lat d (rdM (vec s) m) (fun l => (f l).1) (laneFlags (rdM (vec s) m) fun l => (f l).2) ∧
      ∃ t, exec i s = .next t ∧ (vec t).seed = seedAfter r (vec s) := by
  have hi := hi.trans (vslotX_ready h rfl _)
  have hF : convertedLanes r lat d m G (slotPopped c s) = ⟨(srStep r (slotPopped c s)).2,
      some (lanesFlight (vec s) lat d (rdM (vec s) m) (G (vec s) (srStep r (slotPopped c s)).1))⟩ := by
    rw [convertedLanes, tile_at_slotPopped]
  refine ⟨?_, seed_of_issue hi (slotEffect_srStep c r s) hF⟩
  have hs := sends_of_issue hi (slotEffect_srStep c r s) hF (mask := rdM (vec s) m) (lat := lat) (d := d) (f := fun l => (f l).1)
    rfl rfl fun k x => by
      rw [mem_lanesFlight]
      refine exists_congr fun l => and_congr_right fun hl => ?_
      rw [hf l hl]
  rw [flags_lanesFlight] at hs
  rwa [laneFlags_congr (h := fun l => (f l).2) fun l hl => by rw [hf l hl]] at hs

/-! ## VCVT, VPACK, VUNPK, VRNS and VCRT -/

/-- A lane of VCVT, with the generator's new state x (R171). -/
def vcvtLane (o : VCvtOp) (v : Vec) (x : BitVec 32) (l : Nat) : Lane × Flags :=
  asLane (convert o.dst.toNat o.r (fraction x 32 l) (value o.src.toNat ((rdV v o.a l).toNat % 2 ^ fmtWidth o.src.toNat)))

/-- An element of VPACK, and the lane of two (R172). -/
def vpackElem (o : VPackOp) (v : Vec) (x : BitVec 32) (e : Nat) : Nat × Flags :=
  convert (typeFmt o.t) o.r (fraction x 16 e) (value FP32 (if e < 64 then rdV v o.a e else rdV v o.b (e - 64)).toNat)

def vpackLane (o : VPackOp) (v : Vec) (x : BitVec 32) (l : Nat) : Lane × Flags :=
  asLane ((vpackElem o v x (2 * l)).1 + (vpackElem o v x (2 * l + 1)).1 * 65536,
    (vpackElem o v x (2 * l)).2 ||| (vpackElem o v x (2 * l + 1)).2)

/-- What VCRT converts, and a lane of it (R51, R173). -/
def vcrtLane (o : VCrtOp) (v : Vec) (x : BitVec 32) (l : Nat) : Lane × Flags :=
  let p := rnsTimes (rdV v o.a l).toNat o.scale.toNat
  let q := convert (if o.i32 then INT32 else FP32) o.r (fraction x 32 l) p.1
  asLane (q.1, p.2 ||| q.2)

theorem exec_vcvt_lanes (o : VCvtOp) (s : State) : exec (.vcvt o) s =
    vslotX (srFeat o.r) [o.d, o.a] (cvtBad o) o.c s (fun _ => none) (convertedLanes o.r 4 o.d o.mask (vcvtLane o)) := exec_vcvt o s

theorem exec_vpack_lanes (o : VPackOp) (s : State) : exec (.vpack o) s =
    vslotX (srFeat o.r) [o.d, o.a, o.b] none o.c s (fun _ => none) (convertedLanes o.r 4 o.d o.mask (vpackLane o)) := exec_vpack o s

theorem exec_vcrt_lanes (o : VCrtOp) (s : State) : exec (.vcrt o) s =
    vslotX (3 :: srFeat o.r) [o.d, o.a] none o.c s (fun _ => none) (convertedLanes o.r 4 o.d o.mask (vcrtLane o)) := exec_vcrt o s

theorem cvtBad_none {o : VCvtOp} (hsrc : cvtSrc o.src.toNat = true) (hdst : cvtDst o.dst.toNat = true) : cvtBad o = none := by
  rw [cvtBad, hsrc, hdst]
  rfl

/-- Element e of a register of 16-bit elements (R26). -/
theorem halfElem_eq (v : Vec) (r e : Nat) : halfElem v r e = (rdV v r (e / 2)).toNat / 2 ^ (16 * (e % 2)) % 2 ^ 16 := by
  rw [halfElem]
  have hx := (rdV v r (e / 2)).isLt
  obtain he | he := Nat.mod_two_eq_zero_or_one e
  · rw [if_pos he, he]
    simp
  · rw [if_neg (by omega), he]
    omega

end Sys2Proof.Machine
end

section
/-! PROOFS. Reductions and scans (R174, R175). -/

namespace Sys2Proof.Machine

/-! ## Flags of several additions -/

/-- The union of flags. -/
def unionFlags (fs : List Flags) : Flags := fs.foldl (fun g f => g ||| f) 0

theorem zero_orFlags (f : Flags) : 0 ||| f = f := BitVec.zero_or

theorem foldl_or_eq (fs : List Flags) (g : Flags) : fs.foldl (fun g f => g ||| f) g = g ||| unionFlags fs := by
  induction fs generalizing g with
  | nil => exact (BitVec.or_zero).symm
  | cons f fs ih =>
    have hcons : unionFlags (f :: fs) = f ||| unionFlags fs := by
      rw [unionFlags, List.foldl_cons, ih, zero_orFlags]
    rw [List.foldl_cons, ih, hcons, BitVec.or_assoc]

theorem unionFlags_cons (f : Flags) (fs : List Flags) : unionFlags (f :: fs) = f ||| unionFlags fs := by
  rw [unionFlags, List.foldl_cons, foldl_or_eq, zero_orFlags]

theorem unionFlags_append (fs gs : List Flags) : unionFlags (fs ++ gs) = unionFlags fs ||| unionFlags gs := by
  rw [unionFlags, List.foldl_append, foldl_or_eq]
  rfl

/-! ## The fixed tree (R174) -/

/-- The rounded sum of two codes, with the flags of forming and rounding it. -/
def roundedSum (x y : Nat) : Nat × Flags :=
  let p := valAdd (value FP32 x) (value FP32 y)
  ((convert FP32 .rne 0 p.1).1, (convert FP32 .rne 0 p.1).2 ||| p.2)

theorem addFP32_eq (x y : Nat) : addFP32 x y = roundedSum x y := Prod.ext rfl (BitVec.or_comm ..)

/-- One level of the tree over codes given by their place: the sums of neighbours. -/
def sumLevel (x : Nat → Nat) (l : Nat) : Nat := (roundedSum (x (2 * l)) (x (2 * l + 1))).1

/-- The flags of the sums of a level of n pairs. -/
def levelFlags (x : Nat → Nat) (n : Nat) : List Flags := (List.range n).map fun l => (roundedSum (x (2 * l)) (x (2 * l + 1))).2

/-- The flags of the sums of all n levels. -/
def treeFlags (x : Nat → Nat) (n : Nat) : List Flags := (List.range n).flatMap fun i => levelFlags (sumLevel^[i] x) (2 ^ (n - 1 - i))

theorem map_range_double (x : Nat → Nat) (n : Nat) :
    (List.range (2 * (n + 1))).map x = x 0 :: x 1 :: (List.range (2 * n)).map fun k => x (k + 2) := by
  rw [show 2 * (n + 1) = 2 * n + 1 + 1 from rfl, List.range_succ_eq_map, List.range_succ_eq_map]
  simp [Function.comp_def]

theorem sumPairs_range (x : Nat → Nat) (n : Nat) :
    sumPairs ((List.range (2 * n)).map x) = ((List.range n).map (sumLevel x), unionFlags (levelFlags x n)) := by
  induction n generalizing x with
  | zero => rfl
  | succ n ih =>
    have hshift : sumPairs ((List.range (2 * n)).map fun k => x (k + 2)) =
        ((List.range n).map fun l => sumLevel x (l + 1),
          unionFlags ((List.range n).map fun l => (roundedSum (x (2 * (l + 1))) (x (2 * (l + 1) + 1))).2)) := ih _
    rw [map_range_double, sumPairs, addFP32_eq, hshift, levelFlags, List.range_succ_eq_map, List.map_cons, List.map_cons, List.map_map,
      List.map_map, unionFlags_cons]
    rfl

theorem treeFlags_succ (x : Nat → Nat) (n : Nat) : treeFlags x (n + 1) = levelFlags x (2 ^ n) ++ treeFlags (sumLevel x) n := by
  rw [treeFlags, List.range_succ_eq_map, List.flatMap_cons, List.flatMap_map, treeFlags]
  refine congrArg (levelFlags x (2 ^ n) ++ ·) (congrArg List.flatten (List.map_congr_left fun i _ => ?_))
  rw [Function.iterate_succ_apply, show n + 1 - 1 - i.succ = n - 1 - i by omega]

/-- The tree over 2^n codes is n levels of neighbours' sums. -/
theorem sumTree_range (x : Nat → Nat) (n : Nat) (g : Flags) :
    sumTree n ((List.range (2 ^ n)).map x) g = ((sumLevel^[n] x) 0, g ||| unionFlags (treeFlags x n)) := by
  induction n generalizing x g with
  | zero => exact Prod.ext rfl (BitVec.or_zero).symm
  | succ n ih =>
    rw [Nat.pow_succ', sumTree, sumPairs_range]
    dsimp only
    rw [ih, treeFlags_succ, unionFlags_append, Function.iterate_succ_apply, BitVec.or_assoc]

/-! ## Wrapping sums (R174, R175) -/

/-- Adding up the chosen words of a range wraps as their sum does. -/
theorem foldl_add_chosen (p : Nat → Bool) (f : Nat → Lane) (n : Nat) :
    (List.range n).foldl (fun x j => if p j then x + f j else x) (0 : Lane) =
      BitVec.ofNat 32 ((List.range n).map fun j => if p j then (f j).toNat else 0).sum := by
  induction n with
  | zero => rfl
  | succ n ih =>
    rw [List.range_succ, List.foldl_append, ih, List.map_append, List.sum_append]
    simp only [List.foldl_cons, List.foldl_nil, List.map_cons, List.map_nil, List.sum_cons, List.sum_nil, Nat.add_zero]
    split
    · rw [BitVec.ofNat_add, BitVec.ofNat_toNat, BitVec.setWidth_eq]
    · rw [Nat.add_zero]

/-! ## The scan (R175) -/

/-- A step of the scan at distance d, and its flags. -/
def scanNext (d : Nat) (x : List Nat) : List Nat :=
  (List.range 64).map fun l => if l < d then x.getD l 0 else (roundedSum (x.getD (l - d) 0) (x.getD l 0)).1

def scanRaised (d : Nat) (x : List Nat) : Flags :=
  unionFlags ((List.range 64).map fun l => if l < d then 0 else (roundedSum (x.getD (l - d) 0) (x.getD l 0)).2)

theorem scanStep_eq (d : Nat) (x : List Nat) : scanStep d x = (scanNext d x, scanRaised d x) := by
  rw [scanStep, scanNext, scanRaised, unionFlags]
  simp only [List.foldl_map, List.map_map, addFP32_eq, Prod.mk.injEq]
  constructor
  · refine List.map_congr_left fun l _ => ?_
    exact apply_ite Prod.fst ..
  · refine List.foldl_ext _ _ _ fun g l _ => congrArg (g ||| ·) ?_
    exact apply_ite Prod.snd ..

/-! ## What a reduction sends -/

/-- The result of a slot whose lanes and flags come of a pair computed first. -/
def pairedLanes {α : Type} (d : Nat) (m : Fin 8) (F : Vec → α × Flags) (lane : α → Nat → Lane) (s : State) : Issued :=
  let (x, g) := F (tile s s.cur).vec
  ⟨s, some { lanesFlight (tile s s.cur).vec 6 d (rdM (tile s s.cur).vec m) (fun l => (lane x l, 0)) with flags := g }⟩

theorem sends_pairedLanes {α : Type} {i : Instr} {s : State} {c : VCtl} {feats regs : List Nat} {d : Nat} {m : Fin 8} {F : Vec → α × Flags}
    {lane : α → Nat → Lane} (h : SlotReady s feats regs c.g c.tok) (hi : exec i s = vslot feats regs c s (pairedLanes d m F lane)) :
    Sends i s c 6 d (rdM (vec s) m) (lane (F (vec s)).1) (F (vec s)).2 := by
  have hF : pairedLanes d m F lane (slotPopped c s) = ⟨slotPopped c s,
      some { lanesFlight (vec s) 6 d (rdM (vec s) m) (fun l => (lane (F (vec s)).1 l, 0)) with flags := (F (vec s)).2 }⟩ := by
    rw [pairedLanes, tile_at_slotPopped]
  exact sends_of_issue (hi.trans (vslot_ready h _)) (slotEffect_popped c s) hF rfl rfl fun k x =>
    mem_lanesFlight (vec s) 6 d (rdM (vec s) m) (fun l => (lane (F (vec s)).1 l, 0)) k x

end Sys2Proof.Machine
end

section
/-! PROOFS. Residue words (R49, R50), and what the conversions and reductions send. -/

namespace Sys2Proof.Machine

/-! ## Residue words -/

/-- The three channels of the word of an integer (R49). -/
theorem toRNS_channels (v : Int) :
    toRNS v % 2 ^ 11 = (v % 1025).toNat ∧ toRNS v / 2 ^ 11 % 2 ^ 10 = (v % 1024).toNat ∧ toRNS v / 2 ^ 21 = (v % 1023).toNat := by
  rw [toRNS]
  have ha : (v % 1025).toNat < 1025 := by omega
  have hb : (v % 1024).toNat < 1024 := by omega
  have hc : (v % 1023).toNat < 1023 := by omega
  generalize (v % 1025).toNat = a at ha ⊢
  generalize (v % 1024).toNat = b at hb ⊢
  generalize (v % 1023).toNat = c at hc ⊢
  omega

/-- Three residues as one: the coefficients are one to their own modulus and zero to the two others. -/
theorem residues_combine {a b c : Nat} (ha : a < 1025) (hb : b < 1024) (hc : c < 1023) :
    (a * 537394176 + b * 1072692225 + c * 537395200) % 1025 = a ∧ (a * 537394176 + b * 1072692225 + c * 537395200) % 1024 = b ∧
      (a * 537394176 + b * 1072692225 + c * 537395200) % 1023 = c := by
  omega

/-- The value of the range that stands for a remainder of all three moduli's product keeps its remainders by a divisor of it. -/
theorem fromRNS_spec (w : Nat) : -536870400 ≤ fromRNS w ∧ fromRNS w < 536870400 ∧ fromRNS w % 1025 = ((w % 2 ^ 11 % 1025 : Nat) : Int) ∧
      fromRNS w % 1024 = ((w / 2 ^ 11 % 2 ^ 10 : Nat) : Int) ∧ fromRNS w % 1023 = ((w / 2 ^ 21 % 2 ^ 10 % 1023 : Nat) : Int) := by
  rw [fromRNS]
  obtain ⟨h1, h2, h3⟩ := residues_combine (a := w % 2 ^ 11 % 1025) (b := w / 2 ^ 11 % 2 ^ 10) (c := w / 2 ^ 21 % 2 ^ 10 % 1023)
    (Nat.mod_lt _ (by decide)) (Nat.mod_lt _ (by decide)) (Nat.mod_lt _ (by decide))
  generalize w % 2 ^ 11 % 1025 = a at *
  generalize w / 2 ^ 11 % 2 ^ 10 = b at *
  generalize w / 2 ^ 21 % 2 ^ 10 % 1023 = c at *
  generalize a * 537394176 + b * 1072692225 + c * 537395200 = t at *
  split <;> omega

/-- Integers of the range with the same three residues are one. -/
theorem eq_of_residues {u v : Int} (hu : -536870400 ≤ u ∧ u < 536870400) (hv : -536870400 ≤ v ∧ v < 536870400) (h1 : u ≡ v [ZMOD 1025])
    (h2 : u ≡ v [ZMOD 1024]) (h3 : u ≡ v [ZMOD 1023]) : u = v := by
  obtain ⟨k, hk⟩ := IsCoprime.mul_dvd (by norm_num) (IsCoprime.mul_dvd (by norm_num) h1.dvd h2.dvd) h3.dvd
  clear h1 h2 h3
  omega

theorem toNat_emod_cast (v : Int) {m : Nat} (hm : m ≠ 0) : ((v % m).toNat : Int) = v % m :=
  Int.toNat_of_nonneg (Int.emod_nonneg _ (Int.natCast_ne_zero.2 hm))

/-- The channels of an integer's word are canonical. -/
theorem canonical_channels (v : Int) : (v % 1025).toNat % 1025 = (v % 1025).toNat ∧ (v % 1023).toNat % 2 ^ 10 % 1023 = (v % 1023).toNat := by
  omega

theorem fromRNS_toRNS {v : Int} (hlo : -536870400 ≤ v) (hhi : v < 536870400) : fromRNS (toRNS v) = v := by
  obtain ⟨h1, h2, h3⟩ := toRNS_channels v
  obtain ⟨hlo', hhi', g1, g2, g3⟩ := fromRNS_spec (toRNS v)
  obtain ⟨c1, c3⟩ := canonical_channels v
  rw [h1, c1, Int.toNat_of_nonneg (Int.emod_nonneg v (by decide))] at g1
  rw [h2, Int.toNat_of_nonneg (Int.emod_nonneg v (by decide))] at g2
  rw [h3, c3, Int.toNat_of_nonneg (Int.emod_nonneg v (by decide))] at g3
  exact eq_of_residues ⟨hlo', hhi'⟩ ⟨hlo, hhi⟩ g1 g2 g3

/-- An operation on non-negative remainders that keeps congruence is the operation on integers. -/
theorem toNat_emod_op {op : Nat → Nat → Nat} {f : Int → Int → Int} (hcast : ∀ a b, ((op a b : Nat) : Int) = f a b) (v x : Int) {m : Nat}
    (hm : m ≠ 0) (hf : f (v % m) (x % m) % m = f v x % m) : op (v % m).toNat (x % m).toNat % m = (f v x % m).toNat := by
  zify
  rw [hcast, toNat_emod_cast v hm, toNat_emod_cast x hm, toNat_emod_cast _ hm, hf]

/-- An operation on words is made by channel (R49). -/
theorem rnsOp_toRNS {op : Nat → Nat → Nat} {f : Int → Int → Int} (hcast : ∀ a b, ((op a b : Nat) : Int) = f a b)
    (hf : ∀ v x m : Int, f (v % m) (x % m) % m = f v x % m) (v x : Int) : rnsOp op (toRNS v) (toRNS x) = toRNS (f v x) := by
  have h1 := toNat_emod_op hcast v x (m := 1025) (by decide) (hf ..)
  have h2 := toNat_emod_op hcast v x (m := 1024) (by decide) (hf ..)
  have h3 := toNat_emod_op hcast v x (m := 1023) (by decide) (hf ..)
  obtain ⟨v1, v2, v3⟩ := toRNS_channels v
  obtain ⟨x1, x2, x3⟩ := toRNS_channels x
  obtain ⟨hv1, hv3⟩ := canonical_channels v
  obtain ⟨hx1, hx3⟩ := canonical_channels x
  rw [rnsOp, v1, v2, v3, x1, x2, x3, hv1, hv3, hx1, hx3]
  exact congrArg₂ (· + ·) (congrArg₂ (· + ·) h1 (congrArg (· * 2 ^ 11) h2)) (congrArg (· * 2 ^ 21) h3)

/-! ## What each reduction sends (R174, R175) -/

/-- The place of lane values in the tree: an inactive lane stands as −0. -/
def redStart (o : VFloat1) (v : Vec) : List Nat :=
  if isWide o.t then (List.range 64).map (fun i => if (rdM v o.mask).getLsbD i then (rdV v o.a i).toNat else minusZero)
  else (List.range 128).map (fun e => if (rdM v o.mask).getLsbD (e / 2) then (toFP32 (vval o.t (halfElem v o.a e))).1 else minusZero)

/-- What VRED sums, and with which flags. -/
def redSum (o : VFloat1) (v : Vec) : Nat × Flags := sumTree (if isWide o.t then 6 else 7) (redStart o v) 0

theorem exec_vred_lanes (o : VFloat1) (s : State) : exec (.vred o) s = vslot [] [o.d, o.a] o.c s
    (pairedLanes o.d o.mask (redSum o) fun x _ => BitVec.ofNat 32 x) := exec_vred o s

/-- One distance of the scan, with the flags so far. -/
def scanAt (p : List Nat × Flags) (d : Nat) : List Nat × Flags := let (y, h) := scanStep d p.1; (y, p.2 ||| h)

/-- The scan after all six distances, and its flags. -/
def scanned (m : Fin 8) (a : Fin 32) (v : Vec) : List Nat × Flags :=
  [1, 2, 4, 8, 16, 32].foldl scanAt ((List.range 64).map (fun i => if (rdM v m).getLsbD i then (rdV v a i).toNat else minusZero), 0)

theorem exec_vscan_lanes (o : VRR) (s : State) : exec (.vscan o) s = vslot [] [o.d, o.a] o.c s
    (pairedLanes o.d o.mask (scanned o.mask o.a) fun x l => BitVec.ofNat 32 (x.getD l 0)) := by
  rw [exec_vscan]
  unfold execVscan pairedLanes scanned
  simp only [show (fun (p : List Nat × Flags) d => let (y, h) := scanStep d p.1; (y, p.2 ||| h)) = scanAt from rfl]


end Sys2Proof.Machine
end

section
/-! PROOFS. What conversions, reductions and scans send (R171 to R175). -/

namespace Sys2Proof.Machine

section
variable {s : State} {o : VRR} (h : SlotReady s [] [o.d.val, o.a.val] o.c.g o.c.tok)
include h

theorem sends_vredI32 : Sends (.vredI32 o) s o.c 6 o.d (rdM (vec s) o.mask) (fun _ => BitVec.ofNat 32
    ((List.range 64).map fun j => if (rdM (vec s) o.mask).getLsbD j then (rdV (vec s) o.a j).toNat else 0).sum) 0 := by
  have hi : exec (.vredI32 o) s = laneSlot [] [o.a] o.c 6 o.d o.mask s fun v _ =>
    ((lanesOf (rdM v o.mask)).foldl (fun x j => x + rdV v o.a j) 0, 0) := exec_vredI32 o s
  refine sends_laneSlot_quiet h hi fun l _ => Prod.ext ?_ rfl
  rw [← foldl_add_chosen, lanesOf, List.foldl_filter]

theorem sends_vscanI32 : Sends (.vscanI32 o) s o.c 6 o.d (rdM (vec s) o.mask) (fun l => BitVec.ofNat 32
    ((List.range (l + 1)).map fun j => if (rdM (vec s) o.mask).getLsbD j then (rdV (vec s) o.a j).toNat else 0).sum) 0 := by
  have hi : exec (.vscanI32 o) s = laneSlot [] [o.a] o.c 6 o.d o.mask s fun v l =>
    ((List.range (l + 1)).foldl (fun x j => if (rdM v o.mask).getLsbD j then x + rdV v o.a j else x) 0, 0) := exec_vscanI32 o s
  refine sends_laneSlot_quiet h hi fun l _ => Prod.ext ?_ rfl
  exact foldl_add_chosen ..

end

theorem scanned_eq (m : Fin 8) (a : Fin 32) (v : Vec) :
    let start := (List.range 64).map (fun l => if (rdM v m).getLsbD l then (rdV v a l).toNat else 2 ^ 31)
    let x1 := scanNext 1 start
    let x2 := scanNext 2 x1
    let x4 := scanNext 4 x2
    let x8 := scanNext 8 x4
    let x16 := scanNext 16 x8
    scanned m a v = (scanNext 32 x16, scanRaised 1 start ||| scanRaised 2 x1 ||| scanRaised 4 x2 ||| scanRaised 8 x4 ||| scanRaised 16 x8 |||
      scanRaised 32 x16) := by
  intro start x1 x2 x4 x8 x16
  rw [scanned, show (List.range 64).map (fun l => if (rdM v m).getLsbD l then (rdV v a l).toNat else minusZero) = start from rfl]
  simp only [List.foldl_cons, List.foldl_nil, scanAt, scanStep_eq, zero_orFlags]
  rfl

/-- VRED sums the tree over the values at its places. -/
theorem redSum_eq {o : VFloat1} {v : Vec} {n : Nat} {x : Nat → Nat} (hn : (if isWide o.t then 6 else 7) = n)
    (hx : redStart o v = (List.range (2 ^ n)).map x) : redSum o v = ((sumLevel^[n] x) 0, unionFlags (treeFlags x n)) := by
  rw [redSum, hn, hx, sumTree_range, zero_orFlags]

theorem redStart_wide {o : VFloat1} (ht : o.t = .f32) (v : Vec) : redStart o v =
    (List.range (2 ^ 6)).map fun l => if (rdM v o.mask).getLsbD l then (rdV v o.a l).toNat else 2 ^ 31 := if_pos (isWide_iff.2 ht)

theorem redStart_half {o : VFloat1} (ht : o.t ≠ .f32) (v : Vec) : redStart o v =
    (List.range (2 ^ 7)).map fun e => if (rdM v o.mask).getLsbD (e / 2) then
      (toFP32 (value (if o.t = .bf16 then BF16 else FP16) ((rdV v o.a (e / 2)).toNat / 2 ^ (16 * (e % 2)) % 2 ^ 16))).1 else 2 ^ 31 := by
  rw [redStart, if_neg (mt isWide_iff.1 ht)]
  simp only [vval, (half_consts ht).1, halfElem_eq]
  rfl

/-- Settles O29: converting slots draw from the generator's new state (`sends_convertedLanes`), the reductions sum the fixed tree
(`sumTree_range`) or by distances (`scanned_eq`), and residue words are taken apart by channel (`toRNS_channels`, `fromRNS_spec`). -/
theorem conversionsAndReductions : Obligations.ConversionsAndReductions := by
  unfold Obligations.ConversionsAndReductions
  intro stepped drawn needs5 seeded add union level summed sumFlags
  have hsummed (x : Nat → Nat) (n : Nat) : (sumLevel^[n] x) 0 = summed x n := rfl
  have hflags (x : Nat → Nat) (n : Nat) : unionFlags (treeFlags x n) = sumFlags x n := rfl
  refine ⟨⟨?cvt, ?pack, ?unpk, ?rns, ?crt⟩, ⟨?intSums, ?scan, ?red, ?redHalves⟩, ?channels, fromRNS_spec, ?ops⟩
  case cvt =>
    intro s o hsrc hdst h mask f
    have hi := exec_vcvt_lanes o s
    rw [cvtBad_none hsrc hdst] at hi
    refine sends_convertedLanes (f := fun l => asLane (f l)) h hi fun l hl => ?_
    rw [vcvtLane, fraction_lane o.c o.r s hl]
    rfl
  case pack =>
    intro s o h mask fmt f
    refine sends_convertedLanes (f := fun l => asLane ((f (2 * l)).1 + (f (2 * l + 1)).1 * 2 ^ 16, (f (2 * l)).2 ||| (f (2 * l + 1)).2))
      h (exec_vpack_lanes o s) fun l hl => ?_
    rw [vpackLane, vpackElem, vpackElem, fraction_half o.c o.r s (by omega), fraction_half o.c o.r s (by omega)]
    rfl
  case unpk =>
    intro s o h half
    refine sends_laneSlot_quiet h (exec_vunpk o s) fun l _ => ?_
    rw [halfElem_eq]
  case rns => exact fun s o h => sends_laneSlot_quiet h (exec_vrns o s) fun l _ => rfl
  case crt =>
    intro s o h mask f
    refine sends_convertedLanes (f := fun l => asLane (f l)) h (exec_vcrt_lanes o s) fun l hl => ?_
    rw [vcrtLane, fraction_lane o.c o.r s hl]
    rfl
  case intSums => exact fun s o h => ⟨sends_vredI32 h, sends_vscanI32 h⟩
  case scan =>
    intro s o h mask start next raised x1 x2 x4 x8 x16
    have hs := sends_pairedLanes h (exec_vscan_lanes o s)
    rw [scanned_eq] at hs
    exact hs
  case red =>
    intro s o ho h mask start
    have hs := sends_pairedLanes h (exec_vred_lanes o s)
    rw [redSum_eq (if_pos (isWide_iff.2 ho)) (redStart_wide ho _)] at hs
    dsimp only at hs
    rw [hsummed, hflags] at hs
    clear_value summed sumFlags
    exact hs
  case redHalves =>
    intro s o ho h mask half start
    have hs := sends_pairedLanes h (exec_vred_lanes o s)
    rw [redSum_eq (if_neg (mt isWide_iff.1 ho)) (redStart_half ho _)] at hs
    dsimp only at hs
    rw [hsummed, hflags] at hs
    clear_value summed sumFlags
    exact hs
  case channels =>
    intro v
    obtain ⟨h1, h2, h3⟩ := toRNS_channels v
    exact ⟨h1, h2, h3, fromRNS_toRNS⟩
  case ops => exact fun v x => ⟨rnsOp_toRNS (by simp) (by simp) v x, rnsOp_toRNS (by simp) (by simp [Int.mul_emod]) v x⟩

end Sys2Proof.Machine
end
